-- ==== Sys2Proof/Word.lean ====
section
/-!
DEFINITION. The word types of the Brodentyel and their plainest arithmetic (00 R9, R10).
Widths are the manual's; every multi-byte value is little-endian.
-/
namespace Sys2Proof

abbrev Byte := BitVec 8
abbrev Half := BitVec 16
abbrev Word := BitVec 32
abbrev DWord := BitVec 64

/-- Bits [lo + n - 1 : lo] of a natural number (00 R10). -/
def field (x lo n : Nat) : Nat := (x >>> lo) % 2 ^ n

/-- Bit `i` of a natural number. -/
def bitOf (x i : Nat) : Bool := x.testBit i

/-- `x` with bits [lo + n - 1 : lo] replaced by the low bits of `v`. -/
def setField (x lo n v : Nat) : Nat :=
  x - field x lo n * 2 ^ lo + (v % 2 ^ n) * 2 ^ lo

/-- 1 for true. -/
def b2n (b : Bool) : Nat := if b then 1 else 0

/-- Ceiling division; 0 when the divisor is 0. -/
def ceilDiv (a b : Nat) : Nat := (a + b - 1) / b

/-- The value of an `n`-bit two's-complement number. -/
def signedOf (n x : Nat) : Int := if x % 2 ^ n < 2 ^ (n - 1) then (x % 2 ^ n : Nat) else ((x % 2 ^ n : Nat) : Int) - (2 ^ n : Nat)

/-- The low `n` bits of an integer, two's complement. -/
def wrapInt (n : Nat) (x : Int) : Nat := (x % (2 ^ n : Nat)).toNat

/-- The little-endian number of a list of bytes (00 R10). -/
def leNat : List Byte → Nat
  | [] => 0
  | b :: bs => b.toNat + 256 * leNat bs

/-- The `n` little-endian bytes of a number. -/
def leBytes : Nat → Nat → List Byte
  | 0, _ => []
  | n + 1, x => BitVec.ofNat 8 x :: leBytes n (x / 256)

end Sys2Proof
end

