-- ==== Sys2Proof/Syntax/Payload.lean ====
section
/-!
DEFINITION. What the commands carry: who issues a register access, fabric packets (09 R306),
spline flits (11 R375), system messages (06 R204-R206, 03 R108), and data from outside the part.
-/
namespace Sys2Proof

/-- Who issues an access: a core's sequencer in U-mode or M-mode (physical core number 16 * row + col),
a Steward, the security processor, the energy accountant, the always-on island, a client of a mailbox. -/
inductive Agent where
  | seqU (p : Nat)
  | seqM (p : Nat)
  | stewardA
  | stewardB
  | security
  | accountant
  | alwaysOn
  | client
deriving DecidableEq, Repr

/-- The two engines of a core. -/
inductive Engine where
  | fe
  | be
deriving DecidableEq, Repr

/-- The four units that hold loop-nest descriptors (07 R251). -/
inductive LndUnit where
  | fe
  | be
  | vu
  | ku
deriving DecidableEq, Repr

/-- A fabric packet: the header of R306 by field, and the payload bytes of all its flits.
`ty`, `cls` and `lenf` keep the raw codes, so that reserved codes can arrive. -/
structure Packet where
  ty : Nat := 0
  cls : Nat := 0
  ord : Bool := false
  last : Bool := true
  lenf : Nat := 0
  dcol : Nat := 0
  drow : Nat := 0
  dstop : Nat := 0
  scol : Nat := 0
  srow : Nat := 0
  sstop : Nat := 0
  dx : Nat := 0
  dy : Nat := 0
  chan : Nat := 0
  sx : Nat := 0
  sy : Nat := 0
  schip : Nat := 0
  poison : BitVec 2 := 0
  void : Bool := false
  addr : Nat := 0
  dchip : Nat := 0
  seq : Nat := 0
  tag : Word := 0
  payload : List Byte := []
  /-- not in the header: the link chosen by the ingress stop of a transit packet, plus 1 -/
  via : Nat := 0
deriving DecidableEq, Repr

/-- What the SECDED of a link found in a packet (09 R308). -/
inductive FlitCheck where
  | clean
  | corrected
  | headerDouble
  | payloadDouble
deriving DecidableEq, Repr

/-- The header of a spline flit (11 R375) as received, and whether its CRC was good. -/
structure FlitHdr where
  crcOk : Bool := true
  fseq : Nat := 0
  fack : Nat := 0
  rtry : Bool := false
  rnb : Bool := false
  ccls : Nat := 3
  ccnt : Nat := 0
deriving DecidableEq, Repr

/-- A verdict (06 R206). -/
inductive Verdict where
  | pass
  | warn
  | reject
  | forced
deriving DecidableEq, Repr

/-- A core verdict message to a verdict home (06 R204): the attempt's tag, the worst tile verdict,
its ratio and the tiles checked. -/
structure CoreVerdict where
  tag : Word
  verdict : Verdict
  ratio : Word
  tiles : Nat
deriving DecidableEq, Repr

/-- A final layer verdict from the verdict home to a core (06 R205): tag, verdict, ratio, total tiles
and the chain's new rung for the layer. -/
structure LayerVerdict where
  tag : Word
  verdict : Verdict
  ratio : Word
  tiles : Nat
  rung : Nat
deriving DecidableEq, Repr

/-- The coordinator's requests to another part, and the reports back (12 R434, R436, 14 R480, R484, R491). -/
inductive StewardMsg where
  | jobStart
  | stepRun (count : Nat)
  | stepPause
  | snapTake (layer : Nat)
  | snapRestore (layer step : Nat)
  | release (step : Nat) (base : DWord) (pt : Nat)
  | boundaryReport (rank step pt : Nat)
  | captureReport (rank step layer : Nat)
  | captureCommitted (step layer : Nat)
  | haltJob (src : Nat)
  | restoreJob
  | wait
  | pauseAtBoundary (src : Nat)
  | partLost (rank : Nat)
  | restored (rank step : Nat)
  | announce (rank chip : Nat)
deriving DecidableEq, Repr

/-- What a flood record says of one up link of its part (11 R389). -/
structure LsLink where
  link : Nat
  peer : Nat
  peerLink : Nat
deriving DecidableEq, Repr

/-- A link-state record (11 R389). -/
structure LsRecord where
  chip : Nat
  hwtype : Word
  masterEn : Bool
  prio : Nat
  links : List LsLink
  version : Word
deriving DecidableEq, Repr

/-- Accesses of 64 bytes that the units of a bench repeat within one operation: reads and writes of core store, and
accesses of register files (15 R497). -/
structure Repeats where
  reads : Nat := 0
  writes : Nat := 0
  regs : Nat := 0
deriving DecidableEq, Repr

/-- What the accountant measured over a step beside what the part counts (15 R507): energy of links and ports in µJ,
bench cycles of the busiest bench, fixed power in W/100. -/
structure PlanMeas where
  eu : Nat := 0
  cyc : Nat := 0
  fixed : Nat := 0
deriving DecidableEq, Repr

/-- What snapshot media outside the part hold: the part images it can read, and for each other rank the steps
for which it holds a usable image of the layer (14 R484). -/
structure Media where
  images : List (List Byte) := []
  others : List (Nat × List Nat) := []
deriving DecidableEq, Repr

/-- A block register bank of a doorbell mailbox (12 R411): a core's, or chip mailbox m. -/
inductive Mbx where
  | core (p : Nat)
  | chip (m : Nat)
deriving DecidableEq, Repr

/-- What the sensors and meters report (17 R565). -/
structure Sensors where
  tjMax : Nat := 0
  hbmMax : Nat := 0
  hot : Nat := 0
  mv : Nat := 0
  amps : Nat := 0
deriving DecidableEq, Repr

/-- The payload of a TIME flit (11 R395): a request, or a response with the responder's arrival and
departure timestamps, in units of 1/16 ns. -/
inductive TimePayload where
  | request (xid : Nat)
  | response (xid : Nat) (t2 t3 : Int)
deriving DecidableEq, Repr

/-- What an ECC check of an HBM line finds (10 R344). -/
inductive EccResult where
  | good
  | corrected
  | uncorrectable
deriving DecidableEq, Repr

/-- What an engine self-test finds in one array (04 R146, 05 R183). -/
structure BistArray where
  frow : Nat
  nrow : Nat
  col : Bool
  spareBad : Bool
deriving DecidableEq, Repr

/-- A memory request (10 R343): the requester, its transfer identifier, the address, 1-64 lines,
and for a write the bytes (64 a line, or a part of one line). `agent` is the requester class of R355. -/
inductive MemAgent where
  | mover (p : Nat)
  | stash (p : Nat)
  | snapshot
  | steward
  | security
  | remote (chip : Nat)
  | ethernet
  | client
  | tables
deriving DecidableEq, Repr

structure MemReq where
  agent : MemAgent
  xid : Nat
  addr : Nat
  lines : Nat
  write : Bool
  fwd : Bool := false
  confirmed : Bool := true
  data : List Byte := []
deriving DecidableEq, Repr

/-- A memory response (10 R343): STATUS 1 is `ok = false`. -/
structure MemResp where
  agent : MemAgent
  xid : Nat
  ok : Bool
  data : List Byte := []
  poison : Bool := false
deriving DecidableEq, Repr

/-- What a timed start starts (09 R324): the running block of an engine, an operation by its place, or the head
of the vector or kerf unit's queue. -/
inductive TimedKind where
  | block (eng : Engine)
  | operation (id : Nat)
  | vector
  | kerf
deriving DecidableEq, Repr

/-- The result of an upgrade phase (16 R530): in phase 6, a monitor that does not report its new version. -/
inductive PhaseResult where
  | ok
  | failed
  | monitor (p : Nat)
deriving DecidableEq, Repr

/-- A client window path (12 R421). -/
inductive ClientPath where
  | ep
  | rdma (port mbx : Nat)
deriving DecidableEq, Repr

/-- What a device on a root port turns out to be in boot stage 6 (17 R568). -/
inductive PortDevice where
  | none
  | cxl (gib : Nat)
  | nvme
  | other
deriving DecidableEq, Repr

/-- What one boot stage found (16 R516): flash contents, failed checks, bad cores and routers, faulty rows (core,
engine, array, row; 32 the spare), failed stacks, devices per port, the CTB lock value offered by a parent or by IEEE 1588, and
the time since power-good. -/
structure BootFind where
  /-- flash images put in place while the part was powered off: 2 class + slot, and the image -/
  flash : List (Nat × List Byte) := []
  badSlots : List (Nat × Nat) := []
  sfdpBad : Bool := false
  tableBad : Bool := false
  keyStoreBad : Bool := false
  runtimeBad : Bool := false
  keysBad : Bool := false
  settings : List Byte := []
  badCores : List Nat := []
  badRouters : List Nat := []
  repairs : List (Nat × Nat × Nat × Nat) := []
  /-- arrays with a column fault: core, engine, array -/
  badColumns : List (Nat × Nat × Nat) := []
  badStacks : List Nat := []
  devices : List PortDevice := []
  lockFrom : Option DWord := none
  ms : Nat := 0
deriving DecidableEq, Repr

end Sys2Proof
end

