-- ==== Sys2Proof/Syntax.lean ====
section
/-!
DEFINITION. The commands of the Brodentyel: one constructor per row of the opcode table. A core is named by its
physical number p = 16 row + col, an operation by its place `id` in the transfer table, a register write by the
agent `who` makes it. What a command brings from outside the part (a packet, a flit, a measurement, a file) is
its operand (log 2). Rows without an operand stand last.
-/
namespace Sys2Proof

inductive Instr where
  /-- RV_INSTRUCTION (R254). The sequencer executes one RV32IMAC, Zicsr or Zifencei instruction in M-mode or U-mode. -/
  | rvInstruction (p : Nat)
  /-- LOCAL_INTERRUPT (R262). A pending and enabled local interrupt (bits 16-20) is taken by the monitor, or by U-mode if it is delegated. -/
  | localInterrupt (p : Nat)
  /-- QPUSH_V (R220). The sequencer checks a VU instruction word and pushes it to the vector unit queue. -/
  | qpushV (p : Nat) (rs1 : Nat)
  /-- QPUSH_K (R220). The sequencer checks a KU instruction word and pushes it to the kerf unit. -/
  | qpushK (p : Nat) (rs1 : Nat)
  /-- QOP (R284). The sequencer checks a 64-byte operation descriptor and issues the core-level operation into the transfer table. -/
  | qop (p : Nat) (rs1 : Nat)
  /-- BENQ_F (R173). The sequencer checks a block descriptor and appends it to the forward ready list. -/
  | benqF (p : Nat) (rs1 : Nat)
  /-- BENQ_B (R173). The sequencer checks a block descriptor and appends it to the backward ready list. -/
  | benqB (p : Nat) (rs1 : Nat)
  /-- QFENCE (R265). The queue fence waits until every earlier item of the selected kinds has completed. -/
  | qfence (p : Nat) (rs1 : Nat)
  /-- MFENCE (R266). The memory fence waits until every earlier core-level operation has performed its writes outside the core, including SEND deliveries. -/
  | mfence (p : Nat)
  /-- QXRET (R262). The program returns from a delegated interrupt, restoring the pc from QXEPC and UIE from UPIE. -/
  | qxret (p : Nat)
  /-- CTBRL (R267). The sequencer reads the low word of the local time base copy and latches its high word. -/
  | ctbrl (p : Nat) (rd : Nat)
  /-- CTBRH (R267). The sequencer returns the latched high word of the time base. -/
  | ctbrh (p : Nat) (rd : Nat)
  /-- TARM (R268). The sequencer arms a launch tick for the next QOP or QPUSH. -/
  | tarm (p : Nat) (rs1 : Nat) (rs2 : Nat)
  /-- BARV (R269). The core records its barrier arrival, returns the generation and sends an arrival to the local home. -/
  | barv (p : Nat) (rd : Nat) (rs1 : Nat)
  /-- BWAIT (R269). The sequencer stalls until the named barrier generation is complete. -/
  | bwait (p : Nat) (rs1 : Nat) (rs2 : Nat)
  /-- BPOLL (R269). The sequencer tests whether a barrier generation is complete and arms BARDONE notice. -/
  | bpoll (p : Nat) (rd : Nat) (rs1 : Nat) (rs2 : Nat)
  /-- DBELL (R270). The core performs an MFENCE and then sets a doorbell bit of its mailbox to the Stewards. -/
  | dbell (p : Nat) (rs1 : Nat)
  /-- WRUNG (R271). The sequencer returns the current width rung POS + UP for a chain and layer. -/
  | wrung (p : Nat) (rd : Nat) (rs1 : Nat) (rs2 : Nat)
  /-- GREQ (R272). The sequencer allocates a grant handle and sends an energy request to the accountant. -/
  | greq (p : Nat) (rd : Nat) (rs1 : Nat)
  /-- GSTAT (R272). The sequencer returns the state of a grant handle. -/
  | gstat (p : Nat) (rd : Nat) (rs1 : Nat)
  /-- GREL (R272). The sequencer releases a requested or held grant and returns its energy to the pool. -/
  | grel (p : Nat) (rs1 : Nat)
  /-- SEQ_STALL_RETIRE (R276). A stalled sequencer instruction retires on the first cycle on which its bound has room or its result is ready. -/
  | seqStallRetire (p : Nat)
  /-- COND_BLOCK_HEAD (R180). A recompute block becomes the forward head and queries the stash controller, which pins a present target or starts bringing the checkpoint. -/
  | condBlockHead (p : Nat)
  /-- BLOCK_DISPATCH (R176). The dovetail scheduler chooses an eligible head and copies its instructions into a free queue half. -/
  | blockDispatch (p : Nat)
  /-- BLOCK_LAUNCH (R175). A dispatched block launches its first instruction once the copy, the seam and any timed tick are satisfied. -/
  | blockLaunch (p : Nat) (eng : Engine)
  /-- FNOP (R225). The forward engine launches a no-operation that writes nothing. -/
  | fnop (p : Nat)
  /-- FWLD (R130). The forward engine copies weight tiles into the shadow weight buffers. -/
  | fwld (p : Nat)
  /-- FMMA (R124). The forward engine streams activation tiles through the arrays and accumulates into accumulator tiles. -/
  | fmma (p : Nat)
  /-- BNOP (R225). The backward engine launches a no-operation that writes nothing. -/
  | bnop (p : Nat)
  /-- BWLD (R160). The backward engine copies stationary tiles into the shadow stationary buffers, turning mitre tiles as it writes. -/
  | bwld (p : Nat)
  /-- BMMA (R153). The backward engine streams an operand tile through the arrays and accumulates products into accumulator tiles. -/
  | bmma (p : Nat)
  /-- BCM (R166). The backward engine loads a column mask from a tile register. -/
  | bcm (p : Nat)
  /-- CVT (R287). An edge converter starts a conversion between wide and narrow forms, with tracker slot, inlays, clamp counters and capture. -/
  | cvt (p : Nat) (id : Nat)
  /-- PDRN (R127). The output converter promotes any pending run and pushes an accumulator tile's FP32 wide values. -/
  | pdrn (p : Nat) (id : Nat)
  /-- LDT (R284). A data mover writes a narrow queue item into a tile register. -/
  | ldt (p : Nat) (id : Nat)
  /-- RED (R285). The vector unit adds two FP32 items element by element with one rounding each. -/
  | red (p : Nat) (id : Nat)
  /-- SEND (R313). The fabric port sends a queue item as a data message once it holds the matching ready token. -/
  | send (p : Nat) (id : Nat)
  /-- RECV (R312). The fabric port reserves a slot and sends a ready token for the next message of a channel pair. -/
  | recv (p : Nat) (id : Nat)
  /-- STSH (R359). The stash controller allocates ring frames and writes a stash entry. -/
  | stsh (p : Nat) (id : Nat)
  /-- USTH (R360). The stash controller pushes a stash entry into its unstash queue end and consumes it. -/
  | usth (p : Nat) (id : Nat)
  /-- IGTH (R291). A data mover appends the inlay records of an item's inlay tiles. -/
  | igth (p : Nat) (id : Nat)
  /-- KCAP (R284). The load-path converter makes an input capture of an item that passes through unchanged. -/
  | kcap (p : Nat) (id : Nat)
  /-- DACC (R168). A data mover takes a confirmed dW item, checks owner and claim, and checks the item for a drawer accumulation. -/
  | dacc (p : Nat) (id : Nat)
  /-- DACC_APPLY (R168). Once ACC_NEXT equals SEQ, the accumulation writes or adds the item into trained drawer elements and advances ACC_NEXT. -/
  | daccApply (p : Nat) (id : Nat)
  /-- MOV (R289). A data mover transfers data between memory, stores and queue ends, copying or converting MX formats. -/
  | mov (p : Nat) (id : Nat)
  /-- VADD (R246). The vector unit performs IEEE addition. -/
  | vadd (p : Nat)
  /-- VSUB (R246). The vector unit performs IEEE subtraction. -/
  | vsub (p : Nat)
  /-- VMUL (R246). The vector unit performs IEEE multiplication. -/
  | vmul (p : Nat)
  /-- VFMA (R246). The vector unit performs IEEE fusedMultiplyAdd. -/
  | vfma (p : Nat)
  /-- VDIV (R246). The vector unit performs IEEE division. -/
  | vdiv (p : Nat)
  /-- VSQRT (R246). The vector unit performs IEEE squareRoot. -/
  | vsqrt (p : Nat)
  /-- VREM (R246). The vector unit performs IEEE remainder. -/
  | vrem (p : Nat)
  /-- VMIN (R246). The vector unit performs IEEE minimum. -/
  | vmin (p : Nat)
  /-- VMAX (R246). The vector unit performs IEEE maximum. -/
  | vmax (p : Nat)
  /-- VMINN (R246). The vector unit performs IEEE minimumNumber. -/
  | vminn (p : Nat)
  /-- VMAXN (R246). The vector unit performs IEEE maximumNumber. -/
  | vmaxn (p : Nat)
  /-- VMINM (R246). The vector unit performs IEEE minimumMagnitude. -/
  | vminm (p : Nat)
  /-- VMAXM (R246). The vector unit performs IEEE maximumMagnitude. -/
  | vmaxm (p : Nat)
  /-- VMINMN (R246). The vector unit performs IEEE minimumMagnitudeNumber. -/
  | vminmn (p : Nat)
  /-- VMAXMN (R246). The vector unit performs IEEE maximumMagnitudeNumber. -/
  | vmaxmn (p : Nat)
  /-- VCMPQ (R246). The vector unit performs a quiet comparison under PRED. -/
  | vcmpq (p : Nat)
  /-- VCMPS (R246). The vector unit performs a signalling comparison under PRED. -/
  | vcmps (p : Nat)
  /-- VCVT (R246). The vector unit converts between wide formats. -/
  | vcvt (p : Nat)
  /-- VCVTI (R574). The vector unit converts to integers under the rounding mode. -/
  | vcvti (p : Nat)
  /-- VCVTF (R246). The vector unit converts integers to a floating-point format. -/
  | vcvtf (p : Nat)
  /-- VRINT (R246). The vector unit rounds to an integral value. -/
  | vrint (p : Nat)
  /-- VSCALEB (R246). The vector unit performs scaleB. -/
  | vscaleb (p : Nat)
  /-- VLOGB (R574). The vector unit performs logB to signed 32-bit integers. -/
  | vlogb (p : Nat)
  /-- VNEXTUP (R246). The vector unit performs nextUp. -/
  | vnextup (p : Nat)
  /-- VNEXTDN (R246). The vector unit performs nextDown. -/
  | vnextdn (p : Nat)
  /-- VNEG (R69). The vector unit negates the sign bit. -/
  | vneg (p : Nat)
  /-- VABS (R69). The vector unit clears the sign bit. -/
  | vabs (p : Nat)
  /-- VCPSGN (R69). The vector unit performs copySign. -/
  | vcpsgn (p : Nat)
  /-- VCLASS (R246). The vector unit returns the IEEE class of each element. -/
  | vclass (p : Nat)
  /-- VRFILL (R293). The vector unit fills an item with uniform values drawn from stream RS3. -/
  | vrfill (p : Nat)
  /-- KSEL (R197). The kerf unit selects sample tiles from RS2, or regenerates a recorded selection, and pushes the indices. -/
  | ksel (p : Nat)
  /-- KCHK (R201). The kerf unit starts checking one selected tile once its captures are present. -/
  | kchk (p : Nat)
  /-- KCHK_DONE (R202). The kerf check completes its FP32 reference and forms the tile verdict from the relative L2 error. -/
  | kchkDone (p : Nat)
  /-- CORE_VERDICT_MSG (R205). The verdict home receives a core verdict and makes the layer verdict final when the rules allow. -/
  | coreVerdictMsg (p : Nat) (v : CoreVerdict)
  /-- LAYER_VERDICT_MSG (R206). A core receives a final layer verdict and applies verdicts in layer order within the chain. -/
  | layerVerdictMsg (p : Nat) (v : LayerVerdict)
  /-- STEP_BOUNDARY (R34). The job reaches a step boundary, at which tags, scales, ladders, tables and snapshots are updated. -/
  | stepBoundary (meas : PlanMeas)
  /-- SHARD_AMAX_MSG (R108). A home slot receives a shard's step amax and folds it in by maximum. -/
  | shardAmaxMsg (p : Nat) (slot : Nat) (amax : Nat) (jit : Option Nat)
  /-- TENSOR_SCALE_MSG (R108). A shard slot receives its new tensor scale and clears SCALE_WAIT. -/
  | tensorScaleMsg (p : Nat) (slot : Nat) (scale : Nat) (jit : Option Nat)
  /-- STEP_RELEASE (R480). The coordinator releases the next step once every part has reported and the previous capture is committed. -/
  | stepRelease (base : DWord)
  /-- PACKET_FORWARD (R301). A router takes a packet's flits on one virtual channel and forwards them by its routing order. -/
  | packetForward (r : Nat) (pkt : Packet) (chk : FlitCheck)
  /-- DATA_MESSAGE (R312). The last packet of a data message arrives and the matching RECV commits the item. -/
  | dataMessage (p : Nat) (pkt : Packet) (flitErr : Bool)
  /-- VOID_MESSAGE (R314). A void message arrives and the matching RECV commits an invalidated empty item. -/
  | voidMessage (p : Nat) (pkt : Packet)
  /-- READY_TOKEN (R313). The sending core receives a ready token for a channel pair. -/
  | readyToken (p : Nat) (pkt : Packet)
  /-- DELIVERY_ACK (R313). The sending core receives the delivery acknowledgement of a message. -/
  | deliveryAck (p : Nat) (pkt : Packet)
  /-- STORE_WRITE (R316). A core store line write arrives from the fabric and is acknowledged. -/
  | storeWrite (p : Nat) (pkt : Packet)
  /-- STORE_WRITE_ACK (R316). A store write acknowledgement arrives at the issuing mover. -/
  | storeWriteAck (p : Nat) (pkt : Packet)
  /-- STORE_READ_REQUEST (R316). A core store read request arrives and is answered. -/
  | storeReadRequest (p : Nat) (pkt : Packet)
  /-- STORE_READ_RESPONSE (R316). A store read response arrives at the issuing mover. -/
  | storeReadResponse (p : Nat) (pkt : Packet)
  /-- BARRIER_ARRIVAL (R332). A local or global home receives a barrier arrival and counts it. -/
  | barrierArrival (p : Nat) (pkt : Packet)
  /-- BARRIER_COMPLETION (R332). A barrier completion arrives, is forwarded to members, and advances DONE. -/
  | barrierCompletion (p : Nat) (pkt : Packet)
  /-- STEWARD_MESSAGE (R434). A Steward receives a Steward message from another part and carries out the coordinator's request. -/
  | stewardMessage (msg : StewardMsg) (media : Media)
  /-- RANK_ANNOUNCE (R445). A part receives another rank's announcement of its chip identifier during job load. -/
  | rankAnnounce (rank : Nat) (chip : Nat)
  /-- PART_LOST_MSG (R491). The coordinator receives a part-lost message and puts the job into WAITING. -/
  | partLostMsg (rank : Nat)
  /-- MEMORY_REQUEST (R343). A home controller receives a memory request and serves or forwards it. -/
  | memoryRequest (req : MemReq) (ecc : EccResult)
  /-- MEMORY_RESPONSE (R343). A memory response returns to the requester with data or status. -/
  | memoryResponse (resp : MemResp)
  /-- LINK_STOP_PACKET (R391). A link-group stop receives a packet from a link and injects it or forwards it in transit. -/
  | linkStopPacket (l : Nat)
  /-- CTBCMP_MATCH (R261). The local time base copy reaches SEQ_CTBCMP and the CTBCMP interrupt becomes pending. -/
  | ctbcmpMatch (p : Nat)
  /-- TIMED_START (R324). A timed block, operation or instruction starts when the local copy reaches its tick. -/
  | timedStart (p : Nat) (kind : TimedKind)
  /-- HBM_SCRUB (R345). A controller scrub read corrects a line or writes it with the poison syndrome. -/
  | hbmScrub (addr : Nat) (result : EccResult)
  /-- SELF_REFRESH_ENTRY (R341). A stack idle for 10 µs enters self-refresh. -/
  | selfRefreshEntry (n : Nat)
  /-- HBM_TEMPERATURE (R341). A stack temperature crossing 85 °C doubles or restores the refresh rate. -/
  | hbmTemperature (n : Nat) (temp : Nat)
  /-- CXL_DEVICE_DOWN (R353). A CXL device stops responding, its interleave set is fenced and a CXL-down event is raised. -/
  | cxlDeviceDown (port : Nat)
  /-- COW_COPY_DONE (R482). The snapshot engine finishes copying a protected page and the held write proceeds. -/
  | cowCopyDone (addr : Nat)
  /-- SPILL_DONE (R361). A spill completes to CXL memory and frees its ring frames, possibly ending a hold. -/
  | spillDone (p : Nat)
  /-- PREFETCH_START (R364). The stash controller starts bringing a spilled entry within the prefetch window back to the ring. -/
  | prefetchStart (p : Nat)
  /-- PREFETCH_DONE (R364). A prefetched entry's last frame arrives and the entry is back in the ring. -/
  | prefetchDone (p : Nat)
  /-- STASH_HOLD_TIMEOUT (R363). One continuous hold exceeds STH_HOLDMAX and raises a stash-hold event. -/
  | stashHoldTimeout (p : Nat)
  /-- PMD_TRAINING_DONE (R373). A link completes IEEE 802.3 link training on all four lanes. -/
  | pmdTrainingDone (l : Nat)
  /-- FEC_LOCK (R373). A link achieves alignment marker and codeword lock. -/
  | fecLock (l : Nat)
  /-- IDENT_FLIT (R373). A link receives an IDENT flit and enters Up or MISMATCH after two identical ones. -/
  | identFlit (l : Nat) (h : FlitHdr) (hw : Nat) (chip : Nat) (link : Nat) (major : Nat)
  /-- TRAINING_TIMEOUT (R373). A training stage exceeds its bound and the link goes down with cause 011b. -/
  | trainingTimeout (l : Nat)
  /-- DATA_FLIT (R379). A link receiver accepts or discards a DATA flit by CRC and sequence number. -/
  | dataFlit (l : Nat) (h : FlitHdr) (payload : List Byte)
  /-- IDLE_FLIT (R376). A link receives an IDLE flit carrying acknowledgement and credit counts. -/
  | idleFlit (l : Nat) (h : FlitHdr)
  /-- NAK_FLIT (R380). A link sender receives a NAK and replays unacknowledged flits. -/
  | nakFlit (l : Nat) (h : FlitHdr)
  /-- TIME_FLIT (R395). A link receives a time exchange request or response and timestamps it. -/
  | timeFlit (l : Nat) (h : FlitHdr) (t : TimePayload) (ta : Int) (td : Int)
  /-- LM_FLIT (R389). A link receives a link-state record and forwards a newer one on every other up link. -/
  | lmFlit (l : Nat) (h : FlitHdr) (r : LsRecord)
  /-- ACK_TIMEOUT (R380). ACKED has not advanced for ACKTO and the sender replays. -/
  | ackTimeout (l : Nat)
  /-- NAK_REPEAT (R379). A receiver gap still open after 2 µs sends another NAK. -/
  | nakRepeat (l : Nat)
  /-- EPISODE_TIMEOUT (R381). A replay episode open for 100 µs takes the link down. -/
  | episodeTimeout (l : Nat)
  /-- LANE_SIGNAL_LOSS (R372). A lane loses signal or lock for more than 1 µs and the link goes down. -/
  | laneSignalLoss (l : Nat)
  /-- FEC_FAILURE (R372). More than 1,000 uncorrectable codewords in 1 ms take the link down. -/
  | fecFailure (l : Nat) (n : Nat)
  /-- LINK_DEGRADE (R372). A 1 ms window with corrected-symbol rate above 1e-5 raises a link-degrade event. -/
  | linkDegrade (l : Nat) (n : Nat)
  /-- LINK_RETRAIN (R388). A down link retrains once every second. -/
  | linkRetrain (l : Nat)
  /-- TIME_EXCHANGE_START (R395). Each side of an up link starts a time exchange every 10 µs. -/
  | timeExchangeStart (l : Nat) (t1 : Int)
  /-- DISCIPLINE_WINDOW (R396). At the end of each 1 ms window the part sets its time base trim and XSYNC from the valid exchanges. -/
  | disciplineWindow (pSync : Bool)
  /-- REPLAN (R390). After 200 µs with no link-state change every VCF computes and installs the new route plan. -/
  | replan (media : Media)
  /-- CHANNEL_NOTICE (R419). A receiver takes a doorbell notice, clears the bit and reads the ring indices. -/
  | channelNotice (m : Mbx) (ch : Nat)
  /-- IF_QUERY (R435). VCF returns its interface version and identity data. -/
  | ifQuery (c : Nat) (ch : Nat)
  /-- CH_RESET (R433). VCF reinitialises every channel of the mailbox except channel 0. -/
  | chReset (c : Nat) (ch : Nat)
  /-- JOB_LOAD (R445). VCF reads and checks a job image, creates regions, builds the map and loads every core. -/
  | jobLoad (c : Nat) (ch : Nat) (ext : List Byte)
  /-- JOB_START (R433). The coordinator starts every part of the job at step boundary 0. -/
  | jobStart (c : Nat) (ch : Nat)
  /-- JOB_UNLOAD (R433). VCF releases the job's memory and returns the part to IDLE. -/
  | jobUnload (c : Nat) (ch : Nat)
  /-- STEP_RUN (R436). The coordinator runs COUNT steps, or until paused. -/
  | stepRun (c : Nat) (ch : Nat)
  /-- STEP_PAUSE (R436). The coordinator pauses the job at the next step boundary. -/
  | stepPause (c : Nat) (ch : Nat)
  /-- SNAP_TAKE (R480). The coordinator requests a snapshot of the next step boundary in a layer. -/
  | snapTake (c : Nat) (ch : Nat)
  /-- SNAP_RESTORE (R485). VCF restores a committed snapshot on every part of the job. -/
  | snapRestore (c : Nat) (ch : Nat) (media : Media)
  /-- CORE_FENCE (R435). VCF fences a physical core, pausing and optionally restoring its job. -/
  | coreFence (c : Nat) (ch : Nat) (media : Media)
  /-- CORE_UNFENCE (R435). VCF returns a core that passes its self-test to the spare pool. -/
  | coreUnfence (c : Nat) (ch : Nat) (pass : Bool)
  /-- TEL_QUERY (R435). VCF reads a list of read-only registers into the client's buffer. -/
  | telQuery (c : Nat) (ch : Nat)
  /-- FLT_ACK (R456). VCF acknowledges a fault source and its severe sub-sources. -/
  | fltAck (c : Nat) (ch : Nat)
  /-- UPD_STAGE (R528). VCF verifies an image and writes it into the inactive slot of its class in the open stage set. -/
  | updStage (c : Nat) (ch : Nat) (ext : List Byte)
  /-- UPD_COMMIT (R530). VCF runs the update order over the classes of the open stage set. -/
  | updCommit (c : Nat) (ch : Nat)
  /-- UPD_ABORT (R529). VCF closes the open stage set. -/
  | updAbort (c : Nat) (ch : Nat)
  /-- POL_PROPOSE (R534). The security processor records a signed proposal for a two-party change. -/
  | polPropose (c : Nat) (ch : Nat)
  /-- POL_APPROVE (R536). The security processor puts a proposal into force on a valid approval by a second key role. -/
  | polApprove (c : Nat) (ch : Nat)
  /-- ENV_SET (R500). VCF sets a new power envelope through the energy accountant. -/
  | envSet (c : Nat) (ch : Nat)
  /-- INPUT_FETCH (R448). VCF delivers the next training batch from the data cursor into core store. -/
  | inputFetch (p : Nat) (data : List Byte)
  /-- LOG (R448). VCF records a core's text message in the job log. -/
  | log (p : Nat)
  /-- UPD_PHASE_DONE (R530). A phase of the update order finishes or fails and the next phase starts. -/
  | updPhaseDone (result : PhaseResult)
  /-- LOCKSTEP_MISMATCH (R465). A Steward pair's lockstep fails and the standby resynchronises, the roles switch, or the part chip-resets. -/
  | lockstepMismatch (who : Agent)
  /-- RDMA_CONNECT (R423). An Ethernet port accepts a RoCEv2 connection bound to one client mailbox by its access key. -/
  | rdmaConnect (port : Nat) (c : Nat) (key : Nat)
  /-- CLIENT_WINDOW_READ (R421). A client reads the client window on the endpoint or RDMA path. -/
  | clientWindowRead (path : ClientPath) (off : Nat) (n : Nat)
  /-- CLIENT_WINDOW_WRITE (R425). A client writes the client window, accepted only in client-owned parts. -/
  | clientWindowWrite (path : ClientPath) (off : Nat) (data : List Byte)
  /-- FAULT_EVENT (R455). A collector latches and counts an event and makes its source severe at threshold or for an IMM event. -/
  | faultEvent (ev : Nat) (inst : Nat) (detail : Nat) (media : Media)
  /-- FAULT_WINDOW_END (R455). A source's counting window ends and it returns to quiet. -/
  | faultWindowEnd (src : Nat)
  /-- GRACE_EXPIRY (R460). A grace timer expires while its source is still severe and the next reaction starts. -/
  | graceExpiry (src : Nat) (media : Media)
  /-- PROGRESS_TIMEOUT (R467). A core's progress timer reaches PROG_LIMIT and raises event 10h. -/
  | progressTimeout (p : Nat)
  /-- BENCH_THERMAL (R508). A bench sensor above 105 °C raises event 1Bh. -/
  | benchThermal (b : Nat)
  /-- OVER_CURRENT (R511). A regulator current trip raises event 49h and the part enters hold. -/
  | overCurrent (media : Media)
  /-- CAPTURE_COMPLETE (R480). The snapshot engine writes every page and manifest of a layer's destination and the capture completes. -/
  | captureComplete (layer : Nat)
  /-- CAPTURE_COMMIT (R480). Every rank's part image of a step and layer is complete and the capture is committed. -/
  | captureCommit (layer : Nat)
  /-- DESTINATION_FAIL (R483). A snapshot destination fails or times out after 5 s and is abandoned for that boundary. -/
  | destinationFail (layer : Nat)
  /-- ACCOUNTING_PERIOD (R501). Every 10 µs the accountant refills the grant pool less the measured ungranted energy. -/
  | accountingPeriod (pkg : Nat) (benches : List Repeats)
  /-- GRANT_REQUEST_MSG (R502). A grant request arrives at the grant engine and is queued in arrival order. -/
  | grantRequestMsg (p : Nat) (handle : Nat)
  /-- CALIBRATION (R499). Every 100 ms the accountant updates the calibration factor KD. -/
  | calibration (measured : Nat) (counted : Nat)
  /-- EXCEED_CHECK (R505). A 100 ms mean above 1.02 times the envelope sets EXCEED and is counted. -/
  | exceedCheck (mw : Nat)
  /-- POINT_CHANGE (R495). A bench with no dispatched block slews its voltage and relocks its clock to a new operating point. -/
  | pointChange (b : Nat)
  /-- BENCH_PARK (R496). A bench with no running job core is moved to point 0 and clock-gated. -/
  | benchPark (b : Nat)
  /-- BIST_DONE (R143). An engine self-test completes and reports faulty rows and columns. -/
  | bistDone (p : Nat) (eng : Engine) (arrays : List BistArray)
  /-- POWER_GOOD (R548). PWR_OK rises with every rail in range and boot starts. -/
  | powerGood (tj : Nat) (straps : Nat) (i3c : Nat)
  /-- BOOT_STAGE_DONE (R516). A boot stage completes and the next starts, ending in the boot lock and ready. -/
  | bootStageDone (found : BootFind)
  /-- BOOT_STAGE_TIMEOUT (R516). A boot stage reaches its bound and boot continues with unfinished work marked failed. -/
  | bootStageTimeout (found : BootFind)
  /-- RAIL_OUT_OF_RANGE (R551). A rail outside its range for more than 10 µs raises event 4Bh and the part enters hold. -/
  | railOutOfRange (media : Media)
  /-- TAP_BYPASS (R561). The TAP selects the bypass register for BYPASS or any other code. -/
  | tapBypass (code : Nat)
  /-- PCIE_SURPRISE_REMOVAL (R568). A root port device is removed, raising event 31h and staying out of use until boot. -/
  | pcieSurpriseRemoval (port : Nat)
  /-- I3C_OFFSET_WRITE (R564). A one-byte I3C private write sets the telemetry register offset. -/
  | i3cOffsetWrite (off : Nat)
  /-- I3C_READ (R564). An I3C private read returns telemetry registers and advances the offset. -/
  | i3cRead (n : Nat)
  /-- SETDASA (R563). The I3C target takes a dynamic address from its static address. -/
  | setdasa (addr : Nat)
  /-- ENTDAA (R563). The I3C target takes part in dynamic address assignment. -/
  | entdaa (addr : Nat)
  /-- I2C_TRANSFER (R563). The target answers an I2C Fast-mode Plus transfer at its static address. -/
  | i2cTransfer (wr : List Byte) (n : Nat)
  /-- TELEMETRY_REFRESH (R564). Every 10 ms the telemetry registers are refreshed. -/
  | telemetryRefresh (sensors : Sensors)
  /-- REGISTER_WRITE (R12). A write to a register without a row of its own follows its access type, the boot lock and the access width rules. -/
  | registerWrite (who : Agent) (p : Nat) (addr : Nat) (width : Nat) (v : Nat)
  /-- WINDOW_PAIR_ACCESS (R298). A sequencer 32-bit access to half of a 64-bit register latches, holds or combines words in the window port. -/
  | windowPairAccess (p : Nat) (store : Bool) (addr : Nat) (v : Word)
  /-- SEQ_CTL_WRITE (R259). A Steward writes RUN, starting the monitor at 0000_E000h or stopping fetch. -/
  | seqCtlWrite (who : Agent) (p : Nat) (v : Nat)
  /-- SRAM_ALIAS_WRITE (R259). A Steward writes a core's SRAM alias, accepted only while RUN is 0 or the core is fenced. -/
  | sramAliasWrite (who : Agent) (p : Nat) (off : Nat) (data : List Byte)
  /-- QE_CFG_WRITE (R282). A queue end configuration write is checked and held until earlier users of the queue end complete. -/
  | qeCfgWrite (who : Agent) (p : Nat) (n : Nat) (v : DWord)
  /-- QE_CFG_TAKE_EFFECT (R282). A held queue end configuration lands, discarding the ring's items and clearing its counts. -/
  | qeCfgTakeEffect (p : Nat) (n : Nat)
  /-- RS_REG_WRITE (R97). A write to a stream key or counter is held until earlier users of the stream complete. -/
  | rsRegWrite (who : Agent) (p : Nat) (k : Nat) (v : DWord)
  /-- RS_WRITE_LAND (R97). A held stream register write lands in program order. -/
  | rsWriteLand (p : Nat) (k : Nat)
  /-- CLAMP_CLR (R104). A Steward clears selected clamp counters. -/
  | clampClr (who : Agent) (p : Nat) (v : Nat)
  /-- SCT_CFG_WRITE (R112). A write to a slot's recipe registers is held until the next step boundary. -/
  | sctCfgWrite (who : Agent) (p : Nat) (n : Nat) (v : Nat)
  /-- SCT_SCALE_WRITE (R113). A write to a slot's scale is held until the next step boundary. -/
  | sctScaleWrite (who : Agent) (p : Nat) (n : Nat) (v : Nat)
  /-- SCT_HIST_WRITE (R113). A Steward writes a slot history entry while the job is not running. -/
  | sctHistWrite (who : Agent) (p : Nat) (n : Nat) (b : Nat) (v : Nat)
  /-- SCT_LINK_WRITE (R573). A Steward writes a slot's home or shard links while the job is not running. -/
  | sctLinkWrite (who : Agent) (p : Nat) (n : Nat) (shlist : Bool) (v : Nat)
  /-- FE_REPAIR_WRITE (R145). A Steward bypasses a physical row of an unrepaired FE array. -/
  | feRepairWrite (who : Agent) (p : Nat) (v : Nat)
  /-- FE_BIST_START (R146). A Steward starts the self-test of all four FE arrays. -/
  | feBistStart (who : Agent) (p : Nat) (v : Nat)
  /-- BE_REPAIR_WRITE (R183). A Steward bypasses a physical row of an unrepaired BE array. -/
  | beRepairWrite (who : Agent) (p : Nat) (v : Nat)
  /-- BE_BIST_START (R165). A Steward starts the self-test of all four BE arrays. -/
  | beBistStart (who : Agent) (p : Nat) (v : Nat)
  /-- VU_FCSR_WRITE (R294). A write sets the dynamic rounding mode for later VU instructions and clears flags. -/
  | vuFcsrWrite (who : Agent) (p : Nat) (v : Nat)
  /-- HZD_STAT_CLEAR (R252). Writing 1 to VALID clears the hazard record and its time. -/
  | hzdStatClear (who : Agent) (p : Nat) (eng : Engine) (v : Nat)
  /-- ERR_STAT_CLEAR (R253). Writing 1 to VALID clears the encoding error record. -/
  | errStatClear (who : Agent) (p : Nat) (eng : Engine) (v : Nat)
  /-- DRW_ERR_CLEAR (R185). Writing 1 to VALID clears the drawer refusal record. -/
  | drwErrClear (who : Agent) (p : Nat) (v : Nat)
  /-- KRF_VR_RD_WRITE (R206). The program advances the verdict ring read index, freeing space for held records. -/
  | krfVrRdWrite (who : Agent) (p : Nat) (v : Nat)
  /-- LT_CFG_WRITE (R207). A write of a layer's ladder configuration is checked against TOP and the rung codes. -/
  | ltCfgWrite (who : Agent) (p : Nat) (l : Nat) (v : Nat)
  /-- MBX_DB_WRITE (R412). A side sets or clears forward doorbell bits, with a same-cycle set winning. -/
  | mbxDbWrite (who : Agent) (m : Mbx) (cl : Nat) (v : Nat) (other : Nat)
  /-- MBX_DB_R_WRITE (R414). A side sets or clears return doorbell bits, raising MSI-X or MBXIN on a new pending bit. -/
  | mbxDbRWrite (who : Agent) (m : Mbx) (cl : Nat) (v : Nat) (other : Nat)
  /-- MBX_MASK_WRITE (R412). The receiver changes a bank mask, possibly making set bits pending. -/
  | mbxMaskWrite (who : Agent) (m : Mbx) (ret : Bool) (cl : Nat) (v : Nat)
  /-- MBX_ROLE_WRITE (R410). ACTIVE changes and every mailbox's Steward side moves to the new active Steward. -/
  | mbxRoleWrite (who : Agent) (v : Nat)
  /-- FAB_MAP_WRITE (R309). A Steward writes a logical map entry while the named cores are stopped. -/
  | fabMapWrite (who : Agent) (n : Nat) (v : Nat)
  /-- FAB_BYP_WRITE (R336). A Steward sets or clears a router bypass, taking effect within 1,000 ticks. -/
  | fabBypWrite (who : Agent) (k : Nat) (v : Nat)
  /-- CTB_TRIM_WRITE (R323). A Steward sets the signed rate trim of the time base. -/
  | ctbTrimWrite (who : Agent) (v : Nat)
  /-- TL_LATE_CLR (R325). Writing CLR clears the largest lateness record. -/
  | tlLateClr (who : Agent) (p : Nat) (v : Nat)
  /-- SEQ_CTBCMP_WRITE (R261). Writing SEQ_CTBCMP sets a new compare tick, clearing CTBCMP when later. -/
  | seqCtbcmpWrite (who : Agent) (p : Nat) (v : Nat)
  /-- BAR_CFG_WRITE (R335). A Steward configures a barrier while no job runs, ignoring out-of-range counts. -/
  | barCfgWrite (who : Agent) (p : Nat) (b : Nat) (v : Nat)
  /-- MEM_RGN_CTL_WRITE (R356). A region control write brings an entry into force after checks, or sets RGNERR. -/
  | memRgnCtlWrite (who : Agent) (n : Nat) (v : Nat)
  /-- MEM_RETIRE_GO (R349). A Steward starts the retirement of an HBM channel. -/
  | memRetireGo (who : Agent) (v : Nat)
  /-- MEM_JOBST_WRITE (R369). A write sets the job phase and, for 00b, clears confirmed-only and stash regions. -/
  | memJobstWrite (who : Agent) (v : Nat)
  /-- STH_CFG_WRITE (R367). A Steward writes a core's stash configuration, ignored and recorded if it breaks the limits. -/
  | sthCfgWrite (who : Agent) (p : Nat) (off : Nat) (v : Nat)
  /-- SL_CTL_EN_WRITE (R404). A write enables a link to train or disables it. -/
  | slCtlEnWrite (who : Agent) (l : Nat) (v : Nat)
  /-- SL_CTL_RETIRE (R387). Setting RETIRE retires a healthy link without loss. -/
  | slCtlRetire (who : Agent) (l : Nat)
  /-- SL_RT_WRITE (R406). VCF writes a route table entry while installing a plan. -/
  | slRtWrite (who : Agent) (n : Nat) (v : Nat)
  /-- TS_CFG_WRITE (R407). A write of master eligibility and priority is flooded and applies at the next re-plan. -/
  | tsCfgWrite (who : Agent) (v : Nat)
  /-- FLT_ACK_WRITE (R456). The active Steward acknowledges a fault source, stopping its grace timer and clearing its state. -/
  | fltAckWrite (who : Agent) (v : Nat)
  /-- CFC_ACK_WRITE (R456). A monitor acknowledges a fault source of its own core. -/
  | cfcAckWrite (who : Agent) (p : Nat) (v : Nat)
  /-- FLT_CFG_WRITE (R458). A write configures a source's threshold, window, chain and grace, or sets CFGERR. -/
  | fltCfgWrite (who : Agent) (n : Nat) (v : Nat)
  /-- FLT_FIRST_CLEAR (R454). Writing VALID clears the first-event record. -/
  | fltFirstClear (who : Agent) (v : Nat)
  /-- PROG_LIMIT_WRITE (R472). A Steward sets or disables a core's progress limit. -/
  | progLimitWrite (who : Agent) (p : Nat) (v : Nat)
  /-- SNP_CTL_WRITE (R493). A Steward enables snapshot layers and cadences, ignoring writes that break R473. -/
  | snpCtlWrite (who : Agent) (v : Nat)
  /-- ENGINE_LATENCY_REACHED (R133). An executing FE or BE issue reaches its write cycles and latency cycle, writing accumulator rows or buffers, clearing write-pending tags and completing. -/
  | engineLatencyReached (p : Nat) (eng : Engine)
  /-- OPERATION_COMMIT (R236). A started core-level operation or VU issue commits its output item or register in its last cycle and completes, freeing its place in the transfer table. -/
  | operationCommit (p : Nat) (id : Option Nat)
  /-- CHECKPOINT_ENTRY_ARRIVAL (R365). The checkpoint entry that the stash controller brings for a dropped recompute target arrives and is pushed into its UQ queue end. -/
  | checkpointEntryArrival (p : Nat)
  /-- IEEE_1588_MESSAGE (R567). An IEEE 1588 message arrives on an Ethernet port and is timestamped from the CTB for the time base lock or trim discipline of the fabric master. -/
  | ieee1588Message (port : Nat) (time : Option DWord)
  /-- D3HOT_TRANSITION (R569). The host moves the management endpoint between D0 and D3hot, making its BARs unreachable or reachable again. -/
  | d3hotTransition (d3 : Bool)
  /-- TRIM_ADJUST (R318). The fractional trim sum carries or borrows and the time base adds 0 or 2 on that tick. -/
  | trimAdjust
  /-- REFCLK_LOSS (R322). The reference or time base loop loses lock, and the time base enters holdover and raises a time-base event. -/
  | refclkLoss
  /-- HOLDOVER_RELOCK (R322). The loop relocks within 10 ms and the time base slews back, clearing HOLD. -/
  | holdoverRelock
  /-- HOLDOVER_TIMEOUT (R322). The loop does not relock within 10 ms and a time base source failure is raised. -/
  | holdoverTimeout
  /-- MIGRATION_PAGE_MOVE (R349). A page of a retiring channel is copied to its host and redirects switch together. -/
  | migrationPageMove
  /-- MIGRATION_DONE (R349). The last page of a retirement moves, ACTIVE clears, RET is set and a channel-retired event is logged. -/
  | migrationDone
  /-- PLANNED_SWITCHOVER (R532). The active Steward drains started commands, transfers state and hands over the active role. -/
  | plannedSwitchover
  /-- THERMTRIP (R466). A junction sensor reaches 125 °C and the part asserts THERMTRIP_N and turns off its regulators. -/
  | thermtrip
  /-- LAYER2_UPLOAD_DONE (R475). A background layer-2 upload from the layer-1 copy completes and the catalogue is rewritten. -/
  | layer2UploadDone
  /-- GRANT_ISSUE (R503). The grant engine grants the head request when the pool suffices and charges it. -/
  | grantIssue
  /-- PWR_OK_FALL (R549). PWR_OK low for 1 µs or more starts a power cycle. -/
  | pwrOkFall
  /-- VDD_AON_LOW (R549). VDD_AON falls below 1.60 V and starts a power cycle. -/
  | vddAonLow
  /-- SYS_RST_N (R552). SYS_RST_N low for 1 µs or more starts a chip reset with no fault cause. -/
  | sysRstN
  /-- MEP_PERST_N (R552). MEP_PERST_N low resets the management endpoint only. -/
  | mepPerstN
  /-- FUNCTION_LEVEL_RESET (R569). A PCIe function-level reset of the management endpoint acts as MEP_PERST_N. -/
  | functionLevelReset
  /-- TRST_N (R552). TRST_N low resets the TAP to Test-Logic-Reset. -/
  | trstN
  /-- TAP_IDCODE (R561). The TAP selects the IDCODE register, returning 1416_C3A7h. -/
  | tapIdcode
  /-- TRACE_STATUS_RECORD (R562). Every 1 ms the trace port emits a status record. -/
  | traceStatusRecord
  /-- HALT_TRACE_RECORD (R562). Every 1 ms during a boot halt the trace port emits a halt record. -/
  | haltTraceRecord
  /-- TRACE_DROP_RECORD (R562). After records were dropped, a record of the count is emitted when buffer space returns. -/
  | traceDropRecord
  /-- SYS_RST_N_RELEASE (R552). SYS_RST_N rises after a chip reset and the chip reset's boot runs from the release. -/
  | sysRstNRelease
  /-- RAILS_WITHIN_RANGE (R548). Every rail comes within its range while PWR_OK is already high, and boot starts 10 ms later, counting as power-good. -/
  | railsWithinRange
  /-- ACCOUNTANT_RUNNING (R506). The energy accountant finishes its restart after a block reset, sets RUN, restarts the pool at 0 and serves the queued requests in order. -/
  | accountantRunning
  /-- LOCKSTEP_ERR_N_RELEASE (R465). The 100 ms of ERR_N that follows a lockstep mismatch runs out and ERR_N is released if no other condition holds it. -/
  | lockstepErrNRelease
deriving DecidableEq, Repr

end Sys2Proof
end

