-- ==== Sys2Proof/Decode.lean ====
section
/-!
DEFINITION. Words and commands. The opcode table gives no row any bits: a command is no word, and none is spelled
by one (log 11).
-/
namespace Sys2Proof

/-- The command that a word of the table spells: none. -/
def decodeTableWord (_nbits _w : Nat) : Option Instr := none

end Sys2Proof
end

