-- ==== Sys2Proof/Config.lean ====
section
/-!
DEFINITION. What the specification leaves open: free values (opaque, so no proof can see them) and the
constants of one unit. Log entries 5, 7 and 8.
-/
namespace Sys2Proof

/-- A free bit pattern: the `i`-th value of the `n`-th time the machine needs one (log 8). -/
opaque Config.free : Nat → Nat → Nat

/-- Ticks by which the local copy of bench `nn` lags CTB_NOW; used modulo 3 (09 R320). -/
opaque Config.ctbLag : Nat → Nat

/-- The SHA-384 digest of a byte string (16 R520). -/
opaque Config.sha384Bits : List Byte → BitVec 384

/-- The digest's 48 bytes read as a little-endian number. -/
def Config.sha384 (b : List Byte) : Nat := (Config.sha384Bits b).toNat

/-- The result of verifying a signature: key set index, message, signature bytes (16 R520, R535). -/
opaque Config.verify : Nat → List Byte → List Byte → Bool

/-- A random number from the security processor's generator (16 R534, 12 R423). -/
opaque Config.random : Nat → Nat

/-- The unit fingerprint words SEC_FP_0 to SEC_FP_5 (16 R541). -/
opaque Config.unitFingerprint : Nat → DWord

/-- The fused logical repairs: array (0-3 FE, 4-7 BE) of core p; 3Fh is none (04 R141). -/
opaque Config.fuseRepair : Nat → Nat → Nat

/-- JOBLIM, the lowest HBM device address that VCF keeps for itself (12 R435). -/
opaque Config.jobLimit : Nat

end Sys2Proof
end

