-- ==== Sys2Proof/Machine/Store.lean ====
section
/-!
DEFINITION. Sparse maps in one canonical form: keys strictly rising, and no entry equal to what an
unlisted key reads as. The model's memories, register files and tables of cores are such maps.
-/
namespace Sys2Proof.Machine

/-- A sparse map: entries by rising key. -/
abbrev Map (α : Type) := List (Nat × α)

/-- The value at `k`; an unlisted key reads as `d k`. -/
def Map.get {α : Type} (d : Nat → α) : Map α → Nat → α
  | [], k => d k
  | (j, v) :: m, k => if k = j then v else Map.get d m k

/-- The entry in its place by rising key. -/
def Map.insert {α : Type} (k : Nat) (v : α) : Map α → Map α
  | [] => [(k, v)]
  | (j, w) :: m => if k < j then (k, v) :: (j, w) :: m else (j, w) :: Map.insert k v m

/-- `m` with `k` reading as `v`; writing what an unlisted key reads as removes the entry. -/
def Map.put {α : Type} [DecidableEq α] (d : Nat → α) (m : Map α) (k : Nat) (v : α) : Map α :=
  let r := m.filter fun e => decide (e.1 ≠ k)
  if v = d k then r else Map.insert k v r

/-- Every key of the map is at least `b`, keys rise strictly, and no entry is redundant. -/
def Map.wfFrom {α : Type} [DecidableEq α] (d : Nat → α) : Nat → Map α → Bool
  | _, [] => true
  | b, (j, v) :: m => decide (b ≤ j) && decide (v ≠ d j) && Map.wfFrom d (j + 1) m

/-- The canonical form. -/
def Map.wf {α : Type} [DecidableEq α] (d : Nat → α) (m : Map α) : Bool := Map.wfFrom d 0 m

/-- A map with the entries of keys `lo` to `lo + n - 1` read as unlisted. -/
def Map.clearRange {α : Type} (m : Map α) (lo n : Nat) : Map α :=
  m.filter fun e => !(decide (lo ≤ e.1) && decide (e.1 < lo + n))

/-- Apply a function to every listed value, in canonical form. -/
def Map.mapV {α : Type} [DecidableEq α] (d : Nat → α) (f : α → α) (m : Map α) : Map α :=
  m.filterMap fun (k, v) => if f v = d k then none else some (k, f v)

/-- Bytes of a memory whose unlisted bytes read as 0. -/
abbrev Bytes := Map Byte

def byte0 : Nat → Byte := fun _ => 0

/-- The canonical form of a memory. -/
def Memory.wf (m : Bytes) : Bool := Map.wf byte0 m

/-- One byte. -/
def Bytes.rd (m : Bytes) (a : Nat) : Byte := Map.get byte0 m a

/-- One byte written. -/
def Bytes.wr (m : Bytes) (a : Nat) (b : Byte) : Bytes := Map.put byte0 m a b

/-- `n` bytes from `a`. -/
def Bytes.rdN (m : Bytes) (a : Nat) : Nat → List Byte
  | 0 => []
  | n + 1 => Bytes.rd m a :: Bytes.rdN m (a + 1) n

/-- A run of bytes written from `a`. -/
def Bytes.wrN (m : Bytes) (a : Nat) : List Byte → Bytes
  | [] => m
  | b :: bs => Bytes.wrN (Bytes.wr m a b) (a + 1) bs

/-- A little-endian number of `n` bytes (00 R10). -/
def Bytes.rdLe (m : Bytes) (a n : Nat) : Nat := leNat (Bytes.rdN m a n)

def Bytes.wrLe (m : Bytes) (a n v : Nat) : Bytes := Bytes.wrN m a (leBytes n v)

/-- A map of small natural numbers that are 0 where unlisted (codes, exponent bytes, counts). -/
abbrev NatMap := Map Nat

def NatMap.rd (m : NatMap) (a : Nat) : Nat := Map.get (fun _ => 0) m a
def NatMap.wr (m : NatMap) (a v : Nat) : NatMap := Map.put (fun _ => 0) m a v

/-- Bytes of a byte list seen as an address space starting at 0; past its end it reads 0. -/
def listByte (l : List Byte) (i : Nat) : Byte := l.getD i 0

/-- The `n`-byte little-endian number at offset `i` of a list of bytes. -/
def listLe (l : List Byte) (i n : Nat) : Nat := leNat ((l.drop i).take n)

/-- Pad with zero bytes, or cut, to `n` bytes. -/
def fitBytes (n : Nat) (l : List Byte) : List Byte := (l ++ List.replicate (n - l.length) 0).take n

/-- Replace element `i` of a list. -/
def setAt {α : Type} (l : List α) (i : Nat) (v : α) : List α := l.set i v

end Sys2Proof.Machine
end

