-- ==== Sys2Proof/Machine/EngineState.lean ====
section
/-!
DEFINITION. The storage of the forward and backward engines: tile registers, accumulator tiles, weight
and stationary buffers, column masks, executing issues, instruction queue halves
(02 R46, R47, R572; 04 R118; 05 R148; 07 R217-R239).
-/
namespace Sys2Proof.Machine

/-- A tag that says confirmed (06 R187). -/
abbrev confTag : Word := 0x80000000#32

/-- A tile register T (02 R46): 8 KiB of codes, 2,048 exponent bytes, format byte, tensor scale, inlay
list (COUNT is its length), tag, poison, and the write-pending tag of a core-level write (07 R236). -/
structure Tile where
  codes : Bytes := []
  exps : Bytes := []
  fmt : Nat := 3
  scale : Word := 0x3F800000#32
  inl : List Nat := []
  tag : Word := confTag
  poison : BitVec 2 := 0
  wpend : Bool := false
deriving DecidableEq, Repr

/-- The reset state of a tile register (02 R572). -/
def Tile.reset : Tile := {}

/-- An inlay sum (04 R124, R128): none, or an exact value that may hold infinities or a NaN. -/
structure InlSum where
  present : Bool := false
  q : Rat := 0
  pinf : Bool := false
  ninf : Bool := false
  nan : Bool := false
deriving DecidableEq, Repr

/-- What one output element of a chain holds (04 R124): accumulator, run value, block counter, inlay sum. -/
structure El where
  acc : Nat := 0
  run : Nat := 0
  cnt : Nat := 0
  inl : InlSum := {}
deriving DecidableEq, Repr

/-- An accumulator tile A with its run tile, block counters, inlay sums and scale sidecar (04 R118, R124; 05 R148).
Element (i, j) is entry 32 i + j. `cnt` is held per element, because a disabled column keeps its counter
(05 R166). The sidecar is S_a and S_w in the forward engine, S_g and S_n in the backward engine. -/
structure Acc where
  el : NatMap := []
  run : NatMap := []
  cnt : NatMap := []
  inl : Map InlSum := []
  sa : Word := 0x3F800000#32
  sb : Word := 0x3F800000#32
  tag : Word := confTag
  poison : BitVec 2 := 0
deriving DecidableEq, Repr

def Acc.reset : Acc := {}

/-- Element (i, j), by 32 i + j. -/
def Acc.elem (a : Acc) (i : Nat) : El :=
  { acc := NatMap.rd a.el i, run := NatMap.rd a.run i, cnt := NatMap.rd a.cnt i, inl := Map.get (fun _ => {}) a.inl i }

def Acc.setElem (a : Acc) (i : Nat) (x : El) : Acc :=
  { a with el := NatMap.wr a.el i x.acc, run := NatMap.wr a.run i x.run, cnt := NatMap.wr a.cnt i x.cnt
           inl := Map.put (fun _ => {}) a.inl i x.inl }

/-- What a load copies into a weight or stationary buffer: the tile (a register pair in `lo`, `hi`), the half it came
from and its layout field. -/
structure WCopy where
  lo : Tile := {}
  hi : Tile := {}
  half : Nat := 0
  ori : Bool := false
deriving DecidableEq, Repr

/-- A weight or stationary buffer: the copy of its last load, the contents before that load with the load's first
and last write cycles, and the cycle on which it completes. `prevFree` says that the last load began before the one
before it had ended, so that the contents before it are open. -/
structure WBuf where
  cur : WCopy := {}
  prev : WCopy := {}
  prevFree : Bool := false
  wrFrom : Nat := 0
  wrTo : Nat := 0
  doneAt : Nat := 0
deriving DecidableEq, Repr

def WBuf.reset : WBuf := {}

/-- The rows of a buffer as reads on the cycles `t0` to `t1` see them; none where the load that writes them leaves
open which rows it has written (04 R135, 07 R237). -/
def WBuf.seen (b : WBuf) (t0 t1 : Nat) : Option WCopy :=
  if b.wrTo < t0 then some b.cur else if t1 ≤ b.wrFrom ∧ !b.prevFree then some b.prev else none

/-- The resource of an issue (07 R234). -/
inductive Resource where
  | arrays
  | loadPort
  | maskPort
  | none
deriving DecidableEq, Repr

/-- One row of one destination accumulator tile that an executing issue has still to write (04 R131, R134; 05 R161):
array, tile, row, the cycle `rd` on which it reads the old row, and, once it has (`got`), the columns it writes. -/
structure PendRow where
  arr : Nat
  reg : Nat
  row : Nat
  rd : Nat
  got : Bool := false
  cols : List (Nat × El) := []
deriving DecidableEq, Repr

/-- The cycle on which a row is written: two after its old row is read. -/
def PendRow.at_ (r : PendRow) : Nat := r.rd + 2

/-- What a multiply issue latched at its launch: engine, quadrant mode, CLR, NEG, layout, its format fault; n, P, K per
pass; the format bytes of its operands; the source register of each array with the half; the buffer of each array; the
enabled columns of each array; and the number of its free values. -/
structure Mma where
  be : Bool
  quad : Bool
  clr : Bool
  neg : Bool
  ori : Bool
  bad : Bool
  n : Nat
  p : Nat
  kk : Nat
  fa : Nat
  fw : Nat
  regs : List Nat
  half : Nat
  bufs : List Nat
  cols : List Nat
  free : Nat
deriving DecidableEq, Repr

/-- An executing issue (07 R232-R234). `op` is the opcode; `finAt` the latency cycle; `reads` the tile
registers it reads, with `readEnd` the last cycle of the window; `olds` the contents that a core-level commit
replaced under it (register, commit cycle, tile); `bufs` the buffers a FMMA or BMMA reads from `bufFrom` to
`bufEnd`; `mask` the pending write of a column mask; `macs` what it adds to the MAC counter. -/
structure Issue where
  op : Nat
  iofs : Nat
  iter : Nat
  launch : Nat
  finAt : Nat
  res : Resource
  resEnd : Nat
  dests : List Nat := []
  rows : List PendRow := []
  mma : Option Mma := none
  reads : List Nat := []
  readEnd : Nat := 0
  olds : List (Nat × Nat × Tile) := []
  bufs : List Nat := []
  bufFrom : Nat := 0
  bufEnd : Nat := 0
  mask : Option (Nat × Nat × BitVec 2) := none
  macs : Nat := 0
  /-- program-order number of the block -/
  blk : Nat := 0
deriving DecidableEq, Repr

/-- A hazard that the monitor detects on cycle `at_` (07 R237, R238). -/
structure Hazard where
  at_ : Nat
  iofs : Nat
  kind : Nat
  reg : Nat
  row : Nat
  iter : Nat
deriving DecidableEq, Repr

/-- A looped instruction that is still issuing (07 R228, R229). -/
structure Loop where
  word : BitVec 128
  iofs : Nat
  launch : Nat
  slot : Nat
  period : Nat
  nlev : Nat
  /-- increments, level-major, four per level -/
  incs : List Nat
  /-- latched counts of the levels, L0 first -/
  cnts : List Nat
  /-- the iteration index of the last issue made -/
  idx : List Nat
  /-- the instruction is the last of its block -/
  last : Bool
  blockPoison : Bool
  blk : Nat := 0
deriving DecidableEq, Repr

/-- A block descriptor of the ready lists (05 R173), by field. -/
structure BlockDesc where
  code : Nat
  len : Nat
  eng : Bool
  timed : Bool
  cond : Bool
  seam : Nat
  launch : Nat
  /-- valid queue conditions: queue end, KIND, COUNT -/
  qconds : List (Nat × Bool × Nat)
  stash0 : Option Nat
  stash1 : Option Nat
  grant : Nat
  /-- the decision of R180 for a COND head: the target was dropped -/
  decided : Bool := false
  /-- first eligible tick of a timed launch that another condition held there (09 R325) -/
  due : Option Nat := none
deriving DecidableEq, Repr

/-- A dispatched block in an instruction queue half (05 R174, R175). -/
structure QHalf where
  desc : BlockDesc
  blk : Nat := 0
  words : List (BitVec 128)
  copyDone : Nat
  /-- block cycle 0, once launched -/
  base : Option Nat := none
  /-- instructions launched -/
  next : Nat := 0
  prevAt : Nat := 0
  prevLoff : Nat := 0
  poison : Bool := false
deriving DecidableEq, Repr

/-- One engine. Buffer b of array a is entry 2 a + b of `bufs`. -/
structure Eng where
  t : Map Tile := []
  a : Map Acc := []
  bufs : Map WBuf := []
  /-- bit a: the active buffer of array a -/
  active : Nat := 0
  /-- column masks (backward engine) -/
  cm : List (BitVec 128) := List.replicate 4 (BitVec.allOnes 128)
  cmPoison : List (BitVec 2) := List.replicate 4 0
  exec : List Issue := []
  /-- hazards whose detection cycle has not come -/
  hz : List Hazard := []
  halves : List QHalf := []
  loops : List Loop := []
  /-- launch cycle of the previous block's last instruction -/
  lastAt : Nat := 0
deriving DecidableEq, Repr

def Eng.tile (e : Eng) (r : Nat) : Tile := Map.get (fun _ => Tile.reset) e.t r
def Eng.setTile (e : Eng) (r : Nat) (t : Tile) : Eng := { e with t := Map.put (fun _ => Tile.reset) e.t r t }
def Eng.acc (e : Eng) (r : Nat) : Acc := Map.get (fun _ => Acc.reset) e.a r
def Eng.setAcc (e : Eng) (r : Nat) (x : Acc) : Eng := { e with a := Map.put (fun _ => Acc.reset) e.a r x }
def Eng.buf (e : Eng) (k : Nat) : WBuf := Map.get (fun _ => WBuf.reset) e.bufs k
def Eng.setBuf (e : Eng) (k : Nat) (x : WBuf) : Eng := { e with bufs := Map.put (fun _ => WBuf.reset) e.bufs k x }

/-- A commit on cycle `k` replaces register `r` (07 R237): the issues that execute keep what their earlier reads saw, and a
load that was reading copies contents that are open. -/
def Eng.retire (e : Eng) (r k : Nat) : Eng :=
  { e with exec := e.exec.map fun x => if x.reads.contains r then { x with olds := x.olds ++ [(r, k, e.tile r)] } else x }

end Sys2Proof.Machine
end

