-- ==== Sys2Proof/Machine/Events.lean ====
section
/-!
DEFINITION. Event codes and their sources (13 R451, R452), and the configuration of every source after reset
(13 R463, R468).
-/
namespace Sys2Proof.Machine

abbrev evNumerics := 0x01
abbrev evHazard := 0x02
abbrev evPoisonEgress := 0x03
abbrev evFormat := 0x04
abbrev evNonFinite := 0x05
abbrev evEncoding := 0x06
abbrev evTagConflict := 0x07
abbrev evKerfConfig := 0x08
abbrev evDrawer := 0x09
abbrev evAccess := 0x0A
abbrev evMsgImbalance := 0x0B
abbrev evBarImbalance := 0x0C
abbrev evStashImbalance := 0x0D
abbrev evCoreMemory := 0x0E
abbrev evStashHold := 0x0F
abbrev evProgress := 0x10
abbrev evUnrepairable := 0x11
abbrev evMonitorFault := 0x12
abbrev evProgram := 0x13
abbrev evBenchReg := 0x18
abbrev evBenchClock := 0x19
abbrev evFabric := 0x1A
abbrev evBenchThermal := 0x1B
abbrev evMemCorr := 0x20
abbrev evMemUncorr := 0x21
abbrev evMemPoison := 0x22
abbrev evCtrlFail := 0x23
abbrev evStashCtl := 0x24
abbrev evLinkDegrade := 0x28
abbrev evLinkDown := 0x29
abbrev evPartner := 0x2A
abbrev evPort := 0x30
abbrev evRootPort := 0x31
abbrev evCxlDown := 0x32
abbrev evEndpoint := 0x33
abbrev evLockstep := 0x38
abbrev evControl := 0x39
abbrev evChannel := 0x3A
abbrev evSnapshot := 0x3B
abbrev evSecInt := 0x40
abbrev evPolicy := 0x41
abbrev evHoldover := 0x44
abbrev evTbFail := 0x45
abbrev evEacc := 0x48
abbrev evOverCurrent := 0x49
abbrev evThermtrip := 0x4A
abbrev evRail := 0x4B
abbrev evBridgeLane := 0x4C
abbrev evBridgeIso := 0x4D
abbrev evAon := 0x4E
abbrev evFabricChip := 0x4F
abbrev evFallback := 0x60
abbrev evLinkUp := 0x61

/-! ### Sources (R450-R452) -/

/-- Source number of chip status bit `c`, 72-117. -/
abbrev chipSrc (c : Nat) : Nat := 2304 + (c - 72)
abbrev srcMC (n : Nat) : Nat := chipSrc (72 + n)
abbrev srcLG (g : Nat) : Nat := chipSrc (88 + g)
abbrev srcETH (i : Nat) : Nat := chipSrc (96 + i)
abbrev srcPCIE : Nat := chipSrc 98
abbrev srcCXL : Nat := chipSrc 99
abbrev srcMEP : Nat := chipSrc 100
abbrev srcSTWA : Nat := chipSrc 101
abbrev srcCTLX : Nat := chipSrc 103
abbrev srcSECI : Nat := chipSrc 104
abbrev srcSECP : Nat := chipSrc 105
abbrev srcTBL : Nat := chipSrc 106
abbrev srcTBF : Nat := chipSrc 107
abbrev srcEACC : Nat := chipSrc 108
abbrev srcOVC : Nat := chipSrc 109
abbrev srcTHT : Nat := chipSrc 110
abbrev srcRAIL : Nat := chipSrc 111
abbrev srcBRG (i : Nat) : Nat := chipSrc (112 + i)
abbrev srcAON : Nat := chipSrc 116
abbrev srcFABG : Nat := chipSrc 117

/-- A FLT_CFG value: N, WEXP, the chain, GRACE, FIXED. -/
def fltCode (n wexp ra rb rc grace fixed : Nat) : Nat :=
  n + wexp * 2 ^ 16 + ra * 2 ^ 24 + rb * 2 ^ 27 + rc * 2 ^ 30 + grace * 2 ^ 33 + fixed * 2 ^ 63

/-- The configuration of a source after chip reset. Chains end with code 7; a fixed source with no grace of its
own has GRACE 1 (log 50). -/
def fltDefault (s : Nat) : Nat :=
  if s < 2304 then
    let b := s % 32
    if b = 28 ∨ b = 29 then fltCode 1 0 3 5 7 100000 0
    else if b = 30 then fltCode 16 20 1 3 5 100000 0
    else if b = 31 then fltCode 4 26 1 3 7 1000000 0
    else if b % 7 = 0 then fltCode 16 32 1 7 7 1000000 0
    else if b % 7 = 3 then fltCode 4 36 1 3 5 100000 0
    else if b % 7 = 5 ∨ b % 7 = 6 then fltCode 1 0 1 3 5 100000 0
    else fltCode 1 0 1 7 7 1000000 0
  else if s < srcLG 0 then fltCode 256 36 1 5 7 1000000 0
  else if s < srcETH 0 then fltCode 32 32 1 3 7 1000000 0
  else if s ≤ srcMEP ∨ s = srcEACC then fltCode 1 0 1 3 5 100000 0
  else if s = srcSTWA ∨ s = srcSTWA + 1 then fltCode 1 0 2 7 7 1 1
  else if s = srcCTLX ∨ s = srcFABG then fltCode 1 0 1 7 7 1000000 0
  else if s = srcSECI then fltCode 1 0 2 6 7 100000 1
  else if s = srcSECP then fltCode 16 32 1 7 7 1000000 0
  else if s = srcTBL then fltCode 1 0 2 7 7 1 1
  else if s = srcTBF then fltCode 1 0 2 4 7 100000 1
  else if s = srcTHT then fltCode 1 0 0 7 7 1 1
  else if s = srcOVC ∨ s = srcRAIL ∨ s = srcAON then fltCode 1 0 6 7 7 1 1
  else if s < srcAON then fltCode 4 36 1 7 7 1000000 1
  else 0

end Sys2Proof.Machine
end

