-- ==== Sys2Proof/Machine/RegMap.lean ====
section
/-!
DEFINITION. The part's registers, row by row from the register tables of the chapters (00 R12): where each
lies, how many there are, its width, its reset value and the access type of each field. A bit in no field
is reserved: it reads 0 and ignores writes (00 R11). Registers of a core are at window offsets (08 R298);
the others at device addresses; TLM registers at offsets of the telemetry map (17 R565).
-/
namespace Sys2Proof.Machine

/-- Access types (00 R12). -/
inductive Access where
  | ro | rw | w1s | w1c | wo | rwl
deriving DecidableEq, Repr

/-- A field: lowest bit, width, access type. -/
structure RegField where
  lo : Nat
  n : Nat
  acc : Access
deriving DecidableEq, Repr

/-- A register row: `c1` by `c2` registers at `base + s1 i + s2 j`. -/
structure RegRow where
  base : Nat
  s1 : Nat
  c1 : Nat
  s2 : Nat
  c2 : Nat
  width : Nat
  reset : Nat
  fields : List RegField
deriving DecidableEq, Repr

/-- Address of VU_FCSR. -/
abbrev rVU_FCSR : Nat := 0x30000
/-- Address of RS_KEY. -/
abbrev rRS_KEY (i : Nat) : Nat := 0x64000 + 0x10 * i
/-- Address of RS_CTR. -/
abbrev rRS_CTR (i : Nat) : Nat := 0x64008 + 0x10 * i
/-- Address of CLAMP_UF. -/
abbrev rCLAMP_UF : Nat := 0x64100
/-- Address of CLAMP_SAT. -/
abbrev rCLAMP_SAT : Nat := 0x64108
/-- Address of CLAMP_IOVF. -/
abbrev rCLAMP_IOVF : Nat := 0x64110
/-- Address of CLAMP_CLR. -/
abbrev rCLAMP_CLR : Nat := 0x64118
/-- Address of SCT_CFG. -/
abbrev rSCT_CFG (i : Nat) : Nat := 0x60000 + 0x100 * i
/-- Address of SCT_SCALE. -/
abbrev rSCT_SCALE (i : Nat) : Nat := 0x60004 + 0x100 * i
/-- Address of SCT_STAT. -/
abbrev rSCT_STAT (i : Nat) : Nat := 0x60008 + 0x100 * i
/-- Address of SCT_AMAX. -/
abbrev rSCT_AMAX (i : Nat) : Nat := 0x6000c + 0x100 * i
/-- Address of SCT_HIST. -/
abbrev rSCT_HIST (i : Nat) (j : Nat) : Nat := 0x60040 + 0x100 * i + 4 * j
/-- Address of SCT_LINK. -/
abbrev rSCT_LINK (i : Nat) : Nat := 0x60010 + 0x100 * i
/-- Address of SCT_SHLIST. -/
abbrev rSCT_SHLIST (i : Nat) : Nat := 0x60018 + 0x100 * i
/-- Address of FE_SHIM_STAT. -/
abbrev rFE_SHIM_STAT : Nat := 0x10000
/-- Address of FE_REPAIR. -/
abbrev rFE_REPAIR : Nat := 0x10008
/-- Address of FE_BIST_CTL. -/
abbrev rFE_BIST_CTL : Nat := 0x10010
/-- Address of FE_BIST_STAT. -/
abbrev rFE_BIST_STAT : Nat := 0x10018
/-- Address of FE_STAT. -/
abbrev rFE_STAT : Nat := 0x10020
/-- Address of FE_PASS_CNT. -/
abbrev rFE_PASS_CNT : Nat := 0x10028
/-- Address of FE_MAC_CNT. -/
abbrev rFE_MAC_CNT : Nat := 0x10030
/-- Address of FE_HZD_STAT. -/
abbrev rFE_HZD_STAT : Nat := 0x10050
/-- Address of FE_HZD_TIME. -/
abbrev rFE_HZD_TIME : Nat := 0x10058
/-- Address of FE_ERR_STAT. -/
abbrev rFE_ERR_STAT : Nat := 0x10060
/-- Address of FE_HZD_CNT. -/
abbrev rFE_HZD_CNT : Nat := 0x10068
/-- Address of FE_POISON_CNT. -/
abbrev rFE_POISON_CNT : Nat := 0x10070
/-- Address of BE_SHIM_STAT. -/
abbrev rBE_SHIM_STAT : Nat := 0x20000
/-- Address of BE_REPAIR. -/
abbrev rBE_REPAIR : Nat := 0x20008
/-- Address of BE_BIST_CTL. -/
abbrev rBE_BIST_CTL : Nat := 0x20010
/-- Address of BE_BIST_STAT. -/
abbrev rBE_BIST_STAT : Nat := 0x20018
/-- Address of BE_STAT. -/
abbrev rBE_STAT : Nat := 0x20020
/-- Address of BE_PASS_CNT. -/
abbrev rBE_PASS_CNT : Nat := 0x20028
/-- Address of BE_MAC_CNT. -/
abbrev rBE_MAC_CNT : Nat := 0x20030
/-- Address of BE_HZD_STAT. -/
abbrev rBE_HZD_STAT : Nat := 0x20050
/-- Address of BE_HZD_TIME. -/
abbrev rBE_HZD_TIME : Nat := 0x20058
/-- Address of BE_ERR_STAT. -/
abbrev rBE_ERR_STAT : Nat := 0x20060
/-- Address of BE_HZD_CNT. -/
abbrev rBE_HZD_CNT : Nat := 0x20068
/-- Address of BE_POISON_CNT. -/
abbrev rBE_POISON_CNT : Nat := 0x20070
/-- Address of BE_DRW_ERR. -/
abbrev rBE_DRW_ERR : Nat := 0x20038
/-- Address of DVT_STAT. -/
abbrev rDVT_STAT : Nat := 0x20040
/-- Address of DVT_PREF_CNT. -/
abbrev rDVT_PREF_CNT : Nat := 0x20048
/-- Address of FE_LND_CTL. -/
abbrev rFE_LND_CTL (i : Nat) : Nat := 0x11040 + 0x40 * i
/-- Address of FE_LND_LVL. -/
abbrev rFE_LND_LVL (i : Nat) (j : Nat) : Nat := 0x11048 + 0x40 * i + 8 * j
/-- Address of BE_LND_CTL. -/
abbrev rBE_LND_CTL (i : Nat) : Nat := 0x21040 + 0x40 * i
/-- Address of BE_LND_LVL. -/
abbrev rBE_LND_LVL (i : Nat) (j : Nat) : Nat := 0x21048 + 0x40 * i + 8 * j
/-- Address of VU_LND_CTL. -/
abbrev rVU_LND_CTL (i : Nat) : Nat := 0x31040 + 0x40 * i
/-- Address of VU_LND_LVL. -/
abbrev rVU_LND_LVL (i : Nat) (j : Nat) : Nat := 0x31048 + 0x40 * i + 8 * j
/-- Address of KU_LND_CTL. -/
abbrev rKU_LND_CTL (i : Nat) : Nat := 0x41040 + 0x40 * i
/-- Address of KU_LND_LVL. -/
abbrev rKU_LND_LVL (i : Nat) (j : Nat) : Nat := 0x41048 + 0x40 * i + 8 * j
/-- Address of KRF_CFG. -/
abbrev rKRF_CFG : Nat := 0x40000
/-- Address of KRF_STAT. -/
abbrev rKRF_STAT : Nat := 0x40008
/-- Address of KRF_BUF_BASE. -/
abbrev rKRF_BUF_BASE : Nat := 0x40010
/-- Address of KRF_BUF_SIZE. -/
abbrev rKRF_BUF_SIZE : Nat := 0x40018
/-- Address of KRF_VR_BASE. -/
abbrev rKRF_VR_BASE : Nat := 0x40020
/-- Address of KRF_VR_WR. -/
abbrev rKRF_VR_WR : Nat := 0x40024
/-- Address of KRF_VR_RD. -/
abbrev rKRF_VR_RD : Nat := 0x40028
/-- Address of KRF_TILE_CNT. -/
abbrev rKRF_TILE_CNT : Nat := 0x40030
/-- Address of KRF_PASS_CNT. -/
abbrev rKRF_PASS_CNT : Nat := 0x40038
/-- Address of KRF_WARN_CNT. -/
abbrev rKRF_WARN_CNT : Nat := 0x40040
/-- Address of KRF_REJ_CNT. -/
abbrev rKRF_REJ_CNT : Nat := 0x40048
/-- Address of KRF_FORCED_CNT. -/
abbrev rKRF_FORCED_CNT : Nat := 0x40050
/-- Address of KRF_GFB_CNT. -/
abbrev rKRF_GFB_CNT : Nat := 0x40058
/-- Address of KRF_MAC_CNT. -/
abbrev rKRF_MAC_CNT : Nat := 0x40060
/-- Address of LT_CFG. -/
abbrev rLT_CFG (i : Nat) : Nat := 0x50000 + 0x40 * i
/-- Address of LT_RUNGS. -/
abbrev rLT_RUNGS (i : Nat) : Nat := 0x50004 + 0x40 * i
/-- Address of LT_TWARN. -/
abbrev rLT_TWARN (i : Nat) : Nat := 0x50008 + 0x40 * i
/-- Address of LT_TREJ. -/
abbrev rLT_TREJ (i : Nat) : Nat := 0x5000c + 0x40 * i
/-- Address of LT_FLOOR. -/
abbrev rLT_FLOOR (i : Nat) : Nat := 0x50010 + 0x40 * i
/-- Address of LT_VHOME. -/
abbrev rLT_VHOME (i : Nat) : Nat := 0x50014 + 0x40 * i
/-- Address of LT_VCOUNT. -/
abbrev rLT_VCOUNT (i : Nat) : Nat := 0x50018 + 0x40 * i
/-- Address of LT_SLOTS. -/
abbrev rLT_SLOTS (i : Nat) : Nat := 0x50020 + 0x40 * i
/-- Address of QE_CFG. -/
abbrev rQE_CFG (i : Nat) : Nat := 0x1000 + 0x10 * i
/-- Address of QE_STAT. -/
abbrev rQE_STAT (i : Nat) : Nat := 0x1008 + 0x10 * i
/-- Address of SEQ_CTL. -/
abbrev rSEQ_CTL : Nat := 0
/-- Address of SEQ_STAT. -/
abbrev rSEQ_STAT : Nat := 4
/-- Address of SEQ_INFL. -/
abbrev rSEQ_INFL : Nat := 8
/-- Address of SEQ_STALL_CNT. -/
abbrev rSEQ_STALL_CNT : Nat := 0x10
/-- Address of SEQ_CTBCMP. -/
abbrev rSEQ_CTBCMP : Nat := 0x18
/-- Address of SEQ_ECC. -/
abbrev rSEQ_ECC : Nat := 0x20
/-- Address of MSG_STAT. -/
abbrev rMSG_STAT : Nat := 0x2400
/-- Address of MSG_SEND_CNT. -/
abbrev rMSG_SEND_CNT : Nat := 0x2408
/-- Address of MSG_RECV_CNT. -/
abbrev rMSG_RECV_CNT : Nat := 0x2410
/-- Address of MSG_ERR. -/
abbrev rMSG_ERR : Nat := 0x2418
/-- Address of TL_LATE_CNT. -/
abbrev rTL_LATE_CNT : Nat := 0x2420
/-- Address of TL_LATE_MAX. -/
abbrev rTL_LATE_MAX : Nat := 0x2428
/-- Address of BAR_CFG. -/
abbrev rBAR_CFG (i : Nat) : Nat := 0x2000 + 0x40 * i
/-- Address of BAR_STAT. -/
abbrev rBAR_STAT (i : Nat) : Nat := 0x2008 + 0x40 * i
/-- Address of BAR_PLIST. -/
abbrev rBAR_PLIST (i : Nat) : Nat := 0x2010 + 0x40 * i
/-- Address of BAR_MASK. -/
abbrev rBAR_MASK (i : Nat) (j : Nat) : Nat := 0x2020 + 0x40 * i + 8 * j
/-- Address of PROG_LIMIT. -/
abbrev rPROG_LIMIT : Nat := 0x2440
/-- Address of PROG_STAT. -/
abbrev rPROG_STAT : Nat := 0x2448
/-- Address of CFC_STAT. -/
abbrev rCFC_STAT : Nat := 0x2450
/-- Address of CFC_ACK. -/
abbrev rCFC_ACK : Nat := 0x2454
/-- Address of CMBX_DB. -/
abbrev rCMBX_DB : Nat := 0x80000
/-- Address of CMBX_MASK. -/
abbrev rCMBX_MASK : Nat := 0x80004
/-- Address of CMBX_PEND. -/
abbrev rCMBX_PEND : Nat := 0x80008
/-- Address of CMBX_DB_R. -/
abbrev rCMBX_DB_R : Nat := 0x80010
/-- Address of CMBX_MASK_R. -/
abbrev rCMBX_MASK_R : Nat := 0x80014
/-- Address of CMBX_PEND_R. -/
abbrev rCMBX_PEND_R : Nat := 0x80018
/-- Address of CTB_NOW. -/
abbrev rCTB_NOW : Nat := 0x20000010000
/-- Address of CTB_STAT. -/
abbrev rCTB_STAT : Nat := 0x20000010008
/-- Address of CTB_TRIM. -/
abbrev rCTB_TRIM : Nat := 0x20000010010
/-- Address of CTB_ADJ_CNT. -/
abbrev rCTB_ADJ_CNT : Nat := 0x20000010018
/-- Address of FAB_MAP. -/
abbrev rFAB_MAP (i : Nat) : Nat := 0x20000020000 + 4 * i
/-- Address of FAB_BYP. -/
abbrev rFAB_BYP (i : Nat) : Nat := 0x20000020400 + 8 * i
/-- Address of FAB_ERR_CNT. -/
abbrev rFAB_ERR_CNT : Nat := 0x20000020500
/-- Address of FAB_ERR. -/
abbrev rFAB_ERR : Nat := 0x20000020508
/-- Address of CXL_CFG. -/
abbrev rCXL_CFG : Nat := 0x20000200000
/-- Address of CXL_MAP. -/
abbrev rCXL_MAP : Nat := 0x20000200004
/-- Address of CXL_STAT. -/
abbrev rCXL_STAT : Nat := 0x20000200008
/-- Address of MEM_STAT. -/
abbrev rMEM_STAT : Nat := 0x20000040000
/-- Address of MEM_TOP. -/
abbrev rMEM_TOP : Nat := 0x20000040008
/-- Address of MEM_RESV. -/
abbrev rMEM_RESV : Nat := 0x20000040010
/-- Address of MEM_RETIRE. -/
abbrev rMEM_RETIRE : Nat := 0x20000040018
/-- Address of MEM_MIG. -/
abbrev rMEM_MIG : Nat := 0x20000040020
/-- Address of MEM_JOBST. -/
abbrev rMEM_JOBST : Nat := 0x20000040028
/-- Address of MEM_RET. -/
abbrev rMEM_RET (i : Nat) : Nat := 0x20000040100 + 4 * i
/-- Address of MEM_RGN_BASE. -/
abbrev rMEM_RGN_BASE (i : Nat) : Nat := 0x20000041000 + 0x20 * i
/-- Address of MEM_RGN_LIMIT. -/
abbrev rMEM_RGN_LIMIT (i : Nat) : Nat := 0x20000041008 + 0x20 * i
/-- Address of MEM_RGN_CTL. -/
abbrev rMEM_RGN_CTL (i : Nat) : Nat := 0x20000041010 + 0x20 * i
/-- Address of MC_STAT. -/
abbrev rMC_STAT (i : Nat) : Nat := 0x20000080000 + 0x1000 * i
/-- Address of MC_SCRUB. -/
abbrev rMC_SCRUB (i : Nat) : Nat := 0x20000080008 + 0x1000 * i
/-- Address of MC_CH_ECC. -/
abbrev rMC_CH_ECC (i : Nat) (j : Nat) : Nat := 0x20000080100 + 0x1000 * i + 8 * j
/-- Address of STH_RING. -/
abbrev rSTH_RING (i : Nat) (j : Nat) : Nat := 0x20000100000 + 0x10000 * i + 0x100 * j
/-- Address of STH_SIZE. -/
abbrev rSTH_SIZE (i : Nat) (j : Nat) : Nat := 0x20000100008 + 0x10000 * i + 0x100 * j
/-- Address of STH_SPILL. -/
abbrev rSTH_SPILL (i : Nat) (j : Nat) : Nat := 0x20000100010 + 0x10000 * i + 0x100 * j
/-- Address of STH_WM. -/
abbrev rSTH_WM (i : Nat) (j : Nat) : Nat := 0x20000100018 + 0x10000 * i + 0x100 * j
/-- Address of STH_CFG. -/
abbrev rSTH_CFG (i : Nat) (j : Nat) : Nat := 0x20000100020 + 0x10000 * i + 0x100 * j
/-- Address of STH_HOLDMAX. -/
abbrev rSTH_HOLDMAX (i : Nat) (j : Nat) : Nat := 0x20000100024 + 0x10000 * i + 0x100 * j
/-- Address of STH_STAT. -/
abbrev rSTH_STAT (i : Nat) (j : Nat) : Nat := 0x20000100028 + 0x10000 * i + 0x100 * j
/-- Address of STH_ERR. -/
abbrev rSTH_ERR (i : Nat) (j : Nat) : Nat := 0x20000100030 + 0x10000 * i + 0x100 * j
/-- Address of STH_DROP_CNT. -/
abbrev rSTH_DROP_CNT (i : Nat) (j : Nat) : Nat := 0x20000100038 + 0x10000 * i + 0x100 * j
/-- Address of STH_SPILL_CNT. -/
abbrev rSTH_SPILL_CNT (i : Nat) (j : Nat) : Nat := 0x20000100040 + 0x10000 * i + 0x100 * j
/-- Address of STH_PF_CNT. -/
abbrev rSTH_PF_CNT (i : Nat) (j : Nat) : Nat := 0x20000100048 + 0x10000 * i + 0x100 * j
/-- Address of STH_PF_MISS_CNT. -/
abbrev rSTH_PF_MISS_CNT (i : Nat) (j : Nat) : Nat := 0x20000100050 + 0x10000 * i + 0x100 * j
/-- Address of STH_HOLD_CNT. -/
abbrev rSTH_HOLD_CNT (i : Nat) (j : Nat) : Nat := 0x20000100058 + 0x10000 * i + 0x100 * j
/-- Address of STH_HOLD_LONG. -/
abbrev rSTH_HOLD_LONG (i : Nat) (j : Nat) : Nat := 0x20000100060 + 0x10000 * i + 0x100 * j
/-- Address of SL_CTL. -/
abbrev rSL_CTL (i : Nat) (j : Nat) : Nat := 0x20000300000 + 0x10000 * i + 0x1000 * j
/-- Address of SL_STAT. -/
abbrev rSL_STAT (i : Nat) (j : Nat) : Nat := 0x20000300008 + 0x10000 * i + 0x1000 * j
/-- Address of SL_DOWN. -/
abbrev rSL_DOWN (i : Nat) (j : Nat) : Nat := 0x20000300010 + 0x10000 * i + 0x1000 * j
/-- Address of SL_DOWN_TIME. -/
abbrev rSL_DOWN_TIME (i : Nat) (j : Nat) : Nat := 0x20000300018 + 0x10000 * i + 0x1000 * j
/-- Address of SL_LAT. -/
abbrev rSL_LAT (i : Nat) (j : Nat) : Nat := 0x20000300040 + 0x10000 * i + 0x1000 * j
/-- Address of SL_FEC_CNT. -/
abbrev rSL_FEC_CNT (i : Nat) (j : Nat) : Nat := 0x20000300020 + 0x10000 * i + 0x1000 * j
/-- Address of SL_RPL_CNT. -/
abbrev rSL_RPL_CNT (i : Nat) (j : Nat) : Nat := 0x20000300028 + 0x10000 * i + 0x1000 * j
/-- Address of SL_TXF_CNT. -/
abbrev rSL_TXF_CNT (i : Nat) (j : Nat) : Nat := 0x20000300030 + 0x10000 * i + 0x1000 * j
/-- Address of SL_RXF_CNT. -/
abbrev rSL_RXF_CNT (i : Nat) (j : Nat) : Nat := 0x20000300038 + 0x10000 * i + 0x1000 * j
/-- Address of SL_ID. -/
abbrev rSL_ID : Nat := 0x20000400000
/-- Address of SL_FWD_CNT. -/
abbrev rSL_FWD_CNT : Nat := 0x20000400008
/-- Address of SL_DISC_CNT. -/
abbrev rSL_DISC_CNT : Nat := 0x20000400010
/-- Address of SL_RT. -/
abbrev rSL_RT (i : Nat) : Nat := 0x20000401000 + 4 * i
/-- Address of TS_CFG. -/
abbrev rTS_CFG : Nat := 0x20000480000
/-- Address of TS_STAT. -/
abbrev rTS_STAT : Nat := 0x20000480008
/-- Address of TS_OFFS. -/
abbrev rTS_OFFS : Nat := 0x20000480010
/-- Address of TS_EXCH_CNT. -/
abbrev rTS_EXCH_CNT : Nat := 0x20000480018
/-- Address of SMMBX_DB. -/
abbrev rSMMBX_DB : Nat := 0x20000500000
/-- Address of SMMBX_MASK. -/
abbrev rSMMBX_MASK : Nat := 0x20000500004
/-- Address of SMMBX_PEND. -/
abbrev rSMMBX_PEND : Nat := 0x20000500008
/-- Address of SMMBX_DB_R. -/
abbrev rSMMBX_DB_R : Nat := 0x20000500010
/-- Address of SMMBX_MASK_R. -/
abbrev rSMMBX_MASK_R : Nat := 0x20000500014
/-- Address of SMMBX_PEND_R. -/
abbrev rSMMBX_PEND_R : Nat := 0x20000500018
/-- Address of EMMBX_DB. -/
abbrev rEMMBX_DB : Nat := 0x20000501000
/-- Address of EMMBX_MASK. -/
abbrev rEMMBX_MASK : Nat := 0x20000501004
/-- Address of EMMBX_PEND. -/
abbrev rEMMBX_PEND : Nat := 0x20000501008
/-- Address of EMMBX_DB_R. -/
abbrev rEMMBX_DB_R : Nat := 0x20000501010
/-- Address of EMMBX_MASK_R. -/
abbrev rEMMBX_MASK_R : Nat := 0x20000501014
/-- Address of EMMBX_PEND_R. -/
abbrev rEMMBX_PEND_R : Nat := 0x20000501018
/-- Address of AMMBX_DB. -/
abbrev rAMMBX_DB : Nat := 0x20000502000
/-- Address of AMMBX_MASK. -/
abbrev rAMMBX_MASK : Nat := 0x20000502004
/-- Address of AMMBX_PEND. -/
abbrev rAMMBX_PEND : Nat := 0x20000502008
/-- Address of AMMBX_DB_R. -/
abbrev rAMMBX_DB_R : Nat := 0x20000502010
/-- Address of AMMBX_MASK_R. -/
abbrev rAMMBX_MASK_R : Nat := 0x20000502014
/-- Address of AMMBX_PEND_R. -/
abbrev rAMMBX_PEND_R : Nat := 0x20000502018
/-- Address of XMMBX_DB. -/
abbrev rXMMBX_DB (i : Nat) : Nat := 0x20000508000 + 0x1000 * i
/-- Address of XMMBX_MASK. -/
abbrev rXMMBX_MASK (i : Nat) : Nat := 0x20000508004 + 0x1000 * i
/-- Address of XMMBX_PEND. -/
abbrev rXMMBX_PEND (i : Nat) : Nat := 0x20000508008 + 0x1000 * i
/-- Address of XMMBX_DB_R. -/
abbrev rXMMBX_DB_R (i : Nat) : Nat := 0x20000508010 + 0x1000 * i
/-- Address of XMMBX_MASK_R. -/
abbrev rXMMBX_MASK_R (i : Nat) : Nat := 0x20000508014 + 0x1000 * i
/-- Address of XMMBX_PEND_R. -/
abbrev rXMMBX_PEND_R (i : Nat) : Nat := 0x20000508018 + 0x1000 * i
/-- Address of MBX_ROLE. -/
abbrev rMBX_ROLE : Nat := 0x20000510000
/-- Address of MBX_CL_CFG. -/
abbrev rMBX_CL_CFG (i : Nat) : Nat := 0x20000510100 + 4 * i
/-- Address of FLT_CHIP_STAT0. -/
abbrev rFLT_CHIP_STAT0 : Nat := 0x20000600000
/-- Address of FLT_CHIP_STAT1. -/
abbrev rFLT_CHIP_STAT1 : Nat := 0x20000600008
/-- Address of FLT_FIRST. -/
abbrev rFLT_FIRST : Nat := 0x20000600010
/-- Address of FLT_FIRST_TIME. -/
abbrev rFLT_FIRST_TIME : Nat := 0x20000600018
/-- Address of FLT_ACK. -/
abbrev rFLT_ACK : Nat := 0x20000600020
/-- Address of FLT_CTL. -/
abbrev rFLT_CTL : Nat := 0x20000600028
/-- Address of FLT_RST_CAUSE. -/
abbrev rFLT_RST_CAUSE : Nat := 0x20000600030
/-- Address of FLT_RST_TIME. -/
abbrev rFLT_RST_TIME : Nat := 0x20000600038
/-- Address of FLT_LOG_BASE. -/
abbrev rFLT_LOG_BASE : Nat := 0x20000600040
/-- Address of FLT_LOG_WR. -/
abbrev rFLT_LOG_WR : Nat := 0x20000600048
/-- Address of FLT_BENCH_STAT. -/
abbrev rFLT_BENCH_STAT (i : Nat) : Nat := 0x20000601000 + 4 * i
/-- Address of FLT_CFG. -/
abbrev rFLT_CFG (i : Nat) : Nat := 0x20000610000 + 0x10 * i
/-- Address of FLT_SRC. -/
abbrev rFLT_SRC (i : Nat) : Nat := 0x20000610008 + 0x10 * i
/-- Address of FLT_SUBM. -/
abbrev rFLT_SUBM (i : Nat) : Nat := 0x20000630000 + 8 * i
/-- Address of FLT_SUBL. -/
abbrev rFLT_SUBL (i : Nat) : Nat := 0x20000631000 + 8 * i
/-- Address of SNP_CTL. -/
abbrev rSNP_CTL : Nat := 0x20000700000
/-- Address of SNP_CAD. -/
abbrev rSNP_CAD : Nat := 0x20000700008
/-- Address of SNP_STAGE_BASE. -/
abbrev rSNP_STAGE_BASE : Nat := 0x20000700010
/-- Address of SNP_STAGE_SIZE. -/
abbrev rSNP_STAGE_SIZE : Nat := 0x20000700018
/-- Address of SNP_STAT. -/
abbrev rSNP_STAT : Nat := 0x20000700020
/-- Address of SNP_LAST. -/
abbrev rSNP_LAST (i : Nat) : Nat := 0x20000700028 + 8 * i
/-- Address of SNP_COW_CNT. -/
abbrev rSNP_COW_CNT : Nat := 0x20000700040
/-- Address of SNP_PAGE_CNT. -/
abbrev rSNP_PAGE_CNT : Nat := 0x20000700048
/-- Address of SNP_HOLD_CNT. -/
abbrev rSNP_HOLD_CNT : Nat := 0x20000700050
/-- Address of SNP_ABORT_CNT. -/
abbrev rSNP_ABORT_CNT : Nat := 0x20000700058
/-- Address of EN_ENV. -/
abbrev rEN_ENV : Nat := 0x20000800000
/-- Address of EN_ENV_STEP. -/
abbrev rEN_ENV_STEP : Nat := 0x20000800008
/-- Address of EN_POOL. -/
abbrev rEN_POOL : Nat := 0x20000800010
/-- Address of EN_PKG_E. -/
abbrev rEN_PKG_E : Nat := 0x20000800018
/-- Address of EN_PKG_P. -/
abbrev rEN_PKG_P : Nat := 0x20000800020
/-- Address of EN_CAL. -/
abbrev rEN_CAL : Nat := 0x20000800024
/-- Address of EN_STAT. -/
abbrev rEN_STAT : Nat := 0x20000800028
/-- Address of EN_GRANT_CNT. -/
abbrev rEN_GRANT_CNT : Nat := 0x20000800030
/-- Address of EN_DEFER_CNT. -/
abbrev rEN_DEFER_CNT : Nat := 0x20000800038
/-- Address of EN_DEFER_MAX. -/
abbrev rEN_DEFER_MAX : Nat := 0x20000800040
/-- Address of EN_EXCEED_CNT. -/
abbrev rEN_EXCEED_CNT : Nat := 0x20000800044
/-- Address of EN_B_E. -/
abbrev rEN_B_E (i : Nat) : Nat := 0x20000801000 + 0x10 * i
/-- Address of EN_B_PT. -/
abbrev rEN_B_PT (i : Nat) : Nat := 0x20000801008 + 0x10 * i
/-- Address of SEC_STAT. -/
abbrev rSEC_STAT : Nat := 0x20000900000
/-- Address of SEC_BOOTCNT. -/
abbrev rSEC_BOOTCNT : Nat := 0x20000900004
/-- Address of SEC_HWTYPE. -/
abbrev rSEC_HWTYPE : Nat := 0x20000900008
/-- Address of SEC_BOOT_MS. -/
abbrev rSEC_BOOT_MS : Nat := 0x2000090000c
/-- Address of SEC_SVN. -/
abbrev rSEC_SVN (i : Nat) : Nat := 0x20000900010 + 4 * i
/-- Address of SEC_PVIOL_CNT. -/
abbrev rSEC_PVIOL_CNT : Nat := 0x20000900020
/-- Address of SEC_STAGE_ID. -/
abbrev rSEC_STAGE_ID : Nat := 0x20000900028
/-- Address of SEC_UPD. -/
abbrev rSEC_UPD : Nat := 0x20000900030
/-- Address of SEC_FP. -/
abbrev rSEC_FP (i : Nat) : Nat := 0x20000900040 + 8 * i
/-- Address of SEC_MEAS. -/
abbrev rSEC_MEAS (i : Nat) (j : Nat) : Nat := 0x20000900100 + 0x40 * i + 8 * j
/-- Address of TLM_ID. -/
abbrev rTLM_ID : Nat := 0
/-- Address of TLM_STATE. -/
abbrev rTLM_STATE : Nat := 4
/-- Address of TLM_PWR. -/
abbrev rTLM_PWR : Nat := 8
/-- Address of TLM_TEMP. -/
abbrev rTLM_TEMP : Nat := 0xc
/-- Address of TLM_VIN. -/
abbrev rTLM_VIN : Nat := 0x10
/-- Address of TLM_FIRST. -/
abbrev rTLM_FIRST : Nat := 0x14
/-- Address of TLM_BOOTCNT. -/
abbrev rTLM_BOOTCNT : Nat := 0x18

def coreRegs0 : List RegRow :=
  [⟨0x30000, 0, 1, 0, 1, 32, 0, [⟨0, 3, .rw⟩, ⟨3, 1, .w1c⟩, ⟨4, 1, .w1c⟩, ⟨5, 1, .w1c⟩, ⟨6, 1, .w1c⟩, ⟨7, 1, .w1c⟩, ⟨8, 24, .ro⟩]⟩,
   ⟨0x64000, 0x10, 4, 0, 1, 64, 0, [⟨0, 64, .rw⟩]⟩,
   ⟨0x64008, 0x10, 4, 0, 1, 64, 0, [⟨0, 64, .rw⟩]⟩,
   ⟨0x64100, 0, 1, 0, 1, 64, 0, [⟨0, 64, .ro⟩]⟩,
   ⟨0x64108, 0, 1, 0, 1, 64, 0, [⟨0, 64, .ro⟩]⟩,
   ⟨0x64110, 0, 1, 0, 1, 64, 0, [⟨0, 64, .ro⟩]⟩,
   ⟨0x64118, 0, 1, 0, 1, 64, 0, [⟨0, 3, .wo⟩, ⟨3, 61, .wo⟩]⟩,
   ⟨0x60000, 0x100, 64, 0, 1, 32, 0x1000, [⟨0, 3, .rw⟩, ⟨3, 5, .ro⟩, ⟨8, 5, .rw⟩, ⟨13, 3, .ro⟩, ⟨16, 4, .rw⟩, ⟨20, 1, .rw⟩, ⟨21, 3, .ro⟩, ⟨24, 8, .rw⟩]⟩,
   ⟨0x60004, 0x100, 64, 0, 1, 32, 0x3f800000, [⟨0, 32, .rw⟩]⟩,
   ⟨0x60008, 0x100, 64, 0, 1, 32, 1, [⟨0, 1, .ro⟩, ⟨1, 1, .ro⟩, ⟨2, 1, .ro⟩, ⟨3, 1, .ro⟩, ⟨4, 5, .ro⟩, ⟨9, 1, .ro⟩, ⟨10, 1, .ro⟩, ⟨11, 1, .ro⟩, ⟨12, 4, .ro⟩, ⟨16, 16, .ro⟩]⟩,
   ⟨0x6000c, 0x100, 64, 0, 1, 32, 0, [⟨0, 32, .ro⟩]⟩,
   ⟨0x60040, 0x100, 64, 4, 16, 32, 0, [⟨0, 32, .rw⟩]⟩]

def coreRegs1 : List RegRow :=
  [⟨0x60010, 0x100, 64, 0, 1, 64, 0, [⟨0, 4, .rw⟩, ⟨4, 4, .rw⟩, ⟨8, 12, .rw⟩, ⟨20, 6, .rw⟩, ⟨26, 5, .ro⟩, ⟨31, 1, .rw⟩, ⟨32, 32, .ro⟩]⟩,
   ⟨0x60018, 0x100, 64, 0, 1, 64, 0, [⟨0, 22, .rw⟩, ⟨22, 10, .ro⟩, ⟨32, 13, .rw⟩, ⟨45, 19, .ro⟩]⟩,
   ⟨0x10000, 0, 1, 0, 1, 32, 0x3f3f3f3f, [⟨0, 6, .ro⟩, ⟨8, 6, .ro⟩, ⟨16, 6, .ro⟩, ⟨24, 6, .ro⟩, ⟨6, 1, .ro⟩, ⟨14, 1, .ro⟩, ⟨22, 1, .ro⟩, ⟨30, 1, .ro⟩, ⟨7, 1, .ro⟩, ⟨15, 1, .ro⟩, ⟨23, 1, .ro⟩, ⟨31, 1, .ro⟩]⟩,
   ⟨0x10008, 0, 1, 0, 1, 32, 0x3f3f3f3f, [⟨0, 6, .rw⟩, ⟨8, 6, .rw⟩, ⟨16, 6, .rw⟩, ⟨24, 6, .rw⟩, ⟨6, 2, .ro⟩, ⟨14, 2, .ro⟩, ⟨22, 2, .ro⟩, ⟨30, 2, .ro⟩]⟩,
   ⟨0x10010, 0, 1, 0, 1, 32, 0, [⟨0, 1, .wo⟩, ⟨1, 31, .wo⟩]⟩,
   ⟨0x10018, 0, 1, 0, 1, 64, 0x3f003f003f003f, [⟨0, 6, .ro⟩, ⟨16, 6, .ro⟩, ⟨32, 6, .ro⟩, ⟨48, 6, .ro⟩, ⟨6, 6, .ro⟩, ⟨22, 6, .ro⟩, ⟨38, 6, .ro⟩, ⟨54, 6, .ro⟩, ⟨12, 1, .ro⟩, ⟨28, 1, .ro⟩, ⟨44, 1, .ro⟩, ⟨60, 1, .ro⟩, ⟨13, 3, .ro⟩, ⟨29, 3, .ro⟩, ⟨45, 3, .ro⟩, ⟨61, 3, .ro⟩]⟩,
   ⟨0x10020, 0, 1, 0, 1, 32, 0, [⟨0, 7, .ro⟩, ⟨7, 3, .ro⟩, ⟨10, 1, .ro⟩, ⟨11, 1, .w1c⟩, ⟨12, 20, .ro⟩]⟩,
   ⟨0x10028, 0, 1, 0, 1, 64, 0, [⟨0, 64, .ro⟩]⟩,
   ⟨0x10030, 0, 1, 0, 1, 64, 0, [⟨0, 64, .ro⟩]⟩,
   ⟨0x10050, 0, 1, 0, 1, 64, 0, [⟨0, 18, .ro⟩, ⟨18, 3, .ro⟩, ⟨21, 5, .ro⟩, ⟨26, 5, .ro⟩, ⟨31, 1, .ro⟩, ⟨32, 16, .ro⟩, ⟨48, 14, .ro⟩, ⟨62, 1, .ro⟩, ⟨63, 1, .w1c⟩]⟩,
   ⟨0x10058, 0, 1, 0, 1, 64, 0, [⟨0, 64, .ro⟩]⟩,
   ⟨0x10060, 0, 1, 0, 1, 64, 0, [⟨0, 18, .ro⟩, ⟨18, 4, .ro⟩, ⟨22, 40, .ro⟩, ⟨62, 1, .ro⟩, ⟨63, 1, .w1c⟩]⟩]

def coreRegs2 : List RegRow :=
  [⟨0x10068, 0, 1, 0, 1, 64, 0, [⟨0, 64, .ro⟩]⟩,
   ⟨0x10070, 0, 1, 0, 1, 64, 0, [⟨0, 64, .ro⟩]⟩,
   ⟨0x20000, 0, 1, 0, 1, 32, 0x3f3f3f3f, [⟨0, 6, .ro⟩, ⟨8, 6, .ro⟩, ⟨16, 6, .ro⟩, ⟨24, 6, .ro⟩, ⟨6, 1, .ro⟩, ⟨14, 1, .ro⟩, ⟨22, 1, .ro⟩, ⟨30, 1, .ro⟩, ⟨7, 1, .ro⟩, ⟨15, 1, .ro⟩, ⟨23, 1, .ro⟩, ⟨31, 1, .ro⟩]⟩,
   ⟨0x20008, 0, 1, 0, 1, 32, 0x3f3f3f3f, [⟨0, 6, .rw⟩, ⟨8, 6, .rw⟩, ⟨16, 6, .rw⟩, ⟨24, 6, .rw⟩, ⟨6, 2, .ro⟩, ⟨14, 2, .ro⟩, ⟨22, 2, .ro⟩, ⟨30, 2, .ro⟩]⟩,
   ⟨0x20010, 0, 1, 0, 1, 32, 0, [⟨0, 1, .wo⟩, ⟨1, 31, .wo⟩]⟩,
   ⟨0x20018, 0, 1, 0, 1, 64, 0x3f003f003f003f, [⟨0, 6, .ro⟩, ⟨16, 6, .ro⟩, ⟨32, 6, .ro⟩, ⟨48, 6, .ro⟩, ⟨6, 6, .ro⟩, ⟨22, 6, .ro⟩, ⟨38, 6, .ro⟩, ⟨54, 6, .ro⟩, ⟨12, 1, .ro⟩, ⟨28, 1, .ro⟩, ⟨44, 1, .ro⟩, ⟨60, 1, .ro⟩, ⟨13, 3, .ro⟩, ⟨29, 3, .ro⟩, ⟨45, 3, .ro⟩, ⟨61, 3, .ro⟩]⟩,
   ⟨0x20020, 0, 1, 0, 1, 32, 0, [⟨0, 7, .ro⟩, ⟨7, 3, .ro⟩, ⟨10, 1, .ro⟩, ⟨11, 1, .w1c⟩, ⟨12, 20, .ro⟩]⟩,
   ⟨0x20028, 0, 1, 0, 1, 64, 0, [⟨0, 64, .ro⟩]⟩,
   ⟨0x20030, 0, 1, 0, 1, 64, 0, [⟨0, 64, .ro⟩]⟩,
   ⟨0x20050, 0, 1, 0, 1, 64, 0, [⟨0, 18, .ro⟩, ⟨18, 3, .ro⟩, ⟨21, 5, .ro⟩, ⟨26, 5, .ro⟩, ⟨31, 1, .ro⟩, ⟨32, 16, .ro⟩, ⟨48, 14, .ro⟩, ⟨62, 1, .ro⟩, ⟨63, 1, .w1c⟩]⟩,
   ⟨0x20058, 0, 1, 0, 1, 64, 0, [⟨0, 64, .ro⟩]⟩,
   ⟨0x20060, 0, 1, 0, 1, 64, 0, [⟨0, 18, .ro⟩, ⟨18, 4, .ro⟩, ⟨22, 40, .ro⟩, ⟨62, 1, .ro⟩, ⟨63, 1, .w1c⟩]⟩]

def coreRegs3 : List RegRow :=
  [⟨0x20068, 0, 1, 0, 1, 64, 0, [⟨0, 64, .ro⟩]⟩,
   ⟨0x20070, 0, 1, 0, 1, 64, 0, [⟨0, 64, .ro⟩]⟩,
   ⟨0x20038, 0, 1, 0, 1, 64, 0, [⟨0, 48, .ro⟩, ⟨48, 3, .ro⟩, ⟨51, 1, .ro⟩, ⟨52, 11, .ro⟩, ⟨63, 1, .w1c⟩]⟩,
   ⟨0x20040, 0, 1, 0, 1, 32, 0, [⟨0, 4, .ro⟩, ⟨4, 4, .ro⟩, ⟨8, 1, .ro⟩, ⟨9, 1, .ro⟩, ⟨10, 1, .ro⟩, ⟨11, 21, .ro⟩]⟩,
   ⟨0x20048, 0, 1, 0, 1, 64, 0, [⟨0, 64, .ro⟩]⟩,
   ⟨0x11040, 0x40, 15, 0, 1, 32, 0x10000, [⟨0, 3, .rw⟩, ⟨3, 13, .ro⟩, ⟨16, 16, .rw⟩]⟩,
   ⟨0x11048, 0x40, 15, 8, 6, 64, 0, [⟨0, 16, .rw⟩, ⟨16, 12, .rw⟩, ⟨28, 12, .rw⟩, ⟨40, 12, .rw⟩, ⟨52, 12, .rw⟩]⟩,
   ⟨0x21040, 0x40, 15, 0, 1, 32, 0x10000, [⟨0, 3, .rw⟩, ⟨3, 13, .ro⟩, ⟨16, 16, .rw⟩]⟩,
   ⟨0x21048, 0x40, 15, 8, 6, 64, 0, [⟨0, 16, .rw⟩, ⟨16, 12, .rw⟩, ⟨28, 12, .rw⟩, ⟨40, 12, .rw⟩, ⟨52, 12, .rw⟩]⟩,
   ⟨0x31040, 0x40, 15, 0, 1, 32, 0x10000, [⟨0, 3, .rw⟩, ⟨3, 13, .ro⟩, ⟨16, 16, .rw⟩]⟩,
   ⟨0x31048, 0x40, 15, 8, 6, 64, 0, [⟨0, 16, .rw⟩, ⟨16, 12, .rw⟩, ⟨28, 12, .rw⟩, ⟨40, 12, .rw⟩, ⟨52, 12, .rw⟩]⟩,
   ⟨0x41040, 0x40, 15, 0, 1, 32, 0x10000, [⟨0, 3, .rw⟩, ⟨3, 13, .ro⟩, ⟨16, 16, .rw⟩]⟩]

def coreRegs4 : List RegRow :=
  [⟨0x41048, 0x40, 15, 8, 6, 64, 0, [⟨0, 16, .rw⟩, ⟨16, 12, .rw⟩, ⟨28, 12, .rw⟩, ⟨40, 12, .rw⟩, ⟨52, 12, .rw⟩]⟩,
   ⟨0x40000, 0, 1, 0, 1, 32, 4, [⟨0, 8, .rw⟩, ⟨8, 1, .rw⟩, ⟨9, 23, .ro⟩]⟩,
   ⟨0x40008, 0, 1, 0, 1, 32, 0, [⟨0, 3, .ro⟩, ⟨3, 13, .ro⟩, ⟨16, 1, .ro⟩, ⟨17, 1, .ro⟩, ⟨18, 14, .ro⟩]⟩,
   ⟨0x40010, 0, 1, 0, 1, 64, 0, [⟨0, 48, .rw⟩, ⟨48, 16, .ro⟩]⟩,
   ⟨0x40018, 0, 1, 0, 1, 32, 1, [⟨0, 16, .rw⟩, ⟨16, 16, .ro⟩]⟩,
   ⟨0x40020, 0, 1, 0, 1, 32, 0, [⟨0, 22, .rw⟩, ⟨22, 10, .ro⟩]⟩,
   ⟨0x40024, 0, 1, 0, 1, 32, 0, [⟨0, 6, .ro⟩, ⟨6, 26, .ro⟩]⟩,
   ⟨0x40028, 0, 1, 0, 1, 32, 0, [⟨0, 6, .rw⟩, ⟨6, 26, .ro⟩]⟩,
   ⟨0x40030, 0, 1, 0, 1, 64, 0, [⟨0, 64, .ro⟩]⟩,
   ⟨0x40038, 0, 1, 0, 1, 64, 0, [⟨0, 64, .ro⟩]⟩,
   ⟨0x40040, 0, 1, 0, 1, 64, 0, [⟨0, 64, .ro⟩]⟩,
   ⟨0x40048, 0, 1, 0, 1, 64, 0, [⟨0, 64, .ro⟩]⟩]

def coreRegs5 : List RegRow :=
  [⟨0x40050, 0, 1, 0, 1, 64, 0, [⟨0, 64, .ro⟩]⟩,
   ⟨0x40058, 0, 1, 0, 1, 64, 0, [⟨0, 64, .ro⟩]⟩,
   ⟨0x40060, 0, 1, 0, 1, 64, 0, [⟨0, 64, .ro⟩]⟩,
   ⟨0x50000, 0x40, 1024, 0, 1, 32, 0x2000800, [⟨0, 1, .rw⟩, ⟨1, 1, .rw⟩, ⟨2, 2, .rw⟩, ⟨4, 2, .rw⟩, ⟨6, 8, .rw⟩, ⟨14, 8, .rw⟩, ⟨22, 4, .rw⟩, ⟨26, 6, .ro⟩]⟩,
   ⟨0x50004, 0x40, 1024, 0, 1, 32, 0x3030303, [⟨0, 5, .rw⟩, ⟨8, 5, .rw⟩, ⟨16, 5, .rw⟩, ⟨24, 5, .rw⟩, ⟨5, 3, .ro⟩, ⟨13, 3, .ro⟩, ⟨21, 3, .ro⟩, ⟨29, 3, .ro⟩]⟩,
   ⟨0x50008, 0x40, 1024, 0, 1, 32, 0x3d000000, [⟨0, 32, .rw⟩]⟩,
   ⟨0x5000c, 0x40, 1024, 0, 1, 32, 0x3d800000, [⟨0, 32, .rw⟩]⟩,
   ⟨0x50010, 0x40, 1024, 0, 1, 32, 0xd800000, [⟨0, 32, .rw⟩]⟩,
   ⟨0x50014, 0x40, 1024, 0, 1, 32, 0, [⟨0, 8, .rw⟩, ⟨8, 8, .rw⟩, ⟨16, 12, .rw⟩, ⟨28, 4, .ro⟩]⟩,
   ⟨0x50018, 0x40, 1024, 0, 1, 32, 0, [⟨0, 21, .rw⟩, ⟨21, 11, .ro⟩]⟩,
   ⟨0x50020, 0x40, 1024, 0, 1, 64, 0, [⟨0, 64, .rw⟩]⟩,
   ⟨0x1000, 0x10, 16, 0, 1, 64, 0, [⟨0, 22, .rw⟩, ⟨22, 10, .ro⟩, ⟨32, 10, .rw⟩, ⟨42, 10, .rw⟩, ⟨52, 12, .ro⟩]⟩]

def coreRegs6 : List RegRow :=
  [⟨0x1008, 0x10, 16, 0, 1, 32, 0, [⟨0, 10, .ro⟩, ⟨10, 10, .ro⟩, ⟨20, 10, .ro⟩, ⟨30, 1, .w1c⟩, ⟨31, 1, .ro⟩]⟩,
   ⟨0, 0, 1, 0, 1, 32, 0, [⟨0, 1, .rw⟩, ⟨1, 31, .ro⟩]⟩,
   ⟨4, 0, 1, 0, 1, 32, 0, [⟨0, 4, .ro⟩, ⟨4, 1, .ro⟩, ⟨5, 1, .ro⟩, ⟨6, 26, .ro⟩]⟩,
   ⟨8, 0, 1, 0, 1, 64, 0, [⟨0, 6, .ro⟩, ⟨6, 3, .ro⟩, ⟨9, 6, .ro⟩, ⟨15, 3, .ro⟩, ⟨18, 6, .ro⟩, ⟨24, 5, .ro⟩, ⟨29, 3, .ro⟩, ⟨32, 7, .ro⟩, ⟨39, 7, .ro⟩, ⟨46, 18, .ro⟩]⟩,
   ⟨0x10, 0, 1, 0, 1, 64, 0, [⟨0, 64, .ro⟩]⟩,
   ⟨0x18, 0, 1, 0, 1, 64, 0xffffffffffffffff, [⟨0, 64, .rw⟩]⟩,
   ⟨0x20, 0, 1, 0, 1, 64, 0, [⟨0, 16, .ro⟩, ⟨16, 16, .ro⟩, ⟨32, 32, .ro⟩]⟩,
   ⟨0x2400, 0, 1, 0, 1, 32, 0, [⟨0, 9, .ro⟩, ⟨9, 7, .ro⟩, ⟨16, 7, .ro⟩, ⟨23, 9, .ro⟩]⟩,
   ⟨0x2408, 0, 1, 0, 1, 64, 0, [⟨0, 64, .ro⟩]⟩,
   ⟨0x2410, 0, 1, 0, 1, 64, 0, [⟨0, 64, .ro⟩]⟩,
   ⟨0x2418, 0, 1, 0, 1, 64, 0, [⟨0, 4, .ro⟩, ⟨4, 4, .ro⟩, ⟨8, 12, .ro⟩, ⟨20, 4, .ro⟩, ⟨24, 3, .ro⟩, ⟨27, 35, .ro⟩, ⟨62, 1, .ro⟩, ⟨63, 1, .w1c⟩]⟩,
   ⟨0x2420, 0, 1, 0, 1, 64, 0, [⟨0, 64, .ro⟩]⟩]

def coreRegs7 : List RegRow :=
  [⟨0x2428, 0, 1, 0, 1, 64, 0, [⟨0, 32, .ro⟩, ⟨32, 31, .ro⟩, ⟨63, 1, .wo⟩]⟩,
   ⟨0x2000, 0x40, 16, 0, 1, 64, 0, [⟨0, 4, .rw⟩, ⟨4, 4, .rw⟩, ⟨8, 9, .rw⟩, ⟨17, 1, .rw⟩, ⟨18, 12, .rw⟩, ⟨30, 2, .ro⟩, ⟨32, 13, .rw⟩, ⟨45, 19, .ro⟩]⟩,
   ⟨0x2008, 0x40, 16, 0, 1, 64, 0, [⟨0, 32, .ro⟩, ⟨32, 32, .ro⟩]⟩,
   ⟨0x2010, 0x40, 16, 0, 1, 64, 0, [⟨0, 22, .rw⟩, ⟨22, 42, .ro⟩]⟩,
   ⟨0x2020, 0x40, 16, 8, 4, 64, 0, [⟨0, 64, .rw⟩]⟩,
   ⟨0x2440, 0, 1, 0, 1, 32, 0, [⟨0, 26, .rw⟩, ⟨26, 6, .ro⟩]⟩,
   ⟨0x2448, 0, 1, 0, 1, 64, 0, [⟨0, 26, .ro⟩, ⟨26, 1, .ro⟩, ⟨27, 1, .ro⟩, ⟨28, 1, .ro⟩, ⟨29, 35, .ro⟩]⟩,
   ⟨0x2450, 0, 1, 0, 1, 32, 0, [⟨0, 7, .ro⟩, ⟨7, 25, .ro⟩]⟩,
   ⟨0x2454, 0, 1, 0, 1, 32, 0, [⟨0, 7, .wo⟩, ⟨7, 25, .wo⟩]⟩,
   ⟨0x80000, 0, 1, 0, 1, 32, 0, [⟨0, 32, .rw⟩]⟩,
   ⟨0x80004, 0, 1, 0, 1, 32, 0, [⟨0, 32, .rw⟩]⟩,
   ⟨0x80008, 0, 1, 0, 1, 32, 0, [⟨0, 32, .ro⟩]⟩]

def coreRegs8 : List RegRow :=
  [⟨0x80010, 0, 1, 0, 1, 32, 0, [⟨0, 32, .rw⟩]⟩,
   ⟨0x80014, 0, 1, 0, 1, 32, 0, [⟨0, 32, .rw⟩]⟩,
   ⟨0x80018, 0, 1, 0, 1, 32, 0, [⟨0, 32, .ro⟩]⟩]

/-- Every register row of the core control window. -/
def coreRegs : List RegRow :=
  coreRegs0 ++ coreRegs1 ++ coreRegs2 ++ coreRegs3 ++ coreRegs4 ++ coreRegs5 ++ coreRegs6 ++ coreRegs7 ++ coreRegs8

def chipRegs0 : List RegRow :=
  [⟨0x20000010000, 0, 1, 0, 1, 64, 0, [⟨0, 64, .ro⟩]⟩,
   ⟨0x20000010008, 0, 1, 0, 1, 64, 0, [⟨0, 1, .ro⟩, ⟨1, 1, .ro⟩, ⟨2, 1, .ro⟩, ⟨3, 1, .ro⟩, ⟨4, 12, .ro⟩, ⟨16, 16, .ro⟩, ⟨32, 32, .ro⟩]⟩,
   ⟨0x20000010010, 0, 1, 0, 1, 64, 0, [⟨0, 32, .rw⟩, ⟨32, 32, .ro⟩]⟩,
   ⟨0x20000010018, 0, 1, 0, 1, 64, 0, [⟨0, 64, .ro⟩]⟩,
   ⟨0x20000020000, 4, 256, 0, 1, 32, 0, [⟨0, 4, .rw⟩, ⟨4, 5, .rw⟩, ⟨9, 1, .rw⟩, ⟨10, 22, .ro⟩]⟩,
   ⟨0x20000020400, 8, 5, 0, 1, 64, 0, [⟨0, 64, .rw⟩]⟩,
   ⟨0x20000020500, 0, 1, 0, 1, 64, 0, [⟨0, 32, .ro⟩, ⟨32, 32, .ro⟩]⟩,
   ⟨0x20000020508, 0, 1, 0, 1, 64, 0, [⟨0, 4, .ro⟩, ⟨4, 5, .ro⟩, ⟨9, 4, .ro⟩, ⟨13, 3, .ro⟩, ⟨16, 46, .ro⟩, ⟨62, 1, .ro⟩, ⟨63, 1, .w1c⟩]⟩,
   ⟨0x20000200000, 0, 1, 0, 1, 32, 0, [⟨0, 2, .rwl⟩, ⟨2, 4, .rwl⟩, ⟨6, 26, .ro⟩]⟩,
   ⟨0x20000200004, 0, 1, 0, 1, 32, 0, [⟨0, 20, .rwl⟩, ⟨20, 12, .ro⟩]⟩,
   ⟨0x20000200008, 0, 1, 0, 1, 32, 0, [⟨0, 4, .ro⟩, ⟨4, 1, .ro⟩, ⟨5, 27, .ro⟩]⟩,
   ⟨0x20000040000, 0, 1, 0, 1, 64, 0, [⟨0, 7, .ro⟩, ⟨7, 1, .ro⟩, ⟨8, 1, .w1c⟩, ⟨9, 6, .ro⟩, ⟨15, 49, .ro⟩]⟩]

def chipRegs1 : List RegRow :=
  [⟨0x20000040008, 0, 1, 0, 1, 64, 0x10000000000, [⟨0, 48, .ro⟩, ⟨48, 16, .ro⟩]⟩,
   ⟨0x20000040010, 0, 1, 0, 1, 32, 2, [⟨0, 6, .rw⟩, ⟨6, 26, .ro⟩]⟩,
   ⟨0x20000040018, 0, 1, 0, 1, 32, 0, [⟨0, 9, .wo⟩, ⟨9, 1, .wo⟩, ⟨10, 22, .wo⟩]⟩,
   ⟨0x20000040020, 0, 1, 0, 1, 64, 0, [⟨0, 9, .ro⟩, ⟨9, 19, .ro⟩, ⟨28, 1, .ro⟩, ⟨29, 35, .ro⟩]⟩,
   ⟨0x20000040028, 0, 1, 0, 1, 32, 0, [⟨0, 2, .rw⟩, ⟨2, 30, .ro⟩]⟩,
   ⟨0x20000040100, 4, 64, 0, 1, 32, 0, [⟨0, 9, .ro⟩, ⟨9, 1, .ro⟩, ⟨10, 1, .ro⟩, ⟨11, 21, .ro⟩]⟩,
   ⟨0x20000041000, 0x20, 32, 0, 1, 64, 0, [⟨12, 36, .rw⟩, ⟨0, 12, .ro⟩, ⟨48, 16, .ro⟩]⟩,
   ⟨0x20000041008, 0x20, 32, 0, 1, 64, 0, [⟨12, 36, .rw⟩, ⟨0, 12, .ro⟩, ⟨48, 16, .ro⟩]⟩,
   ⟨0x20000041010, 0x20, 32, 0, 1, 64, 0, [⟨0, 3, .rw⟩, ⟨3, 1, .rw⟩, ⟨4, 12, .rw⟩, ⟨16, 12, .rw⟩, ⟨28, 36, .ro⟩]⟩,
   ⟨0x20000080000, 0x1000, 16, 0, 1, 64, 0xffffffff, [⟨0, 32, .ro⟩, ⟨32, 8, .ro⟩, ⟨40, 1, .ro⟩, ⟨41, 1, .ro⟩, ⟨42, 1, .ro⟩, ⟨43, 21, .ro⟩]⟩,
   ⟨0x20000080008, 0x1000, 16, 0, 1, 64, 0, [⟨0, 32, .ro⟩, ⟨32, 32, .ro⟩]⟩,
   ⟨0x20000080100, 0x1000, 16, 8, 32, 64, 0, [⟨0, 32, .ro⟩, ⟨32, 16, .ro⟩, ⟨48, 1, .ro⟩, ⟨49, 15, .ro⟩]⟩]

def chipRegs2 : List RegRow :=
  [⟨0x20000100000, 0x10000, 4, 0x100, 72, 64, 0, [⟨12, 36, .rw⟩, ⟨0, 12, .ro⟩, ⟨48, 16, .ro⟩]⟩,
   ⟨0x20000100008, 0x10000, 4, 0x100, 72, 64, 0, [⟨0, 20, .rw⟩, ⟨20, 12, .ro⟩, ⟨32, 22, .rw⟩, ⟨54, 10, .ro⟩]⟩,
   ⟨0x20000100010, 0x10000, 4, 0x100, 72, 64, 0, [⟨12, 36, .rw⟩, ⟨0, 12, .ro⟩, ⟨48, 16, .ro⟩]⟩,
   ⟨0x20000100018, 0x10000, 4, 0x100, 72, 64, 0, [⟨0, 20, .rw⟩, ⟨20, 20, .rw⟩, ⟨40, 24, .ro⟩]⟩,
   ⟨0x20000100020, 0x10000, 4, 0x100, 72, 32, 0, [⟨0, 1, .rw⟩, ⟨1, 4, .rw⟩, ⟨5, 16, .rw⟩, ⟨21, 11, .ro⟩]⟩,
   ⟨0x20000100024, 0x10000, 4, 0x100, 72, 32, 0x3e8, [⟨0, 20, .rw⟩, ⟨20, 12, .ro⟩]⟩,
   ⟨0x20000100028, 0x10000, 4, 0x100, 72, 64, 0, [⟨0, 20, .ro⟩, ⟨20, 22, .ro⟩, ⟨42, 17, .ro⟩, ⟨59, 1, .ro⟩, ⟨60, 1, .ro⟩, ⟨61, 3, .ro⟩]⟩,
   ⟨0x20000100030, 0x10000, 4, 0x100, 72, 64, 0, [⟨0, 23, .ro⟩, ⟨23, 3, .ro⟩, ⟨26, 36, .ro⟩, ⟨62, 1, .ro⟩, ⟨63, 1, .w1c⟩]⟩,
   ⟨0x20000100038, 0x10000, 4, 0x100, 72, 64, 0, [⟨0, 64, .ro⟩]⟩,
   ⟨0x20000100040, 0x10000, 4, 0x100, 72, 64, 0, [⟨0, 64, .ro⟩]⟩,
   ⟨0x20000100048, 0x10000, 4, 0x100, 72, 64, 0, [⟨0, 64, .ro⟩]⟩,
   ⟨0x20000100050, 0x10000, 4, 0x100, 72, 64, 0, [⟨0, 64, .ro⟩]⟩]

def chipRegs3 : List RegRow :=
  [⟨0x20000100058, 0x10000, 4, 0x100, 72, 64, 0, [⟨0, 64, .ro⟩]⟩,
   ⟨0x20000100060, 0x10000, 4, 0x100, 72, 64, 0, [⟨0, 64, .ro⟩]⟩,
   ⟨0x20000300000, 0x10000, 8, 0x1000, 4, 32, 0x400, [⟨0, 1, .rw⟩, ⟨1, 1, .w1s⟩, ⟨2, 6, .ro⟩, ⟨8, 5, .rw⟩, ⟨13, 19, .ro⟩]⟩,
   ⟨0x20000300008, 0x10000, 8, 0x1000, 4, 64, 0, [⟨0, 3, .ro⟩, ⟨3, 1, .ro⟩, ⟨4, 1, .ro⟩, ⟨5, 1, .ro⟩, ⟨6, 1, .ro⟩, ⟨7, 12, .ro⟩, ⟨19, 5, .ro⟩, ⟨24, 7, .ro⟩, ⟨31, 33, .ro⟩]⟩,
   ⟨0x20000300010, 0x10000, 8, 0x1000, 4, 64, 0, [⟨0, 3, .ro⟩, ⟨3, 59, .ro⟩, ⟨62, 1, .ro⟩, ⟨63, 1, .w1c⟩]⟩,
   ⟨0x20000300018, 0x10000, 8, 0x1000, 4, 64, 0, [⟨0, 64, .ro⟩]⟩,
   ⟨0x20000300040, 0x10000, 8, 0x1000, 4, 64, 0, [⟨0, 24, .ro⟩, ⟨24, 40, .ro⟩]⟩,
   ⟨0x20000300020, 0x10000, 8, 0x1000, 4, 64, 0, [⟨0, 32, .ro⟩, ⟨32, 32, .ro⟩]⟩,
   ⟨0x20000300028, 0x10000, 8, 0x1000, 4, 64, 0, [⟨0, 32, .ro⟩, ⟨32, 32, .ro⟩]⟩,
   ⟨0x20000300030, 0x10000, 8, 0x1000, 4, 64, 0, [⟨0, 64, .ro⟩]⟩,
   ⟨0x20000300038, 0x10000, 8, 0x1000, 4, 64, 0, [⟨0, 64, .ro⟩]⟩,
   ⟨0x20000400000, 0, 1, 0, 1, 32, 0, [⟨0, 12, .rwl⟩, ⟨12, 1, .rwl⟩, ⟨13, 19, .ro⟩]⟩]

def chipRegs4 : List RegRow :=
  [⟨0x20000400008, 0, 1, 0, 1, 64, 0, [⟨0, 64, .ro⟩]⟩,
   ⟨0x20000400010, 0, 1, 0, 1, 64, 0, [⟨0, 64, .ro⟩]⟩,
   ⟨0x20000401000, 4, 4096, 0, 1, 32, 0, [⟨0, 5, .rw⟩, ⟨5, 5, .rw⟩, ⟨10, 1, .rw⟩, ⟨11, 21, .ro⟩]⟩,
   ⟨0x20000480000, 0, 1, 0, 1, 32, 0x1fe, [⟨0, 1, .rw⟩, ⟨1, 8, .rw⟩, ⟨9, 23, .ro⟩]⟩,
   ⟨0x20000480008, 0, 1, 0, 1, 64, 0x1f000, [⟨0, 12, .ro⟩, ⟨12, 5, .ro⟩, ⟨17, 5, .ro⟩, ⟨22, 1, .ro⟩, ⟨23, 41, .ro⟩]⟩,
   ⟨0x20000480010, 0, 1, 0, 1, 64, 0, [⟨0, 32, .ro⟩, ⟨32, 32, .ro⟩]⟩,
   ⟨0x20000480018, 0, 1, 0, 1, 64, 0, [⟨0, 32, .ro⟩, ⟨32, 32, .ro⟩]⟩,
   ⟨0x20000500000, 0, 1, 0, 1, 32, 0, [⟨0, 32, .rw⟩]⟩,
   ⟨0x20000500004, 0, 1, 0, 1, 32, 0, [⟨0, 32, .rw⟩]⟩,
   ⟨0x20000500008, 0, 1, 0, 1, 32, 0, [⟨0, 32, .ro⟩]⟩,
   ⟨0x20000500010, 0, 1, 0, 1, 32, 0, [⟨0, 32, .rw⟩]⟩,
   ⟨0x20000500014, 0, 1, 0, 1, 32, 0, [⟨0, 32, .rw⟩]⟩]

def chipRegs5 : List RegRow :=
  [⟨0x20000500018, 0, 1, 0, 1, 32, 0, [⟨0, 32, .ro⟩]⟩,
   ⟨0x20000501000, 0, 1, 0, 1, 32, 0, [⟨0, 32, .rw⟩]⟩,
   ⟨0x20000501004, 0, 1, 0, 1, 32, 0, [⟨0, 32, .rw⟩]⟩,
   ⟨0x20000501008, 0, 1, 0, 1, 32, 0, [⟨0, 32, .ro⟩]⟩,
   ⟨0x20000501010, 0, 1, 0, 1, 32, 0, [⟨0, 32, .rw⟩]⟩,
   ⟨0x20000501014, 0, 1, 0, 1, 32, 0, [⟨0, 32, .rw⟩]⟩,
   ⟨0x20000501018, 0, 1, 0, 1, 32, 0, [⟨0, 32, .ro⟩]⟩,
   ⟨0x20000502000, 0, 1, 0, 1, 32, 0, [⟨0, 32, .rw⟩]⟩,
   ⟨0x20000502004, 0, 1, 0, 1, 32, 0, [⟨0, 32, .rw⟩]⟩,
   ⟨0x20000502008, 0, 1, 0, 1, 32, 0, [⟨0, 32, .ro⟩]⟩,
   ⟨0x20000502010, 0, 1, 0, 1, 32, 0, [⟨0, 32, .rw⟩]⟩,
   ⟨0x20000502014, 0, 1, 0, 1, 32, 0, [⟨0, 32, .rw⟩]⟩]

def chipRegs6 : List RegRow :=
  [⟨0x20000502018, 0, 1, 0, 1, 32, 0, [⟨0, 32, .ro⟩]⟩,
   ⟨0x20000508000, 0x1000, 8, 0, 1, 32, 0, [⟨0, 32, .rw⟩]⟩,
   ⟨0x20000508004, 0x1000, 8, 0, 1, 32, 0, [⟨0, 32, .rw⟩]⟩,
   ⟨0x20000508008, 0x1000, 8, 0, 1, 32, 0, [⟨0, 32, .ro⟩]⟩,
   ⟨0x20000508010, 0x1000, 8, 0, 1, 32, 0, [⟨0, 32, .rw⟩]⟩,
   ⟨0x20000508014, 0x1000, 8, 0, 1, 32, 0, [⟨0, 32, .rw⟩]⟩,
   ⟨0x20000508018, 0x1000, 8, 0, 1, 32, 0, [⟨0, 32, .ro⟩]⟩,
   ⟨0x20000510000, 0, 1, 0, 1, 32, 0, [⟨0, 1, .rw⟩, ⟨1, 1, .rw⟩, ⟨2, 30, .ro⟩]⟩,
   ⟨0x20000510100, 4, 8, 0, 1, 32, 0, [⟨0, 1, .rwl⟩, ⟨1, 1, .rwl⟩, ⟨2, 1, .rwl⟩, ⟨3, 5, .ro⟩, ⟨8, 5, .rwl⟩, ⟨13, 19, .ro⟩]⟩,
   ⟨0x20000600000, 0, 1, 0, 1, 64, 0, [⟨0, 64, .ro⟩]⟩,
   ⟨0x20000600008, 0, 1, 0, 1, 64, 0, [⟨0, 8, .ro⟩, ⟨8, 38, .w1c⟩, ⟨46, 8, .w1c⟩, ⟨54, 10, .ro⟩]⟩,
   ⟨0x20000600010, 0, 1, 0, 1, 64, 0, [⟨0, 16, .ro⟩, ⟨16, 9, .ro⟩, ⟨25, 37, .ro⟩, ⟨62, 1, .ro⟩, ⟨63, 1, .w1c⟩]⟩]

def chipRegs7 : List RegRow :=
  [⟨0x20000600018, 0, 1, 0, 1, 64, 0, [⟨0, 64, .ro⟩]⟩,
   ⟨0x20000600020, 0, 1, 0, 1, 32, 0, [⟨0, 16, .wo⟩, ⟨16, 9, .wo⟩, ⟨25, 7, .wo⟩]⟩,
   ⟨0x20000600028, 0, 1, 0, 1, 32, 0, [⟨0, 1, .ro⟩, ⟨1, 1, .ro⟩, ⟨2, 1, .w1c⟩, ⟨3, 29, .ro⟩]⟩,
   ⟨0x20000600030, 0, 1, 0, 1, 64, 0, [⟨0, 16, .ro⟩, ⟨16, 47, .ro⟩, ⟨63, 1, .ro⟩]⟩,
   ⟨0x20000600038, 0, 1, 0, 1, 64, 0, [⟨0, 64, .ro⟩]⟩,
   ⟨0x20000600040, 0, 1, 0, 1, 64, 0, [⟨0, 1, .rwl⟩, ⟨1, 11, .ro⟩, ⟨12, 36, .rwl⟩, ⟨48, 16, .ro⟩]⟩,
   ⟨0x20000600048, 0, 1, 0, 1, 32, 0, [⟨0, 32, .ro⟩]⟩,
   ⟨0x20000601000, 4, 72, 0, 1, 32, 0, [⟨0, 32, .w1c⟩]⟩,
   ⟨0x20000610000, 0x10, 2350, 0, 1, 64, 0, [⟨0, 16, .rw⟩, ⟨16, 6, .rw⟩, ⟨22, 2, .ro⟩, ⟨24, 3, .rw⟩, ⟨27, 3, .rw⟩, ⟨30, 3, .rw⟩, ⟨33, 20, .rw⟩, ⟨53, 10, .ro⟩, ⟨63, 1, .ro⟩]⟩,
   ⟨0x20000610008, 0x10, 2350, 0, 1, 64, 0, [⟨0, 16, .ro⟩, ⟨16, 2, .ro⟩, ⟨18, 2, .ro⟩, ⟨20, 1, .ro⟩, ⟨21, 1, .ro⟩, ⟨22, 10, .ro⟩, ⟨32, 32, .ro⟩]⟩,
   ⟨0x20000630000, 8, 512, 0, 1, 64, 0, [⟨0, 16, .ro⟩, ⟨16, 2, .ro⟩, ⟨18, 2, .ro⟩, ⟨20, 1, .ro⟩, ⟨21, 1, .ro⟩, ⟨22, 10, .ro⟩, ⟨32, 32, .ro⟩]⟩,
   ⟨0x20000631000, 8, 32, 0, 1, 64, 0, [⟨0, 16, .ro⟩, ⟨16, 2, .ro⟩, ⟨18, 2, .ro⟩, ⟨20, 1, .ro⟩, ⟨21, 1, .ro⟩, ⟨22, 10, .ro⟩, ⟨32, 32, .ro⟩]⟩]

def chipRegs8 : List RegRow :=
  [⟨0x20000700000, 0, 1, 0, 1, 32, 0, [⟨0, 1, .rw⟩, ⟨1, 1, .rw⟩, ⟨2, 1, .rw⟩, ⟨3, 29, .ro⟩]⟩,
   ⟨0x20000700008, 0, 1, 0, 1, 64, 0x6400140001, [⟨0, 16, .rw⟩, ⟨16, 16, .rw⟩, ⟨32, 16, .rw⟩, ⟨48, 16, .ro⟩]⟩,
   ⟨0x20000700010, 0, 1, 0, 1, 64, 0, [⟨12, 36, .rw⟩, ⟨0, 12, .ro⟩, ⟨48, 16, .ro⟩]⟩,
   ⟨0x20000700018, 0, 1, 0, 1, 64, 0, [⟨0, 20, .rw⟩, ⟨20, 44, .ro⟩]⟩,
   ⟨0x20000700020, 0, 1, 0, 1, 64, 0, [⟨0, 1, .ro⟩, ⟨1, 1, .ro⟩, ⟨2, 1, .ro⟩, ⟨3, 1, .ro⟩, ⟨4, 3, .ro⟩, ⟨7, 1, .ro⟩, ⟨8, 48, .ro⟩, ⟨56, 8, .ro⟩]⟩,
   ⟨0x20000700028, 8, 3, 0, 1, 64, 0, [⟨0, 48, .ro⟩, ⟨48, 15, .ro⟩, ⟨63, 1, .ro⟩]⟩,
   ⟨0x20000700040, 0, 1, 0, 1, 64, 0, [⟨0, 64, .ro⟩]⟩,
   ⟨0x20000700048, 0, 1, 0, 1, 64, 0, [⟨0, 64, .ro⟩]⟩,
   ⟨0x20000700050, 0, 1, 0, 1, 64, 0, [⟨0, 64, .ro⟩]⟩,
   ⟨0x20000700058, 0, 1, 0, 1, 64, 0, [⟨0, 64, .ro⟩]⟩,
   ⟨0x20000800000, 0, 1, 0, 1, 64, 0x5dc, [⟨0, 11, .ro⟩, ⟨11, 1, .ro⟩, ⟨12, 11, .ro⟩, ⟨23, 41, .ro⟩]⟩,
   ⟨0x20000800008, 0, 1, 0, 1, 64, 0, [⟨0, 48, .ro⟩, ⟨48, 16, .ro⟩]⟩]

def chipRegs9 : List RegRow :=
  [⟨0x20000800010, 0, 1, 0, 1, 64, 0, [⟨0, 64, .ro⟩]⟩,
   ⟨0x20000800018, 0, 1, 0, 1, 64, 0, [⟨0, 64, .ro⟩]⟩,
   ⟨0x20000800020, 0, 1, 0, 1, 32, 0, [⟨0, 16, .ro⟩, ⟨16, 16, .ro⟩]⟩,
   ⟨0x20000800024, 0, 1, 0, 1, 32, 0x4000, [⟨0, 16, .ro⟩, ⟨16, 16, .ro⟩]⟩,
   ⟨0x20000800028, 0, 1, 0, 1, 32, 0, [⟨0, 1, .ro⟩, ⟨1, 1, .w1c⟩, ⟨2, 1, .w1c⟩, ⟨3, 4, .ro⟩, ⟨7, 15, .ro⟩, ⟨22, 10, .ro⟩]⟩,
   ⟨0x20000800030, 0, 1, 0, 1, 64, 0, [⟨0, 64, .ro⟩]⟩,
   ⟨0x20000800038, 0, 1, 0, 1, 64, 0, [⟨0, 64, .ro⟩]⟩,
   ⟨0x20000800040, 0, 1, 0, 1, 32, 0, [⟨0, 32, .ro⟩]⟩,
   ⟨0x20000800044, 0, 1, 0, 1, 32, 0, [⟨0, 32, .ro⟩]⟩,
   ⟨0x20000801000, 0x10, 72, 0, 1, 64, 0, [⟨0, 64, .ro⟩]⟩,
   ⟨0x20000801008, 0x10, 72, 0, 1, 32, 0x400, [⟨0, 4, .ro⟩, ⟨4, 4, .ro⟩, ⟨8, 1, .ro⟩, ⟨9, 1, .ro⟩, ⟨10, 1, .ro⟩, ⟨11, 21, .ro⟩]⟩,
   ⟨0x20000900000, 0, 1, 0, 1, 32, 1, [⟨0, 4, .ro⟩, ⟨4, 1, .ro⟩, ⟨5, 4, .ro⟩, ⟨9, 4, .ro⟩, ⟨13, 4, .ro⟩, ⟨17, 15, .ro⟩]⟩]

def chipRegs10 : List RegRow :=
  [⟨0x20000900004, 0, 1, 0, 1, 32, 0, [⟨0, 32, .ro⟩]⟩,
   ⟨0x20000900008, 0, 1, 0, 1, 32, 0x46420416, [⟨0, 32, .ro⟩]⟩,
   ⟨0x2000090000c, 0, 1, 0, 1, 32, 0, [⟨0, 17, .ro⟩, ⟨17, 15, .ro⟩]⟩,
   ⟨0x20000900010, 4, 4, 0, 1, 32, 0, [⟨0, 32, .ro⟩]⟩,
   ⟨0x20000900020, 0, 1, 0, 1, 32, 0, [⟨0, 32, .ro⟩]⟩,
   ⟨0x20000900028, 0, 1, 0, 1, 64, 0, [⟨0, 64, .ro⟩]⟩,
   ⟨0x20000900030, 0, 1, 0, 1, 64, 0, [⟨0, 3, .ro⟩, ⟨3, 1, .ro⟩, ⟨4, 4, .ro⟩, ⟨8, 4, .ro⟩, ⟨12, 8, .ro⟩, ⟨20, 44, .ro⟩]⟩,
   ⟨0x20000900040, 8, 6, 0, 1, 64, 0, [⟨0, 64, .ro⟩]⟩,
   ⟨0x20000900100, 0x40, 4, 8, 6, 64, 0, [⟨0, 64, .ro⟩]⟩]

/-- Every register row of the chip-level blocks. -/
def chipRegs : List RegRow :=
  chipRegs0 ++ chipRegs1 ++ chipRegs2 ++ chipRegs3 ++ chipRegs4 ++ chipRegs5 ++ chipRegs6 ++ chipRegs7 ++ chipRegs8 ++ chipRegs9 ++ chipRegs10

def tlmRegs0 : List RegRow :=
  [⟨0, 0, 1, 0, 1, 32, 0x46420416, [⟨0, 32, .ro⟩]⟩,
   ⟨4, 0, 1, 0, 1, 32, 8, [⟨0, 3, .ro⟩, ⟨3, 4, .ro⟩, ⟨7, 1, .ro⟩, ⟨8, 24, .ro⟩]⟩,
   ⟨8, 0, 1, 0, 1, 32, 0x5dc0000, [⟨0, 16, .ro⟩, ⟨16, 16, .ro⟩]⟩,
   ⟨0xc, 0, 1, 0, 1, 32, 0, [⟨0, 8, .ro⟩, ⟨8, 8, .ro⟩, ⟨16, 8, .ro⟩, ⟨24, 8, .ro⟩]⟩,
   ⟨0x10, 0, 1, 0, 1, 32, 0, [⟨0, 16, .ro⟩, ⟨16, 16, .ro⟩]⟩,
   ⟨0x14, 0, 1, 0, 1, 32, 0, [⟨0, 16, .ro⟩, ⟨16, 1, .ro⟩, ⟨17, 15, .ro⟩]⟩,
   ⟨0x18, 0, 1, 0, 1, 32, 0, [⟨0, 32, .ro⟩]⟩]

/-- Every register row of the telemetry map. -/
def tlmRegs : List RegRow :=
  tlmRegs0

/-- Does the row hold a register at this address? -/
def RegRow.hit (r : RegRow) (a : Nat) : Bool :=
  decide (r.base ≤ a) &&
  (let d := a - r.base
   let i := if r.s1 = 0 then 0 else d / r.s1
   let e := d - i * r.s1
   let j := if r.s2 = 0 then 0 else e / r.s2
   decide (i < r.c1) && decide (j < r.c2) && decide (e = j * r.s2))

/-- The row of the register at an address. -/
def findReg (rs : List RegRow) (a : Nat) : Option RegRow := rs.find? (RegRow.hit · a)

/-- The first and second index of a register in its row. -/
def RegRow.idx (r : RegRow) (a : Nat) : Nat × Nat :=
  let d := a - r.base
  let i := if r.s1 = 0 then 0 else d / r.s1
  (i, if r.s2 = 0 then 0 else (d - i * r.s1) / r.s2)

/-- Reset value of a register of a core (by window offset); 0 where no register lies. -/
def coreReset (a : Nat) : Nat := match findReg coreRegs a with | some r => r.reset | none => 0

/-- One field of a written register under its access type (00 R12, R13): `old` is the whole old value,
`w` the whole written value. A write-only field holds nothing. -/
def fieldWrite (locked : Bool) (old w : Nat) (acc : Nat) (f : RegField) : Nat :=
  let o := field old f.lo f.n
  let v := field w f.lo f.n
  let x := match f.acc with
    | .ro => o
    | .rw => v
    | .w1s => o ||| v
    | .w1c => o &&& (2 ^ f.n - 1 - v)
    | .wo => 0
    | .rwl => if locked then o else v
  acc + x * 2 ^ f.lo

/-- The value of a register after a write, field by field. -/
def regWrite (locked : Bool) (r : RegRow) (old w : Nat) : Nat :=
  r.fields.foldl (fieldWrite locked old w) 0

/-- Does the write touch an RWL field after the boot lock with another value than it holds? -/
def rwlViolation (r : RegRow) : Bool := r.fields.any fun f => f.acc == .rwl

end Sys2Proof.Machine
end

