-- ==== Sys2Proof/Machine/Tags.lean ====
section
/-!
DEFINITION. Generation tags and poison (06 R187-R191; 07 R239, R240).
-/
namespace Sys2Proof.Machine

def tagLayer (t : Word) : Nat := field t.toNat 0 10
def tagChain (t : Word) : Nat := field t.toNat 10 6
def tagEpoch (t : Word) : Nat := field t.toNat 16 12
def tagInv (t : Word) : Bool := t.getLsbD 30
def tagConf (t : Word) : Bool := t.getLsbD 31

/-- A tag from its fields (R187). -/
def mkTag (layer chain epoch : Nat) (inv : Bool) : Word :=
  BitVec.ofNat 32 (layer % 1024 + 1024 * (chain % 64) + 65536 * (epoch % 4096) + (if inv then 2 ^ 30 else 0))

/-- Chains without repeats of a list of tags, in order of first use. -/
def tagChains (ts : List Word) : List Nat := (ts.map tagChain).dedup

/-- The unconfirmed inputs of a set; `conf` tells which tags a final verdict confirms. -/
def openTags (conf : Word → Bool) (ts : List Word) : List Word := ts.filter fun t => !tagConf t && !conf t

/-- Is the set mixed (R188 case 4)? The rules apply in order, so a set with an invalidated input is not. -/
def mixedTags (conf : Word → Bool) (ts : List Word) : Bool :=
  !ts.any tagInv && decide ((tagChains (openTags conf ts)).length ≥ 2)

/-- Rule 3 of R188 on tags of one chain. -/
def mergeTags (ts : List Word) (inv : Bool) : Word :=
  mkTag (ts.foldl (fun m t => max m (tagLayer t)) 0) (tagChain (ts.headD 0))
    (ts.foldl (fun m t => max m (tagEpoch t)) 0) inv

/-- The tag of an output from the tags of its inputs (R188). A mixed set gives INV = 1. Inputs of several chains
that verdicts all confirm give the confirmed tag. -/
def combineTags (conf : Word → Bool) (ts : List Word) : Word :=
  let us := ts.filter (!tagConf ·)
  let rest := openTags conf ts
  if us.any tagInv then mergeTags us true
  else if us.isEmpty then 0x80000000#32
  else if (tagChains us).length = 1 then mergeTags us false
  else if rest.isEmpty then 0x80000000#32
  else mergeTags rest (mixedTags conf ts)

/-- The tag of an output with one input. -/
def passTag (t : Word) : Word := combineTags (fun _ => false) [t]

/-- Does a reject of chain `c`, layer `l` at epoch `e` invalidate the tag (R189)? -/
def tagHit (c l e : Nat) (t : Word) : Bool :=
  decide (tagChain t = c) && decide (tagLayer t ≥ l) && decide (tagEpoch t ≤ e) && !tagConf t && !tagInv t

def setInv (t : Word) : Word := t ||| 0x40000000#32

/-- The tag after a reject (R189). -/
def rejectTag (c l e : Nat) (t : Word) : Word := if tagHit c l e t then setInv t else t

/-- The tag after a step boundary (R191). -/
def confirmTag (t : Word) : Word := if !tagConf t && !tagInv t then 0x80000000#32 else t

/-- Poison cause H and cause R (07 R239). -/
abbrev poisonH : BitVec 2 := 1#2
abbrev poisonR : BitVec 2 := 2#2

end Sys2Proof.Machine
end

