-- ==== Sys2Proof/Machine/CoreState.lean ====
section
/-!
DEFINITION. The state of one physical core (01 R27): sequencer, queue ends, transfer table, vector and
kerf units, scale tracker, messages, barriers, grants, stash set, engines and registers.
-/
namespace Sys2Proof.Machine

/-- Why the sequencer stalls (08 R299, SEQ_STAT.STALL). -/
inductive StallCause where
  | feQueued | beQueued | fwdFull | bwdFull | vuQueued | kuFull | opsFull | grants
  | qfence | mfence | bwait | rsRead
deriving DecidableEq, Repr

/-- A stalled sequencer instruction (08 R276): its word, its length, its cause, the cycle the stall began,
and for a fence the program-order number below which it waits and the kinds it waits for. -/
structure Stall where
  word : Word
  len : Nat
  cause : StallCause
  since : Nat
  seq : Nat
  kinds : Nat := 0
deriving DecidableEq, Repr

/-- The sequencer (08 R254-R276). `csr` holds the CSRs by number, but for the two counters. -/
structure Seq where
  x : NatMap := []
  pc : Word := 0
  uMode : Bool := false
  csr : NatMap := []
  /-- mcycle minus the bench cycle, modulo 2^64 -/
  cycOff : Nat := 0
  instret : Nat := 0
  resv : Option Nat := none
  tbBuf : Word := 0
  arm : Option Nat := none
  stall : Option Stall := none
  /-- window port: latch of loads, and the held low word of stores with its register (08 R298) -/
  latch : Word := 0
  held : Option (Nat × Word) := none
  /-- instruction and data SRAM, by local address (08 R255) -/
  iram : Bytes := []
  dram : Bytes := []
deriving DecidableEq, Repr

/-- A slot of a queue end from the oldest on: reserved by the work of a program-order number, or
committed (08 R280). -/
inductive Slot where
  | reserved (seq : Nat)
  | committed
deriving DecidableEq, Repr

/-- A queue end (08 R278-R283): the index of its oldest slot, the slots in use, the CFGERR bit, and
configuration writes that are held, oldest first, with their program-order numbers (R282). -/
structure QEnd where
  head : Nat := 0
  slots : List Slot := []
  cfgErr : Bool := false
  /-- slots of items that SENDs have taken and the router has not (09 R313) -/
  sending : Nat := 0
  held : List (Nat × DWord) := []
deriving DecidableEq, Repr

/-- An output item that an operation will commit: the queue end, the absolute slot, header and payload. -/
structure OutItem where
  q : Nat
  slot : Nat
  tag : Word
  poison : BitVec 2
  fmt : Nat
  scale : Word := 0x3F800000#32
  nelem : Nat
  nblk : Nat := 0
  entry : Nat := 0
  src : Word := 0
  payload : List Byte
deriving DecidableEq, Repr

/-- What a started operation or issue will do when it commits (08 R236, R280; 06 R189). -/
structure OpResult where
  items : List OutItem := []
  /-- a tile register write: engine (true BE), register, the contents, and, if only one half is written, that half
  and the bytes of codes written in it -/
  tile : Option (Bool × Nat × Tile × Option (Nat × Nat)) := none
  /-- bytes to write in device memory -/
  mem : List (Nat × List Byte) := []
  /-- bytes to write in this core's store -/
  store : List (Nat × List Byte) := []
  /-- bytes to write in the data SRAM, by local address -/
  dram : List (Nat × List Byte) := []
  /-- amax folds of a VU issue: slot and magnitude -/
  folds : List (Nat × Nat) := []
  /-- VU flags NV, DZ, OF, UF, NX as bits 3-7 of VU_FCSR -/
  flags : Nat := 0
deriving DecidableEq, Repr

/-- The life of an operation in the transfer table. -/
inductive OpPhase where
  | waiting
  | started
  /-- DACC: stages 1 to 3 are done, stage 4 waits; the flag says that the item is refused as data (R168) -/
  | checked (bad : Bool)
  /-- RECV: the slot is reserved and the ready token is sent (09 R312) -/
  | tokened
  /-- reads of other cores' stores: the lines that have not arrived, by index (09 R316) -/
  | remote (left : List Nat)
  /-- writes into another core's store: the lines not yet acknowledged, by index (09 R316) -/
  | acks (left : List Nat)
deriving DecidableEq, Repr

/-- An operation in the transfer table (08 R273, R284). -/
structure TOp where
  id : Nat
  seq : Nat
  desc : List Byte
  arm : Option Nat := none
  phase : OpPhase := .waiting
  /-- inputs popped at the start: tag, poison, format byte, scale, NELEM, NBLK, ENTRY word, payload -/
  input : List OutItem := []
  /-- local address of the descriptor, whose scale field an MX export writes (02 R74) -/
  addr : Nat := 0
  /-- SEND and RECV: the message number of the pair (09 R311) -/
  num : Nat := 0
  /-- MOV and IGTH from another core's store: bytes that have arrived (09 R316), and whether a payload of them was in
  error (R308) -/
  buf : Bytes := []
  bufBad : Bool := false
  res : OpResult := {}
  /-- its first eligible tick, once another condition held it there (09 R325) -/
  due : Option Nat := none
  /-- a read of its descriptor met a double-bit error: its outputs carry cause R (08 R258) -/
  hurt : Bool := false
deriving DecidableEq, Repr

/-- The loop of a started VU or KU instruction (07 R227, R228, R247): latched counts and increments, the index of
the last issue, the issues made, the cycle of the first one, and PERIOD. -/
structure UnitLoop where
  cnts : List Nat := []
  incs : List Nat := []
  idx : List Nat := []
  made : Nat := 0
  start : Nat := 0
  period : Nat := 0
deriving DecidableEq, Repr

/-- A VU instruction that was pushed (08 R292): `rm` is VU_FCSR.RM at its push (R294). -/
structure VuInstr where
  seq : Nat
  word : BitVec 128
  rm : Nat
  arm : Option Nat := none
  due : Option Nat := none
  /-- loop state once the first issue was made -/
  loop : Option UnitLoop := none
deriving DecidableEq, Repr

/-- A VU issue that executes. -/
structure VuExec where
  seq : Nat
  last : Bool
  /-- a VRFILL, which draws from stream 3 -/
  fill : Bool := false
  /-- the queue ends that its instruction names as sources (08 R282) -/
  pops : List Nat := []
  res : OpResult
deriving DecidableEq, Repr

/-- A KU instruction held (08 R273): the epoch of its chain at its push. `run` is set while a KCHK
executes, on the latched rows `a`, weight columns `b` (each `kn` long) and captured tile `x`. -/
structure KuInstr where
  seq : Nat
  word : BitVec 128
  epoch : Nat
  arm : Option Nat := none
  due : Option Nat := none
  run : Bool := false
  loop : Option UnitLoop := none
  a : List Nat := []
  b : List Nat := []
  x : List Nat := []
  kn : Nat := 0
  poisoned : Bool := false
deriving DecidableEq, Repr

/-- A kerf buffer record (06 R199, R200): `idx` is the tile of an output capture, the row group of an
input capture; `data` are FP32 values, row-major. -/
structure KerfRec where
  input : Bool
  chain : Nat
  layer : Nat
  idx : Nat
  tag : Word
  holdw : Bool
  bad : Bool
  k0 : Nat
  kn : Nat
  poison : BitVec 2
  data : List Nat
deriving DecidableEq, Repr

/-- One chain as a core sees it (06 R189, R206, R208, R212). `frontier` counts final layers: every layer
below it is final and not a reject. -/
structure Chain where
  epoch : Nat := 0
  frontier : Nat := 0
  rejects : Nat := 0
  up : NatMap := []
  early : List LayerVerdict := []
  forced : List Nat := []
  /-- final verdicts of this step that moved the frontier over a checked layer, by layer -/
  finals : List (Nat × Verdict) := []
  /-- rejects acted on in this step: layer from which, and epoch up to which, attempts are dead -/
  dead : List (Nat × Nat) := []
deriving DecidableEq, Repr

def Chain.reset : Chain := {}

/-- The core verdict in the making of an attempt (06 R204). -/
structure Attempt where
  chain : Nat
  layer : Nat
  tag : Word
  worst : Verdict := .pass
  ratio : Nat := 0
  /-- tiles with a verdict -/
  tiles : List Nat := []
  sent : Bool := false
deriving DecidableEq, Repr

/-- A verdict home's tally of an attempt (06 R205). -/
structure Tally where
  tag : Word
  got : List CoreVerdict := []
  final : Bool := false
deriving DecidableEq, Repr

/-- An entry of the selection table (06 R198). -/
structure Sel where
  chain : Nat
  layer : Nat
  ctr : DWord
  windows : Nat
  tiles : Nat
deriving DecidableEq, Repr

/-- An energy grant handle (08 R272): state 1 requested, 2 held, 3 named by a block. -/
structure Grant where
  handle : Nat
  state : Nat
  nj : Nat
  /-- granted, with the charge the grant engine keeps (15 R503) -/
  held : Bool := false
  charge : Nat := 0
deriving DecidableEq, Repr

/-- An entry of the pair table (09 R315): the peer's chip, x, y, the channel, the direction (true sends),
message count, and tokens received and not used. -/
structure Pair where
  send : Bool
  chip : Nat
  x : Nat
  y : Nat
  chan : Nat
  count : Nat := 0
  tokens : List Nat := []
deriving DecidableEq, Repr

/-- Where a stash entry is (10 R358-R366). -/
inductive StashLoc where
  | ring
  | spilling
  | spilled
  | prefetching
  | dropped
deriving DecidableEq, Repr

/-- A stash entry (10 R358): its item header (`item`, without the payload), payload length, frames in the
ring and in the spill area. -/
structure StashEntry where
  id : Nat
  recomp : Bool
  uq : Nat
  use : Nat
  tag : Word
  item : OutItem
  len : Nat
  frames : List Nat
  spill : List Nat := []
  loc : StashLoc := .ring
  pinned : Bool := false
deriving DecidableEq, Repr

/-- The per-core set of a stash controller beside its registers (10 R358-R368). -/
structure Stash where
  entries : List StashEntry := []
  /-- next ring frame to try -/
  next : Nat := 0
  cursor : Nat := 0
  /-- entries named by an STSH in this step -/
  named : List Nat := []
  /-- the UQ of each entry named in this step, plus 1 (08 R291) -/
  uqs : NatMap := []
  /-- the holding STSH, the stash queue end, the tick its hold began, and whether the event was raised -/
  holding : Option Nat := none
  holdQ : Nat := 0
  holdSince : Nat := 0
  holdRaised : Bool := false
  reclaim : Bool := false
  /-- a checkpoint entry being brought for a dropped target (R365) -/
  bringing : Option Nat := none
deriving DecidableEq, Repr

/-- Barrier state of a core beside its registers (09 R332-R335), one per barrier. -/
structure Barrier where
  /-- generations BARV returned on this core -/
  own : Nat := 0
  /-- as local home: arrivals counted, by generation -/
  local_ : NatMap := []
  /-- as global home: part arrivals counted, by generation -/
  parts : NatMap := []
  /-- arrivals held, by generation -/
  held : List Nat := []
  notice : Option Nat := none
  fired : Bool := false
deriving DecidableEq, Repr

def Barrier.reset : Barrier := {}

/-- A slot at a step boundary (03 R108): the top magnitude and scale of the step, the ladder's new format code, and
the register writes that waited for this boundary. -/
structure BndWait where
  slot : Nat
  t : Nat
  scale : Nat
  fmt : Option Nat := none
  cfg : Option Nat := none
  new : Option Nat := none
deriving DecidableEq, Repr

/-- A system message (09 R307 TYPE 9h) whose content the chapters give. -/
inductive SysMsg where
  | coreVerdict (v : CoreVerdict)
  | layerVerdict (v : LayerVerdict)
  | shardAmax (slot amax : Nat) (jit : Option Nat)
  | tensorScale (slot scale : Nat) (jit : Option Nat)
deriving DecidableEq, Repr

/-! Energy events of a core, by the rows of the table of 15 R497; VU lane operations in halves of an FP32 one. -/
abbrev mFe : Nat := 0
abbrev mFe2 : Nat := 1
abbrev mFe1 : Nat := 2
abbrev mBe : Nat := 3
abbrev mBe8 : Nat := 4
abbrev mRead : Nat := 5
abbrev mWrite : Nat := 6
abbrev mTile : Nat := 7
abbrev mConv : Nat := 8
abbrev mVu : Nat := 9
abbrev mKu : Nat := 10
abbrev mSeq : Nat := 11
abbrev mFlit : Nat := 12

/-- One physical core. -/
structure Core where
  regs : Map Nat := []
  store : Bytes := []
  seq : Seq := {}
  fe : Eng := {}
  be : Eng := {}
  q : Map QEnd := []
  ops : List TOp := []
  vuQ : List VuInstr := []
  vuX : List VuExec := []
  ku : List KuInstr := []
  sel : List Sel := []
  kerf : List KerfRec := []
  /-- bytes written into the kerf ring so far, modulo its size (06 R200) -/
  kerfAt : Nat := 0
  /-- operations that wait for kerf buffer space, by place (06 R200) -/
  bufWait : List Nat := []
  chains : Map Chain := []
  attempts : List Attempt := []
  tallies : List Tally := []
  /-- chain and layer pairs left unchecked for want of a selection table entry (06 R198) -/
  unchk : List (Nat × Nat) := []
  /-- chain and layer pairs for which this home raised a numerics fault in this step (06 R208) -/
  forcedAt : List (Nat × Nat) := []
  /-- verdict records waiting for ring space, 16 bytes each, with their interrupt -/
  vrHeld : List (List Byte × Bool) := []
  /-- verdict records that the trace port has not taken, oldest first -/
  vrNew : List (List Byte) := []
  kverd : Bool := false
  fwd : List (Nat × BlockDesc) := []
  bwd : List (Nat × BlockDesc) := []
  /-- blocks dispatched and not complete: program-order number, engine (true BE), grant handle, and the queue
  ends of its conditions -/
  blocks : List (Nat × Bool × Nat × List Nat) := []
  portUntil : Nat := 0
  portBwd : Bool := false
  fwdElig : Nat := 0
  /-- the cycle from which a wait of an eligible forward head on a backward copy still has to be counted (05 R186) -/
  prefAt : Option Nat := none
  sctCfg : List (Nat × Nat) := []
  sctScale : List (Nat × Nat) := []
  /-- retained replay scales: slot, replay (its layer and chain, 64 layer + chain), scale (03 R111) -/
  jit : List (Nat × Nat × Nat) := []
  /-- shard amax messages counted: by slot for the boundary, by 64 (replay + 1) + slot for a replay -/
  shardGot : NatMap := []
  /-- the largest of the boundary amaxes that the shards of a slot have sent -/
  shardMax : NatMap := []
  /-- replay scales a home slot has still to form: slot, replay, format code -/
  jitWait : List (Nat × Nat × Nat) := []
  /-- scales a shard slot waits for: of a replay, or of the boundary (none) -/
  scaleDue : List (Nat × Option Nat) := []
  /-- home slots that wait at step 1 of R108 -/
  bndWait : List BndWait := []
  /-- amax folded into a slot while it waits at step 1 of R108: of the next step -/
  lateMax : NatMap := []
  /-- slots with an amax report of the vector unit in the step (03 R107, R116) -/
  amaxRep : List Nat := []
  /-- UF, SAT and IOVF seen in the running step, by slot: bits 0, 1, 2 (03 R113) -/
  sctSeen : NatMap := []
  rsHeld : List (Nat × Nat × DWord) := []
  grants : List Grant := []
  nextHandle : Nat := 1
  pairs : List Pair := []
  /-- ready tokens that came before their pair had an entry, by message key (09 R313, R315) -/
  loose : List Nat := []
  /-- delivery acknowledgements awaited: program-order number of the SEND, and its message key (09 R313) -/
  owed : List (Nat × Nat) := []
  bar : Map Barrier := []
  stash : Stash := {}
  /-- instructions and operations issued: the program-order number of the next one -/
  nseq : Nat := 0
  step : Nat := 0
  good : Bool := true
  fenced : Bool := false
  /-- bench cycle of the core's engine events so far -/
  cyc : Nat := 0
  progAt : Nat := 0
  progStopped : Bool := false
  /-- events raised and not yet taken by the core fault collector: event code, DETAIL -/
  raised : List (Nat × Nat) := []
  /-- packets handed to the router port -/
  out : List Packet := []
  /-- energy events not yet folded into the bench's energy, by kind (15 R497) -/
  ev : NatMap := []
  /-- words with a double-bit error, by local address: 4 bytes of an SRAM, 8 bytes of core store (08 R258) -/
  upset : List Nat := []
  /-- system messages on their way: chip, x, y of the destination, or every logical core of the job (none), which
  goes at the step boundary -/
  sys : List (Option (Nat × Nat × Nat) × SysMsg) := []
deriving DecidableEq, Repr

def Core.reset : Core := {}

/-- The lines of 64 bytes that a run of bytes touches. -/
def lineCount (a n : Nat) : Nat := if n = 0 then 0 else (a + n - 1) / 64 - a / 64 + 1

/-- Count energy events (15 R497). -/
def Core.count (c : Core) (k n : Nat) : Core := { c with ev := NatMap.wr c.ev k (NatMap.rd c.ev k + n) }

/-- Bytes of the ECC word at a local address (08 R258). -/
def eccWord (w : Nat) : Nat := if w < 0x400000 then 4 else 8

/-- Does a read of `n` bytes at a local address meet a double-bit error? -/
def Core.upsetIn (c : Core) (a n : Nat) : Bool := c.upset.any fun w => decide (w < a + n) && decide (a < w + eccWord w)

/-- A write of `n` bytes at a local address renews the words that it covers (DESIGN CHOICE, log 96). -/
def Core.mend (c : Core) (a n : Nat) : Core :=
  { c with upset := c.upset.filter fun w => !(decide (a ≤ w) && decide (w + eccWord w ≤ a + n)) }

/-- A write of a unit of the core into core store: a reservation on one of its lines ends (08 R255). Reservations
are held by local address div 64, and core store begins at local 40_0000h. -/
def Core.unitWr (c : Core) (a : Nat) (bs : List Byte) : Core :=
  let keeps := fun l => !(decide (0x10000 + a / 64 ≤ l) && decide (l ≤ 0x10000 + (a + bs.length - 1) / 64))
  let c := (c.mend (0x400000 + a) bs.length).count mWrite (lineCount a bs.length)
  { c with store := Bytes.wrN c.store a bs,
           seq := { c.seq with resv := if bs.isEmpty then c.seq.resv else c.seq.resv.filter keeps } }

/-- A write of a unit into the data SRAM, by local address: a reservation on one of its lines ends (08 R255). -/
def Core.dramWr (c : Core) (a : Nat) (bs : List Byte) : Core :=
  let keeps := fun l => !(decide (a / 64 ≤ l) && decide (l ≤ (a + bs.length - 1) / 64))
  let c := c.mend a bs.length
  { c with seq := { c.seq with dram := Bytes.wrN c.seq.dram a bs
                               resv := if bs.isEmpty then c.seq.resv else c.seq.resv.filter keeps } }

/-- A register of the core, by window offset. -/
def Core.reg (c : Core) (a : Nat) : Nat := Map.get coreReset c.regs a

def Core.setReg (c : Core) (a v : Nat) : Core := { c with regs := Map.put coreReset c.regs a v }

/-- Write a field of a register, whatever its access type. -/
def Core.setField (c : Core) (a lo n v : Nat) : Core := c.setReg a (Sys2Proof.setField (c.reg a) lo n v)

/-- A 64-bit event counter that wraps. -/
def Core.bump (c : Core) (a n : Nat) : Core := c.setReg a ((c.reg a + n) % 2 ^ 64)

def Core.eng (c : Core) (be : Bool) : Eng := if be then c.be else c.fe
def Core.setEng (c : Core) (be : Bool) (e : Eng) : Core := if be then { c with be := e } else { c with fe := e }
def Core.qend (c : Core) (n : Nat) : QEnd := Map.get (fun _ => ({} : QEnd)) c.q n
def Core.setQend (c : Core) (n : Nat) (x : QEnd) : Core := { c with q := Map.put (fun _ => ({} : QEnd)) c.q n x }
def Core.chain (c : Core) (n : Nat) : Chain := Map.get (fun _ => Chain.reset) c.chains n
def Core.setChain (c : Core) (n : Nat) (x : Chain) : Core :=
  { c with chains := Map.put (fun _ => Chain.reset) c.chains n x }
def Core.barrier (c : Core) (n : Nat) : Barrier := Map.get (fun _ => Barrier.reset) c.bar n
def Core.setBarrier (c : Core) (n : Nat) (x : Barrier) : Core :=
  { c with bar := Map.put (fun _ => Barrier.reset) c.bar n x }

/-- Raise an event to the core fault collector (13 R452). -/
def Core.raise (c : Core) (ev detail : Nat) : Core := { c with raised := c.raised ++ [(ev, detail)] }

/-- A read that met a double-bit error: it counts in SEQ_ECC, and a core-memory event is raised (08 R258). -/
def Core.memErr (c : Core) : Core :=
  (c.setField rSEQ_ECC 16 16 (min (field (c.reg rSEQ_ECC) 16 16 + 1) 0xFFFF)).raise evCoreMemory 0

/-- A unit's read of core store at an offset: its lines count, and a double-bit error is reported. -/
def Core.unitRd (c : Core) (a n : Nat) : Core :=
  let c := c.count mRead (lineCount a n)
  if c.upsetIn (0x400000 + a) n then c.memErr else c

/-- UP(c, L) (06 R208). -/
def Core.up (c : Core) (ch l : Nat) : Nat := NatMap.rd (c.chain ch).up l

end Sys2Proof.Machine
end

