-- ==== Sys2Proof/Machine/Float.lean ====
section
/-!
DEFINITION. Floating-point values as exact rationals, and their one rounding (02 R56, R62, R65-R71).
Every result of the part is an exact value rounded once; this file holds the formats, the rounding,
and the flags.
-/
namespace Sys2Proof.Machine

/-- A binary floating-point format: exponent and fraction widths. -/
structure FpFmt where
  ebits : Nat
  fbits : Nat
deriving DecidableEq, Repr

def fp32 : FpFmt := ⟨8, 23⟩
def fp64 : FpFmt := ⟨11, 52⟩
def bf16 : FpFmt := ⟨8, 7⟩
def fp16 : FpFmt := ⟨5, 10⟩
/-- Run format of the forward engine (R56). -/
def af24 : FpFmt := ⟨8, 15⟩
/-- Run format of the backward engine (R56). -/
def ab19 : FpFmt := ⟨8, 10⟩
/-- G8 has the IEEE pattern (R54). -/
def g8fmt : FpFmt := ⟨5, 2⟩

/-- Rounding directions (R66). -/
inductive RoundMode where
  | tiesEven
  | towardZero
  | towardNeg
  | towardPos
  | tiesAway
deriving DecidableEq, Repr

/-- The five exception flags (R67). -/
structure Flags where
  nv : Bool := false
  dz : Bool := false
  of : Bool := false
  uf : Bool := false
  nx : Bool := false
deriving DecidableEq, Repr

def Flags.or (a b : Flags) : Flags :=
  ⟨a.nv || b.nv, a.dz || b.dz, a.of || b.of, a.uf || b.uf, a.nx || b.nx⟩

/-- A decoded value. A NaN keeps its fraction bits; a zero keeps its sign. -/
inductive FpVal where
  | nan (neg : Bool) (frac : Nat) (signalling : Bool)
  | inf (neg : Bool)
  | fin (neg : Bool) (mag : Rat)
deriving DecidableEq, Repr

/-- 2^k. -/
def pow2 (k : Int) : Rat := if 0 ≤ k then ((2 ^ k.toNat : Nat) : Rat) else 1 / ((2 ^ (-k).toNat : Nat) : Rat)

def FpFmt.bias (f : FpFmt) : Nat := 2 ^ (f.ebits - 1) - 1
def FpFmt.width (f : FpFmt) : Nat := 1 + f.ebits + f.fbits
def FpFmt.emin (f : FpFmt) : Int := 1 - (f.bias : Int)
/-- The encoding of infinity without its sign. -/
def FpFmt.infCode (f : FpFmt) : Nat := (2 ^ f.ebits - 1) * 2 ^ f.fbits
def FpFmt.signBit (f : FpFmt) (neg : Bool) : Nat := if neg then 2 ^ (f.ebits + f.fbits) else 0
def FpFmt.infBits (f : FpFmt) (neg : Bool) : Nat := f.signBit neg + f.infCode
/-- The canonical NaN: sign 0, the top fraction bit alone (R62, R69). -/
def FpFmt.canonNaN (f : FpFmt) : Nat := f.infCode + 2 ^ (f.fbits - 1)
def FpFmt.maxFinite (f : FpFmt) (neg : Bool) : Nat := f.signBit neg + (f.infCode - 1)

/-- The value of a code. -/
def FpFmt.decode (f : FpFmt) (x : Nat) : FpVal :=
  let neg := bitOf x (f.ebits + f.fbits)
  let e := field x f.fbits f.ebits
  let m := field x 0 f.fbits
  if e = 2 ^ f.ebits - 1 then
    if m = 0 then .inf neg else .nan neg m (!bitOf m (f.fbits - 1))
  else if e = 0 then .fin neg ((m : Rat) * pow2 (f.emin - f.fbits))
  else .fin neg (((m + 2 ^ f.fbits : Nat) : Rat) * pow2 ((e : Int) - f.bias - f.fbits))

/-- floor(log2 q) of a positive rational. -/
def ratLog2 (q : Rat) : Int :=
  let g : Int := (Nat.log2 q.num.toNat : Int) - (Nat.log2 q.den : Int)
  if pow2 g ≤ q then g else g - 1

/-- The integer to which a non-negative rational rounds in a direction, for a value of sign `neg`. -/
def roundInt (rm : RoundMode) (neg : Bool) (q : Rat) : Nat :=
  let i := q.floor.toNat
  let r := q - (i : Rat)
  let up := match rm with
    | .tiesEven => decide (r > 1 / 2) || (decide (r = 1 / 2) && decide (i % 2 = 1))
    | .tiesAway => decide (r ≥ 1 / 2)
    | .towardZero => false
    | .towardNeg => neg && decide (r > 0)
    | .towardPos => !neg && decide (r > 0)
  if up then i + 1 else i

/-- Round a finite magnitude into a format: the code and the flags OF, UF, NX.
Tininess is detected after rounding (R68); UF is set only with an inexact result. -/
def FpFmt.round (f : FpFmt) (rm : RoundMode) (neg : Bool) (mag : Rat) : Nat × Flags :=
  if mag ≤ 0 then (f.signBit neg, {}) else
  let e := ratLog2 mag
  let ee := max e f.emin
  let q := mag / pow2 (ee - f.fbits)
  let n := roundInt rm neg q
  let exact := decide ((n : Rat) = q)
  let code := (ee - f.emin).toNat * 2 ^ f.fbits + n
  let overflow := decide (code ≥ f.infCode)
  let free := roundInt rm neg (mag / pow2 (e - f.fbits))
  let tiny := decide ((free : Rat) * pow2 (e - f.fbits) < pow2 f.emin)
  if overflow then
    let toInf := match rm with
      | .tiesEven => true
      | .tiesAway => true
      | .towardZero => false
      | .towardNeg => neg
      | .towardPos => !neg
    (if toInf then f.infBits neg else f.maxFinite neg, { of := true, nx := true })
  else (f.signBit neg + code, { uf := tiny && !exact, nx := !exact })

/-- Round a signed rational; an exact zero takes the sign given. -/
def FpFmt.roundQ (f : FpFmt) (rm : RoundMode) (zeroNeg : Bool) (q : Rat) : Nat × Flags :=
  if q = 0 then (f.signBit zeroNeg, {}) else f.round rm (decide (q < 0)) (abs q)

/-- The signed value of a finite number. -/
def signedQ (neg : Bool) (mag : Rat) : Rat := if neg then -mag else mag

/-- The sign of an exact zero sum of two values (R60; IEEE 754 clause 6.3). -/
def zeroSumSign (rm : RoundMode) (an bn : Bool) (bothZero : Bool) : Bool :=
  if bothZero && (an == bn) then an else decide (rm = .towardNeg)

/-- An engine value encoded to nearest even, with every NaN canonical (R56, R62). -/
def FpFmt.encEng (f : FpFmt) : FpVal → Nat
  | .nan _ _ _ => f.canonNaN
  | .inf n => f.infBits n
  | .fin n m => (f.round .tiesEven n m).1

/-- An addition inside an engine: one rounding to nearest even, canonical NaN, no flags
(R56, R60, R61, R70). -/
def engAdd (f : FpFmt) (a b : FpVal) : Nat :=
  match a, b with
  | .nan _ _ _, _ => f.canonNaN
  | _, .nan _ _ _ => f.canonNaN
  | .inf x, .inf y => if x = y then f.infBits x else f.canonNaN
  | .inf x, _ => f.infBits x
  | _, .inf y => f.infBits y
  | .fin an am, .fin bn bm =>
    let q := signedQ an am + signedQ bn bm
    (f.roundQ .tiesEven (zeroSumSign .tiesEven an bn (decide (am = 0) && decide (bm = 0))) q).1

/-- A code of one format added to a code of another, in the second format. -/
def engAddBits (fa fb : FpFmt) (a b : Nat) : Nat := engAdd fb (fa.decode a) (fb.decode b)

/-- FP32 multiplication inside the part under IEEE 754 rules, canonical NaN. -/
def engMul (f : FpFmt) (a b : FpVal) : Nat :=
  match a, b with
  | .nan _ _ _, _ => f.canonNaN
  | _, .nan _ _ _ => f.canonNaN
  | .inf x, .inf y => f.infBits (x != y)
  | .inf x, .fin y m => if m = 0 then f.canonNaN else f.infBits (x != y)
  | .fin x m, .inf y => if m = 0 then f.canonNaN else f.infBits (x != y)
  | .fin x m, .fin y n => (f.round .tiesEven (x != y) (m * n)).1

/-- Is the code finite? -/
def FpFmt.isFinite (f : FpFmt) (x : Nat) : Bool := decide (field x f.fbits f.ebits ≠ 2 ^ f.ebits - 1)

def FpFmt.isNaN (f : FpFmt) (x : Nat) : Bool :=
  decide (field x f.fbits f.ebits = 2 ^ f.ebits - 1) && decide (field x 0 f.fbits ≠ 0)

/-- The code without its sign: for finite codes the order of magnitudes is the order of these numbers. -/
def FpFmt.magBits (f : FpFmt) (x : Nat) : Nat := field x 0 (f.ebits + f.fbits)

/-- The magnitude of a finite FP32 code as a rational; 0 for others. -/
def fp32Mag (x : Nat) : Rat := match fp32.decode x with
  | .fin _ m => m
  | _ => 0

/-- The larger of two finite FP32 magnitudes given as codes. -/
def maxMag32 (a b : Nat) : Nat := max (fp32.magBits a) (fp32.magBits b)

/-- A positive, normal, finite FP32 tensor scale (R43). -/
def scaleOk (s : Nat) : Bool := decide (0x00800000 ≤ s) && decide (s ≤ 0x7F7FFFFF)

/-- A rational rounded to FP32 and clamped into the range of R43 (R106). -/
def scaleOf (q : Rat) : Nat :=
  let c := (fp32.round .tiesEven false q).1
  if c < 0x00800000 then 0x00800000 else if c > 0x7F7FFFFF then 0x7F7FFFFF else c

end Sys2Proof.Machine
end

