-- ==== Sys2Proof/Machine/Formats.lean ====
section
/-!
DEFINITION. Narrow formats and their packing (02 R38-R55), quantisation and dequantisation
(02 R51, R63; 03 R81-R103) and the Microscaling conversions (02 R72-R78).
-/
namespace Sys2Proof.Machine

/-! ### Format codes (R38) -/

def fmtIsN (c : Nat) : Bool := decide (c ≤ 7)
def fmtIsG (c : Nat) : Bool := decide (8 ≤ c) && decide (c ≤ 10)
def fmtIsNarrow (c : Nat) : Bool := decide (c ≤ 10)
/-- FP32, BF16, FP16: the wide side of the edge converters. -/
def fmtIsWideEdge (c : Nat) : Bool := c == 0x0C || c == 0x0E || c == 0x0F
def fmtIsWide (c : Nat) : Bool := decide (0x0C ≤ c) && decide (c ≤ 0x0F)
def fmtIsMX (c : Nat) : Bool := decide (0x10 ≤ c) && decide (c ≤ 0x15)
def fmtReserved (c : Nat) : Bool := c == 0x0B || decide (c ≥ 0x16)

/-- Width of one element's code in bits, by format code; 0 for reserved codes. -/
def fmtWidth (c : Nat) : Nat :=
  if c ≤ 7 then c + 1 else if c = 8 then 4 else if c = 9 then 6 else if c = 10 then 8
  else if c = 0x0C then 32 else if c = 0x0D then 64 else if c = 0x0E then 16 else if c = 0x0F then 16
  else if c = 0x10 then 8 else if c = 0x11 then 8 else if c = 0x12 then 6 else if c = 0x13 then 6
  else if c = 0x14 then 4 else if c = 0x15 then 8 else 0

/-- Container width in a tile register (R38). -/
def containerWidth (c : Nat) : Nat :=
  if c = 0 then 1 else if c = 1 then 2 else if c = 2 then 4 else if c = 3 then 4 else if c = 8 then 4 else 8

/-- A code as a unit that moves it writes it: every G8 NaN is 7Eh (R54, R62). -/
def canonCode (c code : Nat) : Nat :=
  if c = 10 ∧ code % 128 > 0x7C then 0x7E else code

/-- Elements a tile register holds (R46). -/
def tileCapacity (c : Nat) : Nat := 65536 / containerWidth c

/-- Bytes of the code array of one 32-element block (R44). -/
def blockBytes (c : Nat) : Nat := 4 * fmtWidth c

/-- Format byte of R40: a format error on reserved bits, or INL with another format than N2-N8. -/
def fmtByteBad (b : Nat) : Bool :=
  let f := field b 0 5
  decide (field b 6 2 ≠ 0) || (bitOf b 5 && !(decide (1 ≤ f) && decide (f ≤ 7))) || fmtReserved f

def fmtOf (b : Nat) : Nat := field b 0 5
def inlOf (b : Nat) : Bool := bitOf b 5

/-- Top magnitude t (R81). DESIGN CHOICE, log 80: R81 gives no t for a format byte that is neither N nor G, and
step 4 of R108 asks for one; it is taken as 57,344. -/
def topMag (c : Nat) : Nat :=
  if c = 0 then 1 else if c ≤ 7 then 2 ^ c - 1 else if c = 8 then 6 else if c = 9 then 28 else 57344

def gFmt (c : Nat) : FpFmt := if c = 8 then ⟨2, 1⟩ else if c = 9 then ⟨3, 2⟩ else ⟨5, 2⟩

/-- The inlay code of an N format: the most negative code (R48). -/
def inlayCode (c : Nat) : Nat := 2 ^ c

/-- The integer of an N code (R48, R50). -/
def nInt (c code : Nat) : Int :=
  if c = 0 then (if code % 2 = 1 then -1 else 1) else signedOf (c + 1) code

/-- d(code) of a G code (R52-R54). -/
def gVal (c code : Nat) : FpVal :=
  let f := gFmt c
  let neg := bitOf code (f.ebits + f.fbits)
  let e := field code f.fbits f.ebits
  let m := field code 0 f.fbits
  if c = 10 ∧ e = 31 then (if m = 0 then .inf neg else .nan neg m false)
  else if e = 0 then .fin neg ((m : Rat) * pow2 (f.emin - f.fbits))
  else .fin neg (((m + 2 ^ f.fbits : Nat) : Rat) * pow2 ((e : Int) - f.bias - f.fbits))

/-- The G code of a magnitude on the format's grid. -/
def gEncode (c : Nat) (neg : Bool) (mag : Rat) : Nat :=
  let f := gFmt c
  let ee := max (if mag ≤ 0 then f.emin else ratLog2 mag) f.emin
  let n := (mag / pow2 (ee - f.fbits)).floor.toNat
  f.signBit neg + ((ee - f.emin).toNat * 2 ^ f.fbits + n)

/-- Value scaling by a block exponent byte and a tensor scale (R41, R42). -/
def blockScale (e : Nat) (s : Rat) : Rat := pow2 ((e : Int) - 127) * s

/-- A code dequantised to FP32 with one rounding (R51, R94); an inlay code is not decoded here. -/
def dequant (c code e : Nat) (s : Rat) : Nat :=
  if fmtIsN c then
    let d := nInt c code
    (fp32.roundQ .tiesEven false ((d : Rat) * blockScale e s)).1
  else match gVal c code with
    | .nan _ _ _ => fp32.canonNaN
    | .inf n => fp32.infBits n
    | .fin n m => (fp32.round .tiesEven n (m * blockScale e s)).1

/-! ### Packing (R44, R46) -/

/-- Codes packed into little-endian bytes, `w` bits each. -/
def packCodes (w : Nat) (codes : List Nat) : List Byte :=
  let n := (codes.foldr (fun c acc => c % 2 ^ w + acc * 2 ^ w) 0)
  leBytes ((w * codes.length + 7) / 8) n

/-- Element `j` of a packed array of `w`-bit codes. -/
def packedCode (w : Nat) (bytes : List Byte) (j : Nat) : Nat :=
  field (leNat ((bytes.drop (w * j / 8)).take (w / 8 + 2))) (w * j % 8) w

/-- `n` codes from a packed array. -/
def unpackCodes (w : Nat) (bytes : List Byte) (n : Nat) : List Nat :=
  (List.range n).map (packedCode w bytes)

/-- A code extended to its container: sign-extended for N, zero-extended for G (R46). -/
def toContainer (c code : Nat) : Nat :=
  if c = 2 then wrapInt 4 (signedOf 3 code)
  else if 4 ≤ c ∧ c ≤ 7 then wrapInt 8 (signedOf (c + 1) code)
  else code % 2 ^ fmtWidth c

/-- The code in a container. -/
def fromContainer (c x : Nat) : Nat := x % 2 ^ fmtWidth c

/-! ### Random streams (R95) -/

/-- One draw: bits [63:32] of the mixed counter. -/
def rsDraw (key ctr : DWord) : Nat :=
  let z := ctr ^^^ key
  let z := (z ^^^ (z >>> 31)) * 0xA54F2C7B91D36E0B#64
  let z := (z ^^^ (z >>> 29)) * 0x8E3BD52F47A9C1E5#64
  let z := z + key
  let z := (z ^^^ (z >>> 32)) * 0xD1F60B93E2C75A4D#64
  let z := (z ^^^ (z >>> 27)) * 0xB7C294E13F5AD86F#64
  let z := z ^^^ (z >>> 33)
  (z >>> 32).toNat

/-! ### Block exponent and rounding (R82-R93) -/

/-- Parameters of one conversion into a narrow format. `shift` is INL_SHIFT; `theta` follows R99. -/
structure QCfg where
  fmt : Nat
  inl : Bool
  scale : Rat
  shift : Nat
  key : DWord := 0
deriving DecidableEq, Repr

/-- θ = t × S × 2^-INL_SHIFT (R99). -/
def QCfg.theta (q : QCfg) : Rat := (topMag q.fmt : Rat) * q.scale * pow2 (-(q.shift : Int))

/-- The class of an element (R82); `none` is padding. -/
inductive ElemClass where
  | padding
  | nanE
  | infE (neg : Bool)
  | outlier (neg : Bool) (mag : Rat)
  | inlier (neg : Bool) (mag : Rat)
deriving DecidableEq, Repr

def classify (q : QCfg) : Option Nat → ElemClass
  | none => .padding
  | some x => match fp32.decode x with
    | .nan _ _ _ => .nanE
    | .inf n => .infE n
    | .fin n m => if q.inl && decide (m > q.theta) then .outlier n m else .inlier n m

/-- The smallest e with a ≤ t × S × 2^e, for a > 0 (R83), before the clamps. -/
def rawExp (a tS : Rat) : Int :=
  let r := a / tS
  let g := ratLog2 r
  if pow2 g = r then g else g + 1

/-- Rounding of |q| under stochastic rounding (R92): the magnitude. -/
def stochMag (c draw : Nat) (q : Rat) : Rat :=
  if q ≤ 0 then 0 else
  let f := gFmt c
  let k : Int := ratLog2 q - 23
  let m : Nat := (q / pow2 k).floor.toNat
  let v : Int := max (ratLog2 q) (1 - (f.bias : Int)) - f.fbits
  let d : Int := v - k
  if d ≤ 0 then (m : Rat) * pow2 k
  else
    let dd : Nat := min d.toNat 32
    let q' : Rat := (m : Rat) * pow2 k
    let i : Nat := (q' / pow2 v).floor.toNat
    let l : Nat := (q' / pow2 (v - dd)).floor.toNat % 2 ^ dd
    let rd := draw >>> (32 - dd)
    ((if l + rd ≥ 2 ^ dd then i + 1 else i : Nat) : Rat) * pow2 v

/-- The N code of a finite element at exponent e (R87-R89): the code, and whether it clamped. -/
def nCode (q : QCfg) (e : Int) (neg : Bool) (mag : Rat) : Nat × Bool :=
  if q.fmt = 0 then ((if neg && decide (mag > 0) then 1 else 0), false) else
  let w := q.fmt + 1
  let r : Int := (roundInt .tiesEven neg (mag / (q.scale * pow2 e)) : Nat)
  let r := if neg then -r else r
  let hi : Int := topMag q.fmt
  let lo : Int := if q.inl then -hi else -(2 ^ q.fmt : Nat)
  if r > hi then (wrapInt w hi, true) else if r < lo then (wrapInt w lo, true) else (wrapInt w r, false)

/-- The G code of a finite element (R91, R92): the code, and whether it saturated. -/
def gCode (q : QCfg) (e : Int) (draw : Nat) (neg : Bool) (mag : Rat) : Nat × Bool :=
  let x := mag / (q.scale * pow2 e)
  let t : Rat := (topMag q.fmt : Nat)
  if x > t then (gEncode q.fmt neg t, true) else (gEncode q.fmt neg (stochMag q.fmt draw x), false)

/-- What one block conversion yields. -/
structure QBlock where
  codes : List Nat
  exp : Nat
  /-- inlay list entries assigned in this block, in order -/
  inlays : List Nat := []
  uf : Bool := false
  sat : Bool := false
  extras : Nat := 0
  nonfinite : Bool := false
deriving DecidableEq, Repr

/-- Convert one block of 32 elements; `used` inlay entries of the tile are taken already, and the
block's draws start at counter `ctr` (R82-R93, R101). -/
def quantBlock (q : QCfg) (used : Nat) (ctr : DWord) (elems : List (Option Nat)) : QBlock :=
  let cls := elems.map (classify q)
  let isG := fmtIsG q.fmt
  if cls.any (· == .nanE) && q.fmt != 10 then
    { codes := elems.map fun _ => 0, exp := 0, nonfinite := true }
  else
    let hasInf := cls.any fun c => match c with | .infE _ => true | _ => false
    let hasOut := cls.any fun c => match c with | .outlier _ _ => true | _ => false
    let a0 : Rat := cls.foldl (fun m c => match c with | .inlier _ x => max m x | _ => m) 0
    let a : Rat := if a0 = 0 && hasOut then q.theta else a0
    if a = 0 && !hasInf then
      { codes := cls.map fun c => match c with
          | .inlier n _ => if isG then gEncode q.fmt n 0 else 0
          | .nanE => 0x7E
          | _ => 0
        exp := 0 }
    else
      let e0 : Int := if a = 0 then 127 else rawExp a ((topMag q.fmt : Rat) * q.scale)
      let atFloor := decide (e0 < -126)
      let e : Int := if e0 < -126 then -126 else if e0 > 127 then 127 else e0
      let ceil := decide (e0 > 127)
      let step := fun (st : List Nat × List Nat × Bool × Nat × Nat) (c : ElemClass) =>
        let (codes, inl, sat, ext, j) := st
        let draw := rsDraw q.key (ctr + BitVec.ofNat 64 j)
        match c with
        | .padding => (0 :: codes, inl, sat, ext, j + 1)
        | .nanE => (0x7E :: codes, inl, sat, ext, j + 1)
        | .infE n =>
          if q.fmt = 10 then (g8fmt.infBits n :: codes, inl, sat, ext, j + 1)
          else if isG then (gEncode q.fmt n (topMag q.fmt : Nat) :: codes, inl, true, ext, j + 1)
          else if q.fmt = 0 then (b2n n :: codes, inl, sat, ext, j + 1)
          else
            let top : Int := if n then -(topMag q.fmt : Int) else topMag q.fmt
            (wrapInt (q.fmt + 1) top :: codes, inl, true, ext, j + 1)
        | .inlier n m =>
          let (k, s) := if isG then gCode q e draw n m else nCode q e n m
          (k :: codes, inl, sat || (s && ceil), ext, j + 1)
        | .outlier n m =>
          if used + inl.length < 16 then
            (inlayCode q.fmt :: codes, (fp32.round .tiesEven n m).1 :: inl, sat, ext, j + 1)
          else
            let (k, _) := nCode q e n m
            (k :: codes, inl, sat, ext + 1, j + 1)
      let (codes, inl, sat, ext, _) := cls.foldl step ([], [], false, 0, 0)
      let zero := (cls.zip codes.reverse).all fun (c, k) =>
        decide (c = .padding) || (if isG then decide (field k 0 (fmtWidth q.fmt - 1) = 0) else decide (k = 0))
      let under := atFloor && zero && decide (q.fmt ≠ 0)
      { codes := codes.reverse, exp := if under then 0 else (e + 127).toNat, inlays := inl.reverse,
        uf := under, sat := sat, extras := ext }

/-- What a whole conversion yields, block by block. -/
structure QResult where
  codes : List Nat := []
  exps : List Nat := []
  /-- one list of entries per inlay tile -/
  lists : List (List Nat) := []
  uf : Nat := 0
  sat : Nat := 0
  iovf : Nat := 0
  nonfinite : Bool := false
  /-- step amax of the elements read, as an FP32 magnitude code (R107) -/
  amax : Nat := 0
  blocks : Nat := 0
deriving DecidableEq, Repr

/-- One more block; a new inlay tile starts every 256 blocks of the operation (R100). -/
def quantStep (q : QCfg) (ctr : DWord) (r : QResult) (elems : List (Option Nat)) : QResult :=
  let newTile := decide (r.blocks % 256 = 0)
  let lists := if newTile then r.lists ++ [[]] else r.lists
  let cur := lists.getLastD []
  let b := quantBlock q cur.length (ctr + BitVec.ofNat 64 (32 * r.blocks)) elems
  let am := elems.foldl (fun m x => match x with
    | some v => if fp32.isFinite v then maxMag32 m v else m
    | none => m) r.amax
  { codes := r.codes ++ b.codes, exps := r.exps ++ [b.exp], lists := lists.dropLast ++ [cur ++ b.inlays],
    uf := r.uf + b2n b.uf, sat := r.sat + b2n b.sat, iovf := r.iovf + b.extras,
    nonfinite := r.nonfinite || b.nonfinite, amax := am, blocks := r.blocks + 1 }

/-- Convert a list of blocks of 32 elements. -/
def quantise (q : QCfg) (ctr : DWord) (blocks : List (List (Option Nat))) : QResult :=
  blocks.foldl (quantStep q ctr) {}

/-- Rows of `k` elements cut into padded blocks of 32 (R45). -/
def rowBlocks (k : Nat) (row : List Nat) : List (List (Option Nat)) :=
  (List.range (ceilDiv k 32)).map fun b =>
    (List.range 32).map fun j => if 32 * b + j < k then some (row.getD (32 * b + j) 0) else none

/-- The 80-byte inlay record (R102). -/
def inlayRecord (entries : List Nat) : List Byte :=
  leBytes 4 entries.length ++ List.replicate 12 0 ++
    ((List.range 16).flatMap fun k => leBytes 4 (entries.getD k 0))

def recordCount (r : List Byte) : Nat := field (listLe r 0 4) 0 5
def recordEntry (r : List Byte) (k : Nat) : Nat := listLe r (16 + 4 * k) 4
/-- The reserved fields of a record (R102, R103). -/
def recordReservedBad (r : List Byte) : Bool :=
  decide (listLe r 0 4 / 32 ≠ 0) || ((r.drop 4).take 12).any (· != 0)

/-! ### Microscaling (R72-R78) -/

/-- Signed shift right with rounding to nearest even (R75). -/
def shiftRne (x : Int) (s : Nat) : Int :=
  let r : Int := roundInt .tiesEven (decide (x < 0)) ((x.natAbs : Rat) / (2 ^ s : Nat))
  if x < 0 then -r else r

/-- MXFP8 E4M3 value: bias 7; S.1111.111 is NaN; no infinity (R76). -/
def e4m3Val (code : Nat) : FpVal :=
  let neg := bitOf code 7
  let e := field code 3 4
  let m := field code 0 3
  if e = 15 ∧ m = 7 then .nan neg 1 false
  else if e = 0 then .fin neg ((m : Rat) * pow2 (-9))
  else .fin neg (((m + 8 : Nat) : Rat) * pow2 ((e : Int) - 10))

/-- E4M3 encoding of a magnitude, rounded to nearest even; saturates above 448. -/
def e4m3Enc (neg : Bool) (mag : Rat) : Nat × Bool :=
  let s := if neg then 128 else 0
  if mag > 448 then (s + 0x7E, true) else if mag ≤ 0 then (s, false) else
  let ee := max (ratLog2 mag) (-6)
  let n := roundInt .tiesEven neg (mag / pow2 (ee - 3))
  (s + ((ee + 6).toNat * 8 + n), false)

/-- E2M3 value as k/8: the integer k from -60 to 60 (R72). -/
def e2m3K (code : Nat) : Int :=
  let e := field code 3 2
  let m := field code 0 3
  let k : Int := if e = 0 then m else ((m + 8) * 2 ^ (e - 1) : Nat)
  if bitOf code 5 then -k else k

/-- The native peer's format code of an MX import (R72). -/
def mxPeer (mx : Nat) : Nat :=
  if mx = 0x14 then 8 else if mx = 0x13 then 9 else if mx = 0x11 then 10 else if mx = 0x10 then 10
  else if mx = 0x12 then 6 else 7

/-- One imported block: codes, exponent, underflow, non-finite error (R72, R75-R77). -/
structure MxBlock where
  codes : List Nat
  exp : Nat
  uf : Bool := false
  sat : Bool := false
  nonfinite : Bool := false
deriving DecidableEq, Repr

/-- Integer import with an exponent offset (R75): offset 6 for MXINT8, 3 for E2M3. -/
def mxImportInt (w off x : Nat) (ks : List Int) : MxBlock :=
  if x ≤ off then
    let ks := ks.map fun k => shiftRne k (off + 1 - x)
    let zero := ks.all (· == 0)
    { codes := ks.map (wrapInt w), exp := if zero then 0 else 1, uf := zero }
  else { codes := ks.map (wrapInt w), exp := x - off }

def mxImport (mx x : Nat) (codes : List Nat) : MxBlock :=
  if x = 0xFF then
    (if mx = 0x10 ∨ mx = 0x11 then { codes := codes.map fun _ => 0x7E, exp := 0 }
     else { codes := codes.map fun _ => 0, exp := 0, nonfinite := true })
  else if mx = 0x12 then mxImportInt 7 3 x (codes.map e2m3K)
  else if mx = 0x15 then mxImportInt 8 6 x (codes.map (signedOf 8))
  else if mx = 0x11 then
    { codes := codes.map fun c => match gVal 10 c with | .nan _ _ _ => 0x7E | _ => c, exp := x }
  else if mx = 0x10 then
    { codes := codes.map fun c => match e4m3Val c with
        | .nan _ _ _ => 0x7E
        | .inf n => g8fmt.infBits n
        | .fin n m => (g8fmt.round .tiesEven n m).1
      exp := x }
  else { codes := codes, exp := x }

/-- Is the export offered (R72)? -/
def mxExportOk (native mx : Nat) : Bool :=
  (native == 8 && mx == 0x14) || (native == 9 && mx == 0x13) ||
  (native == 10 && (mx == 0x11 || mx == 0x10)) || (decide (native ≤ 7) && mx == 0x15)

/-- One exported block; `none` is a format error (R72, R75, R76). -/
def mxExport (native mx e : Nat) (codes : List Nat) : Option MxBlock :=
  if !mxExportOk native mx then none
  else if native ≤ 7 then
    if e > 0xF8 then none
    else some { codes := codes.map fun c => wrapInt 8 (nInt native c), exp := e + 6 }
  else if mx = 0x10 then
    let r := codes.map fun c => match gVal 10 c with
      | .nan _ _ _ => (0x7F, false)
      | .inf n => ((if n then 0xFE else 0x7E), true)
      | .fin n m => e4m3Enc n m
    some { codes := r.map (·.1), exp := e, sat := r.any (·.2) }
  else if mx = 0x11 then
    some { codes := codes.map fun c => match gVal 10 c with | .nan _ _ _ => 0x7E | _ => c, exp := e }
  else some { codes := codes, exp := e }

/-- An element that a mover copies: NaN payloads and signs are not kept (R54, R62). -/
def canonElem (c x : Nat) : Nat :=
  if c = 0x0C then (if fp32.isNaN x then fp32.canonNaN else x)
  else if c = 0x0D then (if fp64.isNaN x then fp64.canonNaN else x)
  else if c = 0x0E then (if bf16.isNaN x then bf16.canonNaN else x)
  else if c = 0x0F then (if fp16.isNaN x then fp16.canonNaN else x)
  else canonCode c x

/-- BF16 or FP16 widened to FP32, exact, with a canonical NaN (R71). -/
def widen (c x : Nat) : Nat :=
  if c = 0x0E then fp32.encEng (bf16.decode x)
  else if c = 0x0F then fp32.encEng (fp16.decode x)
  else x

end Sys2Proof.Machine
end

