-- ==== Sys2Proof/Machine/Operands.lean ====
section
/-!
DEFINITION. Operand forms: operation descriptors (08 R284-R291), VU and KU words (07 R245-R249), and
address words (08 R288).
-/
namespace Sys2Proof.Machine

/-! ### Operation descriptors -/

def dLe (d : List Byte) (i n : Nat) : Nat := listLe d i n

/-- Operation codes (R284). -/
abbrev opCVT := 1
abbrev opPDRN := 2
abbrev opLDT := 3
abbrev opRED := 4
abbrev opSEND := 5
abbrev opRECV := 6
abbrev opSTSH := 7
abbrev opUSTH := 8
abbrev opIGTH := 9
abbrev opKCAP := 10
abbrev opDACC := 11
abbrev opMOV := 12

def dOp (d : List Byte) : Nat := dLe d 0 1
def dQA (d : List Byte) : Nat := field (dLe d 1 1) 0 4
def dQB (d : List Byte) : Nat := field (dLe d 1 1) 4 4
def dQD (d : List Byte) : Nat := field (dLe d 2 1) 0 4
def dQAV (d : List Byte) : Bool := bitOf (dLe d 2 1) 4
def dQBV (d : List Byte) : Bool := bitOf (dLe d 2 1) 5
def dQDV (d : List Byte) : Bool := bitOf (dLe d 2 1) 6
def dTag (d : List Byte) : Word := BitVec.ofNat 32 (dLe d 4 4)
def dChain (d : List Byte) : Nat := field (dLe d 8 4) 0 6
def dLayer (d : List Byte) : Nat := field (dLe d 8 4) 6 10
def dRCV (d : List Byte) : Bool := bitOf (dLe d 8 4) 16

/-- CVT, PDRN and KCAP fields (R287). -/
def dDir (d : List Byte) : Nat := field (dLe d 16 1) 0 2
def dDFmt (d : List Byte) : Nat := dLe d 17 1
def dSlot (d : List Byte) : Nat := field (dLe d 18 1) 0 6
def dTReg (d : List Byte) : Nat := field (dLe d 19 1) 0 5
def dEng (d : List Byte) : Bool := bitOf (dLe d 19 1) 5
def dHalf (d : List Byte) : Nat := field (dLe d 19 1) 6 1
def dOLayer (d : List Byte) : Nat := field (dLe d 20 4) 0 10
def dILayer (d : List Byte) : Nat := field (dLe d 20 4) 10 10
def dCapO (d : List Byte) : Bool := bitOf (dLe d 20 4) 20
def dCapI (d : List Byte) : Bool := bitOf (dLe d 20 4) 21
def dHoldW (d : List Byte) : Bool := bitOf (dLe d 20 4) 22
def dKX (d : List Byte) : Nat := field (dLe d 24 2) 0 4
def dKY (d : List Byte) : Nat := field (dLe d 24 2) 4 4
def dTileIdx (d : List Byte) : Nat := dLe d 28 4
def dRGrp (d : List Byte) : Nat := dLe d 32 4
def dK0 (d : List Byte) : Nat := field (dLe d 36 4) 0 24
def dKN (d : List Byte) : Nat := field (dLe d 40 4) 0 24
def dEntryW (d : List Byte) : Nat := dLe d 44 3

/-- LDT names its register in byte 16 (R291). -/
def dLReg (d : List Byte) : Nat := field (dLe d 16 1) 0 5
def dLEng (d : List Byte) : Bool := bitOf (dLe d 16 1) 5
def dLHalf (d : List Byte) : Nat := field (dLe d 16 1) 6 1

/-- SEND and RECV peer (R291). -/
def dPX (d : List Byte) : Nat := field (dLe d 16 4) 0 4
def dPY (d : List Byte) : Nat := field (dLe d 16 4) 4 4
def dPChip (d : List Byte) : Nat := field (dLe d 16 4) 8 12
def dPChan (d : List Byte) : Nat := field (dLe d 16 4) 20 4

/-- Stash fields (R291). -/
def dEntry (d : List Byte) : Nat := field (dLe d 16 3) 0 23
def dRecomp (d : List Byte) : Bool := bitOf (dLe d 19 1) 0
def dUQ (d : List Byte) : Nat := field (dLe d 19 1) 1 4
def dUse (d : List Byte) : Nat := dLe d 20 4

/-- IGTH fields. -/
def dList (d : List Byte) : Nat := dLe d 16 8
def dTiles (d : List Byte) : Nat := dLe d 24 4

/-- DACC fields. -/
def dHdr (d : List Byte) : Nat := field (dLe d 16 8) 0 48
def dWUse (d : List Byte) : Nat := dLe d 24 4
def dSeqNo (d : List Byte) : Nat := dLe d 28 4
def dInit (d : List Byte) : Bool := bitOf (dLe d 32 1) 0
def dLast (d : List Byte) : Bool := bitOf (dLe d 32 1) 1
def dRow0 (d : List Byte) : Nat := dLe d 36 4
def dCol0 (d : List Byte) : Nat := dLe d 40 4
def dNCol (d : List Byte) : Nat := dLe d 44 4

/-- MOV fields (R289). -/
def dSrc (d : List Byte) : Nat := dLe d 16 8
def dDst (d : List Byte) : Nat := dLe d 24 8
def dLen0 (d : List Byte) : Nat := field (dLe d 32 4) 0 17
def dCnt1 (d : List Byte) : Nat := dLe d 36 2
def dCnt2 (d : List Byte) : Nat := dLe d 38 2
def dStr1 (d : List Byte) : Int := signedOf 32 (dLe d 40 4)
def dStr2 (d : List Byte) : Int := signedOf 32 (dLe d 44 4)
def dXAddr (d : List Byte) : Nat := dLe d 48 8
def dMxScale (d : List Byte) : Nat := dLe d 56 4
def dSFmt (d : List Byte) : Nat := dLe d 60 1
def dMDFmt (d : List Byte) : Nat := dLe d 61 1
def dMode (d : List Byte) : Nat := field (dLe d 62 1) 0 2

/-- The space of an address word (R288). -/
inductive Space where
  | device (a : Nat)
  | own (a : Nat)
  | queue (q : Nat)
  | core (x y a : Nat)
deriving DecidableEq, Repr

def addrSpace (w : Nat) : Space :=
  match field w 62 2 with
  | 0 => .device (field w 0 48)
  | 1 => .own (field w 0 22)
  | 2 => .queue (field w 0 4)
  | _ => .core (field w 32 4) (field w 36 4) (field w 0 22)

/-- Reserved bits of an address word (R288). -/
def addrReserved (w : Nat) : Bool :=
  match field w 62 2 with
  | 0 => decide (field w 48 14 ≠ 0)
  | 1 => decide (field w 22 40 ≠ 0)
  | 2 => decide (field w 4 58 ≠ 0)
  | _ => decide (field w 22 10 ≠ 0) || decide (field w 40 22 ≠ 0)

def isQueueSpace (w : Nat) : Bool := decide (field w 62 2 = 2)

/-- Queue ends an operation pops (R284). -/
def opPops (d : List Byte) : List Nat :=
  let op := dOp d
  if op = opCVT then (if dDir d ≤ 1 then [dQA d] else [])
  else if op = opRED then [dQA d, dQB d]
  else if op = opLDT ∨ op = opSEND ∨ op = opSTSH ∨ op = opIGTH ∨ op = opKCAP ∨ op = opDACC then [dQA d]
  else if op = opMOV then (if isQueueSpace (dSrc d) then [field (dSrc d) 0 4] else [])
  else []

/-- Queue ends an operation pushes (R284). -/
def opPushes (d : List Byte) : List Nat :=
  let op := dOp d
  if op = opCVT then (if dDir d ≥ 1 then [dQD d] else [])
  else if op = opPDRN ∨ op = opRED ∨ op = opRECV ∨ op = opUSTH ∨ op = opIGTH then [dQD d]
  else if op = opKCAP then (if dQDV d then [dQD d] else [])
  else if op = opMOV then (if isQueueSpace (dDst d) then [field (dDst d) 0 4] else [])
  else []

/-- Queue ends an operation names (R278, R282): those it pops and pushes, and the UQ of an STSH. -/
def opNames (d : List Byte) : List Nat :=
  opPops d ++ opPushes d ++ (if dOp d = opSTSH then [dUQ d] else [])

/-- An operation that a data mover executes or feeds (R297). -/
def isMoverOp (d : List Byte) : Bool :=
  let op := dOp d
  op == opLDT || op == opSTSH || op == opUSTH || op == opIGTH || op == opDACC || op == opMOV || op == opKCAP ||
    (op == opCVT && decide (dDir d ≤ 1))

/-- Nonzero bytes among a range of a descriptor. -/
def nz (d : List Byte) (i n : Nat) : Bool := ((d.drop i).take n).any (· != 0)

/-- Reserved bits of a descriptor are set (R286, R287, R289, R291). -/
def descReserved (d : List Byte) : Bool :=
  let op := dOp d
  let b := fun i => dLe d i 1
  bitOf (b 2) 7 || nz d 3 1 || decide (field (dLe d 8 4) 17 15 ≠ 0) || nz d 12 4 ||
  (if op = opCVT ∨ op = opPDRN ∨ op = opKCAP then
    (if op = opCVT then decide (b 16 / 4 ≠ 0) || decide (b 18 / 64 ≠ 0) else nz d 16 3) ||
      bitOf (b 19) 7 || decide (field (dLe d 20 4) 23 9 ≠ 0) || nz d 25 3 || nz d 39 1 || nz d 43 1 || nz d 47 17
  else if op = opLDT then bitOf (b 16) 7 || nz d 17 47
  else if op = opRED then nz d 16 48
  else if op = opSEND ∨ op = opRECV then nz d 19 45
  else if op = opSTSH then bitOf (b 18) 7 || decide (b 19 / 32 ≠ 0) || nz d 24 40
  else if op = opUSTH then bitOf (b 18) 7 || nz d 19 45
  else if op = opIGTH then addrReserved (dList d) || nz d 28 36
  else if op = opDACC then nz d 22 2 || decide (b 32 / 4 ≠ 0) || nz d 33 3 || nz d 48 16
  else if op = opMOV then addrReserved (dSrc d) || addrReserved (dDst d) || addrReserved (dXAddr d) ||
    decide (dLe d 32 4 / 2 ^ 17 ≠ 0) || decide (b 62 / 4 ≠ 0) || decide (dMode d = 3) || nz d 63 1
  else true)

/-- Valid bits an operation needs (R278, R284). -/
def descValidBits (d : List Byte) : Bool :=
  let op := dOp d
  let a := !(opPops d).isEmpty
  let q := !(opPushes d).isEmpty
  (!a || dQAV d) && (op != opRED || dQBV d) && (!q || dQDV d)

/-- Further refusals of a MOV (R289) and of an IGTH count (R291). -/
def descBadFields (d : List Byte) : Bool :=
  if dOp d = opMOV then decide (dCnt1 d = 0) || decide (dCnt2 d = 0) || decide (dLen0 d = 0) ||
    decide (dLen0 d > 65536) || decide (dLen0 d % 4 ≠ 0) || (isQueueSpace (dSrc d) && isQueueSpace (dDst d))
  else if dOp d = opIGTH then decide (dTiles d = 0) || decide (dTiles d > 16)
  else false

/-! ### VU words (07 R245) -/

def vQA (w : BitVec 128) : Nat := field w.toNat 32 4
def vu (w : BitVec 128) (lo n : Nat) : Nat := field w.toNat lo n
def vQB (w : BitVec 128) : Nat := vu w 36 4
def vQC (w : BitVec 128) : Nat := vu w 40 4
def vQD (w : BitVec 128) : Nat := vu w 44 4
def vQAV (w : BitVec 128) : Bool := decide (vu w 48 1 = 1)
def vQBV (w : BitVec 128) : Bool := decide (vu w 49 1 = 1)
def vQCV (w : BitVec 128) : Bool := decide (vu w 50 1 = 1)
def vQDV (w : BitVec 128) : Bool := decide (vu w 51 1 = 1)
def vRM (w : BitVec 128) : Nat := vu w 64 3
def vFmt (w : BitVec 128) : Nat := vu w 67 3
def vFmt2 (w : BitVec 128) : Nat := vu w 70 3
def vConstV (w : BitVec 128) : Bool := decide (vu w 73 1 = 1)
def vAmaxR (w : BitVec 128) : Bool := decide (vu w 74 1 = 1)
def vSlot (w : BitVec 128) : Nat := vu w 75 6
def vSlot2V (w : BitVec 128) : Bool := decide (vu w 81 1 = 1)
def vSlot2 (w : BitVec 128) : Nat := vu w 82 6
def vPred (w : BitVec 128) : Nat := vu w 88 4
def vExact (w : BitVec 128) : Bool := decide (vu w 92 1 = 1)
def vConst (w : BitVec 128) : Nat := vu w 96 22

/-- Number of source operands of a VU opcode (R246). -/
def vuSources (op : Nat) : Nat :=
  if op = 0x23 then 3
  else if op = 0x25 ∨ (0x31 ≤ op ∧ op ≤ 0x34) ∨ (0x36 ≤ op ∧ op ≤ 0x3A) ∨ op = 0x3C then 1
  else if op = 0x3D then 0 else 2

/-- Opcodes that the narrow wide formats BF16 and FP16 may use (R246). -/
def vuNarrowOk (op : Nat) : Bool :=
  !(op == 0x24 || op == 0x25 || op == 0x26 || (decide (0x32 ≤ op) && decide (op ≤ 0x38)))

/-- The operands that a VU word pops, as 0 to 2 for A to C: each valid source queue end, but for B with CONSTV, which
comes from core store (R245); VRFILL pops nothing (08 R293). -/
def vuSrcOps (w : BitVec 128) : List Nat :=
  if vu w 0 8 = 0x3D then []
  else (if vQAV w then [0] else []) ++ (if vQBV w && !vConstV w then [1] else []) ++ (if vQCV w then [2] else [])

/-- Queue ends a VU word pops. -/
def vuPops (w : BitVec 128) : List Nat :=
  (vuSrcOps w).map fun k => if k = 0 then vQA w else if k = 1 then vQB w else vQC w

/-- The checks of a VU word at push (R220). -/
def vuWordOk (w : BitVec 128) : Bool :=
  let op := vu w 0 8
  let n := vuSources op
  decide (0x20 ≤ op) && decide (op ≤ 0x3D) && decide (vu w 12 16 = 0) && decide (vu w 28 4 = 0) &&
  decide (vu w 52 12 = 0) && decide (vu w 93 3 = 0) && decide (vu w 118 10 = 0) &&
  decide (vRM w ≠ 5) && decide (vRM w ≠ 6) && decide (vFmt w ≤ 3) && decide (vPred w ≤ 6) &&
  (if op = 0x31 then decide (vFmt2 w ≤ 3) else if op = 0x32 ∨ op = 0x33 then decide (vFmt2 w ≥ 4) else true) &&
  (decide (vFmt w ≤ 1) || vuNarrowOk op) &&
  (decide (n < 1) || vQAV w) && (decide (n < 2) || vQBV w || vConstV w) && (decide (n < 3) || vQCV w) && vQDV w

/-! ### KU words (07 R248, R249) -/

def kChain (w : BitVec 128) : Nat := vu w 32 6
def kLayer (w : BitVec 128) : Nat := vu w 38 10
def kQD (w : BitVec 128) : Nat := vu w 48 4
def kTiles (w : BitVec 128) : Nat := vu w 96 32
def kDesc (w : BitVec 128) : Nat := vu w 64 22 / 32 * 32
def kTile (w : BitVec 128) : Nat := vu w 96 32

/-- The checks of a KU word at push (R220). -/
def kuWordOk (w : BitVec 128) : Bool :=
  let op := vu w 0 8
  decide (vu w 12 16 = 0) && decide (vu w 28 4 = 0) &&
  (if op = 0x60 then decide (vu w 52 12 = 0) && decide (vu w 64 32 = 0)
   else if op = 0x61 then decide (vu w 48 16 = 0) && decide (vu w 86 10 = 0)
   else false)

end Sys2Proof.Machine
end

