-- ==== Sys2Proof/Machine/Ops.lean ====
section
/-!
DEFINITION. The shared operations of a core: queue ends and items (08 R278-R283, R576), starting rules
(08 R20, R280), tile register commits (07 R236), the reject of a chain (06 R189), clamp counters and
amax folds (03 R104, R107).
-/
namespace Sys2Proof.Machine

/-! ### Timed starts -/

/-- Is the tick of a timed start met (R324)? -/
def armMet (arm : Option Nat) (tick : Nat) : Bool := match arm with | some a => decide (tick ≥ a) | none => true

/-- The first eligible tick of a start that an other condition holds there (R325): the local copy passes the
armed tick between `t0` and `t1`, or has passed it at the issue (`t0` none). A start that is ready there is not late. -/
def dueAt (arm due : Option Nat) (ready : Bool) (t0 : Option Nat) (t1 : Nat) : Option Nat :=
  match arm, due with
  | some a, none => match t0 with
    | some t => if t < a ∧ a ≤ t1 ∧ !ready then some a else none
    | none => if a ≤ t1 ∧ !ready then some t1 else none
  | _, _ => due

/-- A timed start is late by the ticks by which it follows its first eligible tick `due`, if a condition other than
the tick held it there (R325). -/
def Core.late (c : Core) (due : Option Nat) (tick : Nat) : Core :=
  match due with
  | some a => if tick > a then
      (c.bump rTL_LATE_CNT 1).setField rTL_LATE_MAX 0 32 (max (field (c.reg rTL_LATE_MAX) 0 32) (min (tick - a) 0xFFFFFFFF))
    else c
  | none => c

/-! ### Queue ends (R278-R283) -/

def cfgBase (v : Nat) : Nat := field v 0 22 / 64 * 64
def cfgDepth (v : Nat) : Nat := field v 32 10
/-- ISIZE in 64-byte units; 0 means 1,024. -/
def cfgISize (v : Nat) : Nat := if field v 42 10 = 0 then 1024 else field v 42 10

/-- The configuration in effect. -/
def Core.qcfg (c : Core) (n : Nat) : Nat := c.reg (rQE_CFG n)

/-- The configuration most recently written in program order (R282). -/
def Core.qcfgNewest (c : Core) (n : Nat) : Nat :=
  match (c.qend n).held.getLast? with
  | some (_, v) => v.toNat
  | none => c.qcfg n

def Core.qbytes (c : Core) (n : Nat) : Nat := 64 * cfgISize (c.qcfg n)

/-- Core store offset of slot `k` of a ring. -/
def Core.slotAddr (c : Core) (n k : Nat) : Nat := cfgBase (c.qcfg n) + k * (64 + c.qbytes n)

/-- The header and payload of the item in a slot (R279). The flag says that a reserved field is not 0. -/
def Core.readItem (c : Core) (n k : Nat) : OutItem × Bool :=
  let a := c.slotAddr n k
  let h := Bytes.rdN c.store a 64
  let len := field (listLe h 20 4) 0 17
  let bad := decide (listLe h 4 1 / 4 ≠ 0) || decide (listLe h 6 2 ≠ 0) || decide (listLe h 15 1 ≠ 0) ||
    decide (listLe h 20 4 / 2 ^ 17 ≠ 0) || decide (listLe h 27 1 ≠ 0) || (h.drop 32).any (· != 0)
  ({ q := n, slot := k, tag := BitVec.ofNat 32 (listLe h 0 4), poison := BitVec.ofNat 2 (listLe h 4 1),
     fmt := listLe h 5 1, scale := BitVec.ofNat 32 (listLe h 8 4), nelem := field (listLe h 12 4) 0 24,
     nblk := listLe h 16 4, entry := listLe h 24 3, src := BitVec.ofNat 32 (listLe h 28 4),
     payload := Bytes.rdN c.store (a + 64) len }, bad)

/-- The bytes of an item: header (R279) and payload. -/
def OutItem.bytes (o : OutItem) : List Byte :=
  leBytes 4 o.tag.toNat ++ leBytes 1 o.poison.toNat ++ leBytes 1 o.fmt ++ leBytes 2 0 ++ leBytes 4 o.scale.toNat ++
  leBytes 4 (o.nelem % 2 ^ 24) ++ leBytes 4 o.nblk ++ leBytes 4 (o.payload.length % 2 ^ 17) ++ leBytes 3 o.entry ++
  leBytes 1 0 ++ leBytes 4 o.src.toNat ++ List.replicate 32 0 ++ o.payload

/-- An item is held at a queue end while its epoch is above the core's for its chain (06 R190). -/
def Core.heldTag (c : Core) (t : Word) : Bool :=
  !tagConf t && decide (tagEpoch t > (c.chain (tagChain t)).epoch)

/-- The tag of the item in a slot. -/
def Core.slotTag (c : Core) (n k : Nat) : Word := BitVec.ofNat 32 (Bytes.rdLe c.store (c.slotAddr n k) 4)

/-- Absolute slot of the `i`-th slot from the head. -/
def Core.slotOf (c : Core) (n i : Nat) : Nat := ((c.qend n).head + i) % (max 1 (cfgDepth (c.qcfg n)))

/-- Visible items: committed, in slot order, none held (R280, R281). -/
def Core.present (c : Core) (n : Nat) : Nat :=
  let sl := (c.qend n).slots
  ((List.range sl.length).takeWhile fun i =>
    sl.getD i (.reserved 0) == .committed && !c.heldTag (c.slotTag n (c.slotOf n i))).length

/-- room = DEPTH - committed - reserved (R281); 0 for the stash queue end while an STSH holds (10 R362). -/
def Core.room (c : Core) (n : Nat) : Nat :=
  if c.stash.holding.isSome ∧ c.stash.holdQ = n then 0
  else cfgDepth (c.qcfg n) - (c.qend n).slots.length - (c.qend n).sending

/-- Committed items that are held (QE_STAT.HELD). -/
def Core.heldCount (c : Core) (n : Nat) : Nat :=
  let sl := (c.qend n).slots
  ((List.range sl.length).filter fun i =>
    sl.getD i (.reserved 0) == .committed && c.heldTag (c.slotTag n (c.slotOf n i))).length

def Core.reservedCount (c : Core) (n : Nat) : Nat :=
  ((c.qend n).slots.filter fun s => s != .committed).length

/-- Does the read of the oldest item meet a double-bit error? -/
def Core.itemUpset (c : Core) (n : Nat) : Bool :=
  c.upsetIn (0x400000 + c.slotAddr n (c.slotOf n 0)) (64 + (c.readItem n (c.slotOf n 0)).1.payload.length)

/-- The oldest item; a double-bit error in it gives cause R (08 R258). -/
def Core.peek (c : Core) (n : Nat) : OutItem × Bool :=
  let o := c.readItem n (c.slotOf n 0)
  if c.itemUpset n then ({ o.1 with poison := o.1.poison ||| poisonR }, o.2) else o

/-- The oldest item is taken, its lines read. -/
def Core.pop (c : Core) (n : Nat) : Core :=
  let e := c.qend n
  (c.unitRd (c.slotAddr n (c.slotOf n 0)) (64 + (c.readItem n (c.slotOf n 0)).1.payload.length)).setQend n
    { e with head := c.slotOf n 1, slots := e.slots.drop 1 }

def Core.popAll (c : Core) (ns : List Nat) : Core := ns.foldl Core.pop c

/-- Reserve the next slot for the work of number `seq`: the absolute slot. -/
def Core.reserve (c : Core) (n seq : Nat) : Core × Nat :=
  let e := c.qend n
  (c.setQend n { e with slots := e.slots ++ [.reserved seq] }, c.slotOf n e.slots.length)

/-- Position of an absolute slot from the head. -/
def Core.slotPos (c : Core) (n slot : Nat) : Nat :=
  let d := max 1 (cfgDepth (c.qcfg n))
  (slot + d - (c.qend n).head % d) % d

/-- Commit an item into its reserved slot; one that does not fit becomes an empty item with cause R and a
format-error event (R576). DESIGN CHOICE, log 82: where a ring overlaps another ring or other data, which the part does
not check (R282, 00 R17), the bytes of the later commit stand in core store. -/
def Core.commitItem (c : Core) (o : OutItem) : Core :=
  let over_ := decide (o.payload.length > c.qbytes o.q)
  let o' := if over_ then { o with nelem := 0, nblk := 0, payload := [], poison := o.poison ||| poisonR } else o
  let c := if over_ then c.raise evFormat 0 else c
  let c := c.unitWr (c.slotAddr o.q o.slot) o'.bytes
  let e := c.qend o.q
  c.setQend o.q { e with slots := e.slots.set (c.slotPos o.q o.slot) .committed }

/-- Bytes of the code array and of the padded exponent bytes of an item (R279). -/
def codeBytes (fmt nblk : Nat) : Nat := nblk * blockBytes fmt
def padTo16 (n : Nat) : Nat := (n + 15) / 16 * 16

/-- Payload of a narrow item: codes, exponents padded to 16 bytes, inlay records (R279). -/
def narrowPayload (w : Nat) (codes exps : List Nat) (recs : List (List Byte)) : List Byte :=
  packCodes w codes ++ fitBytes (padTo16 exps.length) (exps.map (BitVec.ofNat 8 ·)) ++ recs.flatten

/-- Codes, exponents and records of a narrow item. -/
def OutItem.codes (o : OutItem) : List Nat :=
  let w := fmtWidth (fmtOf o.fmt)
  unpackCodes w (o.payload.take (codeBytes (fmtOf o.fmt) o.nblk)) (32 * o.nblk)
def OutItem.exps (o : OutItem) : List Nat :=
  (fitBytes o.nblk (o.payload.drop (codeBytes (fmtOf o.fmt) o.nblk))).map (·.toNat)
def OutItem.record (o : OutItem) (k : Nat) : List Byte :=
  fitBytes 80 (o.payload.drop (codeBytes (fmtOf o.fmt) o.nblk + padTo16 o.nblk + 80 * k))
/-- The elements of a wide item, by element width in bytes. -/
def OutItem.elems (o : OutItem) : List Nat :=
  let b := fmtWidth (fmtOf o.fmt) / 8
  (List.range o.nelem).map fun i => listLe o.payload (b * i) b
def wideBytes (b : Nat) (xs : List Nat) : List Byte := xs.flatMap (leBytes b)

/-! ### Program order (R280, R282) -/

/-- An operation that has not started. -/
def TOp.waits (t : TOp) : Bool := decide (t.phase = .waiting)

/-- Work issued before `seq` that has still to start and pushes (pops) queue end `n`. -/
def Core.earlierPush (c : Core) (seq n : Nat) : Bool :=
  c.ops.any (fun t => decide (t.seq < seq) && t.waits && (opPushes t.desc).contains n) ||
  c.vuQ.any (fun v => decide (v.seq < seq) && decide (vQD v.word = n)) ||
  c.ku.any (fun k => decide (k.seq < seq) && !k.run && decide (vu k.word 0 8 = 0x60) && decide (kQD k.word = n))

def Core.earlierPop (c : Core) (seq n : Nat) : Bool :=
  c.ops.any (fun t => decide (t.seq < seq) && t.waits && (opPops t.desc).contains n) ||
  c.vuQ.any (fun v => decide (v.seq < seq) && (vuPops v.word).contains n)

/-- A configuration write of `n` issued before `seq` has not landed (R282). -/
def Core.cfgHeldBefore (c : Core) (seq n : Nat) : Bool := (c.qend n).held.any fun h => decide (h.1 < seq)

/-- Does unfinished work issued before `seq` name queue end `n` (R282)? -/
def Core.namesBefore (c : Core) (seq n : Nat) : Bool :=
  c.ops.any (fun t => decide (t.seq < seq) && (opNames t.desc).contains n) ||
  c.vuQ.any (fun v => decide (v.seq < seq) && (decide (vQD v.word = n) || (vuPops v.word).contains n)) ||
  c.vuX.any (fun v => decide (v.seq < seq) && (v.pops.contains n || v.res.items.any fun o => o.q == n)) ||
  c.ku.any (fun k => decide (k.seq < seq) && decide (vu k.word 0 8 = 0x60) && decide (kQD k.word = n)) ||
  (c.fwd ++ c.bwd).any (fun b => decide (b.1 < seq) && b.2.qconds.any fun q => q.1 == n) ||
  c.blocks.any (fun b => decide (b.1 < seq) && b.2.2.2.contains n)

/-- A stream register write issued before `seq` has not landed (03 R97). -/
def Core.rsHeldBefore (c : Core) (seq stream : Nat) : Bool :=
  c.rsHeld.any fun h => decide (h.1 < seq) && decide (h.2.1 / 2 = stream)

/-- The start rule of R20 and R280 for work of number `seq` with the given pops and pushes. -/
def Core.queuesReady (c : Core) (seq : Nat) (pops pushes : List Nat) : Bool :=
  pops.all (fun n => decide (c.present n ≥ (pops.filter (· == n)).length) && !c.earlierPop seq n && !c.cfgHeldBefore seq n) &&
  pushes.all (fun n => decide (c.room n ≥ 1) && !c.earlierPush seq n && !c.cfgHeldBefore seq n)

/-- The items at the heads of the queue ends to pop: several pops of one queue end take successive items. -/
def Core.takeItems (c : Core) : List Nat → List (OutItem × Bool) × Core
  | [] => ([], c)
  | n :: ns =>
    let it := c.peek n
    let (rest, c') := (c.pop n).takeItems ns
    (it :: rest, c')

/-- The tags of the items that the pops would take. -/
def Core.popTags (c : Core) : List Nat → List Word
  | [] => []
  | n :: ns => c.slotTag n (c.slotOf n 0) :: (c.pop n).popTags ns

/-! ### Tile register commits (R236, R241) -/

/-- Commit of a tile register write. `half` is set when only one half is written, with the bytes of codes written in
it: an N1 or N2 tile of the backward engine leaves the rest of its half alone (05 R158). -/
def Eng.commitTile (conf : Word → Bool) (e : Eng) (r : Nat) (t : Tile) (half : Option (Nat × Nat)) : Eng :=
  let o := e.tile r
  match half with
  | none => e.setTile r { t with wpend := false }
  | some (h, len) =>
    let cp := fun (src dst : Bytes) (lo n : Nat) =>
      (List.range n).foldl (fun m i => Bytes.wr m (lo + i) (Bytes.rd src (lo + i))) dst
    e.setTile r { codes := cp t.codes o.codes (4096 * h) len, exps := cp t.exps o.exps (1024 * h) 1024,
                  fmt := t.fmt, scale := t.scale, inl := [], tag := combineTags conf [t.tag, o.tag],
                  poison := o.poison ||| t.poison, wpend := false }

/-- The codes and exponents of a tile whose content is open (log 8): the `k`-th such tile of the `n`-th time. -/
def openCodes (n k : Nat) (t : Tile) : Tile :=
  { t with codes := Bytes.wrN [] 0 ((List.range 8192).map fun i => BitVec.ofNat 8 (Config.free n (16384 * k + i)))
           exps := Bytes.wrN [] 0 ((List.range 2048).map fun i => BitVec.ofNat 8 (Config.free n (16384 * k + 8192 + i))) }

/-- Set the write-pending tag of a tile register. -/
def Core.setWpend (c : Core) (be : Bool) (r : Nat) : Core :=
  c.setEng be ((c.eng be).setTile r { (c.eng be).tile r with wpend := true })

/-- Is the read window of a launched issue on a tile register still open (R236)? -/
def Eng.readOpen (e : Eng) (r : Nat) (now : Nat) : Bool :=
  e.exec.any fun x => x.reads.contains r && decide (now ≤ x.readEnd)

/-- Are any row writes of an accumulator tile pending (R127)? -/
def Eng.rowsPending (e : Eng) (r : Nat) : Bool := e.exec.any fun x => x.rows.any fun q => q.reg == r

/-! ### Statistics (03 R104, R107) -/

def Core.clamp (c : Core) (uf sat iovf : Nat) : Core :=
  ((c.bump rCLAMP_UF uf).bump rCLAMP_SAT sat).bump rCLAMP_IOVF iovf

/-- Raise the step amax of a slot to a magnitude. -/
def Core.raiseAmax (c : Core) (slot m : Nat) : Core :=
  c.setReg (rSCT_AMAX slot) (max (c.reg (rSCT_AMAX slot)) m)

/-- Fold a magnitude into the step amax of a slot; a slot that waits at step 1 of R108 keeps it for the next step. -/
def Core.foldAmax (c : Core) (slot m : Nat) : Core :=
  if c.bndWait.any (·.slot == slot) then { c with lateMax := NatMap.wr c.lateMax slot (max (NatMap.rd c.lateMax slot) m) }
  else c.raiseAmax slot m

def slotRecipe (c : Core) (n : Nat) : Nat := field (c.reg (rSCT_CFG n)) 0 3
def slotFmt (c : Core) (n : Nat) : Nat := field (c.reg (rSCT_CFG n)) 24 8
def slotShift (c : Core) (n : Nat) : Nat := field (c.reg (rSCT_CFG n)) 16 4
def slotHome (c : Core) (n : Nat) : Bool := bitOf (c.reg (rSCT_CFG n)) 20
def slotShard (c : Core) (n : Nat) : Bool := bitOf (c.reg (rSCT_LINK n)) 31
def slotNsh (c : Core) (n : Nat) : Nat := field (c.reg (rSCT_SHLIST n)) 32 13
def slotWait (c : Core) (n : Nat) : Bool := bitOf (c.reg (rSCT_STAT n)) 3
def slotCold (c : Core) (n : Nat) : Bool := bitOf (c.reg (rSCT_STAT n)) 0


/-! ### Layer table (06 R207, R208, R216) -/

def ltChk (c : Core) (l : Nat) : Bool := bitOf (c.reg (rLT_CFG l)) 0
def ltMine (c : Core) (l : Nat) : Bool := bitOf (c.reg (rLT_CFG l)) 1
def ltTop (c : Core) (l : Nat) : Nat := field (c.reg (rLT_CFG l)) 2 2
def ltPos (c : Core) (l : Nat) : Nat := field (c.reg (rLT_CFG l)) 4 2
def ltRate (c : Core) (l : Nat) : Nat := field (c.reg (rLT_CFG l)) 22 4
def ltRung (c : Core) (l i : Nat) : Nat := field (c.reg (rLT_RUNGS l)) (8 * i) 5
def ltInSlots (c : Core) (l s : Nat) : Bool := bitOf (c.reg (rLT_SLOTS l)) s

/-- The written layer table entries: layer and LTn_CFG, by rising layer. An unlisted entry has CHK = 0 and
MINE = 0 (R216). -/
def Core.layers (c : Core) : List (Nat × Nat) :=
  c.regs.filterMap fun (a, v) =>
    if 0x50000 ≤ a ∧ a < 0x60000 ∧ (a - 0x50000) % 64 = 0 then some ((a - 0x50000) / 64, v) else none

/-- The first checked layer from `f` on; 1,024 when there is none (R205). -/
def Core.nextChecked (c : Core) (f : Nat) : Nat :=
  match c.layers.find? fun e => decide (f ≤ e.1) && bitOf e.2 0 with
  | some e => e.1
  | none => 1024

/-- Final layers of a chain: every layer below this is final, unchecked ones included (R205, R206). -/
def Core.finalTo (c : Core) (ch : Nat) : Nat := c.nextChecked (c.chain ch).frontier

/-- POS + UP(c, L) (R208). -/
def Core.rung (c : Core) (ch l : Nat) : Nat := ltPos c l + c.up ch l

/-! ### Reject of a chain (06 R189) -/

def OutItem.reject (c l e : Nat) (o : OutItem) : OutItem := { o with tag := rejectTag c l e o.tag }

def OpResult.reject (c l e : Nat) (r : OpResult) : OpResult :=
  { r with items := r.items.map (OutItem.reject c l e),
           tile := r.tile.map fun (b, n, t, h) => (b, n, { t with tag := rejectTag c l e t.tag }, h) }

def Eng.mapTags (f : Word → Word) (e : Eng) : Eng :=
  let fT := fun (t : Tile) => { t with tag := f t.tag }
  { e with t := Map.mapV (fun _ => Tile.reset) fT e.t
           a := Map.mapV (fun _ => Acc.reset) (fun a => { a with tag := f a.tag }) e.a
           bufs := Map.mapV (fun _ => WBuf.reset) (fun b => { b with cur := { b.cur with lo := fT b.cur.lo, hi := fT b.cur.hi } }) e.bufs }

/-- Apply a function to the tags of every queued item of a queue end, in place in core store. -/
def Core.mapQueueTags (f : Word → Word) (n : Nat) (c : Core) : Core :=
  let sl := (c.qend n).slots
  (List.range sl.length).foldl (fun c i =>
    if sl.getD i (.reserved 0) == .committed then
      let a := c.slotAddr n (c.slotOf n i)
      let t := c.slotTag n (c.slotOf n i)
      if f t = t then c else c.unitWr a (leBytes 4 (f t).toNat)
    else c) c

/-- Every tag the core holds (R189, R191). -/
def Core.mapTags (f : Word → Word) (c : Core) : Core :=
  let c := (List.range 16).foldl (fun c n => c.mapQueueTags f n) c
  let fi := fun (o : OutItem) => { o with tag := f o.tag }
  { c with
    fe := c.fe.mapTags f, be := c.be.mapTags f
    kerf := c.kerf.map fun k => { k with tag := f k.tag }
    ops := c.ops.map fun t => { t with
      input := t.input.map fi
      res := { t.res with items := t.res.items.map fi
                          tile := t.res.tile.map fun (b, n, x, h) => (b, n, { x with tag := f x.tag }, h) } }
    vuX := c.vuX.map fun v => { v with res := { v.res with items := v.res.items.map fi } }
    attempts := c.attempts.map fun a => { a with tag := f a.tag }
    stash := { c.stash with entries := c.stash.entries.map fun e => { e with tag := f e.tag, item := fi e.item } } }

/-- Is an item confirmed (06, the speculation boundary)? -/
def Core.confirmed (c : Core) (t : Word) : Bool :=
  tagConf t || (!tagInv t && decide (tagLayer t < c.finalTo (tagChain t)))

/-- A core-level operation commits a tile register on cycle `k` (R236, R237): the issues that execute keep what they saw;
which codes a load that was reading has copied is open. -/
def Core.commitTile (c : Core) (be : Bool) (r : Nat) (t : Tile) (half : Option (Nat × Nat)) (k : Nat) : Core :=
  let e := (c.eng be).retire r k
  let open_ := e.exec.filter fun x => x.res == .loadPort && x.reads.contains r && decide (x.launch ≤ k) && decide (k < x.readEnd)
  let spoil := fun (e : Eng) d =>
    let b := e.buf (d - 100)
    e.setBuf (d - 100) { b with cur := { b.cur with lo := openCodes c.nseq (2 * (d - 100)) b.cur.lo, hi := openCodes c.nseq (2 * (d - 100) + 1) b.cur.hi } }
  let e := open_.foldl (fun (e : Eng) x => x.dests.foldl spoil e) e
  let c := c.count mTile ((match half with | some h => h.2 | none => 4096) / 64)
  { c.setEng be (e.commitTile c.confirmed r t half) with nseq := c.nseq + b2n (!open_.isEmpty) }

end Sys2Proof.Machine
end

