-- ==== Sys2Proof/Machine/Engine.lean ====
section
/-!
DEFINITION. The forward and backward engines: operands, block sums, accumulation, promotion, inlays,
timing, hazards, poison, blocks and loop nests (04 R118-R140; 05 R148-R166; 07 R217-R242).
Log 10: each row of a multiply is formed from its operands as the row's read cycles see them, in the order of those
cycles.
-/
namespace Sys2Proof.Machine

/-! ### The instruction word (R217) -/

def wOp (w : BitVec 128) : Nat := field w.toNat 0 8
def wLnd (w : BitVec 128) : Nat := field w.toNat 8 4
def wLoff (w : BitVec 128) : Nat := field w.toNat 12 16
def wOpw (w : BitVec 128) : Nat := field w.toNat 32 32
def wFlw (w : BitVec 128) : Nat := field w.toNat 64 32
def wExw (w : BitVec 128) : Nat := field w.toNat 96 32

/-- Stream entry `s` of OPW (R222). -/
def wStream (w : BitVec 128) (s : Nat) : Nat := field (wOpw w) (8 * s) 6

/-! ### Operand views -/

/-- An operand tile as an engine reads it: element codes, block exponents, inlay entries. -/
structure View where
  fmt : Nat
  inl : Bool
  scale : Nat
  code : Nat → Nat
  exp : Nat → Nat
  entry : Nat → Option Nat

/-- The code in container `idx` of a half of a tile register (R46, R123). -/
def Tile.codeAt (t : Tile) (half idx : Nat) : Nat :=
  let c := fmtOf t.fmt
  let cb := containerWidth c
  let bit := idx * cb
  fromContainer c (field (Bytes.rd t.codes (half * 4096 + bit / 8)).toNat (bit % 8) cb)

def Tile.expAt (t : Tile) (half blk : Nat) : Nat := (Bytes.rd t.exps (half * 1024 + blk)).toNat

/-- The tile fills its register (R123). -/
def fillsRegister (fmtByte : Nat) : Bool := decide (containerWidth (fmtOf fmtByte) = 8) || inlOf fmtByte

/-- The tile occupies a register pair (R123). DESIGN CHOICE, log 91: an N2 tile with inlays is a pair also against a wider
operand, of which the pass covers 256 blocks only. -/
def needsPair (fmtByte : Nat) : Bool := inlOf fmtByte && decide (fmtOf fmtByte = 1)

/-- The number of inlay codes among the first `n` containers. -/
def Tile.inlayRank (t : Tile) (half n : Nat) : Nat :=
  ((List.range n).filter fun j => decide (t.codeAt half j = inlayCode (fmtOf t.fmt))).length

/-- The view of a tile of format byte `fb` held in `lo`, and in `hi` for a register pair; `sel` gives the contents under
which each code, by its index, is read. DESIGN CHOICE, log 92: the odd register of a pair with another format byte of the
same INL is read under its own, and the even register's scale is the tile's. -/
def viewOf (fb scale half : Nat) (sel : Nat → Tile × Tile) : View :=
  let f := fmtOf fb
  let pair := needsPair fb
  let at_ := fun (idx : Nat) => if pair && decide (idx ≥ 8192) then ((sel idx).2, 0, idx - 8192) else ((sel idx).1, half, idx)
  { fmt := f, inl := inlOf fb, scale := scale
    code := fun idx => let (t, h, j) := at_ idx; t.codeAt h j
    exp := fun b => if pair && decide (b ≥ 256) then (sel (32 * b)).2.expAt 0 (b - 256) else (sel (32 * b)).1.expAt half b
    entry := fun idx =>
      let (t, h, j) := at_ idx
      if inlOf t.fmt && decide (t.codeAt h j = inlayCode f) then some (t.inl.getD (t.inlayRank h j) 0) else none }

/-- The view of a tile that nothing writes while it is read. -/
def tileView (lo hi : Tile) (half : Nat) : View := viewOf lo.fmt lo.scale.toNat half fun _ => (lo, hi)

/-- An inlay code without a list entry among the tile's elements (R129). -/
def inlayMissing (lo hi : Tile) (half nelem : Nat) : Bool :=
  inlOf lo.fmt &&
    (decide (lo.inlayRank half (min nelem 8192) > lo.inl.length) ||
     (needsPair lo.fmt && decide (hi.inlayRank 0 (nelem - 8192) > hi.inl.length)))

/-! ### Sums (R120, R124, R128) -/

def InlSum.add (s : InlSum) : FpVal → InlSum
  | .nan _ _ _ => { s with present := true, nan := true }
  | .inf n => if n then { s with present := true, ninf := true } else { s with present := true, pinf := true }
  | .fin n m => { s with present := true, q := s.q + signedQ n m }

/-- An FP32 entry times an exact factor (R128): infinity times zero is a NaN. -/
def entryTimes (x : Nat) (f : Rat) : FpVal :=
  match fp32.decode x with
  | .nan n p s => .nan n p s
  | .inf n => if f = 0 then .nan false 1 false else .inf (n != decide (f < 0))
  | .fin n m => .fin (n != decide (f < 0)) (m * abs f)

/-- The product of two entries over S_a S_w. -/
def entryPair (x y : Nat) (d : Rat) : FpVal :=
  match fp32.decode x, fp32.decode y with
  | .nan n p s, _ => .nan n p s
  | _, .nan n p s => .nan n p s
  | .inf a, .inf b => .inf (a != b)
  | .inf a, .fin b m => if m = 0 then .nan false 1 false else .inf (a != b)
  | .fin a m, .inf b => if m = 0 then .nan false 1 false else .inf (a != b)
  | .fin a m, .fin b k => .fin (a != b) (m * k / d)

def FpVal.negate : FpVal → FpVal
  | .nan n p s => .nan n p s
  | .inf n => .inf (!n)
  | .fin n m => .fin (!n) m

/-- A value of `w` bits with the sign of zero lost: no accumulator or run value of an engine is −0 (R124, R153). -/
def plusZero (w x : Nat) : Nat := if x = 2 ^ (w - 1) then 0 else x

/-- The promotion of R124: one rounding of acc + run + inl; an exact zero is +0. -/
def promote3 (acc run : FpVal) (inl : InlSum) : Nat :=
  let s := (inl.add acc).add run
  if s.nan || (s.pinf && s.ninf) then fp32.canonNaN
  else if s.pinf then fp32.infBits false
  else if s.ninf then fp32.infBits true
  else plusZero 32 (fp32.roundQ .tiesEven false s.q).1

/-- One output element over the blocks of a pass (R124). `ai k` and `wi k` give the element indices of
reduction position k in the two operands. DESIGN CHOICE, log 90: a counter above a smaller, later P counts on modulo 64
until it meets P (R125). -/
def feElement (a w : View) (ai wi : Nat → Nat) (blocks p : Nat) (neg : Bool) (st : El) : El :=
  let sa := fp32Mag a.scale
  let sw := fp32Mag w.scale
  let step := fun (st : El) (b : Nat) =>
    let ks := (List.range 32).map (32 * b + ·)
    let da := fun k => if (a.entry (ai k)).isSome then 0 else nInt a.fmt (a.code (ai k))
    let dw := fun k => if (w.entry (wi k)).isSome then 0 else nInt w.fmt (w.code (wi k))
    let ea := a.exp (ai (32 * b) / 32)
    let ew := w.exp (wi (32 * b) / 32)
    let s : Int := ks.foldl (fun x k => x + da k * dw k) 0
    let s := if neg then -s else s
    let v := (af24.roundQ .tiesEven false ((s : Rat) * pow2 ((ea : Int) + ew - 254))).1
    let run := engAdd af24 (af24.decode st.run) (af24.decode v)
    let inl := if a.inl || w.inl then ks.foldl (fun (x : InlSum) k =>
        let c : Option FpVal := match a.entry (ai k), w.entry (wi k) with
          | some e, none => some (entryTimes e ((nInt w.fmt (w.code (wi k)) : Rat) * pow2 ((ew : Int) - 127) / sa))
          | none, some e => some (entryTimes e ((nInt a.fmt (a.code (ai k)) : Rat) * pow2 ((ea : Int) - 127) / sw))
          | some e, some g => some (entryPair e g (sa * sw))
          | none, none => none
        match c with
        | some v => x.add (if neg then v.negate else v)
        | none => x) st.inl else st.inl
    let cnt := (st.cnt + 1) % 64
    if cnt = p % 64 then { acc := promote3 (fp32.decode st.acc) (af24.decode run) inl } else { st with run := run, cnt := cnt, inl := inl }
  (List.range blocks).foldl step st

/-- A backward product rounded to AB19 (R152, R61), negated as a sign-magnitude value (R59). -/
def beProduct (gc gcode eg nc ncode en : Nat) (neg : Bool) : FpVal :=
  let n := nInt nc ncode
  let nn := decide (n < 0)
  let r : FpVal := match gVal gc gcode with
    | .nan _ _ _ => .nan false 512 false
    | .inf s => if n = 0 then .nan false 512 false else .inf (s != nn)
    | .fin s m => ab19.decode (ab19.round .tiesEven (s != nn) (m * (n.natAbs : Rat) * pow2 ((eg : Int) + en - 254))).1
  if neg then r.negate else r

/-- The lane and row sums of R153 for one block of eight-position cell rows. -/
def beBlock (pr : Nat → FpVal) : Nat :=
  let ab := fun (x y : Nat) => engAddBits ab19 ab19 x y
  let p := fun k => ab19.encEng (pr k)
  let row := fun r => ab (ab (ab (p (8 * r)) (p (8 * r + 1))) (ab (p (8 * r + 2)) (p (8 * r + 3))))
                       (ab (ab (p (8 * r + 4)) (p (8 * r + 5))) (ab (p (8 * r + 6)) (p (8 * r + 7))))
  ab (ab (ab (row 0) (row 1)) (row 2)) (row 3)

/-- One output element of a BMMA (R153). `s` is streamed, `t` stationary. -/
def beElement (s t : View) (si sb ti tb : Nat → Nat) (p : Nat) (neg : Bool) (st : El) : El :=
  let step := fun (st : El) (b : Nat) =>
    let pr := fun j =>
      let k := 32 * b + j
      if fmtIsG s.fmt then beProduct s.fmt (s.code (si k)) (s.exp (sb k)) t.fmt (t.code (ti k)) (t.exp (tb k)) neg
      else beProduct t.fmt (t.code (ti k)) (t.exp (tb k)) s.fmt (s.code (si k)) (s.exp (sb k)) neg
    let run := engAddBits ab19 ab19 st.run (beBlock pr)
    let cnt := (st.cnt + 1) % 64
    if cnt = p % 64 then { acc := engAdd fp32 (fp32.decode st.acc) (ab19.decode run), inl := st.inl } else { st with run := run, cnt := cnt }
  (List.range 8).foldl step st

/-- The block counter after `n` more blocks, and whether a promotion fell among them (R124, R153). -/
def countBlocks (p : Nat) : Nat → Nat × Bool → Nat × Bool
  | 0, c => c
  | n + 1, c => countBlocks p n (if (c.1 + 1) % 64 = p % 64 then (0, true) else ((c.1 + 1) % 64, c.2))

/-- An element some of whose operands are open: the counter and the promotions are as ever; the values that depend on the
operands are free (log 8). `n` is the number of the free values and `k` the element's place among them. -/
def openElement (be inl : Bool) (blocks p n k : Nat) (st : El) : El :=
  let v := fun (c w : Nat) => plusZero w (Config.free n (8 * k + c) % 2 ^ w)
  let (cnt, prom) := countBlocks p blocks (st.cnt, false)
  let fresh := prom && decide (cnt = 0)
  { acc := if prom then v 0 32 else st.acc
    run := if fresh then 0 else v 1 (if be then 19 else 24)
    cnt := cnt
    inl := if fresh then {} else if !inl then (if prom then {} else st.inl) else
      { present := bitOf (v 2 32) 0, q := ((v 3 32 : Nat) : Rat) - v 4 32, pinf := bitOf (v 2 32) 1, ninf := bitOf (v 2 32) 2, nan := bitOf (v 2 32) 3 } }

/-! ### Rows in time (R131, R134, R161, R237) -/

/-- The contents of register `r` that a read of issue `x` on cycle `t` sees. -/
def Eng.tileSeen (e : Eng) (x : Issue) (r t : Nat) : Tile :=
  match x.olds.find? fun o => o.1 == r && decide (t ≤ o.2.1) with
  | some o => o.2.2
  | none => e.tile r

/-- Does another row write of that row wait on cycle `cyc`, the tag being set (R134, R237)? -/
def Eng.rowHazard (e : Eng) (reg row cyc : Nat) : Bool :=
  e.exec.any fun x => x.rows.any fun r => r.reg == reg && r.row == row && decide (r.at_ ≥ cyc)

/-- Element index of row i, position k of an operand of the forward engine (R123, R138). -/
def actIdx (m : Mma) (q i k : Nat) : Nat :=
  if m.quad then q * (16 * (m.kk / 2)) + i * (m.kk / 2) + k else i * m.kk + k

def Mma.blocks (m : Mma) : Nat := (if m.quad then m.kk / 2 else m.kk) / 32

/-- The streamed operand of a row as its read cycles see it; none where it changes under them in a way that leaves a code
open. DESIGN CHOICE, log 10: contents of another format byte, or with inlays, that come in meanwhile are open. -/
def Eng.streamed (e : Eng) (x : Issue) (m : Mma) (r : PendRow) : Option View :=
  let reg := m.regs.getD r.arr 0
  let pair := needsPair m.fa
  let i := if m.quad then r.row % 16 else r.row
  let seen := fun t => (e.tileSeen x reg t, if pair then e.tileSeen x (reg + 1) t else {})
  let t0 := x.launch + m.n * i
  let scale := (e.tileSeen x reg x.launch).scale.toNat
  if x.olds.isEmpty then some (viewOf m.fa scale m.half fun _ => seen t0)
  else if inlOf m.fa then none
  else if m.ori then
    if (List.range 32).all fun c => (seen (x.launch + c)).1.fmt == m.fa then
      some (viewOf m.fa scale m.half fun idx => seen (x.launch + idx / 256)) else none
  else if seen t0 = seen (t0 + m.n - 1) ∧ (seen t0).1.fmt = m.fa then some (viewOf m.fa scale m.half fun _ => seen t0) else none

/-- The resident operand of a row as its read cycles see it (R131, R161, R135), with its copy. -/
def Eng.held (e : Eng) (x : Issue) (m : Mma) (r : PendRow) : Option (View × WCopy) :=
  let i := if m.quad then r.row % 16 else r.row
  let b := e.buf (m.bufs.getD r.arr 0)
  let t0 := x.bufFrom + m.n * i
  (b.seen t0 (t0 + m.n - 1 + if m.quad then 15 else 31)).bind fun w =>
    if w.lo.fmt = m.fw then some (viewOf m.fw w.lo.scale.toNat w.half fun _ => (w.lo, w.hi), w) else none

/-- The columns that a row writes, with their new elements (R124, R153, R39, R166). -/
def Eng.formRow (e : Eng) (x : Issue) (m : Mma) (r : PendRow) : List (Nat × El) :=
  let a := e.acc r.reg
  let js := (List.range 32).filter fun j => bitOf (m.cols.getD r.arr 0) j
  if m.bad then js.map fun j => (j, {}) else
  let old := fun j => if m.clr then {} else a.elem (32 * r.row + j)
  match e.streamed x m r, e.held x m r with
  | some sv, some (wv, w) =>
    if m.be then
      js.map fun j =>
        let si := fun k => if m.ori then 32 * k + r.row else 256 * r.row + k
        let ti := fun k => if w.ori then 32 * k + j else 256 * j + k
        (j, beElement sv wv si (fun k => si k / 32) ti (fun k => ti k / 32) m.p m.neg (old j))
    else
      js.map fun j =>
        let q := 2 * (r.row / 16) + j / 16
        let i := if m.quad then r.row % 16 else r.row
        (j, feElement sv wv (actIdx m q i) (actIdx m q (if m.quad then j % 16 else j)) m.blocks m.p m.neg (old j))
  | _, _ => js.map fun j =>
    (j, openElement m.be (inlOf m.fa || inlOf m.fw) m.blocks m.p m.free (1024 * r.arr + 32 * r.row + j) (old j))

/-- Insert an event into a list that its key orders. -/
def keyInsert {α : Type} (key : α → Nat) (x : α) : List α → List α
  | [] => [x]
  | y :: ys => if key x ≤ key y then x :: y :: ys else y :: keyInsert key x ys

def keySort {α : Type} (key : α → Nat) (xs : List α) : List α := xs.foldr (keyInsert key) []

/-- The row reads and row writes that fall up to cycle `cyc`: (order, write, issue, array, row). A write on cycle c comes
before the reads of cycle c + 1 and after those of cycle c (R237). -/
def Eng.rowEvents (e : Eng) (cyc : Nat) : List (Nat × Bool × Nat × Nat × Nat) :=
  keySort (·.1) ((List.range e.exec.length).flatMap fun k => match e.exec[k]? with
    | some x => x.rows.flatMap fun r =>
      (if !r.got && decide (r.rd ≤ cyc) then [(2 * r.rd, false, k, r.arr, r.row)] else []) ++
      (if r.at_ ≤ cyc then [(2 * r.at_ + 1, true, k, r.arr, r.row)] else [])
    | none => [])

/-- A row writes its columns. -/
def Acc.setRow (a : Acc) (row : Nat) (cols : List (Nat × El)) : Acc :=
  cols.foldl (fun a (j, x) => a.setElem (32 * row + j) x) a

/-- One row read or row write. -/
def Eng.rowEvent (e : Eng) (v : Nat × Bool × Nat × Nat × Nat) : Eng :=
  match e.exec[v.2.2.1]? with
  | none => e
  | some x =>
    match x.rows.find? fun r => r.arr == v.2.2.2.1 && r.row == v.2.2.2.2, x.mma with
    | some r, some m =>
      let others := fun (y : PendRow) => !(y.arr == r.arr && y.row == r.row)
      if v.2.1 then
        let e := e.setAcc r.reg ((e.acc r.reg).setRow r.row r.cols)
        { e with exec := e.exec.set v.2.2.1 { x with rows := x.rows.filter others } }
      else
        let r' := { r with got := true, cols := e.formRow x m r }
        { e with exec := e.exec.set v.2.2.1 { x with rows := x.rows.map fun y => if others y then y else r' } }
    | _, _ => e

/-- The rows of the executing issues up to cycle `cyc`. -/
def Eng.advance (e : Eng) (cyc : Nat) : Eng := (e.rowEvents cyc).foldl Eng.rowEvent e

/-- OR poison into a destination accumulator tile. -/
def Eng.markAcc (e : Eng) (p : BitVec 2) (reg : Nat) : Eng :=
  let a := e.acc reg
  e.setAcc reg { a with poison := a.poison ||| p }

/-- Names of destinations: accumulator tiles by number, buffers 100 + k, masks 200 + m. -/
def Eng.mark (e : Eng) (p : BitVec 2) (d : Nat) : Eng :=
  if d ≥ 200 then { e with cmPoison := e.cmPoison.set (d - 200) (e.cmPoison.getD (d - 200) 0 ||| p) }
  else if d ≥ 100 then
    let b := e.buf (d - 100)
    e.setBuf (d - 100) { b with cur := { b.cur with lo := { b.cur.lo with poison := b.cur.lo.poison ||| p } } }
  else e.markAcc p d

/-- An earlier issue that a resource hazard hits marks what it writes, a mask whose write waits with it (R235). -/
def Eng.markIssue (e : Eng) (y : Issue) : Eng :=
  { e with exec := e.exec.map fun x => if x = y then { x with mask := x.mask.map fun k => (k.1, k.2.1, k.2.2 ||| poisonH) } else x }

def Eng.markAll (e : Eng) (p : BitVec 2) (ds : List Nat) : Eng := ds.foldl (fun e d => e.mark p d) e

/-- Block base of an engine's registers. -/
def engBase (be : Bool) : Nat := if be then 0x20000 else 0x10000

/-- Record a hazard (R238, R252). -/
def recordHazard (be : Bool) (tick iofs kind reg row iter : Nat) (c : Core) : Core :=
  let b := engBase be
  let c := c.bump (b + 0x68) 1
  let st := c.reg (b + 0x50)
  if bitOf st 63 then c.setReg (b + 0x50) (st ||| 2 ^ 62)
  else (c.setReg (b + 0x50) (iofs + kind * 2 ^ 18 + reg * 2 ^ 21 + row * 2 ^ 26 + (iter % 65536) * 2 ^ 32 + 2 ^ 63)).setReg
    (b + 0x58) tick

/-- The hazards that are detected up to cycle `cyc` are recorded, in the order of their cycles, each with the local tick
`tk` of its cycle (R238, R252). -/
def Core.hazardsTo (c : Core) (be : Bool) (tk : Nat → Nat) (cyc : Nat) : Core :=
  let e := c.eng be
  let due := keySort (·.at_) (e.hz.filter fun h => decide (h.at_ ≤ cyc))
  due.foldl (fun c h => recordHazard be (tk h.at_) h.iofs h.kind h.reg h.row h.iter c)
    (c.setEng be { e with hz := e.hz.filter fun h => !decide (h.at_ ≤ cyc) })

/-- An engine runs up to cycle `cyc`: row reads, row writes and hazards. -/
def Core.runEng (c : Core) (be : Bool) (tk : Nat → Nat) (cyc : Nat) : Core :=
  (c.setEng be ((c.eng be).advance cyc)).hazardsTo be tk cyc

/-- Record an encoding error (R253) and raise its event (R221). -/
def recordEncErr (be : Bool) (iofs cause : Nat) (c : Core) : Core :=
  let b := engBase be
  let st := c.reg (b + 0x60)
  let c := if bitOf st 63 then c.setReg (b + 0x60) (st ||| 2 ^ 62)
    else c.setReg (b + 0x60) (iofs + cause * 2 ^ 18 + 2 ^ 63)
  c.raise evEncoding 0

/-- Count destinations with poison (R253). -/
def countPoison (be : Bool) (p : BitVec 2) (n : Nat) (c : Core) : Core :=
  if p = 0 then c else c.bump (engBase be + 0x70) n

/-! ### Encoding checks (R219, R220, R223-R225) -/

def opIsFe (op : Nat) : Bool := decide (op ≤ 2)
def opIsBe (op : Nat) : Bool := decide (0x10 ≤ op) && decide (op ≤ 0x13)

/-- A field holds a reserved code (cause 0011b). -/
def reservedCode (op flw : Nat) : Bool :=
  (op == 0x01 || op == 0x02 || op == 0x11 || op == 0x12) && decide (field flw 0 2 = 3)

/-- Reserved bits of FLW by opcode. -/
def flwReserved (op flw : Nat) : Bool :=
  if op = 0x02 then bitOf flw 11 || decide (field flw 18 14 ≠ 0)
  else if op = 0x12 then decide (field flw 21 11 ≠ 0)
  else if op = 0x01 then decide (flw / 4 ≠ 0)
  else if op = 0x11 then decide (flw / 8 ≠ 0)
  else if op = 0x13 then decide (flw / 4 ≠ 0)
  else decide (flw ≠ 0)

def reservedBits (w : BitVec 128) : Bool :=
  decide (field w.toNat 28 4 ≠ 0) || decide (wExw w ≠ 0) ||
  (List.range 4).any (fun s => decide (field (wOpw w) (8 * s + 6) 2 ≠ 0)) || flwReserved (wOp w) (wFlw w)

/-- A stream that the opcode does not use is not 0 (R223, cause 1000b). -/
def strayStream (w : BitVec 128) : Bool :=
  let op := wOp w
  let used := fun s => if op == 0x02 || op == 0x12 then s == 0 || s == 2
    else if op == 0x01 || op == 0x11 || op == 0x13 then s == 1 else false
  (List.range 4).any fun s => !used s && decide (wStream w s ≠ 0)

/-- Loop descriptor registers of a unit whose register block starts at `b` (R251). -/
def lndCtl (c : Core) (b d : Nat) : Nat := c.reg (b + 0x1000 + 0x40 * d)
def lndLvl (c : Core) (b d l : Nat) : Nat := c.reg (b + 0x1008 + 0x40 * d + 8 * l)

/-- Nibble combinations n of a pair of formats (R119, R150). -/
def comb (be : Bool) (f1 f2 : Nat) : Nat :=
  let x := fun f => if be && decide (f = 10) then 2 else if be && fmtIsG f then 1 else if fmtWidth f > 4 then 2 else 1
  x f1 * x f2

/-- CLR or SWAP of an iteration (R226): `idx` are the level indices, L0 first. -/
def selector (flag : Bool) (sel : Nat) (looped : Bool) (idx : List Nat) : Bool :=
  flag && (if !looped then true
    else if sel = 6 then true
    else if sel = 7 then idx.all (· == 0)
    else decide (idx.getD sel 0 = 0))

/-- The active buffers on a multiply issue, with its SWAP applied (R130). -/
def Eng.activeAt (e : Eng) (swap : Bool) : Nat := if swap then field (15 - field e.active 0 4) 0 4 else e.active

/-- Occupancy of an instruction's first issue (R133, R162): a multiply that swaps reads the buffers that it makes active. -/
def occupancy (c : Core) (be : Bool) (w : BitVec 128) (s0 s1 : Nat) : Nat :=
  let e := c.eng be
  let op := wOp w
  if op = 0x02 ∨ op = 0x12 then
    let f1 := fmtOf (e.tile (s0 / 2)).fmt
    let f2 := fmtOf (e.buf (b2n (bitOf (e.activeAt (bitOf (wFlw w) 2)) 0))).cur.lo.fmt
    comb be f1 f2 * (if field (wFlw w) 0 2 = 2 ∧ op = 0x02 then 16 else 32)
  else if op = 0x01 then (if fmtWidth (fmtOf (e.tile (s1 / 2)).fmt) > 4 then 32 else 16)
  else if op = 0x11 then (if containerWidth (fmtOf (e.tile (s1 / 2)).fmt) = 8 then 32 else 16)
  else if op = 0x13 then 1 else 0

/-- The encoding error of an instruction as it launches; 0 is none (R220). The lowest cause is reported. -/
def encErr (c : Core) (be first : Bool) (prevLoff : Nat) (w : BitVec 128) : Nat :=
  let op := wOp w
  let b := engBase be
  let ctl := lndCtl c b (wLnd w)
  let nlev := field ctl 0 3
  let period := field ctl 16 16
  if !(opIsFe op || opIsBe op) then 1
  else if opIsBe op != be then 2
  else if reservedCode op (wFlw w) then 3
  else if reservedBits w then 4
  else if wLnd w ≠ 0 ∧ (nlev > 6 ∨ (nlev > 0 ∧ period = 0)) then 5
  else if wLnd w ≠ 0 ∧ nlev > 0 ∧ period < occupancy c be w (wStream w 0) (wStream w 1) then 6
  else if (first ∧ wLoff w ≠ 0) ∨ (!first ∧ wLoff w ≤ prevLoff) then 7
  else if strayStream w then 8
  else 0

/-- Destinations that an instruction's entry operands name (R221). -/
def namedDests (e : Eng) (w : BitVec 128) : List Nat :=
  let op := wOp w
  if op = 0x02 ∨ op = 0x12 then (List.range 4).map fun a => (wStream w 2 / 2 + a) % 32
  else if op = 0x01 ∨ op = 0x11 then (List.range 4).map fun a => 100 + 2 * a + (1 - b2n (bitOf e.active a))
  else if op = 0x13 then [200 + field (wFlw w) 0 2]
  else []

/-! ### Issues -/

/-- The issue's operand tiles: registers `(lo, hi)` of the four positions of a group, or of one tile. -/
def groupRegs (pair group : Bool) (stream : Nat) : List Nat :=
  let r := stream / 2
  if group then (List.range 4).map fun a => (r + (if pair then 2 * a else a)) % 32 else [r]

/-- A group or pair that does not start where R139 asks. -/
def misaligned (pair group : Bool) (stream : Nat) : Bool :=
  let r := stream / 2
  if group then decide (r % (if pair then 8 else 4) ≠ 0) else pair && decide (r % 2 ≠ 0)

/-- Format faults of a group of source tiles (R38, R43, R123, R139). -/
def groupBad (e : Eng) (be : Bool) (pair group : Bool) (stream : Nat) : Bool :=
  let rs := groupRegs pair group stream
  let t0 := e.tile (stream / 2)
  misaligned pair group stream ||
  (decide (stream % 2 = 1) && fillsRegister t0.fmt) ||
  rs.any (fun r =>
    let t := e.tile r
    fmtByteBad t.fmt || !(fmtIsN (fmtOf t.fmt) || (be && fmtIsG (fmtOf t.fmt))) || !scaleOk t.scale.toNat ||
    decide (t.fmt ≠ t0.fmt) || decide (t.scale ≠ t0.scale) ||
    (be && inlOf t.fmt) ||
    (pair && decide (inlOf (e.tile (r + 1)).fmt ≠ inlOf t.fmt)))

/-- Earlier issues whose occupancy of a resource has not ended (R235). -/
def resourceClash (e : Eng) (res : Resource) (cyc : Nat) : List Issue :=
  e.exec.filter fun x => x.res == res && decide (res ≠ .none) && decide (x.resEnd > cyc)

/-- Tile registers whose core-level write is pending: hazard 010b (R237). -/
def pendingTiles (e : Eng) (rs : List Nat) : List Nat := rs.filter fun r => (e.tile r).wpend

/-- The poison of a set of tile registers. -/
def Eng.tilesPoison (e : Eng) (rs : List Nat) : BitVec 2 := rs.foldl (fun p r => p ||| (e.tile r).poison) 0

/-- The marks of a new issue on earlier ones, and what it counts: a destination at a time (R235, R253). -/
def Core.clashMarks (c : Core) (be : Bool) (clash : List Issue) : Core :=
  let e := clash.foldl (fun (e : Eng) x => (e.markAll poisonH x.dests).markIssue x) (c.eng be)
  clash.foldl (fun c x => countPoison be poisonH x.dests.length c) (c.setEng be e)

/-- An issue starts to execute: its record, and the hazards that the monitor will detect. -/
def Core.addIssue (c : Core) (be : Bool) (x : Issue) (hz : List Hazard) : Core :=
  let e := c.eng be
  c.setEng be { e with exec := e.exec ++ [x], hz := e.hz ++ hz }

/-- FWLD and BWLD (R130, R160): copies source tiles into the shadow buffers. DESIGN CHOICE, log 10: the format byte, the
scale and the inlay list are the buffer's from the launch. -/
def issueLoad (c : Core) (be : Bool) (w : BitVec 128) (iofs iter cyc s1 : Nat) (bp : Bool) : Core :=
  let e := c.eng be
  let flw := wFlw w
  let form := field flw 0 2
  let pair := needsPair (e.tile (s1 / 2)).fmt
  let group := form != 1
  let bad := groupBad e be pair group s1 || (be && form == 2)
  let regs := groupRegs pair group s1
  let reads := if pair then regs ++ regs.map (· + 1) else regs
  let occ := occupancy c be w 0 s1
  let clash := resourceClash e .loadPort cyc
  let pend := pendingTiles e reads
  let h : BitVec 2 := if clash.isEmpty && pend.isEmpty then 0 else poisonH
  let r : BitVec 2 := if bad || bp then poisonR else 0
  let p := e.tilesPoison reads ||| h ||| r
  let shadow := fun a => 2 * a + (1 - b2n (bitOf e.active a))
  let bufs := (List.range 4).map shadow
  -- R135: the write cycles against the windows of launched FMMA or BMMA on the same buffer
  let hit := e.exec.filter fun x => x.bufs.any (bufs.contains ·) &&
    decide (x.bufFrom ≤ cyc + occ + 3) && decide (cyc + 4 ≤ x.bufEnd)
  let load := fun (e : Eng) a =>
    let q := regs.getD (if group then a else 0) 0
    let lo := e.tile q
    let hi := e.tile (q + 1)
    let tag := combineTags c.confirmed (if pair then [lo.tag, hi.tag] else [lo.tag])
    let src : Tile := if bad then { Tile.reset with fmt := lo.fmt, scale := lo.scale } else lo
    let o := e.buf (shadow a)
    e.setBuf (shadow a) {
      cur := { lo := { src with poison := p, tag := tag, wpend := false }, hi := if bad then Tile.reset else { hi with wpend := false }
               half := s1 % 2, ori := be && bitOf flw 2 }
      prev := o.cur, prevFree := decide (cyc + 4 ≤ o.wrTo), wrFrom := cyc + 4, wrTo := cyc + occ + 3, doneAt := cyc + occ + 4 }
  let haz := (pend.map fun q => (⟨cyc, iofs, 2, q, 0, iter⟩ : Hazard)) ++ (if clash.isEmpty then [] else [⟨cyc, iofs, 5, 0, 0, iter⟩]) ++
    hit.flatMap fun x => ((List.range 4).filter fun a => x.bufs.contains (shadow a)).map fun a =>
      ⟨max (cyc + 4) x.bufFrom, x.iofs, 3, a, 0, x.iter⟩
  let e := (List.range 4).foldl load (hit.foldl (fun e x => e.markAll poisonH x.dests) e)
  let c := (c.setEng be e).clashMarks be clash
  let c := c.addIssue be { op := wOp w, iofs := iofs, iter := iter, launch := cyc, finAt := cyc + occ + 4
                           res := .loadPort, resEnd := cyc + occ, dests := bufs.map (100 + ·), reads := reads, readEnd := cyc + occ - 1 } haz
  let c := hit.foldl (fun c x => countPoison be poisonH x.dests.length c) c
  let c := if pair && regs.any (fun q => mixedTags c.confirmed [(e.tile q).tag, (e.tile (q + 1)).tag]) then c.raise evTagConflict 0 else c
  let c := if bad then c.raise evFormat 0 else c
  countPoison be p 4 c

/-- BCM (R166, R225): loads a column mask; the write falls on cycle 2. -/
def issueMask (c : Core) (w : BitVec 128) (iofs iter cyc s1 : Nat) (bp : Bool) : Core :=
  let e := c.be
  let m := field (wFlw w) 0 2
  let t := e.tile (s1 / 2)
  let bad := decide (s1 % 2 = 1)
  let clash := resourceClash e .maskPort cyc
  let h : BitVec 2 := if clash.isEmpty && !t.wpend then 0 else poisonH
  let r : BitVec 2 := if bad || bp then poisonR else 0
  let v : BitVec 128 := if bad then 0 else BitVec.ofNat 128 (Bytes.rdLe t.codes 0 16)
  let p := t.poison ||| h ||| r
  let haz := (if t.wpend then [(⟨cyc, iofs, 2, s1 / 2, 0, iter⟩ : Hazard)] else []) ++ (if clash.isEmpty then [] else [⟨cyc, iofs, 5, 0, 0, iter⟩])
  let c := (c.clashMarks true clash).addIssue true {
    op := 0x13, iofs := iofs, iter := iter, launch := cyc, finAt := cyc + 3,
    res := .maskPort, resEnd := cyc + 1, dests := [200 + m], reads := [s1 / 2], readEnd := cyc, mask := some (m, v.toNat, p) } haz
  let c := if bad then c.raise evFormat 0 else c
  countPoison true p 1 c

/-- A column mask and its poison as a read on cycle `cyc` sees them, and whether its write is pending. -/
def Eng.maskAt (e : Eng) (m cyc : Nat) : BitVec 128 × BitVec 2 × Bool :=
  e.exec.foldl (fun (v : BitVec 128 × BitVec 2 × Bool) x => match x.mask with
    | some (k, b, p) => if k = m then (if x.launch + 2 < cyc then (BitVec.ofNat 128 b, p, v.2.2) else (v.1, v.2.1, true)) else v
    | none => v) (e.cm.getD m 0, e.cmPoison.getD m 0, false)

/-- The geometry and the timing of a multiply issue (R119, R131, R133, R150, R161, R162): formats, K per pass, n, rows,
inlay delay. -/
structure MmaTime where
  fa : Nat
  fw : Nat
  kk : Nat
  n : Nat
  nrows : Nat
  extra : Nat
deriving DecidableEq

def mmaTime (be quad : Bool) (t0 b0 : Tile) : MmaTime :=
  let fa := fmtOf t0.fmt
  let fw := fmtOf b0.fmt
  let wmax := max (fmtWidth fa) (fmtWidth fw)
  { fa := fa, fw := fw, kk := if be then 256 else if wmax = 1 then 1024 else if wmax = 2 then 512 else 256
    n := comb be fa fw, nrows := if quad then 16 else 32
    extra := if !be && (inlOf t0.fmt || inlOf b0.fmt) then 8 else 0 }

/-- Cycles from launch to the read of old row `i`. -/
def MmaTime.rdOff (g : MmaTime) (be quad : Bool) (i : Nat) : Nat :=
  g.n * i + g.n + (if be then 36 else if quad then 18 else 34) + g.extra
def MmaTime.latency (g : MmaTime) (be quad : Bool) : Nat :=
  g.nrows * g.n + (if be then 39 else if quad then 21 else 37) + g.extra
def MmaTime.occ (g : MmaTime) : Nat := g.nrows * g.n
def MmaTime.blocks (g : MmaTime) (quad : Bool) : Nat := (if quad then g.kk / 2 else g.kk) / 32
/-- Active lanes of a cell (R119, R150). -/
def MmaTime.lanes (g : MmaTime) (be : Bool) : Nat :=
  if be then (if g.fa = 10 ∨ g.fw = 10 then 4 else 8) else if g.kk = 1024 then 32 else if g.kk = 512 then 16 else 8

/-- Format faults of a multiply (R38, R126, R129, R139, R149, R155). `sc` are the scales that the sidecars hold or take. -/
def mmaBad (e : Eng) (be quad : Bool) (g : MmaTime) (gang s0 s2 p : Nat) (clr : Bool) (sc : Word × Word) (bufs : List WCopy) : Bool :=
  let t0 := e.tile (s0 / 2)
  let pair := !be && needsPair t0.fmt
  let group := gang != 0
  let inl := decide (g.extra ≠ 0)
  let regs := groupRegs pair group s0
  let dests := (List.range 4).map fun a => (s2 / 2 + a) % 32
  groupBad e be pair group s0 || decide (s2 % 2 = 1) || decide (s2 / 2 % 4 ≠ 0) ||
  (!clr && dests.any fun r => let x := e.acc r; decide (x.sa ≠ sc.1) || decide (x.sb ≠ sc.2)) ||
  (be && gang == 2) || (be && (fmtIsG g.fa == fmtIsG g.fw)) ||
  bufs.any (fun b => !(fmtIsN (fmtOf b.lo.fmt) || (be && fmtIsG (fmtOf b.lo.fmt))) || !scaleOk b.lo.scale.toNat || (be && inlOf b.lo.fmt)) ||
  (inl && decide (g.blocks quad % p ≠ 0)) ||
  (inl && (regs.any (fun r => inlayMissing (e.tile r) (e.tile (r + 1)) (s0 % 2) (32 * g.kk)) ||
    bufs.any (fun b => inlayMissing b.lo b.hi b.half (32 * g.kk))))

/-- FMMA and BMMA (R124, R153): operands, faults, hazards and timing of one issue. Its rows are formed later, each on its
read cycle. -/
def issueMma (c : Core) (be : Bool) (w : BitVec 128) (iofs iter cyc s0 s2 : Nat) (clr swap bp : Bool) : Core :=
  let flw := wFlw w
  let gang := field flw 0 2
  let quad := !be && gang == 2
  let group := gang != 0
  let e := { c.eng be with active := (c.eng be).activeAt swap }
  let bufIdx := (List.range 4).map fun a => 2 * a + b2n (bitOf e.active a)
  let bufs := bufIdx.map fun k => (e.buf k).cur
  let b0 := (bufs.getD 0 {}).lo
  let t0 := e.tile (s0 / 2)
  let g := mmaTime be quad t0 b0
  let pair := !be && needsPair t0.fmt
  let regs := groupRegs pair group s0
  let reads := if pair then regs ++ regs.map (· + 1) else regs
  let p := if field flw 5 6 = 0 then 64 else field flw 5 6
  let rdAt := fun i => cyc + g.rdOff be quad (if quad then i % 16 else i)
  let dests := (List.range 4).map fun a => (s2 / 2 + a) % 32
  let ori := be && bitOf flw 11
  let maskOn := be && bitOf flw 20
  let msel := field flw 18 2
  let mk := if maskOn then e.maskAt msel cyc else (BitVec.allOnes 128, 0, false)
  let cols := (List.range 4).map fun a => if gang = 1 then field mk.1.toNat 0 32 else field mk.1.toNat (32 * a) 32
  let sc := if be && !fmtIsG g.fa then (b0.scale, t0.scale) else (t0.scale, b0.scale)
  let bad := mmaBad e be quad g gang s0 s2 p clr sc bufs
  let bufFrom := cyc + (if be then 4 else 2)
  -- hazards
  let clash := resourceClash e .arrays cyc
  let pendT := pendingTiles e reads
  let bufHaz := (List.range 4).filter fun a =>
    let b := e.buf (bufIdx.getD a 0)
    (swap && decide (cyc < b.doneAt)) || decide (b.doneAt > bufFrom)
  let rowHaz : List (Nat × Nat) := if clr then [] else dests.flatMap fun r => (List.range 32).filterMap fun i =>
    if e.rowHazard r i (rdAt i) then some (r, i) else none
  let h : BitVec 2 := if clash.isEmpty && pendT.isEmpty && bufHaz.isEmpty && rowHaz.isEmpty && !mk.2.2 then 0 else poisonH
  let r : BitVec 2 := if bad || bp then poisonR else 0
  let haz := (pendT.map fun q => (⟨cyc, iofs, 2, q, 0, iter⟩ : Hazard)) ++ (bufHaz.map fun a => ⟨bufFrom, iofs, 3, a, 0, iter⟩) ++
    (if mk.2.2 then [⟨cyc, iofs, 4, msel, 0, iter⟩] else []) ++ (rowHaz.map fun q => ⟨rdAt q.2, iofs, 1, q.1, q.2, iter⟩) ++
    (if clash.isEmpty then [] else [⟨cyc, iofs, 5, 0, 0, iter⟩])
  -- tags, poison, sidecars
  let srcTile := fun a => regs.getD (if group then a else 0) 0
  let srcTags := fun a => (e.tile (srcTile a)).tag :: (bufs.getD a {}).lo.tag ::
    ((if pair then [(e.tile (srcTile a + 1)).tag] else []) ++ (if clr then [] else [(e.acc ((s2 / 2 + a) % 32)).tag]))
  let pz := e.tilesPoison reads ||| bufs.foldl (fun p b => p ||| b.lo.poison) 0 ||| (if maskOn then mk.2.1 else 0) ||| h ||| r
  let conflict := (List.range 4).any fun a => mixedTags c.confirmed (srcTags a)
  let e2 := (List.range 4).foldl (fun x a =>
    let reg := (s2 / 2 + a) % 32
    let o := x.acc reg
    x.setAcc reg { o with
      sa := if clr then sc.1 else o.sa, sb := if clr then sc.2 else o.sb
      tag := combineTags c.confirmed (srcTags a)
      poison := if clr && decide (cols.getD a 0 = 2 ^ 32 - 1) then pz else o.poison ||| pz }) e
  let m : Mma := { be := be, quad := quad, clr := clr, neg := bitOf flw 4, ori := ori, bad := bad, n := g.n, p := p, kk := g.kk,
                   fa := t0.fmt, fw := b0.fmt, regs := (List.range 4).map srcTile, half := s0 % 2, bufs := bufIdx, cols := cols, free := c.nseq }
  let rows : List PendRow := (List.range 4).flatMap fun a => (List.range 32).map fun i =>
    { arr := a, reg := (s2 / 2 + a) % 32, row := i, rd := rdAt i }
  let cells := cols.foldl (fun s m => s + ((List.range 32).filter (bitOf m ·)).length * 32) 0
  let c := (c.setEng be e2).clashMarks be clash
  let c := c.addIssue be { op := wOp w, iofs := iofs, iter := iter, launch := cyc, finAt := cyc + g.latency be quad
                           res := .arrays, resEnd := cyc + g.occ, dests := dests, rows := rows, mma := some m, reads := reads
                           readEnd := cyc + (if ori then 31 else g.occ - 1), bufs := bufIdx, bufFrom := bufFrom
                           bufEnd := bufFrom + g.occ + (if quad then 15 else 31), macs := cells * g.lanes be * g.occ } haz
  let c := if conflict then c.raise evTagConflict 0 else c
  let c := if bad then c.raise evFormat 0 else c
  let np := ((List.range 4).filter fun a => decide ((e2.acc ((s2 / 2 + a) % 32)).poison ≠ 0)).length
  let c := if np = 0 then c else c.bump (engBase be + 0x70) np
  { c with nseq := c.nseq + 1 }

/-- One issue (R232-R235): dropped as a fifth executing issue, or executed. -/
def launchIssue (c : Core) (be : Bool) (w : BitVec 128) (iofs iter cyc : Nat)
    (st : List Nat) (looped : Bool) (idx : List Nat) (bp : Bool) : Core :=
  let op := wOp w
  let e := c.eng be
  let flw := wFlw w
  let s := fun k => st.getD k 0 % 64
  if op = 0x00 ∨ op = 0x10 then c
  else if (e.exec.filter fun x => decide (x.finAt > cyc)).length ≥ 4 then
    let ds := if op = 0x02 ∨ op = 0x12 then (List.range 4).map fun a => (s 2 / 2 + a) % 32 else namedDests e w
    countPoison be poisonH ds.length (c.setEng be { e.markAll poisonH ds with hz := e.hz ++ [⟨cyc, iofs, 5, 0, 0, iter⟩] })
  else if op = 0x02 ∨ op = 0x12 then
    issueMma c be w iofs iter cyc (s 0) (s 2)
      (selector (bitOf flw 3) (field flw 12 3) looped idx) (selector (bitOf flw 2) (field flw 15 3) looped idx) bp
  else if op = 0x13 then issueMask c w iofs iter cyc (s 1) bp
  else issueLoad c be w iofs iter cyc (s 1) bp

/-! ### Loop nests (R227-R229) -/

/-- Increment of stream `s` at level `l` of a descriptor: signed 12 bits. -/
def lvlInc (v s : Nat) : Int := signedOf 12 (field v (16 + 12 * s) 12)

/-- The stream values of an iteration: entry plus the sum of i_l × inc, modulo `m`. -/
def loopStreams (m : Nat) (scale : Nat) (entry : List Nat) (incs : List Nat) (idx : List Nat) : List Nat :=
  (List.range 4).map fun s =>
    let d : Int := (List.range idx.length).foldl (fun x l =>
      x + (idx.getD l 0 : Int) * lvlInc (incs.getD l 0) s * (scale : Int)) 0
    ((((entry.getD s 0 : Nat) : Int) + d) % (m : Int)).toNat

/-- Has any level an iteration left, by the counts that are latched? -/
def loopMore (cnts idx : List Nat) : Bool := (List.range idx.length).any fun l => decide (idx.getD l 0 + 1 < cnts.getD l 0)

/-- The next iteration: the lowest level with iterations left advances, the levels below it are entered
anew with the counts `cnt` that the registers hold on its cycle; with a count of 0 nothing more issues. -/
def loopNext (cnt : Nat → Nat) (cnts idx : List Nat) : Option (List Nat × List Nat) :=
  match (List.range idx.length).find? (fun l => decide (idx.getD l 0 + 1 < cnts.getD l 0)) with
  | none => none
  | some l =>
    if (List.range l).any (fun k => decide (cnt k = 0)) then none
    else some ((List.range idx.length).map fun k => if k < l then cnt k else cnts.getD k 0,
               (List.range idx.length).map fun k => if k < l then 0 else if k = l then idx.getD k 0 + 1 else idx.getD k 0)

/-! ### Blocks (R174, R175, R231) -/

/-- What the engine launches next, and on which cycle: a loop's next issue (by place), or the next
instruction of the running block. -/
inductive NextLaunch where
  | loop (k : Nat) (cyc : Nat)
  | instr (cyc : Nat)
deriving DecidableEq

/-- The launch cycle of the block's next instruction (R231, R221 for cause 0111b). -/
def QHalf.nextAt (h : QHalf) (base : Nat) : Nat :=
  match h.words[h.next]? with
  | none => 0
  | some w =>
    if h.next = 0 then base
    else if wLoff w ≤ h.prevLoff then h.prevAt + 1 else base + wLoff w

/-- The next launches, and the words that they launch. -/
def launches (e : Eng) : List (NextLaunch × BitVec 128) :=
  ((List.range e.loops.length).filterMap fun k => (e.loops[k]?).map fun l => (NextLaunch.loop k (l.launch + l.slot * l.period), l.word)) ++
  (match e.halves with
    | h :: _ => match h.base, h.words[h.next]? with
      | some b, some w => [(NextLaunch.instr (h.nextAt b), w)]
      | _, _ => []
    | [] => [])

def NextLaunch.cyc : NextLaunch → Nat
  | .loop _ c => c
  | .instr c => c

/-- The order of launches: by cycle, and on one cycle a BCM before a multiply, whose mask read finds its tag set (R163), and
a multiply before a load, which takes the buffers that a SWAP of that cycle makes the shadow (R130; DEDUCED, log 93). -/
def launchKey (x : NextLaunch × BitVec 128) : Nat :=
  3 * x.1.cyc + (if wOp x.2 = 0x13 then 0 else if wOp x.2 = 0x02 ∨ wOp x.2 = 0x12 then 1 else 2)

/-- What the engine launches next, and the word. -/
def nextOp (e : Eng) : Option (NextLaunch × BitVec 128) :=
  match launches e with
  | [] => none
  | x :: xs => some (xs.foldl (fun b y => if launchKey y < launchKey b then y else b) x)

/-- The queue half of the head block is freed on the cycle its last instruction launches (R175). -/
def freeHalf (e : Eng) (cyc : Nat) : Eng := { e with halves := e.halves.drop 1, lastAt := cyc }

/-- Launch of the next instruction of the running block (R220, R221, R228). -/
def launchInstr (c : Core) (be : Bool) (cyc : Nat) (h : QHalf) (w : BitVec 128) : Core :=
  let e := c.eng be
  let iofs := h.desc.code / 16 + h.next
  let err := encErr c be (decide (h.next = 0)) h.prevLoff w
  let isLast := decide (h.next + 1 = h.words.length)
  let h' := { h with next := h.next + 1, prevAt := cyc, prevLoff := wLoff w, poison := h.poison || decide (err ≠ 0) }
  let setH := fun (e : Eng) => { e with halves := h' :: e.halves.drop 1 }
  let ended := fun (c : Core) => if isLast then c.setEng be (freeHalf (c.eng be) cyc) else c
  if err ≠ 0 then
    let ds := namedDests e w
    countPoison be poisonR ds.length (recordEncErr be iofs err (ended (c.setEng be ((setH e).markAll poisonR ds))))
  else
    let entry := (List.range 4).map (wStream w)
    let b := engBase be
    let ctl := lndCtl c b (wLnd w)
    let nlev := if wLnd w = 0 then 0 else field ctl 0 3
    if nlev = 0 then ended (launchIssue (c.setEng be (setH e)) be w iofs 0 cyc entry false [] h.poison)
    else
      let cnts := (List.range nlev).map fun l => field (lndLvl c b (wLnd w) l) 0 16
      let incs := (List.range nlev).map fun l => lndLvl c b (wLnd w) l
      let idx := List.replicate nlev 0
      if cnts.any (· == 0) then ended (c.setEng be (setH e))
      else
        let c := launchIssue (c.setEng be (setH e)) be w iofs 0 cyc entry true idx h.poison
        if !loopMore cnts idx then ended c else
        let e := c.eng be
        c.setEng be { e with loops := e.loops ++ [{
          word := w, iofs := iofs, launch := cyc, slot := 1,
          period := field ctl 16 16, nlev := nlev, incs := incs, cnts := cnts, idx := idx, last := isLast,
          blockPoison := h.poison, blk := h.blk }] }

/-- The next issue of a running loop; with an inner count of 0 on its cycle the issue before it was the last (R228). -/
def launchLoop (c : Core) (be : Bool) (cyc k : Nat) (l : Loop) : Core :=
  let b := engBase be
  let d := wLnd l.word
  let cnt := fun i => field (lndLvl c b d i) 0 16
  let ended := fun (c : Core) (at_ : Nat) =>
    let e := c.eng be
    let e := { e with loops := e.loops.eraseIdx k }
    c.setEng be (if l.last then freeHalf e at_ else e)
  match loopNext cnt l.cnts l.idx with
  | none => ended c (cyc - l.period)
  | some (cnts, idx) =>
    let st := loopStreams 64 1 ((List.range 4).map (wStream l.word)) l.incs idx
    let c := launchIssue c be l.word l.iofs l.slot cyc st true idx l.blockPoison
    if !loopMore cnts idx then ended c cyc else
    let e := c.eng be
    c.setEng be { e with loops := e.loops.set k { l with slot := l.slot + 1, cnts := cnts, idx := idx } }

/-- Issues made since the engine held `n` belong to block `blk`. -/
def Eng.ownNew (e : Eng) (n blk : Nat) : Eng :=
  { e with exec := e.exec.take n ++ (e.exec.drop n).map fun x => { x with blk := blk } }

/-- The engine launches what is due next, if its opcode satisfies `ok`; otherwise nothing happens. Rows and hazards up to
that cycle come first and, of the launch itself, after; `tk` gives the local tick of a cycle. -/
def engineLaunch (c : Core) (be : Bool) (tk : Nat → Nat) (ok : Nat → Bool) : Core :=
  match nextOp (c.eng be) with
  | none => c
  | some (n, w) =>
    if !ok (wOp w) then c else
    let cy := n.cyc
    let c := c.runEng be tk cy
    let e := c.eng be
    let own := fun (blk : Nat) (d : Core) =>
      { (d.setEng be ((d.eng be).ownNew e.exec.length blk)).hazardsTo be tk cy with cyc := max c.cyc cy }
    match n with
    | .loop k _ => match e.loops[k]? with
      | some l => own l.blk (launchLoop c be cy k l)
      | none => c
    | .instr _ => match e.halves with
      | h :: _ => own h.blk (launchInstr c be cy h w)
      | [] => c

/-- A column mask takes its final value. -/
def Eng.commitMask (e : Eng) (x : Option (Nat × Nat × BitVec 2)) : Eng :=
  match x with
  | some (m, v, p) => { e with cm := e.cm.set m (BitVec.ofNat 128 v), cmPoison := e.cmPoison.set m p }
  | none => e

/-- An issue leaves the engine, its rows written; its mask takes its value. -/
def Eng.commit (e : Eng) (x : Issue) : Eng :=
  let e := e.commitMask x.mask
  { e with exec := e.exec.erase x }

/-- The executing issue that reaches its latency cycle first. -/
def Eng.firstDone (e : Eng) : Option Issue :=
  match e.exec with
  | [] => none
  | x :: xs => some (xs.foldl (fun b y => if y.finAt < b.finAt then y else b) x)

/-- Is a launch due before cycle `cyc`? -/
def Eng.launchBefore (e : Eng) (cyc : Nat) : Bool := (launches e).any fun x => decide (x.1.cyc < cyc)

/-- The energy events of a multiply's lane-cycles, by its formats (15 R497). -/
def mmaEvent (be : Bool) (fa fw : Nat) : Nat :=
  if be then (if fmtOf fa = 10 ∨ fmtOf fw = 10 then mBe8 else mBe)
  else
    let w := max (fmtWidth (fmtOf fa)) (fmtWidth (fmtOf fw))
    if w = 1 then mFe1 else if w = 2 then mFe2 else mFe

/-- The accesses of 64 bytes that an issue makes to tile registers and buffers (15 R497; DESIGN CHOICE, log 97: each register
it reads and each buffer it reads or writes counts whole). -/
def Issue.accesses (x : Issue) : Nat :=
  64 * (x.reads.length + (if x.res == .loadPort then x.dests.length else x.bufs.length))

/-- A completed multiply counts as a pass, with its cells (04 R147, 05 R184); every issue counts its energy events. -/
def Core.countPass (c : Core) (be : Bool) (x : Issue) : Core :=
  let c := c.count mTile x.accesses
  if x.op = 0x02 ∨ x.op = 0x12 then
    ((c.bump (engBase be + 0x28) 1).bump (engBase be + 0x30) x.macs).count
      (match x.mma with | some m => mmaEvent be m.fa m.fw | none => if be then mBe else mFe) x.macs
  else c

/-- The executing issue that reaches its latency cycle first has its rows and mask in place, and
completes (R133, R162; ENGINE_LATENCY_REACHED); a launch due on an earlier cycle comes first. -/
def engineCommit (c : Core) (be : Bool) (tk : Nat → Nat) : Core :=
  match (c.eng be).firstDone with
  | none => c
  | some x0 =>
    if (c.eng be).launchBefore x0.finAt then c else
    let c := c.runEng be tk x0.finAt
    match (c.eng be).firstDone with
    | none => c
    | some x => { (c.setEng be ((c.eng be).commit x)).countPass be x with cyc := max c.cyc x.finAt }

/-- The engines of a core run up to cycle `cyc`, but not past a launch that is due before it. -/
def Core.runEngines (c : Core) (tk : Nat → Nat) (cyc : Nat) : Core :=
  let upTo := fun (be : Bool) => (launches (c.eng be)).foldl (fun m x => min m x.1.cyc) cyc
  (c.runEng false tk (upTo false)).runEng true tk (upTo true)

/-- Dispatch, COND heads and SEAM: BLOCK_LAUNCH of the head block of an engine (R175). `now` is the
bench cycle and `tick` the local time base copy. -/
def blockLaunch (c : Core) (be : Bool) (now tick : Nat) : Core :=
  let e := c.eng be
  match e.halves with
  | [] => c
  | h :: hs =>
    if h.base.isSome then c
    else if h.desc.timed && decide (tick < h.desc.launch) then c
    else
      let at_ := max (max now c.cyc) (max h.copyDone (e.lastAt + h.desc.seam))
      { c.setEng be { e with halves := { h with base := some at_, prevAt := at_ } :: hs } with cyc := at_ }

end Sys2Proof.Machine
end

