-- ==== Sys2Proof/Machine/Convert.lean ====
section
/-!
DEFINITION. The edge converters and the core-local operations: CVT, PDRN, LDT, RED, IGTH, KCAP
(02 R39, R45, R63; 03 R79-R111; 04 R126, R127; 05 R155, R156; 06 R199, R209; 08 R284-R291).
-/
namespace Sys2Proof.Machine

/-! ### Wide values of an accumulator tile -/

/-- Promote the pending runs of an accumulator tile (04 R127, 05 R156). -/
def promoteAcc (be : Bool) (a : Acc) : Acc :=
  (List.range 1024).foldl (fun a i =>
    if NatMap.rd a.cnt i = 0 then a
    else
      let f := if be then ab19 else af24
      { a with el := NatMap.wr a.el i (engAdd fp32 (fp32.decode (NatMap.rd a.el i)) (f.decode (NatMap.rd a.run i)))
               run := NatMap.wr a.run i 0, cnt := NatMap.wr a.cnt i 0 }) a

/-- The wide value of an accumulator element: acc × S_a × S_b rounded once (04 R126, 05 R155). -/
def accWide (a : Acc) (i : Nat) : Nat :=
  match fp32.decode (NatMap.rd a.el i) with
  | .nan _ _ _ => fp32.canonNaN
  | .inf n => fp32.infBits n
  | .fin n m => (fp32.round .tiesEven n (m * fp32Mag a.sa.toNat * fp32Mag a.sb.toNat)).1

def accWides (a : Acc) : List Nat := (List.range 1024).map (accWide a)

/-- Reading a tile with cause H whose tag is not invalidated raises a schedule-hazard event (07 R242). -/
def hazardOut (c : Core) (p : BitVec 2) (t : Word) : Core :=
  if p.getLsbD 0 && !tagInv t then c.raise evHazard 0 else c

/-! ### Tracker slot of a conversion (03 R105, R111; 06 R209) -/

/-- Is the slot ruled by the rung context: in the layer's slots, UP above 0, recipe 001b or 010b? -/
def rungApplies (c : Core) (d : List Byte) (slot : Nat) : Bool :=
  dRCV d && ltInSlots c (dLayer d) slot && decide (c.up (dChain d) (dLayer d) > 0) &&
    (slotRecipe c slot == 1 || slotRecipe c slot == 2)

/-- The format byte a conversion must name (R105, R209). -/
def convFmt (c : Core) (d : List Byte) (slot : Nat) : Nat :=
  if rungApplies c d slot then
    ltRung c (dLayer d) (c.rung (dChain d) (dLayer d)) + (if inlOf (slotFmt c slot) then 32 else 0)
  else slotFmt c slot

/-- The number of a replay of layer `l` by chain `ch` in the tracker's messages. -/
def jitId (ch l : Nat) : Nat := 64 * l + ch

/-- The scale a conversion uses: a retained just-in-time scale (R111), or the slot's. -/
def convScale (c : Core) (d : List Byte) (slot : Nat) : Nat :=
  let hit := c.jit.find? fun j => decide (j.1 = slot) && decide (j.2.1 = jitId (dChain d) (dLayer d))
  if dRCV d && ltInSlots c (dLayer d) slot && decide (c.up (dChain d) (dLayer d) > 0) then
    match hit with | some (_, _, s) => s | none => c.reg (rSCT_SCALE slot)
  else c.reg (rSCT_SCALE slot)

/-- Slot faults of a conversion that reads or writes a narrow format byte (R105, R573). -/
def slotBad (c : Core) (d : List Byte) (fb : Nat) : Bool :=
  let s := dSlot d
  let r := slotRecipe c s
  r == 0 || r == 4 || r == 5 || decide (fb ≠ convFmt c d s) || (slotHome c s && slotShard c s)

/-- Slot faults of a conversion into a narrow format byte: a G destination is of recipe 011b, an N destination of
another (R105). -/
def slotDstBad (c : Core) (d : List Byte) (fb : Nat) : Bool :=
  let r := slotRecipe c (dSlot d)
  slotBad c d fb || (fmtIsG (fmtOf fb) && r != 3) || (fmtIsN (fmtOf fb) && r == 3)

/-! ### Results -/

/-- The quantiser's parameters for a descriptor. -/
def convCfg (c : Core) (d : List Byte) (fb stream : Nat) : QCfg :=
  { fmt := fmtOf fb, inl := inlOf fb, scale := fp32Mag (convScale c d (dSlot d)), shift := slotShift c (dSlot d),
    key := BitVec.ofNat 64 (c.reg (rRS_KEY stream)) }

/-- Blocks of a run of elements, the last one padded (02 R45). DESIGN CHOICE, log 84: an item's header gives NELEM and
no row length, so the item is one row and only its end is padded. -/
def elemBlocks (xs : List Nat) : List (List (Option Nat)) :=
  (List.range (ceilDiv xs.length 32)).map fun b =>
    (List.range 32).map fun j => if 32 * b + j < xs.length then some (xs.getD (32 * b + j) 0) else none

/-- A conversion folds what it read into the step amax of its slot; a weight slot takes amax reports alone (R107). -/
def convFold (c : Core) (slot m : Nat) : Core := if slotRecipe c slot = 1 then c else c.foldAmax slot m

/-- Statistics of a conversion: clamp counters, seen bits, step amax (R104, R107, R113). -/
def convStats (c : Core) (slot : Nat) (r : QResult) : Core :=
  let c := convFold (c.clamp r.uf r.sat r.iovf) slot r.amax
  let seen := NatMap.rd c.sctSeen slot ||| (b2n (decide (r.uf > 0)) + 2 * b2n (decide (r.sat > 0)) + 4 * b2n (decide (r.iovf > 0)))
  { c with sctSeen := NatMap.wr c.sctSeen slot seen }

/-- A tile register image of codes, exponents and one inlay list; `half` places it (02 R46, 07 R236). -/
def mkTile (fb scale : Nat) (half : Nat) (codes exps inl : List Nat) (tag : Word) (p : BitVec 2) : Tile :=
  let c := fmtOf fb
  let cb := containerWidth c
  { codes := Bytes.wrN [] (4096 * half) (packCodes cb (codes.map (toContainer c)))
    exps := Bytes.wrN [] (1024 * half) (exps.map (BitVec.ofNat 8 ·))
    fmt := fb, scale := BitVec.ofNat 32 scale, inl := inl, tag := tag, poison := p }

/-- Is a tile write a half write (07 R236)? -/
def halfWrite (fb : Nat) : Bool := decide (containerWidth (fmtOf fb) ≤ 4) && !inlOf fb

/-- The half that a write names and the bytes of codes that it writes: the whole half, but an N1 or N2 tile of the
backward engine is 1 KiB or 2 KiB (05 R158). -/
def halfSpan (be : Bool) (fb half nblk : Nat) : Nat × Nat :=
  let w := containerWidth (fmtOf fb)
  (half, if be && decide (w ≤ 2) then max (1024 * w) (4 * nblk * w) else 4096)

/-- Elements a tile register write may hold. -/
def tileRoom (fb : Nat) : Nat := if halfWrite fb then tileCapacity (fmtOf fb) / 2 else tileCapacity (fmtOf fb)

/-- The tile of a format error: zeros, cause R (02 R39). DESIGN CHOICE, log 85: a register whose error named a format
that is not narrow holds format byte 03h. -/
def zeroTile (fb scale : Nat) (tag : Word) (p : BitVec 2) : Tile :=
  { fmt := if fmtIsNarrow (fmtOf fb) then fb else 3, scale := BitVec.ofNat 32 scale, tag := tag, poison := p ||| poisonR }

/-- The item of a format error: +0 elements, exponents 00h, cause R (02 R39). -/
def zeroItem (q slot fb scale ne entry : Nat) (tag : Word) (p : BitVec 2) : OutItem :=
  let f := fmtOf fb
  let nb := if fmtIsNarrow f then ceilDiv ne 32 else 0
  { q := q, slot := slot, tag := tag, poison := p ||| poisonR, fmt := fb, scale := BitVec.ofNat 32 scale,
    nelem := ne, nblk := nb, entry := entry,
    payload := if fmtIsNarrow f then List.replicate (nb * blockBytes f + padTo16 nb) 0
      else List.replicate (ne * (fmtWidth f / 8)) 0 }

/-- The output item of a format error: one that would not fit its slot is the empty item of R576. -/
def Core.zeroOut (c : Core) (q slot fb scale ne entry : Nat) (tag : Word) (p : BitVec 2) : OutItem :=
  let o := zeroItem q slot fb scale ne entry tag p
  if o.payload.length > c.qbytes q then { o with nelem := 0, nblk := 0, payload := [] } else o

/-- The empty item of an access error (08 R288). -/
def errItem (q slot fb : Nat) (tag : Word) (p : BitVec 2) : OutItem :=
  { q := q, slot := slot, tag := tag, poison := p ||| poisonR, fmt := fb, nelem := 0, payload := [] }

/-! ### Captures (06 R199) -/

/-- Input capture of a source of `xs` wide elements: bad when the shape does not fit. -/
def inputCapture (d : List Byte) (tag : Word) (p : BitVec 2) (wide : Bool) (xs : List Nat) : KerfRec :=
  let bad := !wide || decide (xs.length ≠ 32 * dKN d)
  { input := true, chain := dChain d, layer := dILayer d, idx := dRGrp d, tag := tag, holdw := dHoldW d, bad := bad,
    k0 := dK0 d, kn := dKN d, poison := p, data := if bad then [] else xs }

def outputCapture (d : List Byte) (tag : Word) (p : BitVec 2) (xs : List Nat) : KerfRec :=
  { input := false, chain := dChain d, layer := dOLayer d, idx := dTileIdx d, tag := tag, holdw := false, bad := false,
    k0 := 0, kn := 0, poison := p, data := xs }

/-- Bytes a record takes in the kerf ring. -/
def KerfRec.bytes (r : KerfRec) : Nat := 4 * r.data.length

/-- Is the capture of this tile or row group held already in the same attempt (R199)? -/
def Core.kerfHeld (c : Core) (input : Bool) (ch l idx k0 : Nat) : Bool :=
  c.kerf.any fun k => k.input == input && k.chain == ch && k.layer == l && k.idx == idx && !tagInv k.tag && k.k0 == k0

/-- The recorded selection of a chain and layer, and its tiles (R197, R198). -/
def Core.selOf (c : Core) (ch l : Nat) : Option Sel := c.sel.find? fun s => decide (s.chain = ch) && decide (s.layer = l)

/-- Windows of `t` tiles at exponent `rate`. -/
def kerfWindows (rate t : Nat) : Nat := ceilDiv t (2 ^ rate)

/-- The selected tiles from a counter value on. -/
def kerfTiles (key ctr : DWord) (rate t : Nat) : List Nat :=
  (List.range (kerfWindows rate t)).map fun i =>
    let w0 := i * 2 ^ rate
    w0 + (rsDraw key (ctr + BitVec.ofNat 64 i) * min (2 ^ rate) (t - w0)) >>> 32

/-- The recorded selection, regenerated. -/
def Core.selected (c : Core) (s : Sel) : List Nat :=
  kerfTiles (BitVec.ofNat 64 (c.reg (rRS_KEY 2))) s.ctr (ltRate c s.layer) s.tiles

/-- Can row group `g` hold tile `t`, for some number of column groups? A conversion's descriptor does not give
CGRP, which only a KCHK's does (07 R249). -/
def groupMayHold (g t : Nat) : Bool := decide (g = 0) || decide (t / g > t / (g + 1))

/-- Is a tile (a row group) captured: one that the selection recorded on this core takes in (R199)? DEDUCED, log 23:
one with no selection recorded yet is captured too. -/
def Core.sampled (c : Core) (input : Bool) (ch l idx : Nat) : Bool :=
  match c.selOf ch l with
  | none => true
  | some s => if input then (c.selected s).any (groupMayHold idx) else (c.selected s).contains idx

/-- A capture that KCORE takes: sampled, and not captured already in the same attempt (R199). -/
def Core.takesCapture (c : Core) (input : Bool) (ch l idx k0 : Nat) : Bool :=
  c.sampled input ch l idx && !c.kerfHeld input ch l idx k0

/-- Place a record in a core's kerf buffer. -/
def Core.addKerf (c : Core) (r : KerfRec) : Core :=
  if c.takesCapture r.input r.chain r.layer r.idx r.k0 then
    { c with kerf := c.kerf ++ [r], kerfAt := (c.kerfAt + r.bytes) % max 1 (c.reg rKRF_BUF_SIZE * 2 ^ 20) }
  else c

/-- Bytes of the captures that a descriptor makes on KCORE `c`, from the elements it reads. -/
def Core.captureNeed (c : Core) (d : List Byte) (ne : Nat) : Nat :=
  (if dCapO d && c.takesCapture false (dChain d) (dOLayer d) (dTileIdx d) 0 then 4096 else 0) +
  (if (dCapI d || dOp d == opKCAP) && decide (ne = 32 * dKN d) && c.takesCapture true (dChain d) (dILayer d) (dRGrp d) (dK0 d)
   then 4 * ne else 0)

/-- Do the captures of a descriptor fit into the ring (R200)? -/
def Core.kerfFits (c : Core) (d : List Byte) (ne : Nat) : Bool :=
  decide (c.kerf.foldl (fun s k => s + k.bytes) 0 + c.captureNeed d ne ≤ c.reg rKRF_BUF_SIZE * 2 ^ 20)

/-! ### Starts -/

/-- Which stream a conversion draws from (03 R96). -/
def convStream (d : List Byte) : Option Nat :=
  if dOp d = opCVT ∧ fmtIsG (fmtOf (dDFmt d)) then (if dDir d = 3 then some 0 else if dDir d = 0 then some 1 else none)
  else none

/-- An earlier operation that draws from the stream has not started (03 R97; R35). -/
def Core.earlierStream (c : Core) (seq n : Nat) : Bool :=
  c.ops.any fun t => decide (t.seq < seq) && t.waits && decide (convStream t.desc = some n)

/-- The accumulator tile an operation reads. -/
def opAcc (d : List Byte) : Option (Bool × Nat) :=
  if dOp d = opPDRN then some (dEng d, dTReg d)
  else if dOp d = opCVT ∧ dDir d ≥ 2 then some (decide (dDir d = 3), dTReg d)
  else none

/-- The tile register an operation writes. -/
def opTile (d : List Byte) : Option (Bool × Nat) :=
  if dOp d = opCVT ∧ dDir d = 0 then some (dEng d, dTReg d)
  else if dOp d = opLDT then some (dLEng d, dLReg d)
  else none

/-- Start conditions, beside the tick, that CVT, PDRN, LDT, RED, IGTH, KCAP share (08 R20; 07 R236; 04 R127; 03 R97, R109;
06 R188, R200). `fits` says that the captures of so many elements have room on KCORE. -/
def localReady (c : Core) (t : TOp) (now : Nat) (fits : Nat → Bool) : Bool :=
  let d := t.desc
  let pops := opPops d
  let ne := match pops with | n :: _ => (c.peek n).1.nelem | [] => 1024
  let tags := c.popTags pops ++
    (match opAcc d with | some (be, r) => [((c.eng be).acc r).tag] | none => []) ++
    (match opTile d with
      | some (be, r) =>
        let fb := if dOp d = opLDT then (match pops with | n :: _ => (c.peek n).1.fmt | [] => 0x0C) else dDFmt d
        if halfWrite fb then [((c.eng be).tile r).tag] else []
      | none => [])
  t.waits && c.queuesReady t.seq pops (opPushes d) && !mixedTags c.confirmed tags &&
  (match opAcc d with | some (be, r) => !(c.eng be).rowsPending r | none => true) &&
  (match opTile d with
    | some (be, r) => !(c.eng be).readOpen r now && !((c.eng be).tile r).wpend
    | none => true) &&
  (match convStream d with
    | some n => !c.earlierStream t.seq n && !c.rsHeldBefore t.seq n
    | none => true) &&
  (dOp d != opCVT || !slotWait c (dSlot d)) && fits ne

/-- The operation with place `id`. -/
def Core.op? (c : Core) (id : Nat) : Option TOp := c.ops.find? fun t => t.id == id

def Core.setOp (c : Core) (t : TOp) : Core := { c with ops := c.ops.map fun x => if x.id = t.id then t else x }
def Core.dropOp (c : Core) (id : Nat) : Core := { c with ops := c.ops.filter fun x => x.id ≠ id }

/-- The results of an operation whose descriptor was hurt: every output carries cause R (08 R258). -/
def OpResult.hurt (r : OpResult) : OpResult :=
  { r with items := r.items.map fun i => { i with poison := i.poison ||| poisonR }
           tile := r.tile.map fun (be, n, x, h) => (be, n, { x with poison := x.poison ||| poisonR }, h) }

/-- Record the start of an operation: its results wait for its last cycle. -/
def Core.started (c : Core) (t : TOp) (r : OpResult) : Core :=
  let c := match r.tile with | some (be, n, _, _) => c.setWpend be n | none => c
  let r := if t.hurt then r.hurt else r
  c.setOp { t with phase := .started, res := r }

/-- A CVT on wide elements into a narrow format: result codes and statistics. The stream of a G conversion advances
by 32 for every block, whatever becomes of the block (03 R93); an FE output conversion draws from none (R96). -/
def convNarrow (c : Core) (d : List Byte) (fb : Nat) (bad : Bool) (xs : List Nat) : Core × QResult :=
  let stream := (convStream d).getD 1
  let blocks := elemBlocks xs
  let ctr := BitVec.ofNat 64 (c.reg (rRS_CTR stream))
  let c := (if (convStream d).isSome then c.bump (rRS_CTR stream) (32 * blocks.length) else c).count mConv blocks.length
  if bad then (c, {})
  else
    let r := quantise (convCfg c d fb stream) ctr blocks
    let c := convStats c (dSlot d) r
    (if r.nonfinite then c.raise evNonFinite 0 else c, r)

/-- CVT DIR 00b: quantise a wide item into a tile register. -/
def cvtLoad (c : Core) (t : TOp) : Core × List KerfRec :=
  let d := t.desc
  let (o, hb) := c.peek (dQA d)
  let c := c.pop (dQA d)
  let fb := dDFmt d
  let wide := fmtIsWideEdge o.fmt
  let xs := if wide then o.elems.map (widen o.fmt) else []
  let sc := convScale c d (dSlot d)
  let bad := hb || !wide || fmtByteBad fb || !fmtIsNarrow (fmtOf fb) || slotDstBad c d fb || !scaleOk sc ||
    (decide (fmtOf fb = 0) && decide (o.nelem % 32 ≠ 0)) ||
    (!halfWrite fb && decide (dHalf d = 1)) || decide (32 * ceilDiv o.nelem 32 > tileRoom fb) ||
    (inlOf fb && decide (ceilDiv o.nelem 32 > 256))
  let tag := passTag o.tag
  let cap := if dCapI d then [inputCapture d tag o.poison wide xs] else []
  let c := if cap.any (·.bad) then c.raise evKerfConfig 0 else c
  let (c, r) := convNarrow c d fb bad (if wide then xs else List.replicate o.nelem 0)
  let c := if bad then c.raise evFormat 0 else c
  let p := o.poison ||| (if bad || r.nonfinite then poisonR else 0)
  let h := if halfWrite fb && !bad then dHalf d else 0
  let tile := if bad then zeroTile fb sc tag o.poison
    else mkTile fb sc h r.codes r.exps (r.lists.getD 0 []) tag p
  let hw := if halfWrite fb then some (halfSpan (dEng d) fb (dHalf d) (ceilDiv o.nelem 32)) else none
  (c.started t { tile := some (dEng d, dTReg d, tile, hw) }, cap)

/-- Is an inlay tile's record at odds with its codes (R103)? -/
def recordBad (fmt : Nat) (codes : List Nat) (r : List Byte) : Bool :=
  recordReservedBad r || decide (recordCount r > 16) ||
    decide (recordCount r ≠ (codes.filter fun x => decide (x = inlayCode fmt)).length)

/-- A narrow item that no unit may read: reserved header fields or format, an exponent byte FFh, an N1
item whose length is not a multiple of 32 (02 R40, R42, R45; 08 R279). -/
def narrowItemBad (o : OutItem) (hb : Bool) : Bool :=
  let f := fmtOf o.fmt
  hb || !(fmtIsNarrow f && !fmtByteBad o.fmt) || o.exps.any (· == 255) ||
    (decide (f = 0) && decide (o.nelem % 32 ≠ 0))

/-- The elements of a narrow item at tensor scale `s`, and whether they count for the step amax: those of an inlay
tile whose record is at odds with it are +0 and do not (02 R51; 03 R94, R103). -/
def deqElems (o : OutItem) (s : Rat) : List (Nat × Bool) :=
  let f := fmtOf o.fmt
  let codes := o.codes
  let exps := o.exps
  let tileBad := (List.range (ceilDiv o.nblk 256)).map fun k =>
    inlOf o.fmt && recordBad f ((codes.drop (8192 * k)).take 8192) (o.record k)
  let ranks := (codes.foldl (fun (a : List (Option Nat) × Nat × Nat) x =>
    let (acc, i, k) := a
    let k := if i % 8192 = 0 then 0 else k
    if inlOf o.fmt && decide (x = inlayCode f) then (some k :: acc, i + 1, k + 1) else (none :: acc, i + 1, k)) ([], 0, 0)).1.reverse
  (List.range o.nelem).map fun i =>
    if tileBad.getD (i / 8192) false then (0, false)
    else match ranks.getD i none with
      | some k => (recordEntry (o.record (i / 8192)) k, true)
      | none => (dequant f (codes.getD i 0) (exps.getD (i / 32) 0) s, true)

/-- CVT DIR 01b: dequantise a narrow item to FP32 at the slot's scale (R105, R109; 02 R51; 03 R94). A format error of
one inlay tile is confined to it (R103). -/
def cvtDeq (c : Core) (t : TOp) : Core × List KerfRec :=
  let d := t.desc
  let (o, hb) := c.peek (dQA d)
  let c := (c.pop (dQA d)).count mConv o.nblk
  let sc := convScale c d (dSlot d)
  let bad := narrowItemBad o hb || decide (dDFmt d ≠ 0x0C) || slotBad c d o.fmt || !scaleOk sc ||
    decide (o.nelem > 32 * o.nblk)
  let tag := passTag o.tag
  let (c, slot) := c.reserve (dQD d) t.seq
  if bad then
    ((c.raise evFormat 0).started t { items := [c.zeroOut (dQD d) slot 0x0C 0x3F800000 o.nelem (dEntryW d) tag o.poison] }, [])
  else
    let xs := deqElems o (fp32Mag sc)
    let part := xs.any (!·.2)
    let over_ := decide (4 * o.nelem > c.qbytes (dQD d))
    let am := xs.foldl (fun m x => if x.2 && fp32.isFinite x.1 then maxMag32 m x.1 else m) 0
    let c := if over_ then c else convFold c (dSlot d) am
    let c := if part && !over_ then c.raise evFormat 0 else c
    (c.started t { items := [{ q := dQD d, slot := slot, tag := tag, poison := o.poison ||| (if part then poisonR else 0), fmt := 0x0C
                               nelem := o.nelem, entry := dEntryW d, payload := wideBytes 4 (xs.map (·.1)) }] }, [])

/-- CVT DIR 10b and 11b: an output converter narrows an accumulator tile (03 R79). -/
def cvtOut (c : Core) (t : TOp) : Core × List KerfRec :=
  let d := t.desc
  let be := decide (dDir d = 3)
  let fb := dDFmt d
  let a := promoteAcc be ((c.eng be).acc (dTReg d))
  let c := c.setEng be ((c.eng be).setAcc (dTReg d) a)
  let c := hazardOut c a.poison a.tag
  let xs := accWides a
  let sc := convScale c d (dSlot d)
  let tag := passTag a.tag
  let cap := (if dCapO d then [outputCapture d tag a.poison xs] else []) ++
    (if dCapI d then [inputCapture d tag a.poison true xs] else [])
  let c := if cap.any (·.bad) then c.raise evKerfConfig 0 else c
  let bad := fmtByteBad fb || !(if be then fmtIsG (fmtOf fb) else fmtIsN (fmtOf fb)) || (dEng d != be) ||
    slotDstBad c d fb || !scaleOk sc
  let (c, slot) := c.reserve (dQD d) t.seq
  let need := 32 * blockBytes (fmtOf fb) + 32 + (if inlOf fb then 80 else 0)
  let big := decide (need > c.qbytes (dQD d))
  let (c, r) := convNarrow c d fb (bad || big) xs
  let c := if bad then c.raise evFormat 0 else c
  let item : OutItem :=
    if bad then c.zeroOut (dQD d) slot fb sc 1024 (dEntryW d) tag a.poison
    else { q := dQD d, slot := slot, tag := tag, poison := a.poison ||| (if r.nonfinite then poisonR else 0), fmt := fb,
           scale := BitVec.ofNat 32 sc, nelem := 1024, nblk := 32, entry := dEntryW d,
           payload := if big then List.replicate need 0
             else narrowPayload (fmtWidth (fmtOf fb)) r.codes r.exps (if inlOf fb then r.lists.map inlayRecord else []) }
  (c.started t { items := [item] }, cap)

/-- CVT (R287). -/
def cvtStart (c : Core) (t : TOp) : Core × List KerfRec :=
  if dDir t.desc = 0 then cvtLoad c t else if dDir t.desc = 1 then cvtDeq c t else cvtOut c t

/-- PDRN: promote and push an accumulator tile's FP32 wide values (04 R127). -/
def pdrnStart (c : Core) (t : TOp) : Core × List KerfRec :=
  let d := t.desc
  let be := dEng d
  let a := promoteAcc be ((c.eng be).acc (dTReg d))
  let c := c.setEng be ((c.eng be).setAcc (dTReg d) a)
  let c := hazardOut c a.poison a.tag
  let xs := accWides a
  let tag := passTag a.tag
  let cap := if dCapO d then [outputCapture d tag a.poison xs] else []
  let (c, slot) := c.reserve (dQD d) t.seq
  (c.started t { items := [{ q := dQD d, slot := slot, tag := tag, poison := a.poison, fmt := 0x0C, nelem := 1024,
                             entry := dEntryW d, payload := wideBytes 4 xs }] }, cap)

/-- LDT: a narrow item into a tile register, unchanged in value (R284, 02 R46, 03 R103). The load starts at the
item's block 0, which is an inlay-tile boundary. -/
def ldtStart (c : Core) (t : TOp) : Core :=
  let d := t.desc
  let (o, hb) := c.peek (dQA d)
  let c := c.pop (dQA d)
  let f := fmtOf o.fmt
  let r := o.record 0
  let bad := narrowItemBad o hb || !scaleOk o.scale.toNat ||
    (inlOf o.fmt && (recordBad f o.codes r || decide (o.nblk > 256))) ||
    (!halfWrite o.fmt && decide (dLHalf d = 1)) || decide (32 * o.nblk > tileRoom o.fmt)
  let tag := passTag o.tag
  let c := if bad then c.raise evFormat 0 else c
  let tile := if bad then zeroTile o.fmt o.scale.toNat tag o.poison
    else mkTile o.fmt o.scale.toNat (if halfWrite o.fmt then dLHalf d else 0) (o.codes.map (canonCode f)) o.exps
      (if inlOf o.fmt then (List.range (recordCount r)).map (recordEntry r) else []) tag o.poison
  let hw := if halfWrite o.fmt then some (halfSpan (dLEng d) o.fmt (dLHalf d) o.nblk) else none
  c.started t { tile := some (dLEng d, dLReg d, tile, hw) }

/-- RED: element-wise binary32 sum of two items (R285). -/
def redStart (c : Core) (t : TOp) : Core :=
  let d := t.desc
  let (its, c) := c.takeItems [dQA d, dQB d]
  let a := its.getD 0 ({ q := 0, slot := 0, tag := 0, poison := 0, fmt := 0, nelem := 0, payload := [] }, true)
  let b := its.getD 1 ({ q := 0, slot := 0, tag := 0, poison := 0, fmt := 0, nelem := 0, payload := [] }, true)
  let bad := a.2 || b.2 || decide (a.1.fmt ≠ 0x0C) || decide (b.1.fmt ≠ 0x0C) || decide (a.1.nelem ≠ b.1.nelem)
  let tag := combineTags c.confirmed [a.1.tag, b.1.tag]
  let p := a.1.poison ||| b.1.poison
  let (c, slot) := c.reserve (dQD d) t.seq
  if bad then (c.raise evFormat 0).started t { items := [c.zeroOut (dQD d) slot 0x0C 0x3F800000 a.1.nelem 0 tag p] }
  else
    let xs := (a.1.elems.zip b.1.elems).map fun (x, y) => engAdd fp32 (fp32.decode x) (fp32.decode y)
    c.started t { items := [{ q := dQD d, slot := slot, tag := tag, poison := p, fmt := 0x0C, nelem := a.1.nelem,
                              payload := wideBytes 4 xs }] }

/-- KCAP: an input capture of an item that passes through unchanged (R284). -/
def kcapStart (c : Core) (t : TOp) : Core × List KerfRec :=
  let d := t.desc
  let (o, hb) := c.peek (dQA d)
  let c := c.pop (dQA d)
  let wide := fmtIsWideEdge o.fmt && !hb
  let xs := if wide then o.elems.map (widen o.fmt) else []
  let cap := inputCapture d (passTag o.tag) o.poison wide xs
  let c := if cap.bad then c.raise evKerfConfig 0 else c
  let c := if wide then c else c.raise evFormat 0
  let p := o.poison ||| (if wide then 0 else poisonR)
  if dQDV d then
    let (c, slot) := c.reserve (dQD d) t.seq
    (c.started t { items := [{ o with q := dQD d, slot := slot, tag := passTag o.tag, poison := p }] }, [cap])
  else (c.started t {}, [cap])

/-- IGTH begins (R291): it pops its item and reserves its slot; the flag says that the item is a format error. -/
def igthTake (c : Core) (t : TOp) : Core × TOp × Bool :=
  let d := t.desc
  let (o, hb) := c.peek (dQA d)
  let (c, slot) := (c.pop (dQA d)).reserve (dQD d) t.seq
  (c, { t with input := [o], res := { items := [errItem (dQD d) slot o.fmt (passTag o.tag) o.poison] } },
    hb || !inlOf o.fmt || fmtByteBad o.fmt || decide (dTiles d ≠ ceilDiv o.nblk 256) || o.exps.any (· == 255))

/-- An IGTH whose records lie outside what it may read: the empty item of an access error (R288). -/
def igthRefused (c : Core) (t : TOp) : Core := (c.raise evAccess 0).started t t.res

/-- An IGTH on an item that is a format error. -/
def igthBad (c : Core) (t : TOp) : Core :=
  let i := t.res.items.headD (errItem 0 0 0 confTag 0)
  let o := t.input.headD i
  (c.raise evFormat 0).started t
    { items := [c.zeroOut i.q i.slot o.fmt o.scale.toNat o.nelem o.entry (passTag o.tag) o.poison] }

/-- IGTH with its records at hand: they follow the exponent bytes and their padding (R291). -/
def igthDone (c : Core) (t : TOp) (recs : List Byte) (lost : Bool) : Core :=
  let i := t.res.items.headD (errItem 0 0 0 confTag 0)
  let o := t.input.headD i
  c.started t { items := [{ o with
    q := i.q, slot := i.slot, tag := passTag o.tag
    poison := o.poison ||| (if lost then poisonR else 0)
    payload := fitBytes (codeBytes (fmtOf o.fmt) o.nblk + padTo16 o.nblk) o.payload ++ recs }] }

/-- The format byte of the empty item that an operation pushes on an access error. -/
def errFmt (d : List Byte) (o : Option OutItem) : Nat :=
  if dOp d = opCVT then dDFmt d else if dOp d = opKCAP then (o.map (·.fmt)).getD 0x0C else 0x0C

/-- An access error of a capture that names an unmapped core (06 R199, 08 R288): the inputs are popped, the outputs
carry their tag (06 R188) and their poison with cause R, and nothing is written. -/
def captureAccessError (c : Core) (t : TOp) : Core :=
  let d := t.desc
  let (its, c1) := c.takeItems (opPops d)
  let acc := (opAcc d).map fun (be, r) => (c.eng be).acc r
  let tags := its.map (·.1.tag) ++ (acc.map (·.tag)).toList
  let p := its.foldl (fun p i => p ||| i.1.poison) ((acc.map (·.poison)).getD 0)
  let c := c1.raise evAccess 0
  match opPushes d with
  | q :: _ =>
    let (c, slot) := c.reserve q t.seq
    c.started t { items := [errItem q slot (errFmt d (its.head?.map (·.1))) (combineTags c.confirmed tags) p] }
  | [] => match opTile d with
    | some (be, r) =>
      let x := (c.eng be).tile r
      (c.setEng be ((c.eng be).setTile r { x with poison := x.poison ||| p ||| poisonR })).started t {}
    | none => c.started t {}

end Sys2Proof.Machine
end

