-- ==== Sys2Proof/Machine/Tracker.lean ====
section
/-!
DEFINITION. The scale tracker (03 R105-R117, R573): register writes that wait for the step boundary, the
boundary sequence, just-in-time scales of replays, shard messages, and slot records.
-/
namespace Sys2Proof.Machine

def slotHlen (c : Core) (n : Nat) : Nat := field (c.reg (rSCT_CFG n)) 8 5
def slotHcount (c : Core) (n : Nat) : Nat := field (c.reg (rSCT_STAT n)) 4 5
def slotHist (c : Core) (n : Nat) : List Nat := (List.range (slotHcount c n)).map fun i => c.reg (rSCT_HIST n i)
def slotHasShards (c : Core) (n : Nat) : Bool := slotHome c n && decide (slotNsh c n > 0)

/-- Largest history entry as a magnitude (0 when there is none). -/
def histMax (c : Core) (n : Nat) : Rat := fp32Mag ((slotHist c n).foldl maxMag32 0)

/-- Set or clear SCALE_WAIT. -/
def Core.setWait (c : Core) (n : Nat) (b : Bool) : Core := c.setField (rSCT_STAT n) 3 1 (b2n b)

/-- SCALE_WAIT of a slot stands while it waits at a boundary, for a scale, or for the shards of a replay (R108, R111). -/
def Core.waitSync (c : Core) (n : Nat) : Core :=
  c.setWait n (c.bndWait.any (·.slot == n) || c.scaleDue.any (·.1 == n) || c.jitWait.any (·.1 == n))

/-- The predicted amax of a recipe (R106): newest entry, 1.25 or 2 times the history maximum. -/
def predicted (c : Core) (n : Nat) : Rat :=
  if slotRecipe c n = 1 then fp32Mag ((slotHist c n).headD 0)
  else if slotRecipe c n = 2 then 5 / 4 * histMax c n
  else if slotRecipe c n = 3 then 2 * histMax c n
  else 0

/-- The recipe scale for the next step, from the format in effect then (R106, R115). -/
def recipeScale (c : Core) (n : Nat) : Nat :=
  if slotCold c n then 0x3F800000
  else if slotRecipe c n = 4 ∨ slotRecipe c n = 5 then 0x3F800000
  else if predicted c n = 0 then c.reg (rSCT_SCALE n)
  else scaleOf (predicted c n / (topMag (fmtOf (slotFmt c n)) : Rat))

/-! ### Just-in-time scales (R111) -/

/-- S_jit of a slot for the format `fmt` of its replayed output. -/
def jitScale (c : Core) (n fmt : Nat) : Nat :=
  if slotCold c n then 0x3F800000 else
  let sofar := fp32Mag (c.reg (rSCT_AMAX n))
  let p := if slotRecipe c n = 1 then fp32Mag ((slotHist c n).headD 0)
    else (if slotRecipe c n = 2 then 5 / 4 else 2) * max (histMax c n) sofar
  if p = 0 then c.reg (rSCT_SCALE n) else scaleOf (p / (topMag fmt : Rat))

/-- Retain a replay scale of a slot; `r` is the replay's number (`jitId`). -/
def Core.setJit (c : Core) (n r s : Nat) : Core :=
  { c with jit := (n, r, s) :: c.jit.filter fun j => !(decide (j.1 = n) && decide (j.2.1 = r)) }

/-- The shard entries of a home slot (R573): chip, x, y, slot. -/
def shardList (c : Core) (n : Nat) : List (Nat × Nat × Nat × Nat) :=
  let base := field (c.reg (rSCT_SHLIST n)) 0 22 / 4 * 4
  (List.range (slotNsh c n)).map fun i =>
    let e := Bytes.rdLe c.store (base + 4 * i) 4
    (field e 8 12, field e 0 4, field e 4 4, field e 20 6)

/-- A home slot sends a scale to each of its shard slots. -/
def sendScales (c : Core) (n s : Nat) (jit : Option Nat) : Core :=
  { c with sys := c.sys ++ (shardList c n).map fun (chip, x, y, k) => (some (chip, x, y), SysMsg.tensorScale k s jit) }

/-- A shard slot sends its step amax to its home slot. -/
def sendAmax (c : Core) (n : Nat) (jit : Option Nat) : Core :=
  let l := c.reg (rSCT_LINK n)
  { c with sys := c.sys ++ [(some (field l 8 12, field l 0 4, field l 4 4),
      SysMsg.shardAmax (field l 20 6) (c.reg (rSCT_AMAX n)) jit)] }

/-- Key of `shardGot` for a replay. -/
def jitKey (n r : Nat) : Nat := 64 * (r + 1) + n

/-- A home slot whose shards have all reported for a replay forms S_jit and sends it (R111). -/
def jitFinish (c : Core) (n r : Nat) : Core :=
  match c.jitWait.find? fun w => decide (w.1 = n) && decide (w.2.1 = r) with
  | some (_, _, fmt) =>
    if NatMap.rd c.shardGot (jitKey n r) ≥ slotNsh c n then
      let s := jitScale c n fmt
      let c := sendScales (c.setJit n r s) n s (some r)
      let left := c.jitWait.filter fun w => !(decide (w.1 = n) && decide (w.2.1 = r))
      { c with jitWait := left, shardGot := NatMap.wr c.shardGot (jitKey n r) 0 }.waitSync n
    else c
  | none => c

/-- A slot of layer `l`, which chain `ch` replays on a format whose code is `rung` (R111, R209). -/
def jitSlot (ch l rung : Nat) (c : Core) (n : Nat) : Core :=
  let k := slotRecipe c n
  let r := jitId ch l
  if k ≠ 1 ∧ k ≠ 2 ∧ k ≠ 3 then c else
  let fmt := if k = 3 then fmtOf (slotFmt c n) else rung
  if slotShard c n then
    { sendAmax c n (some r) with scaleDue := (n, some r) :: c.scaleDue.filter (· != (n, some r)) }.waitSync n
  else if slotHasShards c n then
    let c := { c with jitWait := (n, r, fmt) :: c.jitWait.filter fun w => !(decide (w.1 = n) && decide (w.2.1 = r)) }
    jitFinish (c.waitSync n) n r
  else c.setJit n r (jitScale c n fmt)

/-- Every slot of layer `l` on a replay of chain `ch`. -/
def jitLayer (c : Core) (ch l : Nat) : Core :=
  ((List.range 64).filter (ltInSlots c l)).foldl (jitSlot ch l (ltRung c l (c.rung ch l))) c

/-! ### Register writes (R112, R113, R573) -/

/-- Field rules of a SCT_CFG write against the value in effect: a reserved RECIPE and an HLEN outside 1-16
keep their fields. -/
def sctCfgMerge (old w : Nat) : Nat :=
  let r := if field w 0 3 ≥ 6 then field old 0 3 else field w 0 3
  let h := if field w 8 5 = 0 ∨ field w 8 5 > 16 then field old 8 5 else field w 8 5
  r + h * 2 ^ 8 + field w 16 4 * 2 ^ 16 + field w 20 1 * 2 ^ 20 + field w 24 8 * 2 ^ 24

/-- A write to SCT_CFGn waits for the step boundary; a later one replaces it. -/
def sctCfgWrite (c : Core) (n w : Nat) : Core :=
  { c.setField (rSCT_STAT n) 2 1 1 with sctCfg := (n, w) :: c.sctCfg.filter fun p => p.1 ≠ n }

/-- A write to SCT_SCALEn waits for the step boundary; a value outside R43 is ignored. -/
def sctScaleWrite (c : Core) (n w : Nat) : Core :=
  if scaleOk w then
    { c.setField (rSCT_STAT n) 2 1 1 with sctScale := (n, w) :: c.sctScale.filter fun p => p.1 ≠ n }
  else c

def sctPending (l : List (Nat × Nat)) (n : Nat) : Option Nat := (l.find? fun p => p.1 == n).map (·.2)

/-! ### The step boundary (R108) -/

/-- Step 2: a SCT_CFG write of a slot that waited for the boundary. -/
def sctApplyCfg (c : Core) (n : Nat) (w : Option Nat) : Core :=
  match w with
  | some w =>
    let v := sctCfgMerge (c.reg (rSCT_CFG n)) w
    (c.setReg (rSCT_CFG n) v).setField (rSCT_STAT n) 4 5 (min (slotHcount c n) (field v 8 5))
  | none => c

/-- Step 3: push the step amax into the history. -/
def sctPush (c : Core) (n : Nat) : Core :=
  let hl := slotHlen c n
  let old := (List.range 16).map fun i => c.reg (rSCT_HIST n i)
  let new := (c.reg (rSCT_AMAX n) :: old).take hl
  let c := (List.range 16).foldl (fun c i => c.setReg (rSCT_HIST n i) (new.getD i 0)) c
  c.setField (rSCT_STAT n) 4 5 (min (slotHcount c n + 1) hl)

/-- Step 4: EXCEED, on the scale and top magnitude in effect during the step, and its counter; COLD clears
under R116, for a weight slot on an amax report whatever its value; the seen bits of the completed step (R113). -/
def sctFlags (c : Core) (n t scale : Nat) : Core :=
  let ex := decide (fp32Mag (c.reg (rSCT_AMAX n)) > (t : Rat) * fp32Mag scale)
  let cnt := field (c.reg (rSCT_STAT n)) 16 16
  let c := c.setField (rSCT_STAT n) 1 1 (b2n ex)
  let c := if ex then c.setField (rSCT_STAT n) 16 16 (min (cnt + 1) 0xFFFF) else c
  let c := c.setField (rSCT_STAT n) 9 3 (NatMap.rd c.sctSeen n)
  let warm := decide (slotHcount c n ≥ slotHlen c n) || slotRecipe c n == 4 || slotRecipe c n == 5 ||
    (slotRecipe c n == 1 && c.amaxRep.contains n)
  { (if warm then c.setField (rSCT_STAT n) 0 1 0 else c) with sctSeen := NatMap.wr c.sctSeen n 0 }

/-- Step 5: a shard slot computes no scale; a write that waited replaces the computed one; a cold slot keeps 1.0, and
so does a slot of recipe 100b or 101b, whose SCALE stays 1.0 (R106). -/
def sctScaleStep (c : Core) (n : Nat) (w : Option Nat) : Core :=
  if slotShard c n then c else
  c.setReg (rSCT_SCALE n)
    (if slotCold c n || slotRecipe c n == 4 || slotRecipe c n == 5 then 0x3F800000 else w.getD (recipeScale c n))

/-- FMT of a slot is changed by the width ladder (06 R211), for recipes 001b and 010b. -/
def sctSetFmt (c : Core) (n code : Nat) : Core :=
  if slotRecipe c n = 1 ∨ slotRecipe c n = 2 then c.setField (rSCT_CFG n) 24 5 code else c

/-- CFG_PEND stands while a write of the slot waits for a boundary that has not come (R112, R113). -/
def Core.pendSync (c : Core) (n : Nat) : Core :=
  c.setField (rSCT_STAT n) 2 1 (b2n ((sctPending c.sctCfg n).isSome || (sctPending c.sctScale n).isSome))

/-- Step 6, and what was folded and reported meanwhile is of the next step. -/
def sctNext (c : Core) (n : Nat) : Core :=
  { c.setReg (rSCT_AMAX n) (NatMap.rd c.lateMax n) with
    lateMax := NatMap.wr c.lateMax n 0, shardGot := NatMap.wr c.shardGot n 0, shardMax := NatMap.wr c.shardMax n 0
    amaxRep := (c.amaxRep.filter (· != n)).map fun k => if k = n + 64 then n else k }

/-- Steps 2 to 7 of a slot whose shards have all reported. -/
def sctFinish (c : Core) (b : BndWait) : Core :=
  let n := b.slot
  let c := c.raiseAmax n (NatMap.rd c.shardMax n)
  let c := sctApplyCfg c n b.cfg
  let c := match b.fmt with | some f => sctSetFmt c n f | none => c
  let c := sctScaleStep (sctFlags (sctPush c n) n b.t b.scale) n b.new
  let c := (sctNext { c with bndWait := c.bndWait.filter (·.slot != n) } n).pendSync n
  (if slotHasShards c n then sendScales c n (c.reg (rSCT_SCALE n)) none else c).waitSync n

/-- Boundary of one slot. `fmt` is the rung the ladder gives the slot, if any. A slot that was unused in the
step only takes the writes that waited. A home slot with shards waits at step 1 until every shard has reported. -/
def sctBoundary (fmt : Nat → Option Nat) (c : Core) (n : Nat) : Core :=
  let b : BndWait := { slot := n, t := topMag (fmtOf (slotFmt c n)), scale := c.reg (rSCT_SCALE n), fmt := fmt n,
                       cfg := sctPending c.sctCfg n, new := sctPending c.sctScale n }
  let used := slotRecipe c n != 0
  let c := { c with sctCfg := c.sctCfg.filter fun p => p.1 ≠ n, sctScale := c.sctScale.filter fun p => p.1 ≠ n }
  if !used then
    let c := sctApplyCfg c n b.cfg
    let c := match b.fmt with | some f => sctSetFmt c n f | none => c
    (match b.new with | some s => c.setReg (rSCT_SCALE n) s | none => c).pendSync n
  else
    let c := if slotShard c n then { sendAmax c n none with scaleDue := (n, none) :: c.scaleDue } else c
    let c := { c with bndWait := b :: c.bndWait }
    if slotHasShards c n && decide (NatMap.rd c.shardGot n < slotNsh c n) then c.waitSync n else sctFinish c b

/-- A shard amax message (R108 step 1, R111). The amax of a boundary joins the step amax once the home slot's own
boundary has come. -/
def shardAmax (c : Core) (n m : Nat) (jit : Option Nat) : Core :=
  match jit with
  | some r =>
    let c := c.foldAmax n m
    jitFinish { c with shardGot := NatMap.wr c.shardGot (jitKey n r) (NatMap.rd c.shardGot (jitKey n r) + 1) } n r
  | none =>
    let c := { c with shardGot := NatMap.wr c.shardGot n (NatMap.rd c.shardGot n + 1)
                      shardMax := NatMap.wr c.shardMax n (max (NatMap.rd c.shardMax n) m)
                      amaxRep := if m ≠ 0 then n :: c.amaxRep else c.amaxRep }
    match c.bndWait.find? (·.slot == n) with
    | some b => if NatMap.rd c.shardGot n ≥ slotNsh c n then sctFinish c b else c
    | none => c

/-- A tensor scale message (R108 step 7, R111). -/
def tensorScale (c : Core) (n s : Nat) (jit : Option Nat) : Core :=
  let c := { c with scaleDue := c.scaleDue.filter (· != (n, jit)) }
  (match jit with
    | some r => c.setJit n r s
    | none => c.setReg (rSCT_SCALE n) s).waitSync n

/-! ### Slot records (R114-R117) -/

/-- The 80-byte record of a slot. -/
def slotRecord (c : Core) (n : Nat) : List Byte :=
  leBytes 2 2 ++ leBytes 1 (slotRecipe c n) ++ leBytes 1 (slotHlen c n) ++ leBytes 1 (slotHcount c n) ++
  leBytes 1 (slotFmt c n) ++ leBytes 1 (slotShift c n) ++ leBytes 1 (b2n (slotCold c n)) ++
  leBytes 4 (c.reg (rSCT_SCALE n)) ++ leBytes 4 0 ++
  (List.range 16).flatMap fun i => leBytes 4 (if i < slotHcount c n then c.reg (rSCT_HIST n i) else 0)

/-- Does a record leave its slot cold (R115)? `recipe` is the job's configured recipe. -/
def recordCold (r : List Byte) (recipe : Nat) : Bool :=
  decide (r.length < 80) || decide (listLe r 0 2 ≠ 2) || decide (listLe r 2 1 ≠ recipe) ||
  decide (listLe r 3 1 = 0) || decide (listLe r 3 1 > 16) || decide (listLe r 4 1 > 16) ||
  decide (listLe r 6 1 ≥ 16) || decide (listLe r 7 1 ≥ 2) || !scaleOk (listLe r 8 4) || decide (listLe r 12 4 ≠ 0)

/-- A slot made cold (R115). -/
def sctCold (c : Core) (n : Nat) : Core :=
  let c := (c.setReg (rSCT_SCALE n) 0x3F800000).setField (rSCT_STAT n) 4 5 0
  (List.range 16).foldl (fun c i => c.setReg (rSCT_HIST n i) 0) (c.setField (rSCT_STAT n) 0 1 1)

/-- A slot restored from a record; the flag says that it starts cold. -/
def sctRestore (c : Core) (n : Nat) (r : List Byte) : Core × Bool :=
  if recordCold r (slotRecipe c n) then (sctCold c n, true)
  else
    let c := c.setField (rSCT_CFG n) 8 5 (listLe r 3 1)
    let c := c.setField (rSCT_CFG n) 24 8 (listLe r 5 1)
    let c := c.setField (rSCT_CFG n) 16 4 (listLe r 6 1)
    let c := c.setField (rSCT_STAT n) 4 5 (listLe r 4 1)
    let c := c.setField (rSCT_STAT n) 0 1 (listLe r 7 1)
    let c := c.setReg (rSCT_SCALE n) (listLe r 8 4)
    ((List.range 16).foldl (fun c i => c.setReg (rSCT_HIST n i) (listLe r (16 + 4 * i) 4)) c, false)

/-- What a slot leaves behind at a job load or a restore: the step amax, EXCEED, the waits and the seen bits; the
count of exceeding steps runs on from job load (R113). -/
def sctDrop (c : Core) (load : Bool) (n : Nat) : Core :=
  let st := c.reg (rSCT_STAT n)
  (c.setReg (rSCT_AMAX n) 0).setReg (rSCT_STAT n)
    (field st 0 1 + field st 4 5 * 2 ^ 4 + (if load then 0 else field st 16 16 * 2 ^ 16))

/-- Every slot of the core at a job load or a restore: nothing of the aborted step remains. -/
def Core.dropScales (c : Core) (load : Bool) : Core :=
  (List.range 64).foldl (fun c n => sctDrop c load n)
    { c with sctCfg := [], sctScale := [], jit := [], shardGot := [], shardMax := [], jitWait := [], scaleDue := []
             bndWait := [], lateMax := [], amaxRep := [], sctSeen := [] }

/-- A slot at job load with the initial scale of its image entry (R115). The flag says that it starts cold. -/
def sctLoad (c : Core) (n scale : Nat) : Core × Bool :=
  if scaleOk scale then
    let c := (sctCold c n).setField (rSCT_STAT n) 0 1 0
    (c.setReg (rSCT_SCALE n) scale, false)
  else (sctCold c n, true)

end Sys2Proof.Machine
end

