-- ==== Sys2Proof/Machine/Flags.lean ====
section
/-!
DEFINITION. The IEEE 754 operations of the vector unit on codes, with their flags
(02 R65-R69, R574; 07 R246).
-/
namespace Sys2Proof.Machine

/-- The format of a VU FMT code 0-3 (07 R245). -/
def vuFmt (c : Nat) : FpFmt := if c = 0 then fp32 else if c = 1 then fp64 else if c = 2 then bf16 else fp16

/-- The rounding direction of an RM code; the dynamic code reads the RM given (R66). -/
def rmOf (code dyn : Nat) : RoundMode :=
  let c := if code = 7 then dyn else code
  if c = 1 then .towardZero else if c = 2 then .towardNeg else if c = 3 then .towardPos else if c = 4 then .tiesAway
  else .tiesEven

def nvFlag : Flags := { nv := true }

/-- A NaN code with its quiet bit set. -/
def FpFmt.quiet (f : FpFmt) (x : Nat) : Nat := x ||| 2 ^ (f.fbits - 1)

def FpFmt.isSNaN (f : FpFmt) (x : Nat) : Bool := f.isNaN x && !bitOf x (f.fbits - 1)

def FpFmt.neg (f : FpFmt) (x : Nat) : Bool := bitOf x (f.ebits + f.fbits)

def FpFmt.isInf (f : FpFmt) (x : Nat) : Bool := decide (f.magBits x = f.infCode)
def FpFmt.isZero (f : FpFmt) (x : Nat) : Bool := decide (f.magBits x = 0)

/-- Magnitude of a finite code. -/
def FpFmt.mag (f : FpFmt) (x : Nat) : Rat := match f.decode x with | .fin _ m => m | _ => 0
def FpFmt.val (f : FpFmt) (x : Nat) : Rat := signedQ (f.neg x) (f.mag x)

/-- NaN operands: the first one, quieted, with NV if any operand is signalling (R69). -/
def nanResult (f : FpFmt) (xs : List Nat) : Option (Nat × Flags) :=
  match xs.find? f.isNaN with
  | none => none
  | some x => some (f.quiet x, { nv := xs.any f.isSNaN })

def invalid (f : FpFmt) : Nat × Flags := (f.canonNaN, nvFlag)

def fAdd (f : FpFmt) (rm : RoundMode) (a b : Nat) (sub : Bool) : Nat × Flags :=
  match nanResult f [a, b] with
  | some r => r
  | none =>
    let bn := f.neg b != sub
    if f.isInf a && f.isInf b then (if f.neg a = bn then (f.infBits bn, {}) else invalid f)
    else if f.isInf a then (f.infBits (f.neg a), {})
    else if f.isInf b then (f.infBits bn, {})
    else f.roundQ rm (zeroSumSign rm (f.neg a) bn (f.isZero a && f.isZero b)) (f.val a + signedQ bn (f.mag b))

def fMul (f : FpFmt) (rm : RoundMode) (a b : Nat) : Nat × Flags :=
  match nanResult f [a, b] with
  | some r => r
  | none =>
    let n := f.neg a != f.neg b
    if f.isInf a || f.isInf b then (if f.isZero a || f.isZero b then invalid f else (f.infBits n, {}))
    else f.round rm n (f.mag a * f.mag b)

def fFma (f : FpFmt) (rm : RoundMode) (a b c : Nat) : Nat × Flags :=
  let zi := (f.isInf a && f.isZero b) || (f.isZero a && f.isInf b)
  match nanResult f [a, b, c] with
  | some (x, fl) => (x, { fl with nv := fl.nv || zi })
  | none =>
    let n := f.neg a != f.neg b
    if zi then invalid f
    else if f.isInf a || f.isInf b then
      (if f.isInf c && f.neg c != n then invalid f else (f.infBits n, {}))
    else if f.isInf c then (f.infBits (f.neg c), {})
    else
      let p := f.mag a * f.mag b
      f.roundQ rm (zeroSumSign rm n (f.neg c) (decide (p = 0) && f.isZero c)) (signedQ n p + f.val c)

def fDiv (f : FpFmt) (rm : RoundMode) (a b : Nat) : Nat × Flags :=
  match nanResult f [a, b] with
  | some r => r
  | none =>
    let n := f.neg a != f.neg b
    if f.isInf a then (if f.isInf b then invalid f else (f.infBits n, {}))
    else if f.isInf b then (f.signBit n, {})
    else if f.isZero b then (if f.isZero a then invalid f else (f.infBits n, { dz := true }))
    else f.round rm n (f.mag a / f.mag b)

/-- A rational on the same side of every rounding boundary as the root of `q`: the integer root of `q`
scaled by 4^k, with half a unit added when it is not exact. -/
def sqrtNear (q : Rat) (prec : Nat) : Rat :=
  let k : Int := (prec : Int) + 2 - ratLog2 q / 2
  let s := (q * pow2 (2 * k)).floor.toNat
  let r := Nat.sqrt s
  let exact := decide (((r * r : Nat) : Rat) = q * pow2 (2 * k))
  ((r : Rat) + (if exact then 0 else 1 / 2)) * pow2 (-k)

def fSqrt (f : FpFmt) (rm : RoundMode) (a : Nat) : Nat × Flags :=
  match nanResult f [a] with
  | some r => r
  | none =>
    if f.isZero a then (a, {})
    else if f.neg a then invalid f
    else if f.isInf a then (a, {})
    else f.round rm false (sqrtNear (f.mag a) (f.fbits + 2))

/-- IEEE remainder: x - y n, n the integer nearest x / y, ties to even. -/
def fRem (f : FpFmt) (a b : Nat) : Nat × Flags :=
  match nanResult f [a, b] with
  | some r => r
  | none =>
    if f.isInf a || f.isZero b then invalid f
    else if f.isInf b then (a, {})
    else
      let q := f.mag a / f.mag b
      let n := roundInt .tiesEven false q
      let r := f.mag a - f.mag b * (n : Rat)
      f.roundQ .tiesEven (f.neg a) (signedQ (f.neg a) r)

/-- The order of two codes that are not NaN, with -0 below +0. -/
def fLess (f : FpFmt) (a b : Nat) : Bool :=
  let k := fun x => if f.neg x then -((f.magBits x : Nat) : Int) - 1 else ((f.magBits x : Nat) : Int)
  decide (k a < k b)

/-- Numerical order: -0 equals +0 (R64). -/
def fLt (f : FpFmt) (a b : Nat) : Bool := fLess f a b && !(f.isZero a && f.isZero b)
def fEq (f : FpFmt) (a b : Nat) : Bool := decide (a = b) || (f.isZero a && f.isZero b)

/-- minimum and maximum families of IEEE 754-2019: by magnitude, and the Number forms. -/
def fMinMax (f : FpFmt) (isMax byMag number : Bool) (a b : Nat) : Nat × Flags :=
  let pick := fun (x y : Nat) =>
    let lt := fLess f x y
    let base := if isMax then (if lt then y else x) else (if lt then x else y)
    if byMag then
      let mx := f.magBits x
      let my := f.magBits y
      if mx < my then (if isMax then y else x) else if my < mx then (if isMax then x else y) else base
    else base
  if f.isNaN a || f.isNaN b then
    let fl : Flags := { nv := f.isSNaN a || f.isSNaN b }
    if number && !f.isNaN a then (a, fl)
    else if number && !f.isNaN b then (b, fl)
    else match nanResult f [a, b] with | some r => r | none => (a, fl)
  else (pick a b, {})

def fOne (f : FpFmt) : Nat := f.bias * 2 ^ f.fbits

/-- A comparison under PRED (07 R246). -/
def fCmp (f : FpFmt) (signalling : Bool) (pred a b : Nat) : Nat × Flags :=
  let un := f.isNaN a || f.isNaN b
  let r := match pred with
    | 0 => !un && fEq f a b
    | 1 => !un && fLt f a b
    | 2 => !un && (fLt f a b || fEq f a b)
    | 3 => !un && fLt f b a
    | 4 => !un && (fLt f b a || fEq f a b)
    | 5 => un
    | _ => un || !fEq f a b
  (if r then fOne f else 0, { nv := if signalling then un else f.isSNaN a || f.isSNaN b })

/-- convertFormat with NaN payloads (R69). DESIGN CHOICE, log 81: R69 says which payload bits survive a narrowing to a
narrower format; widening, and between FP16 and BF16, the payload is left-aligned by the fraction widths. -/
def fCvt (f g : FpFmt) (rm : RoundMode) (a : Nat) : Nat × Flags :=
  match f.decode a with
  | .nan n m s =>
    let pay := m % 2 ^ (f.fbits - 1)
    let fl : Flags := { nv := s }
    if g.fbits < f.fbits then
      let p := pay / 2 ^ (f.fbits - g.fbits)
      (if p = 0 then g.canonNaN else g.signBit n + g.canonNaN + p, fl)
    else (g.signBit n + g.canonNaN + pay * 2 ^ (g.fbits - f.fbits), fl)
  | .inf n => (g.infBits n, {})
  | .fin n m => g.round rm n m

/-- convertToInteger; `ty` 4 signed 32, 5 unsigned 32, 6 signed 64, 7 unsigned 64 (R574). DEDUCED: R65 names the
IEEE 754 operation without Exact, which does not signal inexact (log 70). -/
def fToInt (f : FpFmt) (rm : RoundMode) (ty a : Nat) : Nat × Flags :=
  let bits := if ty ≤ 5 then 32 else 64
  let signed := ty % 2 = 0
  let hi : Int := if signed then 2 ^ (bits - 1) - 1 else 2 ^ bits - 1
  let lo : Int := if signed then -(2 ^ (bits - 1)) else 0
  match f.decode a with
  | .nan _ _ _ => (wrapInt bits hi, nvFlag)
  | .inf n => (wrapInt bits (if n then lo else hi), nvFlag)
  | .fin n m =>
    let r := roundInt rm n m
    let i : Int := if n then -(r : Int) else r
    if i > hi then (wrapInt bits hi, nvFlag)
    else if i < lo then (wrapInt bits lo, nvFlag)
    else (wrapInt bits i, {})

def fFromInt (f : FpFmt) (rm : RoundMode) (ty x : Nat) : Nat × Flags :=
  let bits := if ty ≤ 5 then 32 else 64
  let i : Int := if ty % 2 = 0 then signedOf bits x else (x % 2 ^ bits : Nat)
  f.roundQ rm false (i : Rat)

def fRint (f : FpFmt) (rm : RoundMode) (exact : Bool) (a : Nat) : Nat × Flags :=
  match nanResult f [a] with
  | some r => r
  | none =>
    if f.isInf a then (a, {})
    else
      let r := roundInt rm (f.neg a) (f.mag a)
      ((f.round .tiesEven (f.neg a) (r : Rat)).1, { nx := exact && decide ((r : Rat) ≠ f.mag a) })

/-- scaleB with a signed 32-bit exponent. -/
def fScaleB (f : FpFmt) (rm : RoundMode) (a n : Nat) : Nat × Flags :=
  match nanResult f [a] with
  | some r => r
  | none =>
    if f.isInf a || f.isZero a then (a, {})
    else
      -- beyond these bounds the rounded result no longer depends on the exponent
      let k : Int := max (-5000) (min 5000 (signedOf 32 n))
      f.round rm (f.neg a) (f.mag a * pow2 k)

def fLogB (f : FpFmt) (a : Nat) : Nat × Flags :=
  match f.decode a with
  | .nan _ _ _ => (0x7FFFFFFF, nvFlag)
  | .inf _ => (0x7FFFFFFF, nvFlag)
  | .fin _ m => if m = 0 then (0x80000000, nvFlag) else (wrapInt 32 (ratLog2 m), {})

/-- nextUp, and nextDown as its mirror image. -/
def fNext (f : FpFmt) (down : Bool) (a : Nat) : Nat × Flags :=
  match nanResult f [a] with
  | some r => r
  | none =>
    let towardSmaller := f.neg a != down
    if f.isZero a then (f.signBit down + 1, {})
    else if towardSmaller then (f.signBit (f.neg a) + (f.magBits a - 1), {})
    else if f.isInf a then (a, {})
    else (f.signBit (f.neg a) + (f.magBits a + 1), {})

/-- The class number 0-9 (07 R246). -/
def fClass (f : FpFmt) (a : Nat) : Nat :=
  if f.isSNaN a then 0 else if f.isNaN a then 1
  else
    let n := f.neg a
    if f.isInf a then (if n then 2 else 9)
    else if f.isZero a then (if n then 5 else 6)
    else if f.magBits a < 2 ^ f.fbits then (if n then 4 else 7)
    else if n then 3 else 8

/-- One lane of a VU operation: the result code and its flags. `fmt`, `fmt2` are the FMT codes. -/
def vuLane (op fmt fmt2 : Nat) (rm : RoundMode) (pred : Nat) (exact : Bool) (a b c : Nat) : Nat × Flags :=
  let f := vuFmt fmt
  match op with
  | 0x20 => fAdd f rm a b false
  | 0x21 => fAdd f rm a b true
  | 0x22 => fMul f rm a b
  | 0x23 => fFma f rm a b c
  | 0x24 => fDiv f rm a b
  | 0x25 => fSqrt f rm a
  | 0x26 => fRem f a b
  | 0x27 => fMinMax f false false false a b
  | 0x28 => fMinMax f true false false a b
  | 0x29 => fMinMax f false false true a b
  | 0x2A => fMinMax f true false true a b
  | 0x2B => fMinMax f false true false a b
  | 0x2C => fMinMax f true true false a b
  | 0x2D => fMinMax f false true true a b
  | 0x2E => fMinMax f true true true a b
  | 0x2F => fCmp f false pred a b
  | 0x30 => fCmp f true pred a b
  | 0x31 => fCvt f (vuFmt fmt2) rm a
  | 0x32 => fToInt f rm fmt2 a
  | 0x33 => fFromInt f rm fmt2 a
  | 0x34 => fRint f rm exact a
  | 0x35 => fScaleB f rm a b
  | 0x36 => fLogB f a
  | 0x37 => fNext f false a
  | 0x38 => fNext f true a
  | 0x39 => (f.signBit (!f.neg a) + f.magBits a, {})
  | 0x3A => (f.magBits a, {})
  | 0x3B => (f.signBit (f.neg b) + f.magBits a, {})
  | 0x3C => ((f.round .tiesEven false (fClass f a : Nat)).1, {})
  | _ => (0, {})

end Sys2Proof.Machine
end

