-- ==== Sys2Proof/Machine/Vector.lean ====
section
/-!
DEFINITION. The vector unit (07 R245-R247; 08 R292-R294): starting the next issue of the oldest pushed
instruction, its results, and its completion.
-/
namespace Sys2Proof.Machine

/-- FMT code 0-3 to the format byte of an item (02 R38). -/
def vuFmtByte (c : Nat) : Nat := if c = 0 then 0x0C else if c = 1 then 0x0D else if c = 2 then 0x0E else 0x0F

/-- Format byte that operand `k` of an instruction must carry (08 R292). -/
def vuSrcByte (w : BitVec 128) (k : Nat) : Nat :=
  let op := vu w 0 8
  if op = 0x33 then (if vFmt2 w ≤ 5 then 0x0C else 0x0D)
  else if op = 0x35 ∧ k = 1 then 0x0C
  else vuFmtByte (vFmt w)

/-- Format byte of the output item (08 R292). -/
def vuDstByte (w : BitVec 128) : Nat :=
  let op := vu w 0 8
  if op = 0x31 then vuFmtByte (vFmt2 w)
  else if op = 0x32 then (if vFmt2 w ≤ 5 then 0x0C else 0x0D)
  else if op = 0x36 then 0x0C
  else vuFmtByte (vFmt w)

def vuElemBytes (fmtByte : Nat) : Nat := fmtWidth fmtByte / 8

/-- Flags as the bits of VU_FCSR (02 R67). -/
def Flags.bits (f : Flags) : Nat :=
  8 * b2n f.nv + 16 * b2n f.dz + 32 * b2n f.of + 64 * b2n f.uf + 128 * b2n f.nx

/-- Elements of an item in the element width of the instruction's operand. -/
def itemElems (o : OutItem) (b n : Nat) : List Nat := (List.range n).map fun i => listLe o.payload (b * i) b

/-- VRFILL value of a draw (08 R293). -/
def rfillValue (fmt r : Nat) : Nat :=
  let f := vuFmt fmt
  let q : Rat := if fmt = 0 then ((r / 256 : Nat) : Rat) * pow2 (-24) else if fmt = 1 then (r : Rat) * pow2 (-32)
    else if fmt = 2 then ((r / 2 ^ 24 : Nat) : Rat) * pow2 (-8) else ((r / 2 ^ 21 : Nat) : Rat) * pow2 (-11)
  (f.round .tiesEven false q).1

/-- Largest finite output magnitude as an FP32 code, for AMAXR (07 R245): the fold holds FP32. -/
def vuAmax (fmtByte : Nat) (xs : List Nat) : Nat :=
  let f := if fmtByte = 0x0D then fp64 else if fmtByte = 0x0E then bf16 else if fmtByte = 0x0F then fp16 else fp32
  xs.foldl (fun m x => if f.isFinite x then max m (fp32.round .tiesEven false (f.mag x)).1 else m) 0

/-- CONST of an issue falls in the monitor region (08 R256). -/
def inMonitorStore (a n : Nat) : Bool := decide (a + n > 0x3F0000)

/-- The result of one issue from its source items. `k` is CONST of this issue; `ctr` RS3's counter. -/
def vuResult (c : Core) (v : VuInstr) (konst : Nat) (items : List (OutItem × Bool)) (slot : Nat) (ctr : DWord)
    (key : DWord) (lndBad : Bool) : OpResult × Bool × Bool :=
  let w := v.word
  let op := vu w 0 8
  let n := vuSources op
  let tags := items.map fun i => i.1.tag
  let pz := items.foldl (fun p i => p ||| i.1.poison) 0
  let dst := vuDstByte w
  let blank : OutItem := { q := vQD w, slot := slot, tag := combineTags c.confirmed tags, poison := pz, fmt := dst, nelem := 0, payload := [] }
  let srcK := vuSrcOps w
  if op = 0x3D then
    let b := vuElemBytes dst
    let xs := (List.range (c.qbytes (vQD w) / b)).map fun j =>
      if lndBad then 0 else rfillValue (vFmt w) (rsDraw key (ctr + BitVec.ofNat 64 j))
    ({ items := [{ blank with nelem := xs.length, payload := wideBytes b xs, poison := if lndBad then poisonR else 0 }] }, lndBad, false)
  else
    let ne := match items with | (i, _) :: _ => i.nelem | [] => 0
    let fmtBad := lndBad || (items.zip srcK).any fun ((i, bad), k) =>
      bad || decide (i.fmt ≠ vuSrcByte w k) || decide (i.nelem ≠ ne)
    let kb := vuElemBytes (vuSrcByte w 1)
    let monBad := n ≥ 2 && vConstV w && inMonitorStore konst (ne * kb)
    let b := vuElemBytes dst
    if fmtBad || monBad then
      let big := decide (ne * b > c.qbytes (vQD w))
      ({ items := [{ blank with poison := pz ||| poisonR, nelem := if big then 0 else ne,
                                payload := if big then [] else List.replicate (ne * b) 0 }] }, true, monBad)
    else
      let el := fun k => match (srcK.zip items).find? fun x => x.1 == k with
        | some (_, i, _) => itemElems i (vuElemBytes i.fmt) ne
        | none => []
      let as := el 0
      let bs := if vConstV w then (List.range ne).map fun i => Bytes.rdLe c.store (konst + kb * i) kb else el 1
      let cs := el 2
      let rm := rmOf (vRM w) v.rm
      let rs := (List.range ne).map fun i =>
        vuLane op (vFmt w) (vFmt2 w) rm (vPred w) (vExact w) (as.getD i 0) (bs.getD i 0) (cs.getD i 0)
      let fl := rs.foldl (fun f r => f.or r.2) ({} : Flags)
      let xs := rs.map (·.1)
      let over_ := decide (ne * b > c.qbytes (vQD w))
      let am := vuAmax dst xs
      ({ items := [{ blank with nelem := ne, payload := wideBytes b xs }],
         folds := if vAmaxR w && !over_ then (vSlot w, am) :: (if vSlot2V w then [(vSlot2 w, am)] else []) else [],
         flags := fl.bits }, false, false)

/-! ### Loops of the VU and the KU (07 R228, R229, R247) -/

/-- Do the counts latched so far leave an iteration after the last issue? -/
def UnitLoop.more (l : UnitLoop) : Bool := (List.range l.idx.length).any fun k => decide (l.idx.getD k 0 + 1 < l.cnts.getD k 0)

/-- The next issue on cycle `now`: the loop state that it leaves, and whether the descriptor is bad, which issues once
(R575); `none` when the instruction issues nothing more. NLEV, PERIOD and the increments are latched at the first
issue, each COUNT at the entry into its level. -/
def unitNext (c : Core) (b lnd now : Nat) (loop : Option UnitLoop) : Option (UnitLoop × Bool) :=
  let ctl := lndCtl c b lnd
  let nlev := if lnd = 0 then 0 else field ctl 0 3
  let bad := decide (lnd ≠ 0) && (decide (nlev = 7) || (decide (nlev > 0) && decide (field ctl 16 16 = 0)))
  let cnt := fun l => field (lndLvl c b lnd l) 0 16
  match loop with
  | none =>
    if bad then some ({ made := 1, start := now }, true)
    else
      let cs := (List.range nlev).map cnt
      if cs.any (· == 0) then none
      else some ({ cnts := cs, incs := (List.range nlev).map fun l => lndLvl c b lnd l, idx := List.replicate nlev 0, made := 1,
                   start := now, period := field ctl 16 16 }, false)
  | some l => match loopNext cnt l.cnts l.idx with
    | none => none
    | some (cs, idx) => some ({ l with cnts := cs, idx := idx, made := l.made + 1 }, false)

/-- Issue j starts no earlier than issue 0 plus j times PERIOD (R247). -/
def unitDue (now : Nat) (loop : Option UnitLoop) : Bool :=
  match loop with | some l => decide (now ≥ l.start + l.made * l.period) | none => true

/-! ### Issues -/

/-- The conditions beside the tick under which the oldest pushed VU instruction makes an issue (08 R20, R280; 06 R188;
03 R97). -/
def vuReady (c : Core) (now : Nat) (v : VuInstr) : Bool :=
  let pops := vuPops v.word
  unitDue now v.loop &&
  ((unitNext c 0x30000 (vu v.word 8 4) now v.loop).isNone ||
    (decide (c.vuX.length < 16) && c.queuesReady v.seq pops [vQD v.word] && !mixedTags c.confirmed (c.popTags pops) &&
      !(decide (vu v.word 0 8 = 0x3D) && c.rsHeldBefore v.seq 3)))

/-- Start the next issue of the oldest pushed VU instruction, if its opcode satisfies `ok` and its start
conditions hold (08 R20, R292); `tick` is the local time base copy, `now` the bench cycle. An instruction whose
outermost count is 0 completes without an issue. -/
def vuStart (c : Core) (tick now : Nat) (ok : Nat → Bool) : Core :=
  match c.vuQ with
  | [] => c
  | v :: rest =>
    let w := v.word
    let op := vu w 0 8
    if !ok op || !armMet v.arm tick || !vuReady c now v then c else
    match unitNext c 0x30000 (vu w 8 4) now v.loop with
    | none => { c with vuQ := rest }
    | some (l, bad) =>
      let more := !bad && l.more
      let c := if v.loop.isNone then c.late v.due tick else c
      let (items, c1) := c.takeItems (vuPops w)
      let (c2, slot) := c1.reserve (vQD w) v.seq
      let konst := (loopStreams (2 ^ 22) 64 [vConst w] l.incs l.idx).getD 0 0 / 64 * 64
      let ctr := BitVec.ofNat 64 (c.reg (rRS_CTR 3))
      let (res, fmtErr, mon) := vuResult c2 v konst items slot ctr (BitVec.ofNat 64 (c.reg (rRS_KEY 3))) bad
      let c3 := (if bad then c2.raise evEncoding 5 else c2).count mVu
        (res.items.foldl (fun s o => s + o.nelem) 0 * (if vFmt w = 1 then 8 else if vFmt w = 0 then 2 else 1))
      let c3 := if fmtErr then c3.raise evFormat 0 else c3
      let c3 := if mon then c3.raise evAccess 0 else c3
      let c3 := if op = 0x3D then c3.bump (rRS_CTR 3) (res.items.foldl (fun s o => s + o.nelem) 0) else c3
      { c3 with vuQ := (if more then { v with loop := some l } :: rest else rest),
                vuX := c3.vuX ++ [{ seq := v.seq, last := !more, fill := decide (op = 0x3D), pops := vuPops w, res := res }] }

/-- An amax report (03 R107, R116): a slot that waits at step 1 of R108 keeps it for the next step. -/
def Core.amaxReport (c : Core) (slot m : Nat) : Core :=
  { c.foldAmax slot m with amaxRep := (if c.bndWait.any (·.slot == slot) then slot + 64 else slot) :: c.amaxRep }

/-- The oldest executing VU issue commits its item, its flags and its folds (02 R67; 03 R107). -/
def vuCommit (c : Core) : Core :=
  match c.vuX with
  | [] => c
  | x :: rest =>
    let c := x.res.items.foldl Core.commitItem { c with vuX := rest }
    let c := c.setReg rVU_FCSR (c.reg rVU_FCSR ||| x.res.flags)
    x.res.folds.foldl (fun c (s, m) => c.amaxReport s m) c

/-- VU instructions pushed and not yet started (R273). -/
def Core.vuWaiting (c : Core) : Nat := (c.vuQ.filter fun v => v.loop.isNone).length

end Sys2Proof.Machine
end

