-- ==== Sys2Proof/Machine/Kerf.lean ====
section
/-!
DEFINITION. The kerf unit: sample selection, reference and metric, tile, core and layer verdicts, the
verdict ring, rungs, fall-back and the ladder update (06 R197-R216; 07 R248-R250).
-/
namespace Sys2Proof.Machine

def Verdict.rank : Verdict → Nat
  | .pass => 0
  | .warn => 1
  | .reject => 2
  | .forced => 3

/-- The worse of two verdicts in the order pass, warn, reject. -/
def worseVerdict (a b : Verdict) : Verdict := if Verdict.rank b > Verdict.rank a then b else a

abbrev fp32Inf : Nat := 0x7F800000

/-! ### The kerf buffer (R200) -/

/-! Fields of the 32-byte KCHK descriptor (07 R249). -/
def kdWbase (d : List Byte) : Nat := field (dLe d 0 8) 0 48
def kdStride (d : List Byte) : Nat := dLe d 8 4
def kdK0 (d : List Byte) : Nat := field (dLe d 16 4) 0 24
def kdKN (d : List Byte) : Nat := field (dLe d 20 4) 0 24
def kdCgrp (d : List Byte) : Nat := dLe d 24 2
def kdWKind (d : List Byte) : Bool := bitOf (dLe d 26 1) 0
def kdWLayer (d : List Byte) : Nat := field (dLe d 28 2) 0 10
def kdReserved (d : List Byte) : Bool :=
  nz d 6 2 || nz d 12 4 || nz d 19 1 || nz d 23 1 || decide (dLe d 26 1 / 2 ≠ 0) || nz d 27 1 ||
  decide (dLe d 28 2 / 1024 ≠ 0) || nz d 30 2

def Core.kchkDesc (c : Core) (w : BitVec 128) : List Byte := Bytes.rdN c.store (kDesc w) 32

/-- Does a KCHK name the record? -/
def kchkNames (c : Core) (k : KuInstr) (r : KerfRec) : Bool :=
  let w := k.word
  let d := c.kchkDesc w
  let g := kdCgrp d
  decide (vu w 0 8 = 0x61) && decide (r.chain = kChain w) &&
  (if r.input then
    (decide (r.layer = kLayer w) && decide (r.idx = kTile w / g)) ||
    (kdWKind d && decide (r.layer = kdWLayer d) && decide (r.idx = kTile w % g))
   else decide (r.layer = kLayer w) && decide (r.idx = kTile w))

/-- May the record be released: invalidated, or its layer is final and no weight operand needs it? -/
def kerfDue (c : Core) (r : KerfRec) : Bool :=
  tagInv r.tag || (decide (r.layer < c.finalTo r.chain) && !(r.input && r.holdw))

/-- Release every record that is due and that no held KCHK names. -/
def kerfSweep (c : Core) : Core :=
  { c with kerf := c.kerf.filter fun r => !(kerfDue c r) || c.ku.any fun k => kchkNames c k r }

/-! ### Reference and metric (R201, R202) -/

/-- The reference of one element: FP32 fused multiply-adds in order, nearest even. -/
def kerfDot (a b : List Nat) : Nat :=
  (a.zip b).foldl (fun r p => (fFma fp32 .tiesEven p.1 p.2 r).1) 0

/-- num and den of the metric over one element; `none` is a non-finite reject. -/
def kerfAccum (st : Option (Nat × Nat)) (p : Nat × Nat) : Option (Nat × Nat) :=
  match st with
  | none => none
  | some (num, den) =>
    let (x, r) := p
    if fp32.isNaN x || fp32.isNaN r || (fp32.isInf x != fp32.isInf r) || (fp32.isInf x && decide (x ≠ r)) then none
    else if fp32.isInf x then some (num, den)
    else
      let X := (fCvt fp32 fp64 .tiesEven x).1
      let R := (fCvt fp32 fp64 .tiesEven r).1
      let d := (fAdd fp64 .tiesEven X R true).1
      some ((fAdd fp64 .tiesEven num (fMul fp64 .tiesEven d d).1 false).1,
        (fAdd fp64 .tiesEven den (fMul fp64 .tiesEven R R).1 false).1)

/-- Verdict and ratio of a tile from its captured elements and reference elements, in raster order. -/
def kerfMetric (xs rs : List Nat) (twarn trej floor : Nat) : Verdict × Nat :=
  match (xs.zip rs).foldl kerfAccum (some (0, 0)) with
  | none => (.reject, fp32Inf)
  | some (num, den) =>
    let wide := fun x => (fCvt fp32 fp64 .tiesEven x).1
    let den := max den (wide floor)
    let bound := fun t => (fMul fp64 .tiesEven (fMul fp64 .tiesEven (wide t) (wide t)).1 den).1
    let ratio := (fCvt fp64 fp32 .tiesEven (fDiv fp64 .tiesEven num den).1).1
    (if num > bound trej then .reject else if num > bound twarn then .warn else .pass, ratio)

/-- The 1,024 reference elements of a KCHK: row i of `a` against column j of `b`. -/
def kerfRefs (a b : List Nat) (kn : Nat) : List Nat :=
  (List.range 32).flatMap fun i => (List.range 32).map fun j =>
    kerfDot ((a.drop (i * kn)).take kn) ((b.drop (j * kn)).take kn)

/-! ### Verdict ring (R206) -/

/-- Move held records into the ring while it has room. -/
def vrFlush : Nat → Core → Core
  | 0, c => c
  | n + 1, c =>
    match c.vrHeld with
    | [] => c
    | (r, irq) :: rest =>
      let wr := c.reg rKRF_VR_WR
      if (wr + 1) % 64 = c.reg rKRF_VR_RD then c
      else
        let c := { c.unitWr (c.reg rKRF_VR_BASE + 16 * wr) r with vrHeld := rest, kverd := c.kverd || irq }
        vrFlush n (c.setReg rKRF_VR_WR ((wr + 1) % 64))

/-- After records or the read index moved: the ring fills, and the interrupt of an empty ring clears (R261). -/
def vrSettle (c : Core) : Core :=
  let c := vrFlush (c.vrHeld.length) c
  if c.reg rKRF_VR_RD = c.reg rKRF_VR_WR then { c with kverd := false } else c

/-- A write of KRF_VR_RD. -/
def vrRdWrite (c : Core) (v : Nat) : Core := vrSettle (c.setReg rKRF_VR_RD (v % 64))

/-- The verdict record of a final verdict of a layer with MINE = 1 (R206). -/
def vrRecord (c : Core) (ch l epoch : Nat) (v : Verdict) (fb : Bool) (ratio tiles : Nat) : Core :=
  if !ltMine c l then c else
  let r := leBytes 4 (mkTag l ch epoch false).toNat ++ leBytes 1 (Verdict.rank v + 4 * (c.rung ch l % 4) + 16 * b2n fb) ++
    leBytes 3 0 ++ leBytes 4 ratio ++ leBytes 4 tiles
  let irq := v == .reject || v == .forced || fb || bitOf (c.reg rKRF_CFG) 8
  let cnt := match v with
    | .pass => rKRF_PASS_CNT | .warn => rKRF_WARN_CNT | .reject => rKRF_REJ_CNT | .forced => rKRF_FORCED_CNT
  vrSettle { c.bump cnt 1 with vrHeld := c.vrHeld ++ [(r, irq)], vrNew := c.vrNew ++ [r] }

/-! ### Verdicts take effect (R205-R208, R212) -/

/-- Was the attempt of (chain, layer, epoch) rejected? -/
def Core.deadAttempt (c : Core) (ch l e : Nat) : Bool :=
  (c.chain ch).dead.any fun d => decide (d.1 ≤ l) && decide (e ≤ d.2)

/-- Set UP(c, L). -/
def Core.setUp (c : Core) (ch l u : Nat) : Core :=
  c.setChain ch { c.chain ch with up := NatMap.wr (c.chain ch).up l u }

/-- The invalidation of R189 and the new epoch: tags, stash entries, kerf records. -/
def chainReject (c : Core) (ch l : Nat) : Core :=
  let e := (c.chain ch).epoch
  let c := c.mapTags (rejectTag ch l e)
  let x := c.chain ch
  let c := c.setChain ch { x with epoch := (e + 1) % 4096, dead := (l, e) :: x.dead }
  kerfSweep { c with stash := { c.stash with entries := c.stash.entries.filter fun s => !tagInv s.tag } }

/-- The passes of unchecked layers that lie next (R205). -/
def concludePasses (c : Core) (ch : Nat) : Core :=
  let x := c.chain ch
  let n := c.nextChecked x.frontier
  if n = x.frontier then c else
  let mine := (c.layers.filter fun e => decide (x.frontier ≤ e.1) && decide (e.1 < n) && bitOf e.2 1).map (·.1)
  let c := c.setChain ch { x with frontier := n }
  mine.foldl (fun c l => vrRecord c ch l x.epoch .pass false 0 0) c

/-- Fall-back limit. -/
def gfbLimit (c : Core) : Nat := field (c.reg rKRF_CFG) 0 8

/-- Would a below-top reject acted on now be a fall-back (R212)? -/
def isFallback (c : Core) (ch : Nat) : Bool :=
  decide (gfbLimit c ≠ 0) && decide ((c.chain ch).rejects + 1 ≥ gfbLimit c)

/-- UP of a layer after a fall-back. -/
def fallbackUp (c : Core) (ch l : Nat) : Nat := max (c.up ch l) (min 1 (ltTop c l - ltPos c l))

/-- The layers from `f` on that chain `ch` replays above their positions form their scales anew (03 R111). -/
def jitFrom (c : Core) (ch f : Nat) : Core :=
  ((c.layers.map (·.1)).filter fun k => decide (f ≤ k)).foldl (fun c k => if c.up ch k > 0 then jitLayer c ch k else c) c

/-- One final verdict of the layer at the frontier is applied (R206, R208, R212). `home` says that this core is the
layer's verdict home, whose kerf unit raises the fall-back event; its DETAIL holds the chain in [5:0] and the number
of final layers above that (DESIGN CHOICE, log 86). -/
def applyVerdict (c : Core) (ch l : Nat) (v : Verdict) (ratio tiles : Nat) (home : Bool) : Core :=
  let e := (c.chain ch).epoch
  match v with
  | .reject =>
    if isFallback c ch then
      let f := (c.chain ch).frontier
      let ls := (c.layers.filter fun p => decide (f ≤ p.1) && bitOf p.2 0).map (·.1)
      let c := ls.foldl (fun c k => c.setUp ch k (fallbackUp c ch k)) c
      let c := chainReject (jitFrom c ch f) ch f
      let c := (c.setChain ch { c.chain ch with rejects := 0 }).bump rKRF_GFB_CNT 1
      let c := if home then c.raise evFallback (ch + 64 * f) else c
      vrRecord c ch l e .reject true ratio tiles
    else
      let c := c.setUp ch l (c.up ch l + 1)
      let c := chainReject (jitFrom c ch l) ch l
      let c := c.setChain ch { c.chain ch with rejects := (c.chain ch).rejects + 1 }
      vrRecord c ch l e .reject false ratio tiles
  | v =>
    let x := c.chain ch
    let c := c.setChain ch { x with frontier := l + 1, finals := (l, v) :: x.finals }
    kerfSweep (vrRecord c ch l e v false ratio tiles)

/-- Apply the verdicts that have arrived, in layer order, with the passes between them. -/
def drainVerdicts (homeOf : Nat → Bool) : Nat → Core → Nat → Core
  | 0, c, _ => c
  | n + 1, c, ch =>
    let c := concludePasses c ch
    let x := c.chain ch
    match x.early.find? fun v => decide (tagLayer v.tag = x.frontier) && decide (tagEpoch v.tag = x.epoch) with
    | none => c
    | some v =>
      let c := c.setChain ch { x with early := x.early.filter (· != v) }
      drainVerdicts homeOf n (applyVerdict c ch x.frontier v.verdict v.ratio.toNat v.tiles (homeOf x.frontier)) ch

/-- Is the core, at logical position `me` of part `chip`, the verdict home of a layer? -/
def isHome (c : Core) (chip : Nat) (me : Option (Nat × Nat)) (l : Nat) : Bool :=
  let h := c.reg (rLT_VHOME l)
  me == some (field h 0 8, field h 8 8) && decide (field h 16 12 = chip)

/-- The verdict home forms the layer verdict when it may (R205, R208), and sends it to every core of the job. -/
def homeMake (c : Core) (chip : Nat) (me : Option (Nat × Nat)) (ch : Nat) : Core :=
  let x := c.chain ch
  let l := x.frontier
  if decide (l ≥ 1024) || !ltChk c l || !isHome c chip me l then c else
  let tag := mkTag l ch x.epoch false
  let ty := (c.tallies.find? fun t => decide (t.tag = tag)).getD { tag := tag }
  let rej := ty.got.any fun v => v.verdict == .reject
  if ty.final || !(rej || decide (ty.got.length ≥ c.reg (rLT_VCOUNT l))) then c else
  let ratio := ty.got.foldl (fun m v => max m v.ratio.toNat) 0
  let tiles := ty.got.foldl (fun m v => m + v.tiles) 0
  let worst := ty.got.foldl (fun m v => worseVerdict m v.verdict) .pass
  let top := decide (c.rung ch l ≥ ltTop c l)
  let v := if rej && top then .forced else worst
  let rung := if rej && !top then ltPos c l + (if isFallback c ch then fallbackUp c ch l else c.up ch l + 1) else c.rung ch l
  let c := { c with
    tallies := { ty with final := true } :: c.tallies.filter fun t => t.tag ≠ tag
    sys := c.sys ++ [(none, SysMsg.layerVerdict
      { tag := tag, verdict := v, ratio := BitVec.ofNat 32 ratio, tiles := tiles % 2 ^ 32, rung := rung })] }
  if v == .forced && !c.forcedAt.contains (ch, l) then
    { c.raise evNumerics 0 with forcedAt := (ch, l) :: c.forcedAt }
  else c

/-- Both halves: apply what has arrived, then form what may be formed. -/
def settleChain (c : Core) (chip : Nat) (me : Option (Nat × Nat)) (ch : Nat) : Core :=
  homeMake (drainVerdicts (isHome c chip me) 1025 c ch) chip me ch

/-- A core verdict message arrives at the verdict home (R204, R205). -/
def coreVerdictMsg (c : Core) (chip : Nat) (me : Option (Nat × Nat)) (v : CoreVerdict) : Core :=
  let ch := tagChain v.tag
  if c.deadAttempt ch (tagLayer v.tag) (tagEpoch v.tag) then c else
  let tag := mkTag (tagLayer v.tag) ch (tagEpoch v.tag) false
  let ty := (c.tallies.find? fun t => decide (t.tag = tag)).getD { tag := tag }
  settleChain { c with tallies := { ty with got := ty.got ++ [v] } :: c.tallies.filter fun t => t.tag ≠ tag } chip me ch

/-- A final layer verdict message arrives at a core (R206). -/
def layerVerdictMsg (c : Core) (chip : Nat) (me : Option (Nat × Nat)) (v : LayerVerdict) : Core :=
  let ch := tagChain v.tag
  let x := c.chain ch
  settleChain (c.setChain ch { x with early := x.early ++ [v] }) chip me ch

/-! ### Core verdicts (R204) -/

/-- Send a core verdict to the layer's verdict home. -/
def sendCore (c : Core) (ch l e : Nat) (v : Verdict) (ratio tiles : Nat) : Core :=
  let h := c.reg (rLT_VHOME l)
  { c with sys := c.sys ++ [(some (field h 16 12, field h 0 8, field h 8 8), SysMsg.coreVerdict
      { tag := mkTag l ch e false, verdict := v, ratio := BitVec.ofNat 32 ratio, tiles := tiles })] }

/-- A tile verdict of a KCHK (R204): the core verdict goes out at the first reject, or once every selected
tile has a verdict. -/
def tileVerdict (c : Core) (ch l e tile : Nat) (v : Verdict) (ratio : Nat) : Core :=
  let c := c.bump rKRF_TILE_CNT 1
  if c.deadAttempt ch l e || c.unchk.contains (ch, l) then c else
  let tag := mkTag l ch e false
  let a := (c.attempts.find? fun a => decide (a.tag = tag)).getD { chain := ch, layer := l, tag := tag }
  if a.sent then c else
  let a := { a with worst := worseVerdict a.worst v, ratio := max a.ratio ratio
                    tiles := if a.tiles.contains tile then a.tiles else tile :: a.tiles }
  let full := match c.selOf ch l with
    | some s => (c.selected s).all a.tiles.contains
    | none => false
  let go := v == .reject || full
  let c := { c with attempts := { a with sent := go } :: c.attempts.filter fun b => b.tag ≠ tag }
  if go then sendCore c ch l e a.worst a.ratio a.tiles.length else c

/-! ### The KU queue -/

/-- The head instruction has made an issue: it leaves, or waits for its next issue. -/
def kuNext (c : Core) (k : KuInstr) (l : UnitLoop) (bad : Bool) : Core :=
  let k' : KuInstr := { seq := k.seq, word := k.word, epoch := k.epoch, loop := some l }
  { c with ku := if !bad && l.more then k' :: c.ku.drop 1 else c.ku.drop 1 }

/-- Count a late start of the kerf unit's head, if it has started from `c` to `c'` (09 R325). -/
def kuLate (c c' : Core) (tick : Nat) : Core :=
  match c.ku with
  | k :: _ => if k.loop.isNone && !k.run && decide (c'.ku ≠ c.ku) then c'.late k.due tick else c'
  | [] => c'

/-- A core without a selected tile sends pass, once for an attempt (R204). -/
def passAttempt (c : Core) (ch l e : Nat) : Core :=
  let tag := mkTag l ch e false
  if c.deadAttempt ch l e || c.attempts.any fun a => decide (a.tag = tag) && a.sent then c
  else sendCore { c with attempts := { chain := ch, layer := l, tag := tag, sent := true } :: c.attempts.filter fun b => b.tag ≠ tag }
    ch l e .pass 0 0

/-- The conditions beside the tick under which a KSEL starts its next issue. -/
def kselReady (c : Core) (now : Nat) (k : KuInstr) : Bool :=
  unitDue now k.loop && ((unitNext c 0x40000 (vu k.word 8 4) now k.loop).isNone ||
    (c.queuesReady k.seq [] [kQD k.word] && !c.rsHeldBefore k.seq 2))

/-- KSEL: the head of the KU selects its tiles and pushes their indices (R197, R198, R248; R575). -/
def kselStart (c : Core) (tick now : Nat) : Core :=
  match c.ku with
  | [] => c
  | k :: _ =>
    let w := k.word
    if !(armMet k.arm tick && decide (vu w 0 8 = 0x60) && kselReady c now k) then c else
    match unitNext c 0x40000 (vu w 8 4) now k.loop with
    | none => { c with ku := c.ku.drop 1 }
    | some (lp, bad) =>
      let ch := kChain w
      let l := kLayer w
      let t := kTiles w
      let (c, slot) := c.reserve (kQD w) k.seq
      let push := fun (c : Core) (xs : List Nat) =>
        kuNext (c.commitItem { q := kQD w, slot := slot, tag := confTag, poison := 0, fmt := 0x0C, nelem := xs.length,
                               payload := wideBytes 4 xs }) k lp bad
      if bad then push (c.raise evEncoding 5) []
      else match c.selOf ch l with
        | some s => push (if t = s.tiles then c else c.raise evKerfConfig 0) (c.selected s)
        | none =>
          if t = 0 then push (passAttempt c ch l k.epoch) []
          else if c.sel.length ≥ 4096 then
            push (passAttempt { c.raise evKerfConfig 0 with unchk := (ch, l) :: c.unchk } ch l k.epoch) []
          else
            let s : Sel := { chain := ch, layer := l, ctr := BitVec.ofNat 64 (c.reg (rRS_CTR 2)),
                             windows := kerfWindows (ltRate c l) t, tiles := t }
            push ({ c with sel := c.sel ++ [s] }.bump (rRS_CTR 2) s.windows) (c.selected s)

/-- The columns k0 to k0 + kn - 1 of the 32 rows of an input capture. -/
def KerfRec.rows (r : KerfRec) (k0 kn : Nat) : List Nat :=
  (List.range 32).flatMap fun i => (r.data.drop (i * r.kn + (k0 - r.k0))).take kn

def KerfRec.covers (r : KerfRec) (k0 kn : Nat) : Bool :=
  !r.bad && decide (r.k0 ≤ k0) && decide (k0 + kn ≤ r.k0 + r.kn)

/-- The input capture record of a row group: one that is not invalidated before one that is, and one that covers the
range before one that does not. -/
def Core.inCap (c : Core) (ch l g k0 kn : Nat) : Option KerfRec :=
  let rs := c.kerf.filter fun r => r.input && decide (r.chain = ch) && decide (r.layer = l) && decide (r.idx = g)
  ((rs.find? fun r => !tagInv r.tag && r.covers k0 kn).or (rs.find? fun r => !tagInv r.tag)).or rs.head?

/-- The output capture record of a tile. -/
def Core.outCap (c : Core) (ch l t : Nat) : Option KerfRec :=
  let rs := c.kerf.filter fun r => !r.input && decide (r.chain = ch) && decide (r.layer = l) && decide (r.idx = t)
  (rs.find? fun r => !tagInv r.tag).or rs.head?

/-- A KCHK that completes at once with a reject of ratio +infinity (R250, R575). -/
def kchkBad (c : Core) (k : KuInstr) (l : UnitLoop) (bad : Bool) (ev detail : Nat) : Core :=
  kerfSweep (kuNext (tileVerdict (c.raise ev detail) (kChain k.word) (kLayer k.word) k.epoch (kTile k.word) .reject fp32Inf)
    k l bad)

/-- What the KU checks as it takes a KCHK, before any capture (R250): its descriptor, and its tile against the
selection table. -/
def kchkTakes (c : Core) (w : BitVec 128) : Bool :=
  let d := c.kchkDesc w
  let g := kdCgrp d
  !kdReserved d && decide (kdKN d ≠ 0) && decide (g ≠ 0) && (match c.selOf (kChain w) (kLayer w) with
    | some s => decide (kTile w / g < ceilDiv s.tiles g)
    | none => false)

/-- The captures that a KCHK reads: the tile's, its row group's, and the second operand's with WKIND = 1 (R201, R249). -/
def Core.kchkCaps (c : Core) (w : BitVec 128) : Option (KerfRec × KerfRec × Option KerfRec) :=
  let d := c.kchkDesc w
  let g := kdCgrp d
  let ch := kChain w
  match c.outCap ch (kLayer w) (kTile w), c.inCap ch (kLayer w) (kTile w / g) (kdK0 d) (kdKN d),
      (if kdWKind d then (c.inCap ch (kdWLayer d) (kTile w % g) (kdK0 d) (kdKN d)).map some else some none) with
  | some o, some a, some b => some (o, a, b)
  | _, _, _ => none

/-- The conditions beside the tick under which a KCHK starts. -/
def kchkReady (c : Core) (now : Nat) (k : KuInstr) : Bool :=
  !k.run && unitDue now k.loop && (match unitNext c 0x40000 (vu k.word 8 4) now k.loop with
    | none => true
    | some (_, bad) => bad || !kchkTakes c k.word || c.deadAttempt (kChain k.word) (kLayer k.word) k.epoch ||
        (c.kchkCaps k.word).isSome)

/-- KCHK: the head of the KU starts checking one tile (R201, R249, R250). `inConf a n` says that n bytes from
a lie in one confirmed-only region; `rd a n` reads them, with their poison. -/
def kchkStart (c : Core) (tick now : Nat) (inConf : Nat → Nat → Bool) (rd : Nat → Nat → List Byte × Bool) : Core :=
  match c.ku with
  | [] => c
  | k :: rest =>
    let w := k.word
    if !(armMet k.arm tick && decide (vu w 0 8 = 0x61) && kchkReady c now k) then c else
    match unitNext c 0x40000 (vu w 8 4) now k.loop with
    | none => kerfSweep { c with ku := rest }
    | some (lp, bad) =>
      if bad then kchkBad c k lp true evEncoding 5
      else if !kchkTakes c w then kchkBad c k lp false evKerfConfig 0
      else if c.deadAttempt (kChain w) (kLayer w) k.epoch then kerfSweep (kuNext c k lp false)
      else
        match c.kchkCaps w with
        | none => c
        | some (o, a, b) =>
          let d := c.kchkDesc w
          let k0 := kdK0 d
          let kn := kdKN d
          let gone := tagInv o.tag || tagInv a.tag || (match b with | some b => tagInv b.tag | none => false)
          let lo := kdWbase d + 32 * (kTile w % kdCgrp d) * kdStride d
          let col := fun j => lo + j * kdStride d + 4 * k0
          let bOk := match b with
            | some b => b.covers k0 kn
            | none => inConf (col 0) (31 * kdStride d + 4 * kn)
          if gone then kerfSweep (kuNext c k lp false)
          else if !a.covers k0 kn || o.bad || !bOk then kchkBad c k lp false evKerfConfig 0
          else
            let (bv, bp) := match b with
              | some b => (b.rows k0 kn, decide (b.poison ≠ 0))
              | none =>
                let cols := (List.range 32).map fun j => rd (col j) (4 * kn)
                (cols.flatMap fun p => (List.range kn).map fun m => listLe p.1 (4 * m) 4, cols.any (·.2))
            { c.unitRd (kDesc w) 32 with
              ku := { k with run := true, loop := some lp, a := a.rows k0 kn, b := bv, x := o.data, kn := kn
                             poisoned := bp || decide (o.poison ≠ 0) || decide (a.poison ≠ 0) || c.upsetIn (0x400000 + kDesc w) 32 } :: rest }

/-- KCHK_DONE: the running KCHK completes and forms its tile verdict (R202; 07 R243). -/
def kchkDone (c : Core) : Core :=
  match c.ku with
  | [] => c
  | k :: _ =>
    if !k.run then c else
    let l := kLayer k.word
    let (v, ratio) := if k.poisoned then (.reject, fp32Inf)
      else kerfMetric k.x (kerfRefs k.a k.b k.kn) (c.reg (rLT_TWARN l)) (c.reg (rLT_TREJ l)) (c.reg (rLT_FLOOR l))
    let c := (c.bump rKRF_MAC_CNT (1024 * k.kn)).count mKu (1024 * k.kn)
    let c := tileVerdict c (kChain k.word) l k.epoch (kTile k.word) v ratio
    kerfSweep (kuNext c k (k.loop.getD {}) false)

/-! ### Layer table writes (R203, R207, R216) -/

def rungBits (c : Nat) : Nat := fmtWidth c

/-- Are rungs 0 to TOP N codes that do not fall in width (R207)? -/
def rungsOk (rungs top : Nat) : Bool :=
  (List.range (top + 1)).all fun i =>
    decide (field rungs (8 * i) 5 ≤ 7) &&
    (decide (i = 0) || decide (rungBits (field rungs (8 * (i - 1)) 5) ≤ rungBits (field rungs (8 * i) 5)))

/-- A positive, finite FP32 code. -/
def posFinite (x : Nat) : Bool := decide (0 < x) && decide (x < fp32Inf)

/-- A write of a layer table register by its rules; a write that breaks one is ignored. -/
def ltWrite (c : Core) (l : Nat) (a v : Nat) : Core :=
  let ok :=
    if a = rLT_CFG l then rungsOk (c.reg (rLT_RUNGS l)) (field v 2 2) && decide (field v 4 2 ≤ field v 2 2)
    else if a = rLT_RUNGS l then rungsOk v (ltTop c l)
    else if a = rLT_TWARN l then posFinite v && decide (v ≤ c.reg (rLT_TREJ l))
    else if a = rLT_TREJ l then posFinite v && decide (c.reg (rLT_TWARN l) ≤ v)
    else if a = rLT_FLOOR l then posFinite v
    else true
  if ok then c.setReg a v else c

/-- KRF_BUF_BASE, KRF_BUF_SIZE, KRF_VR_BASE (06 R214). -/
def Core.krfWrite (c : Core) (a v : Nat) : Core :=
  if a = rKRF_BUF_BASE then c.setReg a (field v 12 36 * 4096)
  else if a = rKRF_BUF_SIZE then (if 1 ≤ field v 0 16 ∧ field v 0 16 ≤ 256 then c.setReg a (field v 0 16) else c)
  else c.setReg a (field v 10 12 * 1024)

/-! ### The ladder at a step boundary (R211) -/

/-- POS and PASS_RUN of a layer after the boundary. -/
def ladderLayer (c : Core) (l : Nat) : Nat × Nat :=
  let v := c.reg (rLT_CFG l)
  let up := (List.range 64).foldl (fun m ch => max m (c.up ch l)) 0
  let fins := (List.range 64).filterMap fun ch =>
    if bitOf v 0 then ((c.chain ch).finals.find? fun f => f.1 == l).map (·.2)
    else if l < c.finalTo ch then some Verdict.pass else none
  let pos := field v 4 2
  let run := field v 14 8
  let dn := field v 6 8
  if up > 0 then (min (pos + up) (field v 2 2), 0)
  else if fins.isEmpty then (pos, run)
  else if fins.all (· == .pass) then
    let run := if run < 255 then run + 1 else run
    if dn ≠ 0 ∧ run ≥ dn then (pos - 1, 0) else (pos, run)
  else (pos, 0)

/-- Every entry's new POS and PASS_RUN. -/
def ladderUpdate (c : Core) : Core :=
  (List.range 1024).foldl (fun c' l =>
    let (pos, run) := ladderLayer c l
    (c'.setField (rLT_CFG l) 4 2 pos).setField (rLT_CFG l) 14 8 run) c

/-- The format that the ladder gives a slot after the update: the rung of the last layer that lists it. -/
def ladderFmt (c : Core) (s : Nat) : Option Nat :=
  ((List.range 1024).filter fun l => ltInSlots c l s).getLast?.map fun l => ltRung c l (ltPos c l)

end Sys2Proof.Machine
end

