-- ==== Sys2Proof/Machine/Parts.lean ====
section
/-!
DEFINITION. State of the chip-level blocks beside their registers: links (11), time sync (11 R394-R397),
energy accountant (15), fault collector (13), snapshot engine (14), VCF and jobs (12), security processor
and update (16), pins and management ports (17).
-/
namespace Sys2Proof.Machine

/-! ### Spline links (11 R373-R388) -/

inductive LinkSt where
  | disabled | pmd | fec | ident | up | down | retired | mismatch
deriving DecidableEq, Repr

/-- A sequenced flit: its FSEQ, its type and payload. -/
structure SentFlit where
  fseq : Nat
  ty : Nat
  payload : List Byte
deriving DecidableEq, Repr

/-- An open replay episode (R380): start tick, replays, MARK. -/
structure Episode where
  start : Nat
  count : Nat
  mark : Nat
deriving DecidableEq, Repr

/-- One spline link. -/
structure Link where
  st : LinkSt := .disabled
  /-- tick at which the state was entered -/
  since : Nat := 0
  /-- the last good identity: hardware type, chip, link, fabric interface major -/
  ident : Option (Nat × Nat × Nat × Nat) := none
  peerChip : Nat := 0
  peerLink : Nat := 0
  /-- sender (R379) -/
  next : Nat := 0
  acked : Nat := 4095
  buf : List SentFlit := []
  epis : Option Episode := none
  lastReplay : Option Nat := none
  ackAt : Nat := 0
  /-- receiver -/
  exp : Nat := 0
  gap : Option Nat := none
  rtryRx : Bool := false
  rnbRx : Bool := false
  /-- 64-byte units sent, freed by the peer, and freed here, by class -/
  sent : List Nat := [0, 0, 0]
  freed : List Nat := [0, 0, 0]
  given : List Nat := [0, 0, 0]
  /-- packets that wait for credit or for replay buffer space, oldest first -/
  txq : List Packet := []
  /-- bytes received of a packet that is not whole -/
  stream : List Byte := []
  /-- packets received and not taken by the stop -/
  rxq : List Packet := []
  /-- exchange started with the peer: XID and t1 -/
  exch : Option (Nat × Int) := none
  xid : Nat := 0
  /-- flood payloads that wait for replay buffer space -/
  lmq : List (List Byte) := []
  /-- class of the next credit report, and the class served last (09 R301) -/
  rot : Nat := 0
  rr : Nat := 2
deriving DecidableEq, Repr

def Link.reset : Link := {}

/-- Time sync (R394-R397): the exchanges of the window with the parent as (θ, δ), the integral term,
good windows in a row, and the exchanges lost. -/
structure TimeSync where
  win : List (Int × Int) := []
  integ : Int := 0
  goodRun : Nat := 0
  /-- the parent reports XSYNC -/
  parentSync : Bool := false
  /-- the last IEEE 1588 time: port, arrival timestamp, time (17 R567) -/
  ptp : Option (Nat × Nat × Nat) := none
deriving DecidableEq, Repr

/-- Link-state records known (R389), this part's version, and the tick of the last change. -/
structure Flood where
  recs : List LsRecord := []
  version : Nat := 0
  changedAt : Nat := 0
  /-- a change waits for its re-plan -/
  stale : Bool := false
  /-- chip identifiers that two parts hold -/
  dups : List Nat := []
deriving DecidableEq, Repr

/-! ### Energy (15) -/

/-- A grant request: core, handle, nJ, arrival tick. -/
structure GrantReq where
  p : Nat
  handle : Nat
  nj : Nat
  at_ : Nat := 0
  deferred : Bool := false
deriving DecidableEq, Repr

structure Energy where
  /-- requests sent and not arrived; requests queued, oldest first -/
  sent : List GrantReq := []
  queue : List GrantReq := []
  /-- charges of granted blocks completed in the running period -/
  doneCharge : Nat := 0
  /-- points reported for the next step, by rank -/
  points : List (Nat × Nat) := []
  /-- the next plan uses the job descriptor's annotation -/
  fresh : Bool := true
  /-- HBM lines read or written since KD last changed, and the energy of the earlier ones, in `energyUnit`ths of 1 µJ (15 R497) -/
  lines : Nat := 0
  hbm : Nat := 0
  /-- the part's counted dynamic energy, and the leakage of its benches, at the last calibration (R499) -/
  calMark : Nat := 0
  leakMark : Nat := 0
  /-- counted dynamic energy of each bench, and of the HBM, at the last step boundary (R507) -/
  stepMark : List Nat := []
  hbmMark : Nat := 0
deriving DecidableEq, Repr

/-! ### Faults (13) -/

/-- Counting windows and grace timers, by the address of the source's FLT_SRC or FLT_SUB register. -/
structure FaultSt where
  winEnd : NatMap := []
  graceEnd : NatMap := []
  /-- end of the 100 ms of ERR_N after a lockstep mismatch -/
  lockErr : Option Nat := none
  /-- bridges that event 4Dh made severe -/
  iso : List Nat := []
  /-- the router of each bench that reported last, plus 1 -/
  router : NatMap := []
  /-- links that retire at the job's next boundary -/
  retire : List Nat := []
  /-- event, instance and DETAIL that made a source severe, by the address of its register -/
  why : List (Nat × Nat × Nat × Nat) := []
deriving DecidableEq, Repr

/-! ### Snapshots (14) -/

structure Snp where
  /-- protected pages, by page number -/
  prot : List Nat := []
  /-- staged copies of pages -/
  staged : List (Nat × List Byte) := []
  /-- staged sections of the running capture: CORE, SLOT, LADDER, CURSOR -/
  sections : List (Nat × List Byte) := []
  step : Nat := 0
  /-- layers of the running capture that are not complete or abandoned -/
  due : List Nat := []
  /-- layers complete on this part and not committed -/
  doneL : List Nat := []
  /-- reports of other ranks: rank, step, layer -/
  reports : List (Nat × Nat × Nat) := []
  /-- slot (0 or 1) of each layer that holds its latest commit -/
  slot : List Nat := [0, 0, 0]
  /-- layers named by a SNAP_TAKE for the next boundary -/
  asked : List Nat := []
  /-- step of the running layer-2 upload and the layer-1 slot it reads -/
  upload : Option (Nat × Nat) := none
  /-- layer-1 images written, by slot -/
  l1 : List (Nat × List Byte) := []
  /-- layers captured for the boundary because a SNAP_TAKE named layer 2 -/
  want2 : Bool := false
  /-- a page write waits for staging space -/
  waiting : Bool := false
deriving DecidableEq, Repr

/-! ### Jobs and VCF (12) -/

/-- Job states (R434). -/
inductive JobSt where
  | idle | loaded | paused | running | waiting
deriving DecidableEq, Repr

structure Job where
  st : JobSt := .idle
  id : Nat := 0
  rank : Nat := 0
  parts : Nat := 1
  image : List Byte := []
  digest : Nat := 0
  progUs : Nat := 0
  /-- chip identifiers by rank, as announced -/
  chips : List (Nat × Nat) := []
  /-- last boundary passed -/
  step : Nat := 0
  /-- step `step + 1` has been released -/
  released : Bool := false
  base : Nat := 0
  /-- steps left of the STEP_RUN, none for no bound -/
  left : Option Nat := none
  /-- steps run in this STEP_RUN -/
  ran : Nat := 0
  /-- pause at the next boundary: the reason status (0008h client, 0009h fault, 000Bh switchover) and detail -/
  pause : Option (Nat × Nat) := none
  /-- reports of the current boundary: rank, step -/
  reports : List (Nat × Nat) := []
  /-- restore pending: every rank that has reported its restored state -/
  restoredBy : List (Nat × Nat) := []
  /-- step number after a restore at which a PROG or STASH severe pauses without another restore -/
  onceAt : Option Nat := none
  /-- programs start at the resume address -/
  resume : Bool := false
  /-- cursors by logical core: SHARD, EPOCH, OFFSET, SEED -/
  cursors : List (Nat × (Nat × Nat × Nat × Nat)) := []
  tick : Nat := 0
  /-- this part's choice of point for the step to come (15 R507) -/
  pt : Nat := 0
  /-- a restore of this step and layer waits for the other ranks -/
  restoring : Option (Nat × Nat) := none
  /-- paused for a link that went down: restored at the next re-plan (11 R386) -/
  relink : Bool := false
  /-- ranks known to be lost, until they announce themselves again (14 R491) -/
  lost : List Nat := []
deriving DecidableEq, Repr

/-- A command that VCF has started and not completed: mailbox, channel, index, opcode, message, and a number
the command keeps. -/
structure RunCmd where
  c : Nat
  ch : Nat
  idx : Nat
  op : Nat
  msg : List Byte
  aux : Nat := 0
deriving DecidableEq, Repr

/-- What VCF read at its last notice of a client or core channel. -/
structure ChanView where
  prod : Nat := 0
  ack : Nat := 0
  reclaimed : Nat := 0
deriving DecidableEq, Repr

def ChanView.reset : ChanView := {}

structure Vcf where
  /-- client buffers, by mailbox -/
  bufs : Map Bytes := []
  /-- channel views, by 32 c + ch for clients and 4096 + 32 p + ch for cores -/
  views : Map ChanView := []
  running : List RunCmd := []
  /-- RDMA connections: port and mailbox -/
  conns : List (Nat × Nat) := []
  /-- key draws of the mailbox and port, by 2 c + port -/
  keyGen : NatMap := []
  /-- the last job identifier given -/
  jobSeq : Nat := 0
  /-- the active Steward starts no client commands (16 R532) -/
  draining : Bool := false
  /-- interface major and minor, and release of the two Steward images -/
  ver : List (Nat × Nat × Nat) := [(2, 0, 0), (2, 0, 0)]
deriving DecidableEq, Repr

/-! ### Security and update (16) -/

/-- An image in a flash slot (R519): header fields, its measurement (R521) and its payload. -/
structure SlotImg where
  svn : Nat := 0
  ifmaj : Nat := 2
  ifmin : Nat := 0
  release : Nat := 0
  meas : Nat := 0
  unitb : Bool := false
  payload : List Byte := []
deriving DecidableEq, Repr

def SlotImg.reset : SlotImg := {}

/-- A proposal (R534, R536). -/
structure Proposal where
  ptype : Nat
  id : Nat
  role : Nat
  body : List Byte
  msg : List Byte
  expiry : Nat
deriving DecidableEq, Repr

structure Security where
  /-- images in the slots, by 2 class + slot -/
  slots : Map SlotImg := []
  /-- owner and operator public keys, as given; none for no key -/
  owner : Option (List Byte) := none
  operator : Option (List Byte) := none
  minSvn : List Nat := [0, 0, 0, 0]
  permitted : Nat := 15
  binding : Bool := false
  bound : Nat := 0
  proposals : List Proposal := []
  nextProp : Nat := 1
  stageSeq : Nat := 0
  /-- the partition table in force from the next boot, when a proposal replaced it -/
  table : Option (List Byte) := none
  bootCnt : Nat := 0
  actSlot : Nat := 0
  /-- runtime record (R523): SEQ, repair entries (core, engine, array, row), retirements in order of q -/
  rtSeq : Nat := 0
  repairs : List (Nat × Nat × Nat × Nat) := []
  retires : List (Nat × Nat) := []
  /-- classes whose switch is still to be done in the running commit -/
  todo : List Nat := []
  /-- tick at which the running phase of a commit started -/
  phaseAt : Nat := 0
deriving DecidableEq, Repr

/-! ### Pins and management (17) -/

/-- Power and boot (17 R548, R549; 16 R516, R517). -/
inductive Power where
  /-- held in reset: rails out of range at PWR_OK, PWR_OK low, or VDD_AON low -/
  | off
  | boot
  | ready
  /-- boot halt (R517) -/
  | halt
  | thermalOff
deriving DecidableEq, Repr

structure Pins where
  power : Power := .boot
  pwrOk : Bool := true
  railsOk : Bool := true
  /-- SYS_RST_N is low and its chip reset waits for the release -/
  sysRst : Bool := false
  thermtrip : Bool := false
  /-- a chip reset runs and has not reached ready -/
  resetting : Bool := false
  peBif : Nat := 0
  i3cAddr : Nat := 0
  /-- management endpoint in D3hot -/
  d3 : Bool := false
  /-- root port devices by port, and ports out of use after a removal -/
  devices : List PortDevice := []
  removed : List Nat := []
  /-- I3C: dynamic address and register offset -/
  dynAddr : Option Nat := none
  i3cOff : Nat := 0
  sensors : Sensors := {}
  /-- TAP: the selected data register is IDCODE -/
  tapId : Bool := true
  /-- trace buffer: records waiting, oldest first, and records dropped since the last TYPE 05h record -/
  trace : List (List Byte) := []
  traceLost : Nat := 0
  /-- fifths of a byte that the port has sent of its oldest record -/
  traceSent : Nat := 0
  /-- telemetry registers as last refreshed, by offset -/
  tlm : Map Nat := []
deriving DecidableEq, Repr

/-- What leaves the part. -/
inductive Out where
  | msix (c : Nat)
  | flit (l ty : Nat) (hdr : FlitHdr) (payload : List Byte)
  | steward (msg : StewardMsg) (rank : Nat)
  | image (layer rank : Nat) (bytes : List Byte)
  /-- bytes read by a client or a controller: 0 and 1 Ethernet ports, 2 the management endpoint, 3 the I3C bus -/
  | bytes (port : Nat) (bytes : List Byte)
  /-- a record on the trace port (17 R562) -/
  | trace (bytes : List Byte)
  | readError
  | value (v : Nat)
deriving DecidableEq, Repr

end Sys2Proof.Machine
end

