-- ==== Sys2Proof/Machine/ChipState.lean ====
section
/-!
DEFINITION. The state of the part beside its queue of waiting commands: chip registers, cores, memory, time
base, benches, and the state of every chip-level block (01 R28).
-/
namespace Sys2Proof.Machine

/-- A bench (15 R494, R495, R497): the bench cycle at a tick of the time base, from which cycles run on; its dynamic energy
and its leakage up to the last change of the point or of KD, in `energyUnit`ths of 1 µJ. -/
structure Bench where
  base : Nat := 0
  baseTick : Nat := 0
  dyn : Nat := 0
  leak : Nat := 0
deriving DecidableEq, Repr

def Bench.reset : Bench := {}

/-- What VCF writes into its log. -/
inductive LogEntry where
  | channelRetired (ch : Nat)
  /-- a slot of logical core (x, y) starts cold (03 R115) -/
  | coldStart (job x y slot : Nat)
  /-- step, chain, and the number of final layers below the chain's confirmed frontier (06 R212) -/
  | fallBack (step chain frontier : Nat)
  | calClamp
  | exceed
  | text (x y step : Nat) (bytes : List Byte)
  | ladderReset (layer : Nat)
  | snapSkipped (step : Nat)
  | snapAbandoned (step layer : Nat)
  | channelError (mbx ch cause : Nat)
  | duplicateId (chip : Nat)
  | linkUp (l : Nat)
  | bootFallback (cls : Nat)
  | recordReset
  | keyReset
  | settingsSignature
  | settingsReset (ty : Nat)
  | portFailed (port : Nat)
  | policy (ptype : Nat)
  | fault (src : Nat)
  /-- a client wrote outside the client-owned parts of its buffer: mailbox, and the channel, 32 for none (12 R425) -/
  | clientWrite (c ch : Nat)
deriving DecidableEq, Repr

/-- Reset value of a chip register. FAB_MAPn maps C(x, y) to P(x, y + 1) (09 R336); FLT_CFGs follows its source
(13 R471); SEC_FP holds the unit's fingerprint (16 R541). -/
def chipReset (a : Nat) : Nat :=
  if 0x20000020000 ≤ a ∧ a < 0x20000020400 ∧ a % 4 = 0 then
    let n := (a - 0x20000020000) / 4
    n % 16 + 16 * (n / 16 + 1)
  else if rFLT_CFG 0 ≤ a ∧ a < rFLT_CFG 2350 ∧ a % 16 = 0 then fltDefault ((a - rFLT_CFG 0) / 16)
  else if rSEC_FP 0 ≤ a ∧ a < rSEC_FP 6 ∧ a % 8 = 0 then (Config.unitFingerprint ((a - rSEC_FP 0) / 8)).toNat
  else match findReg chipRegs a with
    | some r => r.reset
    | none => 0

structure Chip where
  regs : Map Nat := []
  cores : Map Core := []
  hbm : Bytes := []
  cxl : Bytes := []
  /-- lines that hold the poison syndrome, by address div 64 (10 R346) -/
  poison : NatMap := []
  /-- redirected pages: page number to host page plus 1 (10 R348) -/
  redir : NatMap := []
  /-- fenced channels (10 R350) -/
  fencedCh : List Nat := []
  /-- the running migration moves lost data (10 R350) -/
  migLost : Bool := false
  /-- packets in the mesh: the router that holds each, or `atPort` once it has left its last router -/
  flying : List (Nat × Packet) := []
  /-- the fractional register of the trim, and the tick on which a holdover began (09 R318, R322) -/
  ctbFrac : Nat := 0
  holdAt : Nat := 0
  benches : Map Bench := []
  /-- stacks in self-refresh (10 R341) -/
  selfRef : List Nat := []
  /-- memory responses on their way, and those that have arrived, newest first -/
  memResp : List MemResp := []
  memGot : List MemResp := []
  /-- hold mode (13 R464) -/
  hold : Bool := false
  /-- VCF's log, newest first -/
  vlog : List LogEntry := []
  /-- events raised outside the cores and not yet taken: event code, instance, DETAIL -/
  raised : List (Nat × Nat × Nat) := []
  links : Map Link := []
  ts : TimeSync := {}
  flood : Flood := {}
  en : Energy := {}
  flt : FaultSt := {}
  snp : Snp := {}
  job : Job := {}
  vcf : Vcf := {}
  sec : Security := {}
  pins : Pins := {}
  /-- what has left the part, newest first -/
  outs : List Out := []
deriving DecidableEq, Repr

def Chip.reset : Chip := {}

def Chip.reg (s : Chip) (a : Nat) : Nat := Map.get chipReset s.regs a
def Chip.setReg (s : Chip) (a v : Nat) : Chip := { s with regs := Map.put chipReset s.regs a v }
def Chip.setField (s : Chip) (a lo n v : Nat) : Chip := s.setReg a (Sys2Proof.setField (s.reg a) lo n v)
def Chip.bump (s : Chip) (a n : Nat) : Chip := s.setReg a ((s.reg a + n) % 2 ^ 64)
/-- A counter field that stops at its largest value. -/
def Chip.countTo (s : Chip) (a lo n : Nat) : Chip :=
  s.setField a lo n (min (field (s.reg a) lo n + 1) (2 ^ n - 1))

def Chip.core (s : Chip) (p : Nat) : Core := Map.get (fun _ => Core.reset) s.cores p
def Chip.setCore (s : Chip) (p : Nat) (c : Core) : Chip := { s with cores := Map.put (fun _ => Core.reset) s.cores p c }
def Chip.onCore (s : Chip) (p : Nat) (f : Core → Core) : Chip := s.setCore p (f (s.core p))
def Chip.bench (s : Chip) (b : Nat) : Bench := Map.get (fun _ => Bench.reset) s.benches b
def Chip.setBench (s : Chip) (b : Nat) (x : Bench) : Chip := { s with benches := Map.put (fun _ => Bench.reset) s.benches b x }
def Chip.link (s : Chip) (l : Nat) : Link := Map.get (fun _ => Link.reset) s.links l
def Chip.setLink (s : Chip) (l : Nat) (x : Link) : Chip := { s with links := Map.put (fun _ => Link.reset) s.links l x }
def Chip.emit (s : Chip) (o : Out) : Chip := { s with outs := o :: s.outs }
def Chip.log (s : Chip) (e : LogEntry) : Chip := { s with vlog := e :: s.vlog }
def Chip.raise (s : Chip) (ev inst detail : Nat) : Chip := { s with raised := s.raised ++ [(ev, inst, detail)] }

/-- A record for the trace port (17 R562): dropped and counted if the buffer of 64 KiB is full. -/
def Chip.trace (s : Chip) (ty : Nat) (payload : List Byte) : Chip :=
  let r := leBytes 1 ty ++ leBytes 1 payload.length ++ payload
  let used := s.pins.trace.foldl (fun n b => n + b.length) 0
  if used + r.length ≤ 65536 then { s with pins := { s.pins with trace := s.pins.trace ++ [r] } }
  else { s with pins := { s.pins with traceLost := min (s.pins.traceLost + 1) 0xFFFFFFFF } }

/-! ### Places of cores (01 R23-R25; 09 R336) -/

abbrev nCores : Nat := 288
def colOf (p : Nat) : Nat := p % 16
def rowOf (p : Nat) : Nat := p / 16
def dieOf (p : Nat) : Nat := colOf p / 8 + 2 * (rowOf p / 9)
/-- The bench of a physical core (R24). -/
def benchOf (p : Nat) : Nat := 18 * dieOf p + 2 * (rowOf p % 9) + (colOf p % 8) / 4
/-- The per-core set of the stash controller (10 R367). -/
def stashOf (p : Nat) : Nat := 8 * (rowOf p % 9) + colOf p % 8

/-- Physical core of a logical position, if mapped. -/
def Chip.physOf (s : Chip) (x y : Nat) : Option Nat :=
  let m := s.reg (rFAB_MAP (16 * y + x))
  if bitOf m 9 then some (16 * field m 4 5 + field m 0 4) else none

/-- Logical position of a physical core, if it is mapped. -/
def Chip.logOf (s : Chip) (p : Nat) : Option (Nat × Nat) :=
  ((List.range 256).find? fun n => s.physOf (n % 16) (n / 16) == some p).map fun n => (n % 16, n / 16)

/-- This part's chip identifier (11 R406). -/
def Chip.id (s : Chip) : Nat := field (s.reg rSL_ID) 0 12

/-! ### Time (09 R318-R320; 15 R494) -/

def Chip.now (s : Chip) : Nat := s.reg rCTB_NOW

/-- The local copy of the time base in a bench: 0 to 2 ticks behind. -/
def Chip.localTick (s : Chip) (p : Nat) : Nat := s.now - Config.ctbLag (benchOf p) % 3

/-- The bench cycle of a core now, at the frequency of the point in force. -/
def Chip.cycleNow (s : Chip) (p : Nat) : Nat :=
  let b := s.bench (benchOf p)
  b.base + (s.now - b.baseTick) * (9 + field (s.reg (rEN_B_PT (benchOf p))) 0 4) / 10

/-- The cycle that a core has reached: never before its earlier events. -/
def Chip.coreCycle (s : Chip) (p : Nat) : Nat := max (s.cycleNow p) (s.core p).cyc

/-- The local time base tick of a bench cycle, at the frequency of the point in force. -/
def Chip.tickAt (s : Chip) (p cyc : Nat) : Nat :=
  let b := s.bench (benchOf p)
  b.baseTick + ceilDiv ((cyc - b.base) * 10) (9 + field (s.reg (rEN_B_PT (benchOf p))) 0 4) - Config.ctbLag (benchOf p) % 3

end Sys2Proof.Machine
end

