-- ==== Sys2Proof/Machine/Memory.lean ====
section
/-!
DEFINITION. Memory: the address map, HBM channels, regions and their access rules, poison, ECC results,
channel retirement and migration, CXL (10 R337-R357, R369, R370).
-/
namespace Sys2Proof.Machine

/-! ### The address map (R337, R339, R342, R352) -/

inductive MemKind where
  | hbm
  | cxl
  | store
  | control
  | reserved
deriving DecidableEq, Repr

def cxlBase : Nat := 0x40000000000

/-- Where a device address lies. A CXL address above the mapped capacity is reserved (R338). -/
def Chip.memKind (s : Chip) (a : Nat) : MemKind :=
  if a < 0x10000000000 then .hbm
  else if a < 0x10120000000 then (if a % 0x1000000 < 0x400000 then .store else .reserved)
  else if 0x20000000000 ≤ a ∧ a < 0x30000000000 then .control
  else if cxlBase ≤ a ∧ a < 0x80000000000 then
    (if a - cxlBase < field (s.reg rCXL_MAP) 0 20 * 2 ^ 30 then .cxl else .reserved)
  else .reserved

/-- The channel 0-511 of an HBM page in group `g`, place `j` (R342). -/
def pageChannel (g j : Nat) : Nat := j ^^^ (g % 512 ^^^ (g / 512) % 512 ^^^ ((g / 2 ^ 18) % 2) * 256)

/-- The channel of an HBM address: stack in bits [3:0], channel within the stack above. -/
def hbmChannel (a : Nat) : Nat := pageChannel (field (a / 4096) 9 19) (field (a / 4096) 0 9)

def chStack (ch : Nat) : Nat := ch % 16
def chInStack (ch : Nat) : Nat := ch / 16

/-! ### Regions (R355, R356) -/

/-- The region entry in force at an address: its number, KIND, PARTNER and READER. -/
def Chip.regionOf (s : Chip) (a : Nat) : Option (Nat × Nat × Nat × Nat) :=
  ((List.range 32).find? fun n =>
    let c := s.reg (rMEM_RGN_CTL n)
    bitOf c 3 && decide (s.reg (rMEM_RGN_BASE n) / 4096 ≤ a / 4096) && decide (a / 4096 ≤ s.reg (rMEM_RGN_LIMIT n) / 4096)).map
  fun n =>
    let c := s.reg (rMEM_RGN_CTL n)
    (n, field c 0 3, field c 4 12, field c 16 12)

/-- May the agent make the access at one address (R355)? Job memory is written by movers of mapped cores
while a job is loaded or being loaded; the snapshot engine and the Stewards carry out what 05 R167, 12 R440
and 14 give them on confirmed-only regions and job memory. -/
def Chip.mayAccess (s : Chip) (ag : MemAgent) (write confirmed : Bool) (a : Nat) : Bool :=
  let outside := match ag with | .ethernet => true | .client => true | _ => false
  match s.regionOf a with
  | none => match ag with
    | .mover p => !write || ((s.logOf p).isSome && decide (s.reg rMEM_JOBST ≠ 0))
    | .snapshot => true
    | .steward => true
    | _ => false
  | some (_, kind, partner, reader) =>
    if kind = 1 then match ag with
      | .mover _ => !write || confirmed
      | .snapshot => true
      | .steward => true
      | _ => outside && !write
    else if kind = 2 then match ag with
      | .snapshot => true
      | .mover _ => !write
      | .steward => !write
      | _ => outside && !write
    else if kind = 3 then match ag with
      | .remote c => if write then decide (c = partner) else decide (c = partner) || decide (c = reader)
      | .snapshot => !write
      | _ => false
    else if kind = 4 then match ag with
      | .stash _ => true
      | _ => false
    else if kind = 6 then match ag with
      | .steward => true
      | .security => true
      | .snapshot => true
      | .tables => true
      | _ => false
    else false

/-- Addresses of the first byte of each page in a run of bytes, and of its first and last byte. -/
def runPoints (a n : Nat) : List Nat :=
  if n = 0 then [] else (List.range ((a + n - 1) / 4096 - a / 4096 + 1)).map fun k => max a ((a / 4096 + k) * 4096)

/-- May the agent access a whole run of bytes, in HBM or mapped CXL memory? In hold mode only reads of
partner reservations are served (R357). -/
def Chip.runOk (s : Chip) (ag : MemAgent) (write confirmed : Bool) (a n : Nat) : Bool :=
  (a :: (a + n - 1) :: runPoints a n).all fun x =>
    (s.memKind x == .hbm || s.memKind x == .cxl) && s.mayAccess ag write confirmed x &&
    (!s.hold || (!write && (match ag, s.regionOf x with | .remote _, some (_, 3, _, _) => true | _, _ => false)))

/-- Do the bytes lie in one confirmed-only region? -/
def Chip.inConfirmed (s : Chip) (a n : Nat) : Bool :=
  match s.regionOf a, s.regionOf (a + n - 1) with
  | some (i, 1, _, _), some (j, 1, _, _) => decide (i = j)
  | _, _ => false

/-! ### Bytes, poison and fences (R346, R350, R353) -/

def Chip.byteAt (s : Chip) (a : Nat) : Byte := if a < 0x10000000000 then Bytes.rd s.hbm a else Bytes.rd s.cxl a

def Chip.bytesAt (s : Chip) (a n : Nat) : List Byte := if a < 0x10000000000 then Bytes.rdN s.hbm a n else Bytes.rdN s.cxl a n

/-- Lines that a run of bytes touches. -/
def linesOf (a n : Nat) : List Nat := if n = 0 then [] else (List.range ((a + n - 1) / 64 - a / 64 + 1)).map (a / 64 + ·)

def Chip.cxlFenced (s : Chip) : Bool := bitOf (s.reg rCXL_STAT) 4

/-- Is the line's medium fenced: its channel, its controller, or the CXL interleave set? -/
def Chip.lineFenced (s : Chip) (l : Nat) : Bool :=
  let a := 64 * l
  if a < 0x10000000000 then s.fencedCh.contains (hbmChannel a) && NatMap.rd s.redir (a / 4096) == 0
  else s.cxlFenced

def Chip.linePoison (s : Chip) (l : Nat) : Bool := decide (NatMap.rd s.poison l ≠ 0) || s.lineFenced l

/-- A read: the bytes, and whether any line is lost. -/
def Chip.memRd (s : Chip) (a n : Nat) : List Byte × Bool := (s.bytesAt a n, (linesOf a n).any s.linePoison)

/-- Is a write of these bytes refused: a fenced line, or a part of a poisoned line (R346, R350, R353)? -/
def Chip.wrRefused (s : Chip) (a n : Nat) : Bool :=
  (linesOf a n).any fun l => s.lineFenced l ||
    (decide (NatMap.rd s.poison l ≠ 0) && !(decide (a ≤ 64 * l) && decide (64 * l + 64 ≤ a + n)))

/-- Write bytes; whole lines lose their poison. -/
def Chip.memWr (s : Chip) (a : Nat) (bs : List Byte) : Chip :=
  let full := (linesOf a bs.length).filter fun l => decide (a ≤ 64 * l) && decide (64 * l + 64 ≤ a + bs.length)
  let s := { s with poison := full.foldl (fun m l => NatMap.wr m l 0) s.poison }
  if a < 0x10000000000 then { s with hbm := Bytes.wrN s.hbm a bs } else { s with cxl := Bytes.wrN s.cxl a bs }

/-- A write that the medium refuses changes nothing. -/
def Chip.memWrTry (s : Chip) (a : Nat) (bs : List Byte) : Chip := if s.wrRefused a bs.length then s else s.memWr a bs

/-- A read that found lost data raises a memory-poison event (R346). -/
def Chip.poisonEvent (s : Chip) (a : Nat) : Chip :=
  if a < 0x10000000000 then s.raise evMemPoison (hbmChannel a) 0 else s

/-- A request to a stack ends its self-refresh (R341). -/
def Chip.wake (s : Chip) (a : Nat) : Chip :=
  if a < 0x10000000000 then { s with selfRef := s.selfRef.filter (· ≠ chStack (hbmChannel a)) } else s

/-- A transfer of `n` bytes at a device address: the lines of HBM that it reads or writes count (15 R497), and the stacks
that it reaches leave self-refresh. -/
def Chip.hbmUse (s : Chip) (a n : Nat) : Chip :=
  if a ≥ 0x10000000000 then s else
  let s := { s with en := { s.en with lines := s.en.lines + lineCount a n } }
  if s.selfRef.isEmpty then s else (runPoints a n).foldl Chip.wake s

/-! ### ECC results (R344, R345) -/

def rECC (ch : Nat) : Nat := rMC_CH_ECC (chStack ch) (chInStack ch)

/-- What a read of a line found: counters and the memory events of its channel. -/
def Chip.eccRead (s : Chip) (a : Nat) (r : EccResult) : Chip :=
  let ch := hbmChannel a
  match r with
  | .good => s
  | .corrected => (s.countTo (rECC ch) 0 32).raise evMemCorr ch 0
  | .uncorrectable => (s.countTo (rECC ch) 32 16).raise evMemUncorr ch 0

/-- The last line of a stack in ascending address order. -/
def stackLastLine (n : Nat) : Nat :=
  let g := 2 ^ 19 - 1
  let js := (List.range 512).filter fun j => decide (chStack (pageChannel g j) = n)
  ((g * 512 + js.getLastD 0) * 4096 + 4032) / 64

/-- HBM_SCRUB: one scrub read of a line. -/
def hbmScrubCmd (s : Chip) (a : Nat) (r : EccResult) : Chip :=
  if a ≥ 0x10000000000 then s else
  let s := (s.eccRead a r).hbmUse a 64
  let s := match r with
    | .uncorrectable => { s with poison := NatMap.wr s.poison (a / 64) 1 }
    | _ => s
  let n := chStack (hbmChannel a)
  if a / 64 = stackLastLine n then s.countTo (rMC_SCRUB n) 0 32 else s

/-- SELF_REFRESH_ENTRY (R341). -/
def selfRefreshCmd (s : Chip) (n : Nat) : Chip :=
  if n < 16 ∧ !s.selfRef.contains n then { s with selfRef := n :: s.selfRef } else s

/-- HBM_TEMPERATURE (R341, R370): TEMP, and HOT while it is above 85 °C. -/
def hbmTemperatureCmd (s : Chip) (n t : Nat) : Chip :=
  if n ≥ 16 then s else
  (s.setField (rMC_STAT n) 32 8 t).setField (rMC_STAT n) 40 1 (b2n (decide (t > 85)))

/-! ### Requests (R343) -/

/-- Does a write of these bytes touch a page that the snapshot engine protects (14 R482)? -/
def Chip.protTouch (s : Chip) (a n : Nat) : Bool :=
  !s.snp.prot.isEmpty && decide (n ≠ 0) && s.snp.prot.any fun g => decide (a / 4096 ≤ g) && decide (g ≤ (a + n - 1) / 4096)

/-- Pages of the staging pool in use: staged copies and staged records (14 R480, R482). -/
def Chip.stagedPages (s : Chip) : Nat :=
  s.snp.staged.length + ceilDiv (s.snp.sections.foldl (fun n x => n + x.2.length) 0) 4096

/-- A write that is held waits; STG_FULL shows that it waits for the pool (14 R482). -/
def Chip.holdWrite (s : Chip) : Chip :=
  if s.stagedPages ≥ field (s.reg rSNP_STAGE_SIZE) 0 20 then s.setField rSNP_STAT 2 1 1 else s

/-- The core whose store window holds a run of bytes, for an agent that reaches the windows (R337, R339). -/
def Chip.windowCore (s : Chip) (ag : MemAgent) (a n : Nat) : Option Nat :=
  if (decide (ag = .steward) || decide (ag = .snapshot)) && !s.hold && s.memKind a == .store && decide (a % 0x1000000 + n ≤ 0x400000) then
    some ((a - 0x10000000000) / 0x1000000)
  else none

/-- MEMORY_REQUEST: the home controller serves a request for the lines that ADDR begins in; a read returns whole lines
(DEDUCED, log 79). The response goes to the requester. -/
def memoryRequestCmd (s : Chip) (q : MemReq) (ecc : EccResult) : Chip :=
  let a := if q.write then q.addr else q.addr / 64 * 64
  let n := if q.write then q.data.length else 64 * q.lines
  let shape := decide (1 ≤ q.lines) && decide (q.lines ≤ 64) && decide (a / 4096 = (a / 64 + q.lines - 1) / 64) &&
    decide (a % 64 + n ≤ 64 * q.lines) && decide (n ≠ 0)
  let s := s.wake a
  let bad := MemResp.mk q.agent q.xid false [] false
  if let some p := if shape then s.windowCore q.agent a n else none then
    let o := a % 0x1000000
    let r := if q.write then MemResp.mk q.agent q.xid true [] false
      else MemResp.mk q.agent q.xid true (Bytes.rdN (s.core p).store o n) ((s.core p).upsetIn (0x400000 + o) n)
    { s.onCore p (fun c => if q.write then c.unitWr o q.data else c.unitRd o n) with memResp := s.memResp ++ [r] }
  else if q.write && shape && s.protTouch a n then s.holdWrite
  else if !shape || !s.runOk q.agent q.write q.confirmed a n then { s with memResp := s.memResp ++ [bad] }
  else if q.write then
    if s.wrRefused a n then { s with memResp := s.memResp ++ [bad] }
    else { (s.hbmUse a n).memWr a q.data with memResp := s.memResp ++ [MemResp.mk q.agent q.xid true [] false] }
  else
    let s := (if a < 0x10000000000 then s.eccRead a ecc else s).hbmUse a n
    let (d, p) := s.memRd a n
    let lost := p || ecc == .uncorrectable
    let s := if lost then s.poisonEvent a else s
    { s with memResp := s.memResp ++ [MemResp.mk q.agent q.xid true d lost] }

/-- MEMORY_RESPONSE: the response reaches its requester; STATUS 1 is an access error there (R338). -/
def memoryResponseCmd (s : Chip) (r : MemResp) : Chip :=
  let s := { s with memResp := s.memResp.erase r
                    memGot := r :: s.memGot.filter fun x => !(decide (x.agent = r.agent) && decide (x.xid = r.xid)) }
  if r.ok then s else
  match r.agent with
  | .mover p => s.onCore p fun c => c.raise evAccess 0
  | .stash p => s.raise evStashCtl (dieOf p) 0
  | .ethernet => s.raise evAccess 288 0
  | .client => s.raise evAccess 290 0
  | _ => s.raise evControl 0 0

/-! ### Registers of the memory system (R356, R369) -/

def rgnBits (v : Nat) : Nat × Bool := (field v 0 3, bitOf v 3)

/-- A write to MEM_RGNn_CTL: checked, and ignored with RGNERR when it breaks a rule. -/
def memRgnCtlWrite (s : Chip) (n v : Nat) : Chip :=
  let old := s.reg (rMEM_RGN_CTL n)
  let v := field v 0 28
  let base := s.reg (rMEM_RGN_BASE n) / 4096
  let limit := s.reg (rMEM_RGN_LIMIT n) / 4096
  let kind := field v 0 3
  let valid := bitOf v 3
  let oldKind := if bitOf old 3 then some (field old 0 3) else none
  let inHbm := decide (limit < 2 ^ 28)
  let inCxl := decide (2 ^ 30 ≤ base) && decide (limit < 2 ^ 31)
  let others := (List.range 32).filter fun k => k ≠ n && bitOf (s.reg (rMEM_RGN_CTL k)) 3
  let overlap := others.any fun k =>
    decide (s.reg (rMEM_RGN_BASE k) / 4096 ≤ limit) && decide (base ≤ s.reg (rMEM_RGN_LIMIT k) / 4096)
  let same := others.filter fun k => decide (field (s.reg (rMEM_RGN_CTL k)) 0 3 = kind)
  let count := (decide (kind = 1) && decide (same.length ≥ 16)) || (decide (kind = 3) && decide (same.length ≥ 4)) ||
    (decide (kind = 4) && same.any fun k => decide ((s.reg (rMEM_RGN_BASE k) < 2 ^ 40) = inHbm))
  let phase := s.reg rMEM_JOBST
  let touches := fun k => (valid && decide (kind = k)) || decide (oldKind = some k)
  let badPhase := (decide (phase ≠ 1) && (touches 1 || touches 4)) ||
    (decide (phase = 2) && ((valid && decide (kind ≠ 3)) || (match oldKind with | some k => decide (k ≠ 3) | none => false)))
  if (valid && (!(inHbm || inCxl) || overlap || count)) || decide (limit < base) || badPhase then
    s.setField rMEM_STAT 8 1 1
  else s.setReg (rMEM_RGN_CTL n) v

/-- A write to MEM_JOBST. PHASE 00b clears VALID in every confirmed-only and stash entry. -/
def memJobstWrite (s : Chip) (v : Nat) : Chip :=
  let ph := field v 0 2
  if ph = 3 then s else
  let s := s.setReg rMEM_JOBST ph
  if ph ≠ 0 then s else
  (List.range 32).foldl (fun s n =>
    let k := field (s.reg (rMEM_RGN_CTL n)) 0 3
    if k = 1 ∨ k = 4 then s.setField (rMEM_RGN_CTL n) 3 1 0 else s) s

/-- A write to MEM_RESV. -/
def memResvWrite (s : Chip) (v : Nat) : Chip := if field v 0 6 > 32 then s else s.setReg rMEM_RESV (field v 0 6)

/-! ### Retirement (R347-R350) -/

/-- Retirements so far. -/
def Chip.retCount (s : Chip) : Nat := ((List.range 64).filter fun q => bitOf (s.reg (rMEM_RET q)) 9).length

/-- Channels retired or being retired. -/
def Chip.retired (s : Chip) : List Nat :=
  (List.range 64).filterMap fun q => if bitOf (s.reg (rMEM_RET q)) 9 then some (field (s.reg (rMEM_RET q)) 0 9) else none

/-- Groups of 2 MiB that the q-th retirement withdraws. -/
def windowGroups (q : Nat) : Nat := ceilDiv (2 ^ 19) (512 - q)

/-- Fence a channel. -/
def Chip.fenceChannel (s : Chip) (ch : Nat) : Chip :=
  if s.fencedCh.contains ch then s else
  { s.setField (rMC_STAT (chStack ch)) (chInStack ch) 1 0 with fencedCh := ch :: s.fencedCh }

/-- A retirement starts: MEM_TOP falls, the migration becomes active. -/
def Chip.retireStart (s : Chip) (ch : Nat) (lost : Bool) : Chip :=
  let q := s.retCount
  let top := s.reg rMEM_TOP - windowGroups q * 2 ^ 21
  let s := (s.setReg rMEM_TOP top).setReg (rMEM_RET q) (ch + 2 ^ 9 + b2n lost * 2 ^ 10)
  let s := s.setReg rMEM_MIG (ch + 2 ^ 28)
  let free := field (s.reg rMEM_STAT) 9 6
  let sec := { s.sec with retires := s.sec.retires ++ [(ch, b2n lost)], rtSeq := s.sec.rtSeq + 1 }
  { s.setField rMEM_STAT 9 6 (free - 1) with migLost := lost, sec := sec }

/-- MEM_RETIRE: GO retires CH; without a free reserve window in a loaded job, or after 64 retirements, the
channel is fenced instead. -/
def memRetireWrite (s : Chip) (v : Nat) : Chip :=
  let ch := field v 0 9
  if !bitOf v 9 || bitOf (s.reg rMEM_MIG) 28 || s.retired.contains ch then s
  else if s.retCount ≥ 64 then (s.fenceChannel ch).setField rMEM_STAT 7 1 1
  else if s.reg rMEM_JOBST ≠ 0 ∧ field (s.reg rMEM_STAT) 9 6 = 0 then s.fenceChannel ch
  else s.retireStart ch (bitOf (s.reg (rMC_STAT (chStack ch))) 41)

/-- First group and length of the window of the running migration. -/
def Chip.window (s : Chip) : Nat × Nat := (s.reg rMEM_TOP / 2 ^ 21, windowGroups (s.retCount - 1))

/-- The page of channel `ch` in group `g`. -/
def channelPage (ch g : Nat) : Nat := g * 512 + ((List.range 512).find? fun j => pageChannel g j == ch).getD 0

/-- The k-th host page of the window: live pages of its groups in ascending address order. -/
def Chip.hostPage (s : Chip) (k : Nat) : Nat :=
  let dead := s.retired
  let live := 512 - dead.length
  let g := (s.window).1 + k / live
  let js := (List.range 512).filter fun j => !dead.contains (pageChannel g j)
  g * 512 + js.getD (k % live) 0

/-- The group of the k-th redirected page: groups outside the window, ascending. -/
def Chip.moveGroup (s : Chip) (k : Nat) : Nat :=
  let (w, n) := s.window
  if k < w then k else k + n

/-- One page moves: its redirect and every redirect that named it take effect together; lost data becomes
poison (R348-R350). -/
def Chip.movePage (s : Chip) (k : Nat) : Chip :=
  let ch := field (s.reg rMEM_MIG) 0 9
  let page := channelPage ch (s.moveGroup k)
  let host := s.hostPage k
  let redir := Map.mapV (fun _ => 0) (fun h => if h = page + 1 then host + 1 else h) s.redir
  let s := { s with redir := NatMap.wr redir page (host + 1) }
  let s := (s.hbmUse (4096 * page) 4096).hbmUse (4096 * host) 4096
  if s.migLost then { s with poison := (List.range 64).foldl (fun m i => NatMap.wr m (64 * page + i) 1) s.poison } else s

/-- Pages that the running migration has to move. -/
def Chip.moveCount (s : Chip) : Nat := 2 ^ 19 - (s.window).2

/-- The place in moving order of the group that GPTR names. -/
def Chip.moveIndex (s : Chip) : Nat :=
  let g := field (s.reg rMEM_MIG) 9 19
  let (w, n) := s.window
  if g < w then g else g - n

/-- MIGRATION_PAGE_MOVE: the next page moves, unless it is the last; GPTR names the next group. -/
def migrationPageMoveCmd (s : Chip) : Chip :=
  let k := s.moveIndex
  if !bitOf (s.reg rMEM_MIG) 28 || decide (k + 1 ≥ s.moveCount) then s
  else (s.movePage k).setField rMEM_MIG 9 19 (s.moveGroup (k + 1))

/-- MIGRATION_DONE: the last page moves; ACTIVE clears, RET is set, the channel leaves LIVE, and VCF logs the
retirement (R349). -/
def migrationDoneCmd (s : Chip) : Chip :=
  if !bitOf (s.reg rMEM_MIG) 28 || decide (s.moveIndex + 1 ≠ s.moveCount) then s else
  let ch := field (s.reg rMEM_MIG) 0 9
  let s := (s.movePage s.moveIndex).setField rMEM_MIG 28 1 0
  let s := (s.setField (rECC ch) 48 1 1).setField (rMC_STAT (chStack ch)) (chInStack ch) 1 0
  let s := s.setField rMEM_STAT 0 7 (field (s.reg rMEM_STAT) 0 7 + 1)
  { s with vlog := .channelRetired ch :: s.vlog }

/-- A stack or its controller fails: its controller is fenced, the next live one proxies for it, and its
channels retire, their data lost (R350). -/
def Chip.controllerFail (s : Chip) (n : Nat) : Chip :=
  let s := s.setField (rMC_STAT n) 41 1 1
  let proxy := ((List.range 15).map fun i => (n + 1 + i) % 16).find? fun m => !bitOf (s.reg (rMC_STAT m)) 41
  let s := match proxy with | some m => s.setField (rMC_STAT m) 42 1 1 | none => s
  (List.range 32).foldl (fun s c => s.fenceChannel (n + 16 * c)) s

/-- The next channel in channel order that is fenced and not retired: VCF writes MEM_RETIRE for it (R350). -/
def Chip.retireNext (s : Chip) : Chip :=
  match (List.range 512).find? fun ch => s.fencedCh.contains ch && !s.retired.contains ch with
  | some ch => memRetireWrite s (ch + 2 ^ 9)
  | none => s

/-! ### CXL (R353) -/

/-- CXL_DEVICE_DOWN: the interleave set is fenced and the event raised. -/
def cxlDeviceDownCmd (s : Chip) (port : Nat) : Chip :=
  if port ≥ 4 then s else
  let s := s.setField rCXL_STAT port 1 0
  if bitOf (s.reg rCXL_CFG) (2 + port) then (s.setField rCXL_STAT 4 1 1).raise evCxlDown port 0
  else s.raise evCxlDown port 0

/-- A write of CXL_CFG: WAYS 11b is ignored. -/
def cxlWaysOk (v : Nat) : Bool := decide (field v 0 2 ≠ 3)

end Sys2Proof.Machine
end

