-- ==== Sys2Proof/Machine/Fabric.lean ====
section
/-!
DEFINITION. The on-chip fabric: stops, routing and packets, channel pairs and messages, store transfers,
barriers, the logical map and bypass registers (09 R300-R317, R332-R336; 11 R391, R392).
-/
namespace Sys2Proof.Machine

/-- Place of a packet that has left its last router. -/
abbrev atPort : Nat := 0xFFFF

/-! ### Stops and routes (R302-R304) -/

/-- Primary and alternate router (col, row) of a stop. -/
def stopRouters (n : Nat) : (Nat × Nat) × (Nat × Nat) :=
  if n ≤ 8 then ((2 * n - 1, 0), (2 * n - 2, 0))
  else if n ≤ 16 then ((2 * (n - 1) - 15, 17), (2 * (n - 1) - 16, 17))
  else if n = 17 then ((0, 2), (0, 3)) else if n = 18 then ((0, 6), (0, 7))
  else if n = 19 then ((15, 2), (15, 3)) else if n = 20 then ((15, 6), (15, 7))
  else if n = 21 then ((0, 11), (0, 12)) else if n = 22 then ((0, 15), (0, 16))
  else if n = 23 then ((15, 11), (15, 12)) else if n = 24 then ((15, 15), (15, 16))
  else if n = 25 then ((0, 13), (0, 14)) else if n = 26 then ((15, 13), (15, 14))
  else if n = 27 then ((0, 9), (0, 10)) else if n = 28 then ((15, 4), (15, 5))
  else if n = 29 then ((0, 4), (0, 5)) else if n = 30 then ((15, 8), (15, 7))
  else ((0, 8), (0, 7))

/-- Is the router of physical core `p` bypassed? -/
def Chip.bypassed (s : Chip) (p : Nat) : Bool := bitOf (s.reg (rFAB_BYP (p / 64))) (p % 64)

/-- The router that serves a stop. -/
def Chip.stopAt (s : Chip) (n : Nat) : Nat × Nat :=
  let (a, b) := stopRouters n
  if s.bypassed (16 * a.2 + a.1) then b else a

/-- Routing order at injection: XY unless its turn router is bypassed (R303). -/
def Chip.orderYX (s : Chip) (sc sr dc dr : Nat) : Bool :=
  decide (sc ≠ dc) && decide (sr ≠ dr) && s.bypassed (16 * sr + dc)

/-- Class of a packet type; none for a reserved type (R307). -/
def typeClass (ty : Nat) : Option Nat :=
  if ty = 0 ∨ ty = 1 ∨ ty = 3 ∨ ty = 5 ∨ ty = 10 then some 0
  else if ty = 2 ∨ ty = 4 ∨ ty = 6 ∨ ty = 11 ∨ ty = 12 then some 1
  else if ty = 7 ∨ ty = 8 ∨ ty = 9 then some 2
  else none

/-- Can a packet for logical core (x, y) of part `chip` be injected (R309, R392)? -/
def Chip.reachable (s : Chip) (chip x y : Nat) : Bool :=
  if chip = s.id then (s.physOf x y).isSome else bitOf (s.reg (rSL_RT chip)) 10

/-- A packet from physical core `p` to logical core (x, y) of part `chip`, with its places filled in. -/
def Chip.address (s : Chip) (p chip x y : Nat) (k : Packet) : Packet :=
  let (lx, ly) := (s.logOf p).getD (0, 0)
  let g := field (s.reg (rSL_RT chip)) 0 5 / 4
  let (dc, dr, st) := if chip = s.id then
      (match s.physOf x y with | some q => (colOf q, rowOf q, 0) | none => (0, 0, 0))
    else ((s.stopAt (17 + g)).1, (s.stopAt (17 + g)).2, 17 + g)
  { k with
    cls := (typeClass k.ty).getD 3
    dcol := dc, drow := dr, dstop := st, scol := colOf p, srow := rowOf p, sstop := 0
    ord := s.orderYX (colOf p) (rowOf p) dc dr
    dx := x, dy := y, sx := lx, sy := ly, schip := s.id, dchip := chip }

/-- A core hands a packet to its router port. One for a logical position of this part that the map does not hold is
never injected (R309). -/
def Chip.inject (s : Chip) (p chip x y : Nat) (k : Packet) : Chip :=
  if chip = s.id ∧ s.physOf x y = none then s else
  let k := s.address p chip x y k
  s.onCore p fun c => { c with out := c.out ++ [k] }

/-- A packet that arrives is no longer in the mesh. -/
def Chip.taken (s : Chip) (k : Packet) : Chip :=
  let s := { s with flying := s.flying.filter fun f => f.2 ≠ k }
  if k.schip = s.id then s.onCore (16 * k.srow + k.scol) fun c => { c with out := c.out.erase k } else s

/-- A packet arrives at core `p`, which discards one whose logical destination it no longer holds (R309). -/
def Chip.arrive (s : Chip) (p : Nat) (k : Packet) (f : Chip → Chip) : Chip :=
  if s.physOf k.dx k.dy = some p then f (s.taken k) else s.taken k

/-- Packets on their way to core `p` reach units that a halt has reset: the core discards them (R309). -/
def Chip.dropPackets (s : Chip) (p : Nat) : Chip :=
  { s with flying := s.flying.filter fun f => !(decide (f.2.dstop = 0) && decide (f.2.dchip = s.id) && decide (16 * f.2.drow + f.2.dcol = p)) }

/-- A discarded packet is counted, and recorded as the first or as OVF. -/
def Chip.recordDiscard (s : Chip) (r : Nat) (ty cause : Nat) : Chip :=
  let s := s.countTo rFAB_ERR_CNT 32 32
  if bitOf (s.reg rFAB_ERR) 63 then s.setField rFAB_ERR 62 1 1
    else s.setReg rFAB_ERR (colOf r + rowOf r * 2 ^ 4 + ty % 16 * 2 ^ 9 + cause * 2 ^ 13 + 2 ^ 63)

/-- A packet that a router discards, with the event of the router's bench. -/
def Chip.discard (s : Chip) (r : Nat) (ty cause : Nat) : Chip := (s.recordDiscard r ty cause).raise evFabric (benchOf r) r

/-- The router after `r` on the packet's route; `none` at its last router. -/
def nextRouter (r : Nat) (k : Packet) : Option Nat :=
  let (c, w) := (colOf r, rowOf r)
  let stepX := if c < k.dcol then r + 1 else r - 1
  let stepY := if w < k.drow then r + 16 else r - 16
  if c = k.dcol ∧ w = k.drow then none
  else if k.ord then (if w ≠ k.drow then some stepY else some stepX)
  else (if c ≠ k.dcol then some stepX else some stepY)

/-- Must the packet turn, enter or leave at router `r`? -/
def turnsAt (r : Nat) (k : Packet) : Bool :=
  let (c, w) := (colOf r, rowOf r)
  (decide (c = k.dcol) && decide (w = k.drow)) || (decide (c = k.scol) && decide (w = k.srow)) ||
  (if k.ord then decide (w = k.drow) && decide (c = k.scol) && decide (c ≠ k.dcol)
   else decide (c = k.dcol) && decide (w = k.srow) && decide (w ≠ k.drow))

/-- The input port of router `r` on which a packet comes: 0 local or stop, 1 west, 2 east, 3 north, 4 south. -/
def inPort (r : Nat) (k : Packet) : Nat :=
  let (c, w) := (colOf r, rowOf r)
  if c = k.scol ∧ w = k.srow then 0
  else if (if k.ord then decide (c ≠ k.scol) else decide (w = k.srow)) then (if c > k.scol then 1 else 2)
  else (if w > k.srow then 3 else 4)

/-- The edge router that a packet reaches when it cannot turn at `r` and goes straight on (R304). -/
def edgeAfter (r : Nat) (k : Packet) : Nat :=
  match inPort r k with
  | 1 => 16 * rowOf r + 15
  | 2 => 16 * rowOf r
  | 3 => 16 * 17 + colOf r
  | 4 => colOf r
  | _ => r

/-! Virtual channels (R301), packet by packet (DESIGN CHOICE, log 87). -/

/-- Do two packets at router `r` share a virtual channel of an input port: port, class and routing order? -/
def sameVc (r : Nat) (a b : Packet) : Bool :=
  decide (a.cls = b.cls) && a.ord == b.ord && decide (inPort r a = inPort r b) && decide (a.sstop = b.sstop ∨ inPort r a ≠ 0)

/-- Is a packet the oldest of its virtual channel at router `r`? -/
def Chip.oldestAt (s : Chip) (r : Nat) (k : Packet) : Bool :=
  ((s.flying.takeWhile (· != (r, k))).all fun f => f.1 != r || !sameVc r f.2 k) &&
  (decide (16 * k.srow + k.scol ≠ r) || ((s.core r).out.takeWhile (· != k)).all fun o => !sameVc r o k)

/-- Has the 4-flit buffer of the packet's virtual channel at router `n` a free place, so that the link has a credit
for its header flit? -/
def Chip.credit (s : Chip) (n : Nat) (k : Packet) : Bool :=
  decide ((s.flying.filter fun f => f.1 == n && sameVc n f.2 k).foldl (fun m f => m + 1 + f.2.lenf) 0 < 4)

/-- A packet leaves router `r` for the next router of its route, or for the port it goes to. -/
def Chip.onward (s : Chip) (r : Nat) (k0 k : Packet) : Chip :=
  match nextRouter r k with
  | some n => if s.credit n k then let s := s.taken k0; { s with flying := s.flying ++ [(n, k)] } else s
  | none => let s := s.taken k0; { s with flying := s.flying ++ [(atPort, k)] }

/-- PACKET_FORWARD: router `r` takes the oldest packet of a virtual channel and forwards it (R303, R304, R307, R308).
Without a credit the packet waits. A bypassed router is a pair of hard wires: it checks nothing. -/
def packetForwardCmd (s : Chip) (r : Nat) (k : Packet) (chk : FlitCheck) : Chip :=
  if r ≥ nCores ∨ !s.oldestAt r k then s
  else if s.bypassed r then (if turnsAt r k then (s.taken k).discard (edgeAfter r k) k.ty 3 else s.onward r k k)
  else match chk with
  | .headerDouble => (s.taken k).discard r 0 1
  | chk =>
    if typeClass k.ty ≠ some k.cls then (s.taken k).discard r k.ty 2
    else if !(match nextRouter r k with | some n => s.credit n k | none => true) then s
    else
      let s := if chk == .corrected then s.countTo rFAB_ERR_CNT 0 32 else s
      let s := s.onCore r fun c => c.count mFlit (1 + k.lenf)
      s.onward r k (if chk == .payloadDouble then { k with poison := k.poison ||| poisonR } else k)

/-! ### Channel pairs (R311, R315) -/

def Core.pair (c : Core) (send : Bool) (chip x y chan : Nat) : Option Pair :=
  c.pairs.find? fun q => (q.send == send) && decide (q.chip = chip) && decide (q.x = x) && decide (q.y = y) && decide (q.chan = chan)

/-- The pair's entry with its fields replaced; a pair without an entry gets one. -/
def Core.putPair (c : Core) (q : Pair) : Core :=
  { c with pairs := q :: c.pairs.filter fun r =>
      !((r.send == q.send) && decide (r.chip = q.chip) && decide (r.x = q.x) && decide (r.y = q.y) && decide (r.chan = q.chan)) }

/-- The first message error is recorded, a further one sets OVF (R317). -/
def Core.msgErr (c : Core) (d : List Byte) (cause : Nat) : Core :=
  if bitOf (c.reg rMSG_ERR) 63 then c.setField rMSG_ERR 62 1 1
  else c.setReg rMSG_ERR (dPX d + dPY d * 2 ^ 4 + dPChip d * 2 ^ 8 + dPChan d * 2 ^ 20 + cause * 2 ^ 24 + 2 ^ 63)

/-- An access error (08 R288): inputs popped, outputs marked with cause R, nothing else written. -/
def Core.opAccessError (c : Core) (t : TOp) : Core :=
  let tags := c.popTags (opPops t.desc)
  let c := (c.popAll (opPops t.desc)).raise evAccess 0
  match opPushes t.desc with
  | q :: _ =>
    let (c, slot) := c.reserve q t.seq
    c.started t { items := [errItem q slot 0x0C (combineTags c.confirmed tags) 0] }
  | [] => c.started t {}

/-- An earlier operation that names the same pair has not started. -/
def Core.earlierOnPair (c : Core) (t : TOp) : Bool :=
  c.ops.any fun u => decide (u.seq < t.seq) && u.waits && decide (dOp u.desc = dOp t.desc) &&
    decide (field (dLe u.desc 16 4) 0 24 = field (dLe t.desc 16 4) 0 24)

/-- The key of a message in the list of acknowledgements awaited. -/
def msgKey (chip x y chan k : Nat) : Nat := (((chip * 16 + x) * 16 + y) * 16 + chan) * 2 ^ 32 + k

/-- The tokens that came before the entry of their pair. -/
def Core.looseTokens (c : Core) (chip x y chan : Nat) : List Nat :=
  c.loose.filterMap fun m => if m / 2 ^ 32 = msgKey chip x y chan 0 / 2 ^ 32 then some (m % 2 ^ 32) else none

/-- The entry of a pair, allocated if it has none (R315), with the tokens that came before it. -/
def Core.takePair (c : Core) (send : Bool) (chip x y chan : Nat) : Core × Pair :=
  match c.pair send chip x y chan with
  | some q => (c, q)
  | none =>
    let q : Pair := { send := send, chip := chip, x := x, y := y, chan := chan
                      tokens := if send then c.looseTokens chip x y chan else [] }
    ({ c.putPair q with loose := if send then c.loose.filter fun m => m / 2 ^ 32 ≠ msgKey chip x y chan 0 / 2 ^ 32 else c.loose }, q)

/-- Would the pair need a 257th entry? -/
def Core.pairFull (c : Core) (send : Bool) (chip x y chan : Nat) : Bool :=
  (c.pair send chip x y chan).isNone && decide (c.pairs.length ≥ 256)

/-- Packets of a SEND's message that the router has not taken (R313). -/
def Core.sendOut (c : Core) (t : TOp) : Bool :=
  c.out.any fun k => decide (k.ty ≤ 1) && decide (k.seq = t.num) && decide (k.chan = dPChan t.desc) &&
    decide (k.dchip = dPChip t.desc) && decide (k.dx = dPX t.desc) && decide (k.dy = dPY t.desc)

/-- The item that a SEND or an STSH reads: one with a non-zero reserved field is a format error (R279). -/
def Core.readChecked (c : Core) (q : Nat) : Core × OutItem :=
  let (o, hb) := c.peek q
  if hb then (c.raise evFormat 0, { c.zeroOut q o.slot o.fmt o.scale.toNat o.nelem o.entry o.tag o.poison with src := o.src })
  else (c, o)

/-- The packets of a message: at most 64 payload flits each, the last one marked (R311). -/
def splitFlits (base : Packet) : Nat → List Byte → List Packet
  | 0, _ => []
  | n + 1, bs =>
    let here := bs.take 4096
    let rest := bs.drop 4096
    { base with lenf := ceilDiv here.length 64, last := rest.isEmpty, payload := here } ::
      (if rest.isEmpty then [] else splitFlits base n rest)

/-- SEND starts (R313, R314): data, or a void message for an invalidated item. Its slot stays in use until the router
has taken the last flit. -/
def sendCmd (s : Chip) (p id : Nat) : Chip :=
  let c := s.core p
  match c.op? id with
  | none => s
  | some t =>
    let d := t.desc
    let tick := s.localTick p
    let (chip, x, y, chan) := (dPChip d, dPX d, dPY d, dPChan d)
    if dOp d ≠ opSEND ∨ !t.waits || !armMet t.arm tick || !c.queuesReady t.seq (opPops d) [] || c.earlierOnPair t then s
    else if !s.reachable chip x y then s.setCore p (((c.late t.due tick).msgErr d 2).opAccessError t)
    else if c.pairFull true chip x y chan then s.setCore p (((c.late t.due tick).msgErr d 1).opAccessError t)
    else
      let (c, q) := c.takePair true chip x y chan
      let inv := tagInv (c.peek (dQA d)).1.tag
      if !q.tokens.contains q.count || (!inv && decide (chip ≠ s.id) && !c.confirmed (c.peek (dQA d)).1.tag) then s.setCore p c
      else
        let (c, o) := if inv then (c, (c.peek (dQA d)).1) else c.readChecked (dQA d)
        let c := (c.late t.due tick).pop (dQA d)
        let c := c.setQend (dQA d) { c.qend (dQA d) with sending := (c.qend (dQA d)).sending + 1 }
        let c := c.putPair { q with count := q.count + 1, tokens := q.tokens.erase q.count }
        let c := { c.bump rMSG_SEND_CNT 1 with owed := (t.seq, msgKey chip x y chan q.count) :: c.owed }
        let c := c.setOp { t with phase := .started, num := q.count, input := [o] }
        let base : Packet := { ty := if inv then 1 else 0, chan := chan, seq := q.count, tag := o.tag, poison := o.poison, void := inv }
        let bytes := o.bytes
        let pkts := if inv then [base] else splitFlits base (bytes.length / 4096 + 1) (fitBytes (64 * ceilDiv bytes.length 64) bytes)
        pkts.foldl (fun s k => s.inject p chip x y k) (s.setCore p c)

/-- RECV starts: it reserves its slot and sends its ready token (R312). -/
def recvCmd (s : Chip) (p id : Nat) : Chip :=
  let c := s.core p
  match c.op? id with
  | none => s
  | some t =>
    let d := t.desc
    let tick := s.localTick p
    let (chip, x, y, chan) := (dPChip d, dPX d, dPY d, dPChan d)
    if dOp d ≠ opRECV ∨ !t.waits || !armMet t.arm tick || !c.queuesReady t.seq [] (opPushes d) || c.earlierOnPair t then s
    else if !s.reachable chip x y then s.setCore p (((c.late t.due tick).msgErr d 2).opAccessError t)
    else if c.pairFull false chip x y chan then s.setCore p (((c.late t.due tick).msgErr d 1).opAccessError t)
    else
      let (c, q) := c.takePair false chip x y chan
      let (c, slot) := (c.late t.due tick).reserve (dQD d) t.seq
      let c := c.putPair { q with count := q.count + 1 }
      let c := c.setOp { t with
        phase := .tokened, num := q.count
        res := { items := [{ q := dQD d, slot := slot, tag := confTag, poison := 0, fmt := 0x0C, nelem := 0, payload := [] }] } }
      (s.setCore p c).inject p chip x y { ty := 2, chan := chan, seq := q.count }

/-- The RECVs that wait for a message of the packet's pair. -/
def Core.recvsOf (c : Core) (k : Packet) : List TOp :=
  c.ops.filter fun t => decide (dOp t.desc = opRECV) && decide (t.phase = .tokened) &&
    decide (dPChip t.desc = k.schip) && decide (dPX t.desc = k.sx) && decide (dPY t.desc = k.sy) && decide (dPChan t.desc = k.chan)

/-- The RECV that a message matches. -/
def Core.recvOf (c : Core) (k : Packet) : Option TOp := (c.recvsOf k).find? fun t => decide (t.num = k.seq)

/-- Messages of one pair arrive in match order (R311): none comes while an earlier one is awaited. -/
def Core.inOrder (c : Core) (k : Packet) : Bool := (c.recvsOf k).all fun t => decide (k.seq ≤ t.num)

/-- The header and payload of a message's bytes as an item. -/
def itemOfBytes (h : List Byte) : OutItem :=
  { q := 0, slot := 0, tag := BitVec.ofNat 32 (listLe h 0 4), poison := BitVec.ofNat 2 (listLe h 4 1), fmt := listLe h 5 1,
    scale := BitVec.ofNat 32 (listLe h 8 4), nelem := field (listLe h 12 4) 0 24, nblk := listLe h 16 4,
    entry := listLe h 24 3, src := BitVec.ofNat 32 (listLe h 28 4),
    payload := (h.drop 64).take (field (listLe h 20 4) 0 17) }

/-- The matching RECV commits, and the delivery acknowledgement goes back (R312, R313). A tag of a rejected attempt is
written invalidated (06 R189). -/
def Chip.recvCommit (s : Chip) (p : Nat) (c : Core) (t : TOp) (k : Packet) (o : OutItem) : Chip :=
  let slot := match t.res.items with | i :: _ => i.slot | [] => 0
  let o := { o with q := dQD t.desc, slot := slot
                    tag := if !tagConf o.tag && c.deadAttempt (tagChain o.tag) (tagLayer o.tag) (tagEpoch o.tag) then setInv o.tag else o.tag
                    src := BitVec.ofNat 32 (k.sx + k.sy * 2 ^ 4 + k.schip * 2 ^ 8 + k.chan * 2 ^ 20) }
  let big := decide (o.payload.length > c.qbytes o.q)
  let c := if big then c.msgErr t.desc 3 else c
  let c := ((c.commitItem o).dropOp t.id).bump rMSG_RECV_CNT 1
  (s.setCore p c).inject p k.schip k.sx k.sy { ty := 12, chan := k.chan, seq := k.seq }

/-- DATA_MESSAGE: the last packet of a data message arrives; `k.payload` is the whole message and `flitErr`
says that a payload flit carried a double-bit error. -/
def dataMessageCmd (s : Chip) (p : Nat) (k : Packet) (flitErr : Bool) : Chip :=
  if !(s.core p).inOrder k then s else
  s.arrive p k fun s =>
    match (s.core p).recvOf k with
    | none => s
    | some t => s.recvCommit p (s.core p) t k
        { itemOfBytes k.payload with tag := k.tag, poison := k.poison ||| (if flitErr then poisonR else 0) }

/-- VOID_MESSAGE (R314). -/
def voidMessageCmd (s : Chip) (p : Nat) (k : Packet) : Chip :=
  if !(s.core p).inOrder k then s else
  s.arrive p k fun s =>
    match (s.core p).recvOf k with
    | none => s
    | some t => s.recvCommit p (s.core p) t k
        { q := 0, slot := 0, tag := setInv k.tag, poison := k.poison, fmt := 0x0C, nelem := 0, payload := [] }

/-- READY_TOKEN: the sending core keeps the token with its pair (R313, R315); one that comes before the pair has an
entry waits beside the table. -/
def readyTokenCmd (s : Chip) (p : Nat) (k : Packet) : Chip :=
  s.arrive p k fun s => s.onCore p fun c =>
    match c.pair true k.schip k.sx k.sy k.chan with
    | some q => c.putPair { q with tokens := q.tokens ++ [k.seq] }
    | none => { c with loose := c.loose ++ [msgKey k.schip k.sx k.sy k.chan (k.seq % 2 ^ 32)] }

/-- DELIVERY_ACK (R313). -/
def deliveryAckCmd (s : Chip) (p : Nat) (k : Packet) : Chip :=
  s.arrive p k fun s => s.onCore p fun c => { c with owed := c.owed.filter fun o => o.2 ≠ msgKey k.schip k.sx k.sy k.chan k.seq }

/-- The message part of a step boundary (R315): waiting SENDs and RECVs end as access errors, unused tokens
are an imbalance, the table is cleared. -/
def Core.pairsBoundary (c : Core) : Core :=
  let isMsg := fun (t : TOp) => (dOp t.desc == opSEND && t.waits) || (dOp t.desc == opRECV && (t.waits || t.phase == .tokened))
  let ws := c.ops.filter isMsg
  let unused := (c.pairs.filter fun q => !q.tokens.isEmpty).map fun q => msgKey q.chip q.x q.y q.chan 0
  let c' := { c with pairs := [], loose := [] }
  match ws.map (fun t => msgKey (dPChip t.desc) (dPX t.desc) (dPY t.desc) (dPChan t.desc) 0) ++ unused ++ c.loose with
  | [] => c'
  | m :: _ =>
    let d := List.replicate 16 0 ++ leBytes 4 (m / 2 ^ 40 % 16 + m / 2 ^ 36 % 16 * 2 ^ 4 + m / 2 ^ 44 * 2 ^ 8 + m / 2 ^ 32 % 16 * 2 ^ 20)
    let c' := ws.foldl (fun c t =>
      if t.phase == .tokened then
        let o := t.res.items.headD (errItem (dQD t.desc) 0 0x0C confTag 0)
        (c.raise evAccess 0).started t { items := [errItem o.q o.slot 0x0C confTag 0] }
      else c.opAccessError t) c'
    (c'.msgErr d 4).raise evMsgImbalance 0

/-! ### Other cores' stores (R316) -/

/-- STORE_WRITE: the lines land, and the acknowledgement goes back. A payload error leaves no mark: core store holds no
poison (07 R243). -/
def storeWriteCmd (s : Chip) (p : Nat) (k : Packet) : Chip :=
  s.arrive p k fun s =>
    (s.onCore p fun c => c.unitWr (k.addr % 2 ^ 22) k.payload).inject p k.schip k.sx k.sy { ty := 4, seq := k.seq }

/-- STORE_READ_REQUEST: the lines asked for go back; `lenf` is their number. A double-bit error in them goes with them as an
error of the payload (08 R258). -/
def storeReadRequestCmd (s : Chip) (p : Nat) (k : Packet) : Chip :=
  s.arrive p k fun s =>
    let c := s.core p
    let a := k.addr % 2 ^ 22
    (s.setCore p (c.unitRd a (64 * k.lenf))).inject p k.schip k.sx k.sy {
      ty := 6, seq := k.seq, lenf := k.lenf, addr := k.addr, payload := Bytes.rdN c.store a (64 * k.lenf)
      poison := if c.upsetIn (0x400000 + a) (64 * k.lenf) then poisonR else 0 }

/-! ### Barriers (R332-R335) -/

def barCfg (c : Core) (b : Nat) : Nat := c.reg (rBAR_CFG b)
def barValid (c : Core) (b : Nat) : Bool := bitOf (barCfg c b) 17
def barArr (c : Core) (b : Nat) : Nat := field (c.reg (rBAR_STAT b)) 0 32
def barDone (c : Core) (b : Nat) : Nat := field (c.reg (rBAR_STAT b)) 32 32

/-- A barrier packet: the barrier is in the channel field, and TAG is 1 between homes. -/
def barPacket (ty b g : Nat) (home : Bool) : Packet :=
  { ty := ty, chan := b, seq := g, tag := if home then 1#32 else 0#32 }

/-- An arrival goes to the local home. -/
def Chip.barSend (s : Chip) (p b g : Nat) : Chip :=
  let v := barCfg (s.core p) b
  s.inject p s.id (field v 0 4) (field v 4 4) (barPacket 7 b g false)

/-- BARV: the arrival is recorded; it is sent at once unless the member is four generations ahead (R333). -/
def Chip.barArrive (s : Chip) (p b : Nat) : Chip :=
  let c := s.core p
  let g := barArr c b
  let ahead := decide (g ≥ barDone c b + 4)
  let c := c.setField (rBAR_STAT b) 0 32 (g + 1)
  let c := if ahead then c.setBarrier b { c.barrier b with held := (c.barrier b).held ++ [g] } else c
  let s := s.setCore p c
  if ahead then s else s.barSend p b g

/-- The logical cores of a home's member mask. -/
def barMembers (c : Core) (b : Nat) : List Nat :=
  (List.range 256).filter fun n => bitOf (c.reg (rBAR_MASK b (n / 64))) (n % 64)

/-- A home tells every member on its part that a generation is complete. -/
def Chip.barTell (s : Chip) (p b g : Nat) : Chip :=
  (barMembers (s.core p) b).foldl (fun s n => s.inject p s.id (n % 16) (n / 16) (barPacket 8 b g false)) s

/-- BARRIER_ARRIVAL at a home (R332 steps 2 and 3). -/
def barrierArrivalCmd (s : Chip) (p : Nat) (k : Packet) : Chip :=
  s.arrive p k fun s =>
  let c := s.core p
  let b := k.chan % 16
  let v := barCfg c b
  let x := c.barrier b
  if k.tag = 1 then
    let n := NatMap.rd x.parts k.seq + 1
    if n ≥ field v 32 13 then
      let s := s.setCore p (c.setBarrier b { x with parts := NatMap.wr x.parts k.seq 0 })
      let base := field (c.reg (rBAR_PLIST b)) 0 22 / 2 * 2
      (List.range (field v 32 13)).foldl (fun s i =>
        s.inject p (field (Bytes.rdLe c.store (base + 2 * i) 2) 0 12) (field v 0 4) (field v 4 4) (barPacket 8 b k.seq true)) s
    else s.setCore p (c.setBarrier b { x with parts := NatMap.wr x.parts k.seq n })
  else
    let n := NatMap.rd x.local_ k.seq + 1
    if n ≥ field v 8 9 then
      let s := s.setCore p (c.setBarrier b { x with local_ := NatMap.wr x.local_ k.seq 0 })
      if field v 32 13 = 1 then s.barTell p b k.seq
      else s.inject p (field v 18 12) (field v 0 4) (field v 4 4) (barPacket 7 b k.seq true)
    else s.setCore p (c.setBarrier b { x with local_ := NatMap.wr x.local_ k.seq n })

/-- BARRIER_COMPLETION at a local home (forwarded) or at a member: DONE advances, a held arrival four
generations on is sent, and an armed notice fires (R332, R333; 08 R261, R269). Completions reach a member in generation
order: none comes before that of an earlier generation. -/
def barrierCompletionCmd (s : Chip) (p : Nat) (k : Packet) : Chip :=
  if s.physOf k.dx k.dy = some p ∧ k.tag ≠ 1 ∧ k.seq > barDone (s.core p) (k.chan % 16) then s else
  s.arrive p k fun s =>
  let b := k.chan % 16
  if k.tag = 1 then s.barTell p b k.seq else
  let c := s.core p
  let x := c.barrier b
  let fired := x.fired || (match x.notice with | some g => decide (g ≤ k.seq) | none => false)
  let x' := { x with held := x.held.erase (k.seq + 4), fired := fired, notice := if fired then none else x.notice }
  let s := s.setCore p ((c.setField (rBAR_STAT b) 32 32 (k.seq + 1)).setBarrier b x')
  if x.held.contains (k.seq + 4) then s.barSend p b (k.seq + 4) else s

/-- The barrier part of a step boundary (R334). -/
def Core.barBoundary (c : Core) (b : Nat) : Core :=
  let x := c.barrier b
  let bad := decide (barArr c b ≠ barDone c b) || !x.local_.isEmpty || !x.parts.isEmpty
  let c := (c.setReg (rBAR_STAT b) 0).setBarrier b Barrier.reset
  if bad then c.raise evBarImbalance 0 else c

/-! ### The map and the bypass (R309, R310, R336) -/

/-- Is the sequencer of a physical core stopped? -/
def Chip.stopped (s : Chip) (p : Nat) : Bool := !bitOf ((s.core p).reg rSEQ_CTL) 0

/-- FAB_MAPn: accepted while the cores that the entry names, before and after, are stopped. -/
def fabMapCmd (s : Chip) (n v : Nat) : Chip :=
  let old := s.reg (rFAB_MAP n)
  let v := field v 0 10
  let at_ := fun m => 16 * field m 4 5 + field m 0 4
  let ok := (!bitOf old 9 || s.stopped (at_ old)) && (!bitOf v 9 || s.stopped (at_ v))
  if n < 256 ∧ ok then s.setReg (rFAB_MAP n) v else s

/-- FAB_BYPi: bits to set need their core fenced; bits to clear need no job RUNNING. -/
def fabBypCmd (s : Chip) (i v : Nat) (running : Bool) : Chip :=
  if i ≥ 5 then s else
  let old := s.reg (rFAB_BYP i)
  let n := if i = 4 then 32 else 64
  let new := (List.range n).foldl (fun a b =>
    let o := bitOf old b
    let w := bitOf v b
    let r := if w && !o then (s.core (64 * i + b)).fenced
      else if !w && o then running
      else o
    a + b2n r * 2 ^ b) 0
  s.setReg (rFAB_BYP i) new

/-- Hops between two physical cores, a seam crossing counting as one more (R305, R310). -/
def hopCount (p q : Nat) : Nat :=
  let dc := max (colOf p) (colOf q) - min (colOf p) (colOf q)
  let dr := max (rowOf p) (rowOf q) - min (rowOf p) (rowOf q)
  dc + dr + b2n (decide (colOf p / 8 ≠ colOf q / 8)) + b2n (decide (rowOf p / 9 ≠ rowOf q / 9))

/-- Is a core usable in the map: good, not fenced, its router not bypassed? -/
def Chip.usable (s : Chip) (p : Nat) : Bool := (s.core p).good && !(s.core p).fenced && !s.bypassed p

/-- The nearest core of a pool to a default core; ties to the smaller row, then column. -/
def nearestSpare (pool : List Nat) (d : Nat) : Option Nat :=
  match pool with
  | [] => none
  | p :: ps => some (ps.foldl (fun b q => if hopCount d q < hopCount d b then q else b) p)

/-- The logical positions of a w by h grid, in order of y, then x. -/
def gridPositions (w h : Nat) : List Nat :=
  (List.range 256).filter fun n => decide (n % 16 < w) && decide (n / 16 < h)

/-- The default core of a logical position (R25). -/
def defaultCore (n : Nat) : Nat := n % 16 + 16 * (n / 16 + 1)

/-- The map of R310 for a grid, before its routability step: entries of the positions in order, with no entry
outside the grid and where the pool is empty. The pool holds every good core that no position takes by default,
in rising core order, so a tie keeps the smaller row, then column. -/
def buildMap (s : Chip) (w h : Nat) (avoid : List Nat) : List (Nat × Option Nat) :=
  let ok := fun p => s.usable p && !avoid.contains p
  let grid := gridPositions w h
  let pool := (List.range nCores).filter fun p => ok p && !grid.any fun n => decide (defaultCore n = p)
  let ps := (List.range 256).foldl (fun (acc : List (Nat × Option Nat) × List Nat) n =>
    let d := defaultCore n
    if !grid.contains n then (acc.1 ++ [(n, none)], acc.2)
    else if ok d then (acc.1 ++ [(n, some d)], acc.2)
    else match nearestSpare acc.2 d with
      | some q => (acc.1 ++ [(n, some q)], acc.2.filter (· ≠ q))
      | none => (acc.1 ++ [(n, none)], acc.2)) ([], pool)
  ps.1

/-- Cores of a map whose route to another core of it needs a turn at a bypassed router: both turn routers of the pair
are bypassed (R304). -/
def unroutable (s : Chip) (m : List (Nat × Option Nat)) : List Nat :=
  let cs := m.filterMap (·.2)
  cs.filter fun p => cs.any fun q =>
    decide (colOf p ≠ colOf q) && decide (rowOf p ≠ rowOf q) &&
    s.bypassed (16 * rowOf p + colOf q) && s.bypassed (16 * rowOf q + colOf p)

/-- R310 with its repetition: unroutable cores count as fenced until none is left. -/
def planMap (s : Chip) (w h : Nat) : Nat → List Nat → List (Nat × Option Nat)
  | 0, avoid => buildMap s w h avoid
  | n + 1, avoid =>
    let m := buildMap s w h avoid
    match unroutable s m with
    | [] => m
    | us => planMap s w h n (us ++ avoid)

/-- One entry of the map: a core that leaves or enters the map stops first (R309). -/
def Chip.mapEntry (s : Chip) (e : Nat × Option Nat) : Chip :=
  let old := s.reg (rFAB_MAP e.1)
  let new := match e.2 with
    | some p => colOf p + 16 * rowOf p + 512
    | none => field old 0 9
  if new = old then s else
  let stop := fun (s : Chip) (v : Nat) =>
    if bitOf v 9 then s.onCore (16 * field v 4 5 + field v 0 4) fun c => c.setField rSEQ_CTL 0 1 0 else s
  (stop (stop s old) new).setReg (rFAB_MAP e.1) new

/-- Install the map of a w by h grid. -/
def Chip.remap (s : Chip) (w h : Nat) : Chip := (planMap s w h 288 []).foldl Chip.mapEntry s

end Sys2Proof.Machine
end

