-- ==== Sys2Proof/Machine/Energy.lean ====
section
/-!
DEFINITION. The energy accountant: grants and the pool (15 R500-R506), planning (R507), operating points and
parking (R494-R496), calibration (R499), and the handles of a core (08 R272).
-/
namespace Sys2Proof.Machine

/-! ### Operating points (R494) -/

/-- Regulator voltage of a point, in mV. -/
def pointMv (k : Nat) : Nat := [550, 570, 590, 610, 630, 650, 675, 700, 725, 750, 780, 815, 850].getD k 550

/-- Leakage of one bench, in W/100. -/
def pointLeak (k : Nat) : Nat := [125, 132, 140, 148, 157, 166, 178, 190, 203, 217, 234, 255, 278].getD k 125

/-- The dynamic scale s. -/
def pointS (k : Nat) : Rat := ((pointMv k * pointMv k : Nat) : Rat) / ((562500 : Nat) : Rat)

/-- S16 = round(s × 2^16), ties to even (R503). -/
def pointS16 (k : Nat) : Nat :=
  let n := pointMv k * pointMv k * 65536
  let q := n / 562500
  let r := n % 562500
  if 2 * r > 562500 ∨ (2 * r = 562500 ∧ q % 2 = 1) then q + 1 else q

/-- The charge of a request, in µJ (R503). -/
def chargeOf (nj k kd : Nat) : Nat := ceilDiv (nj * pointS16 k * kd) (1000 * 2 ^ 30)

/-- The physical cores of a bench. -/
def benchCores (b : Nat) : List Nat :=
  (List.range 4).map fun k => 16 * (9 * (b / 18 / 2) + (b % 18) / 2) + 8 * (b / 18 % 2) + 4 * (b % 2) + k

/-! ### Energy (R497, R498)

Energies are kept exactly, in units of half a femtojoule × (mV)² × KD's code: `energyUnit` of them are 1 µJ. -/

/-- Half femtojoules of an event at point 9 and KD = 1, by kind. -/
def evWeight (k : Nat) : Nat := [30, 15, 8, 44, 80, 12000, 15000, 8000, 6000, 1200, 2000, 16000, 24000].getD k 0

/-- Half femtojoules of an HBM line. -/
abbrev lineWeight : Nat := 2150000

abbrev energyUnit : Nat := 2000000000 * (562500 * 16384)

def Chip.kd (s : Chip) : Nat := field (s.reg rEN_CAL) 0 16

/-- Half femtojoules of the events that a core has counted and not folded. -/
def Core.evEnergy (c : Core) : Nat := (List.range 13).foldl (fun e k => e + evWeight k * NatMap.rd c.ev k) 0

/-- The point in force of a bench. -/
def Chip.pointOf (s : Chip) (b : Nat) : Nat := field (s.reg (rEN_B_PT b)) 0 4

/-- The dynamic energy of a bench, by the s of its point and KD. -/
def Chip.benchDyn (s : Chip) (b : Nat) : Nat :=
  (s.bench b).dyn + (benchCores b).foldl (fun e p => e + (s.core p).evEnergy) 0 * (pointMv (s.pointOf b) * pointMv (s.pointOf b)) * s.kd

/-- The leakage of a bench, at the point in force on each tick: 1/100 W over 1 ns is 20,000 half femtojoules. -/
def Chip.benchLeak (s : Chip) (b : Nat) : Nat :=
  (s.bench b).leak + (s.now - (s.bench b).baseTick) * (20000 * pointLeak (s.pointOf b)) * (562500 * 16384)

/-- EN_Bnn_E: the whole microjoules that a bench has counted (R498). -/
def Chip.benchE (s : Chip) (b : Nat) : Nat := (s.benchDyn b + s.benchLeak b) / energyUnit % 2 ^ 64

/-- The dynamic energy of the HBM, at s = 1. -/
def Chip.hbmDyn (s : Chip) : Nat := s.en.hbm + s.en.lines * lineWeight * 562500 * s.kd

/-- The part's counted dynamic energy. -/
def Chip.dynAll (s : Chip) : Nat := (List.range 72).foldl (fun e b => e + s.benchDyn b) s.hbmDyn

/-- The leakage that the part's benches have counted. -/
def Chip.leakAll (s : Chip) : Nat := (List.range 72).foldl (fun e b => e + s.benchLeak b) 0

/-- Accesses that the units of a bench repeat within their operations count on it (log 97). -/
def Chip.repeats (s : Chip) (b : Nat) (r : Repeats) : Chip :=
  s.onCore ((benchCores b).headD 0) fun c => ((c.count mRead r.reads).count mWrite r.writes).count mTile r.regs

/-- The events that a bench has counted so far are folded into its dynamic energy, at the point and the KD in force. -/
def Chip.foldBench (s : Chip) (b : Nat) : Chip :=
  (benchCores b).foldl (fun s p => s.onCore p fun c => { c with ev := [] }) (s.setBench b { s.bench b with dyn := s.benchDyn b })

/-- Every event counted so far is folded, before KD changes. -/
def Chip.foldAll (s : Chip) : Chip :=
  let s := (List.range 72).foldl Chip.foldBench s
  { s with en := { s.en with hbm := s.hbmDyn, lines := 0 } }

/-! ### The pool (R501) -/

def Chip.pool (s : Chip) : Int := signedOf 64 (s.reg rEN_POOL)
def Chip.setPool (s : Chip) (v : Int) : Chip := s.setReg rEN_POOL (wrapInt 64 v)
def Chip.envelope (s : Chip) : Nat := field (s.reg rEN_ENV) 0 11
/-- CAP = E × 1 ms. -/
def Chip.poolCap (s : Chip) : Int := ((s.envelope * 1000 : Nat) : Int)

def Chip.setQueue (s : Chip) (q : List GrantReq) : Chip :=
  { s with en := { s.en with queue := q } }.setField rEN_STAT 7 15 (min q.length 16384)

/-- The envelope changes: CAP changes on the same tick and the pool is clamped. -/
def Chip.setEnvelope (s : Chip) (w : Nat) : Chip :=
  let s := s.setReg rEN_ENV (w % 2 ^ 11)
  s.setPool (min s.pool s.poolCap)

/-- An accepted ENV_SET (R500): at once with no job RUNNING, else at the boundary that ends the running step.
The second result is the step number reported. -/
def Chip.envAccept (s : Chip) (w : Nat) : Chip × Nat :=
  if s.job.st = .running then
    let e := s.job.step + 1
    ((s.setReg rEN_ENV (s.envelope + 2 ^ 11 + w % 2 ^ 11 * 2 ^ 12)).setReg rEN_ENV_STEP (e % 2 ^ 48), e)
  else (s.setEnvelope w, s.job.step)

/-- A pending envelope comes into force at its boundary. -/
def Chip.envBoundary (s : Chip) : Chip :=
  let v := s.reg rEN_ENV
  if bitOf v 11 then s.setEnvelope (field v 12 11) else s

/-! ### Requests (R502, R503) -/

/-- min(charge, CAP) ≤ P. -/
def Chip.grantable (s : Chip) (g : GrantReq) : Bool :=
  let ch : Int := chargeOf g.nj (field (s.reg (rEN_B_PT (benchOf g.p))) 0 4) (field (s.reg rEN_CAL) 0 16)
  bitOf (s.reg rEN_STAT) 0 && decide (min ch s.poolCap ≤ s.pool)

/-- GRANT_REQUEST_MSG: the oldest request of a core arrives and is queued. -/
def grantRequestMsgCmd (s : Chip) (p h : Nat) : Chip :=
  match s.en.sent.find? fun g => decide (g.p = p) && decide (g.handle = h) with
  | none => s
  | some g =>
    let wait := !s.en.queue.isEmpty || !s.grantable g
    let s := { s with en := { s.en with sent := s.en.sent.erase g } }
    let s := s.setQueue (s.en.queue ++ [{ g with at_ := s.now, deferred := wait }])
    if wait then s.bump rEN_DEFER_CNT 1 else s

def Core.setGrant (c : Core) (h : Nat) (f : Grant → Grant) : Core :=
  { c with grants := c.grants.map fun g => if g.handle = h then f g else g }

/-- GRANT_ISSUE: the head request is granted and charged, and the handle is held. -/
def grantIssueCmd (s : Chip) : Chip :=
  match s.en.queue with
  | [] => s
  | g :: rest =>
    if !s.grantable g then s else
    let ch := chargeOf g.nj (field (s.reg (rEN_B_PT (benchOf g.p))) 0 4) (field (s.reg rEN_CAL) 0 16)
    let s := (s.setQueue rest).setPool (s.pool - (ch : Int))
    let s := s.bump rEN_GRANT_CNT 1
    let us := (s.now - g.at_) / 1000
    let s := s.setReg rEN_DEFER_MAX (max (s.reg rEN_DEFER_MAX) (min us 0xFFFFFFFF))
    s.onCore g.p fun c => c.setGrant g.handle fun x =>
      { x with held := true, charge := ch, state := if x.state = 1 then 2 else x.state }

/-- A request is withdrawn. -/
def Chip.withdraw (s : Chip) (p h : Nat) : Chip :=
  let keep := fun (g : GrantReq) => !(decide (g.p = p) && decide (g.handle = h))
  let s := { s with en := { s.en with sent := s.en.sent.filter keep } }
  s.setQueue (s.en.queue.filter keep)

/-- A handle ends unspent: its charge returns at once, or its request is withdrawn (R503; 08 R272). -/
def Chip.releaseGrant (s : Chip) (p h : Nat) : Chip :=
  match (s.core p).grants.find? fun g => g.handle == h with
  | none => s
  | some g =>
    let s := if g.held then s.setPool (s.pool + (g.charge : Int)) else s.withdraw p h
    s.onCore p fun c => { c with grants := c.grants.filter fun x => x.handle ≠ h }

/-- A handle ends with its block complete: the charge counts against the period's measured energy (R501). -/
def Chip.spendGrant (s : Chip) (p h : Nat) : Chip :=
  match (s.core p).grants.find? fun g => g.handle == h with
  | none => s
  | some g =>
    let s := if g.held then { s with en := { s.en with doneCharge := s.en.doneCharge + g.charge } } else s.withdraw p h
    s.onCore p fun c => { c with grants := c.grants.filter fun x => x.handle ≠ h }

/-- The handles of a core at its block reset (13 R459). -/
def Chip.settleGrants (s : Chip) (p : Nat) : Chip :=
  (s.core p).grants.foldl (fun s g => if g.state = 3 then s.spendGrant p g.handle else s.releaseGrant p g.handle) s

/-! ### Accounting (R498, R501, R499, R505) -/

/-- ACCOUNTING_PERIOD: `pkg` is the measured package energy of the period in µJ, `benches` the accesses that the units
of each bench repeated in it, which the benches count whether or not the accountant runs. -/
def accountingPeriodCmd (s : Chip) (pkg : Nat) (benches : List Repeats) : Chip :=
  let s := (List.range 72).foldl (fun s b => s.repeats b (benches.getD b {})) s
  if !bitOf (s.reg rEN_STAT) 0 then s else
  let s := s.bump rEN_PKG_E pkg
  let u : Int := (pkg : Int) - (s.en.doneCharge : Int)
  let s := s.setPool (min s.poolCap (s.pool + ((s.envelope * 10 : Nat) : Int) - u))
  { s with en := { s.en with doneCharge := 0 } }

/-- The KD that a calibration sets before its clamp: KD × (0.75 + 0.25 × measured ÷ counted), both in `energyUnit`ths of
1 µJ. The rounding of an inexact result, and the result with nothing counted, are free (log 54). -/
def calResult (kd : Nat) (measured : Int) (counted n : Nat) : Nat :=
  let num := ((kd : Int) * (3 * (counted : Int) + measured)).toNat
  let den := 4 * counted
  if counted = 0 then Config.free n 0 % 2 ^ 16 else num / den + (if num % den = 0 then 0 else Config.free n 1 % 2)

/-- The package energy of an interval without its leakage and fixed terms (R499): `measured` of the package and `counted`
for the fixed powers, in µJ, and the leakage of the benches. -/
def Chip.calNet (s : Chip) (measured counted : Nat) : Int :=
  ((measured : Int) - (counted : Int)) * (energyUnit : Int) - ((s.leakAll - s.en.leakMark : Nat) : Int)

/-- CALIBRATION: `measured` is the measured package energy of the interval and `counted` what it counted at fixed power, for
links, ports and chip-level islands; the benches and the HBM have counted the rest (R497, R499). -/
def calibrationCmd (s : Chip) (measured counted n : Nat) : Chip :=
  let all := s.dynAll
  let v := calResult s.kd (s.calNet measured counted) (all - s.en.calMark) n
  let hi := decide (v ≥ 0x5000)
  let lo := decide (v ≤ 0x3000)
  let leak := s.leakAll
  let s := s.foldAll
  let s := { s with en := { s.en with calMark := all, leakMark := leak } }.setReg rEN_CAL (if hi then 0x5000 else if lo then 0x3000 else v)
  if hi || lo then (s.setField rEN_STAT 1 1 1).log .calClamp else s

/-- EXCEED_CHECK: `mw` is the mean package power of the last 100 ms in mW. -/
def exceedCheckCmd (s : Chip) (mw : Nat) : Chip :=
  let s := s.setReg rEN_PKG_P (min (mw / 1000) 0xFFFF)
  if mw > s.envelope * 1020 then ((s.setField rEN_STAT 2 1 1).countTo rEN_EXCEED_CNT 0 32).log .exceed else s

/-- ACCOUNTANT_RUNNING (R506). -/
def accountantRunningCmd (s : Chip) : Chip :=
  if bitOf (s.reg rEN_STAT) 0 then s else (s.setField rEN_STAT 0 1 1).setPool 0

/-! ### Points (R495, R496, R507) -/

/-- Does some core of the bench hold a dispatched block? -/
def Chip.benchBusy (s : Chip) (b : Nat) : Bool := (benchCores b).any fun p => !(s.core p).blocks.isEmpty

/-- The bench runs at a point from now on; its energy so far is counted at the old one. -/
def Chip.setPoint (s : Chip) (b pt : Nat) : Chip :=
  let x := s.bench b
  let cyc := x.base + (s.now - x.baseTick) * (9 + s.pointOf b) / 10
  let leak := s.benchLeak b
  let s := s.foldBench b
  (s.setBench b { s.bench b with base := cyc, baseTick := s.now, leak := leak }).setField (rEN_B_PT b) 0 4 pt

/-- POINT_CHANGE: the bench takes the point of the plan; it waits for a dispatched block. -/
def pointChangeCmd (s : Chip) (b : Nat) : Chip :=
  if b ≥ 72 then s else
  let v := s.reg (rEN_B_PT b)
  if field v 4 4 = field v 0 4 ∨ field v 4 4 > 12 then s
  else if s.benchBusy b then s.setField (rEN_B_PT b) 8 1 1
  else (s.setPoint b (field v 4 4)).setField (rEN_B_PT b) 8 1 0

/-- Does the bench hold a core of a RUNNING job? -/
def Chip.benchInJob (s : Chip) (b : Nat) : Bool :=
  decide (s.job.st = .running) && (benchCores b).any fun p => match s.logOf p with
    | some (x, y) => decide (x < field (listLe s.job.image 16 1) 0 8) && decide (y < field (listLe s.job.image 17 1) 0 8)
    | none => false

/-- BENCH_PARK: no block of the bench is in flight (R495). -/
def benchParkCmd (s : Chip) (b : Nat) : Chip :=
  if b ≥ 72 ∨ s.benchInJob b ∨ s.benchBusy b then s
  else ((s.setPoint b 0).setField (rEN_B_PT b) 4 4 0).setField (rEN_B_PT b) 10 1 1

/-- What a plan predicts from (R507): bench dynamic energy at the nominal point and uncore energy in µJ, cycles of the
busiest bench, fixed power in W/100. -/
structure PlanPred where
  eb : Rat
  eu : Rat
  cyc : Nat
  fixed : Nat

/-- The benches of the running job. -/
def Chip.jobBenches (s : Chip) : List Nat := (List.range 72).filter s.benchInJob

/-- What the step just ended predicts for the next: the bench energy counted in it less leakage, divided by the s of its
point, and the HBM energy counted in it with the energy of links and ports that the accountant measured. -/
def Chip.stepPred (s : Chip) (m : PlanMeas) : PlanPred :=
  let d := s.jobBenches.foldl (fun e b => e + (s.benchDyn b - s.en.stepMark.getD b 0)) 0
  { eb := (d : Rat) / (energyUnit : Rat) / pointS s.job.pt
    eu := ((s.hbmDyn - s.en.hbmMark : Nat) : Rat) / (energyUnit : Rat) + (m.eu : Rat), cyc := m.cyc, fixed := m.fixed }

/-- A step boundary: the energy of the next step counts from here. -/
def Chip.markStep (s : Chip) : Chip :=
  { s with en := { s.en with stepMark := (List.range 72).map s.benchDyn, hbmMark := s.hbmDyn } }

/-- Predicted package power at a point, in W/100, as a rational (R507). -/
def predicted100 (s : Chip) (m : PlanPred) (k : Nat) : Rat :=
  let dyn : Rat := m.eb * pointS k * ((s.kd : Rat) / 16384) + m.eu
  let nj := s.jobBenches.length
  dyn * (((9 + k) * 10000 : Nat) : Rat) / ((m.cyc : Nat) : Rat) + ((nj * pointLeak k + (72 - nj) * pointLeak 0 + m.fixed : Nat) : Rat)

/-- The part's choice for the next step: the highest point within the envelope, or 0; free when nothing was
counted. -/
def planPoint (s : Chip) (m : PlanPred) (n : Nat) : Nat :=
  if m.cyc = 0 then Config.free n 0 % 13 else
  (List.range 13).foldl (fun b k => if predicted100 s m k ≤ ((s.envelope * 100 : Nat) : Rat) then k else b) 0

/-- The plan of the step to come: every bench of the job takes the point. -/
def Chip.setPlan (s : Chip) (pt : Nat) : Chip :=
  let s := s.setField rEN_STAT 3 4 pt
  (List.range 72).foldl (fun s b => if s.benchInJob b then
    (s.setField (rEN_B_PT b) 4 4 pt).setField (rEN_B_PT b) 10 1 0 else s) s

end Sys2Proof.Machine
end

