-- ==== Sys2Proof/Machine/Mailbox.lean ====
section
/-!
DEFINITION. Mailboxes (12 R408-R416): doorbell banks, masks, pending registers, notices, and the roles of
the Stewards.
-/
namespace Sys2Proof.Machine

/-- The Steward that MBX_ROLE names active. -/
def Chip.activeB (s : Chip) : Bool := bitOf (s.reg rMBX_ROLE) 0
def Chip.stbyOk (s : Chip) : Bool := bitOf (s.reg rMBX_ROLE) 1

/-- Is the agent the active Steward, the standby one, a Steward? -/
def Chip.isActive (s : Chip) (a : Agent) : Bool :=
  match a with | .stewardA => !s.activeB | .stewardB => s.activeB | _ => false
def Chip.isStandby (s : Chip) (a : Agent) : Bool :=
  match a with | .stewardA => s.activeB | .stewardB => !s.activeB | _ => false
def isSteward (a : Agent) : Bool := a == .stewardA || a == .stewardB

/-- Side 0 or 1 of a mailbox, for the agent (R411): `cl` is the client mailbox a client acts through. -/
def Chip.mbxSide (s : Chip) (m : Mbx) (a : Agent) (cl : Nat) : Option Bool :=
  match m with
  | .core p => match a with
    | .seqU q => if p = q then some false else none
    | .seqM q => if p = q then some false else none
    | a => if s.isActive a then some true else none
  | .chip 0 => if s.isActive a then some false else if a == .security then some true else none
  | .chip 1 => if s.isActive a then some false else if a == .accountant then some true else none
  | .chip 2 => if a == .stewardA then some false else if a == .stewardB then some true else none
  | .chip n => if 8 ≤ n ∧ n < 16 then
      (if a == .client ∧ cl = n - 8 then some false else if s.isActive a then some true else none) else none

/-- A register of a mailbox: 0 MBX_DB, 1 MBX_MASK, 4 MBX_DB_R, 5 MBX_MASK_R (in words). -/
def mbxAddr (m : Mbx) (w : Nat) : Nat :=
  match m with
  | .core _ => 0x80000 + 4 * w
  | .chip n => 0x20000500000 + 0x1000 * (n % 16) + 4 * w

def Chip.mbxRd (s : Chip) (m : Mbx) (w : Nat) : Nat :=
  match m with
  | .core p => (s.core p).reg (mbxAddr m w)
  | .chip _ => s.reg (mbxAddr m w)

def Chip.mbxWr (s : Chip) (m : Mbx) (w v : Nat) : Chip :=
  match m with
  | .core p => s.onCore p fun c => c.setReg (mbxAddr m w) v
  | .chip _ => s.setReg (mbxAddr m w) v

def andNot32 (a b : Nat) : Nat := a &&& (0xFFFFFFFF - b % 2 ^ 32)

/-- PEND = DB AND NOT MASK, of the forward (`ret = false`) or return bank (R412). -/
def Chip.mbxPend (s : Chip) (m : Mbx) (ret : Bool) : Nat :=
  andNot32 (s.mbxRd m (if ret then 4 else 0)) (s.mbxRd m (if ret then 5 else 1))

/-- Does client mailbox `c` have the management endpoint path? -/
def Chip.clEp (s : Chip) (c : Nat) : Bool := bitOf (s.reg (rMBX_CL_CFG c)) 0

/-- After a change of the return bank: MSI-X vector c on a new pending bit (R414). -/
def Chip.notify (s' : Chip) (s : Chip) (m : Mbx) : Chip :=
  match m with
  | .chip n =>
    if 8 ≤ n ∧ s'.clEp (n - 8) ∧ andNot32 (s'.mbxPend m true) (s.mbxPend m true) ≠ 0 then s'.emit (.msix (n - 8)) else s'
  | .core _ => s'

/-- Set and clear bits of a doorbell register in one cycle: a set wins (R413). -/
def Chip.doorbell (s : Chip) (m : Mbx) (ret : Bool) (set clr : Nat) : Chip :=
  let w := if ret then 4 else 0
  (s.mbxWr m w (andNot32 (s.mbxRd m w) clr ||| set % 2 ^ 32)).notify s m

/-- Bits 16-31 of a core mailbox belong to the monitor (R446). -/
def userBits (m : Mbx) (a : Agent) (v : Nat) : Nat :=
  match m, a with
  | .core _, .seqU _ => v % 2 ^ 16
  | _, _ => v % 2 ^ 32

/-- A write of MBX_DB (`ret = false`) or MBX_DB_R by one side, with what the other side writes in the same cycle
(R412, R413, R415). -/
def mbxDbCmd (s : Chip) (m : Mbx) (ret : Bool) (a : Agent) (cl v other : Nat) : Chip :=
  match s.mbxSide m a cl with
  | none => s
  | some side =>
    let v := userBits m a v
    if side == ret then s.doorbell m ret v other else s.doorbell m ret other v

/-- A write of MBX_MASK (side 1) or MBX_MASK_R (side 0). -/
def mbxMaskCmd (s : Chip) (m : Mbx) (ret : Bool) (a : Agent) (cl v : Nat) : Chip :=
  match s.mbxSide m a cl with
  | none => s
  | some side =>
    if side == ret then s else
    let w := if ret then 5 else 1
    let v := match m, a with
      | .core _, .seqU _ => s.mbxRd m w / 2 ^ 16 * 2 ^ 16 + v % 2 ^ 16
      | _, _ => v % 2 ^ 32
    (s.mbxWr m w v).notify s m

/-- MBX_ROLE (R409, R416): ACTIVE by the active Steward or the always-on island, STBY_OK by the standby Steward. -/
def mbxRoleCmd (s : Chip) (a : Agent) (v : Nat) : Chip :=
  let mayA := s.isActive a || a == .alwaysOn
  let mayS := s.isStandby a
  let s := if mayS then s.setField rMBX_ROLE 1 1 (field v 1 1) else s
  if mayA then s.setField rMBX_ROLE 0 1 (field v 0 1) else s

/-- MBXIN of a core: an unmasked bit of 16-31 of its return bank (R414; 08 R261). -/
def Chip.mbxin (s : Chip) (p : Nat) : Bool := decide (s.mbxPend (.core p) true / 2 ^ 16 ≠ 0)

end Sys2Proof.Machine
end

