-- ==== Sys2Proof/Machine/Stash.lean ====
section
/-!
DEFINITION. The stash: ring, spill area, drop, spill, hold, prefetch, checkpoint copies, registers
(10 R358-R368; 05 R180).
-/
namespace Sys2Proof.Machine

/-! Registers of core `p`'s set (R367). -/
def Chip.sth (s : Chip) (p : Nat) (r : Nat → Nat → Nat) : Nat := s.reg (r (dieOf p) (stashOf p))
def Chip.setSth (s : Chip) (p : Nat) (r : Nat → Nat → Nat) (v : Nat) : Chip := s.setReg (r (dieOf p) (stashOf p)) v
def Chip.sthBump (s : Chip) (p : Nat) (r : Nat → Nat → Nat) : Chip := s.bump (r (dieOf p) (stashOf p)) 1
def sthRing (s : Chip) (p : Nat) : Nat := field (s.sth p rSTH_SIZE) 0 20
def sthSpillMax (s : Chip) (p : Nat) : Nat := field (s.sth p rSTH_SIZE) 32 22
def sthHwm (s : Chip) (p : Nat) : Nat := field (s.sth p rSTH_WM) 0 20
def sthLwm (s : Chip) (p : Nat) : Nat := field (s.sth p rSTH_WM) 20 20
def sthEn (s : Chip) (p : Nat) : Bool := bitOf (s.sth p rSTH_CFG) 0
def sthSq (s : Chip) (p : Nat) : Nat := field (s.sth p rSTH_CFG) 1 4
def sthWin (s : Chip) (p : Nat) : Nat := field (s.sth p rSTH_CFG) 5 16

/-- The first error is recorded, a further one sets OVF. -/
def Chip.sthErr (s : Chip) (p entry cause : Nat) : Chip :=
  let v := s.sth p rSTH_ERR
  s.setSth p rSTH_ERR (if bitOf v 63 then Sys2Proof.setField v 62 1 1 else entry + cause * 2 ^ 23 + 2 ^ 63)

/-- Ring frames and spill frames in use. -/
def Stash.occ (x : Stash) : Nat := x.entries.foldl (fun n e => n + e.frames.length) 0
def Stash.spilled (x : Stash) : Nat := x.entries.foldl (fun n e => n + e.spill.length) 0
def Stash.entry? (x : Stash) (id : Nat) : Option StashEntry := x.entries.find? fun e => e.id == id
def Stash.put (x : Stash) (e : StashEntry) : Stash :=
  { x with entries := x.entries.map fun y => if y.id = e.id then e else y }
def Stash.drop (x : Stash) (id : Nat) : Stash := { x with entries := x.entries.filter fun e => e.id ≠ id }

/-- `n` free frames of `size`, in order from `head`, cyclically. -/
def freeFrames (used : List Nat) (size head : Nat) : Nat → Nat → List Nat
  | _, 0 => []
  | k, m + 1 => match k with
    | 0 => []
    | n => let f := (head + (size - (m + 1))) % (max 1 size)
      if used.contains f then freeFrames used size head n m else f :: freeFrames used size head (n - 1) m

/-- Allocate ring frames; none when too few are free. -/
def Stash.alloc (x : Stash) (size n : Nat) : Option (List Nat × Stash) :=
  if x.occ + n > size then none
  else
    let fs := freeFrames (x.entries.flatMap (·.frames)) size x.next n size
    some (fs, { x with next := (fs.getLastD x.next + 1) % (max 1 size) })

/-- Payload bytes of an entry in its frames. -/
def framesRd (s : Chip) (base : Nat) (frames : List Nat) (len : Nat) : List Byte × Bool :=
  let ps := frames.map fun f => s.memRd (base + 4096 * f) 4096
  ((ps.flatMap (·.1)).take len, ps.any (·.2))

/-- The first frame that holds lost data. -/
def lostFrame (s : Chip) (base : Nat) (frames : List Nat) : Option Nat :=
  (frames.find? fun f => (s.memRd (base + 4096 * f) 4096).2).map fun f => base + 4096 * f

/-- A read of frames that met lost data raises a memory-poison event (R346). -/
def framesLost (s : Chip) (base : Nat) (frames : List Nat) : Chip :=
  match lostFrame s base frames with | some a => s.poisonEvent a | none => s

def framesWr (s : Chip) (base : Nat) : List Nat → List Byte → Chip
  | [], _ => s
  | f :: fs, bs => framesWr ((s.hbmUse (base + 4096 * f) (bs.take 4096).length).memWrTry (base + 4096 * f) (bs.take 4096)) base fs (bs.drop 4096)

/-- The HBM lines of a read of frames (15 R497). -/
def framesUse (s : Chip) (base : Nat) (frames : List Nat) : Chip := frames.foldl (fun s f => s.hbmUse (base + 4096 * f) 4096) s

/-- An entry whose payload was read in part from lost lines: its item carries cause R. -/
def StashEntry.marked (e : StashEntry) (lost : Bool) : StashEntry :=
  if lost then { e with item := { e.item with poison := e.item.poison ||| poisonR } } else e

def ringBase (s : Chip) (p : Nat) : Nat := s.sth p rSTH_RING / 4096 * 4096
def spillBase (s : Chip) (p : Nat) : Nat := s.sth p rSTH_SPILL / 4096 * 4096

/-! ### Reclaim (R361) -/

/-- The candidate with the largest USE, on a tie the larger ENTRY. -/
def bestUse : List StashEntry → Option StashEntry
  | [] => none
  | e :: es => some (es.foldl (fun b x => if b.use < x.use ∨ (b.use = x.use ∧ b.id < x.id) then x else b) e)

/-- Drop candidates until the occupancy is at or below `lwm`: the number dropped. -/
def dropLoop (lwm : Nat) : Nat → Stash → Nat → Stash × Nat
  | 0, x, k => (x, k)
  | n + 1, x, k =>
    if x.occ ≤ lwm then (x, k) else
    match bestUse (x.entries.filter fun e => e.recomp && decide (e.loc = .ring) && !e.pinned) with
    | none => (x, k)
    | some e => dropLoop lwm n (x.put { e with loc := .dropped, frames := [] }) (k + 1)

/-- Queue spills while the queue of 32 has room, candidates remain and the spill area has room. -/
def spillLoop (lim spillMax : Nat) : Nat → Stash → Stash
  | 0, x => x
  | n + 1, x =>
    if (x.entries.filter fun e => decide (e.loc = .spilling)).length ≥ 32 then x else
    let cands := x.entries.filter fun e => decide (e.loc = .ring) && decide (e.use > lim) &&
      decide (x.spilled + e.frames.length ≤ spillMax)
    match bestUse cands with
    | none => x
    | some e =>
      let fs := freeFrames (x.entries.flatMap (·.spill)) spillMax 0 e.frames.length spillMax
      spillLoop lim spillMax n (x.put { e with loc := .spilling, spill := fs })

/-- Reclaim runs from HWM down to LWM. -/
def Chip.reclaim (s : Chip) (p : Nat) : Chip :=
  let x := (s.core p).stash
  let on := (x.reclaim || decide (x.occ ≥ sthHwm s p)) && decide (x.occ > sthLwm s p) && decide (sthHwm s p ≠ 0)
  if !on then s.onCore p fun c => { c with stash := { x with reclaim := false } } else
  let (x, k) := dropLoop (sthLwm s p) (x.entries.length) x 0
  let x := if x.occ ≤ sthLwm s p then { x with reclaim := false }
    else spillLoop (x.cursor + sthWin s p) (sthSpillMax s p) 32 { x with reclaim := true }
  (s.onCore p fun c => { c with stash := x }).bump (rSTH_DROP_CNT (dieOf p) (stashOf p)) k

/-! ### STSH (R359, R362) -/

/-- The hold of an STSH ends; its length counts for the longest. -/
def Chip.endHold (s : Chip) (p : Nat) : Chip :=
  let x := (s.core p).stash
  if x.holding.isNone then s else
  let us := (s.now - x.holdSince) / 1000
  (s.onCore p fun c => { c with stash := { x with holding := none, holdRaised := false } }).setSth p rSTH_HOLD_LONG
    (max (s.sth p rSTH_HOLD_LONG) us)

/-! ### USTH (R360) -/

/-- An item pushed with its ENTRY and EVALID. -/
def stashItem (e : StashEntry) (q slot : Nat) (payload : List Byte) (lost : Bool) : OutItem :=
  { e.item with q := q, slot := slot, tag := e.tag, entry := e.id + 2 ^ 23, payload := payload
                poison := e.item.poison ||| (if lost then poisonR else 0) }

/-- Is an item with EVALID and this ENTRY visible in a queue end (08 R291)? -/
def Core.entryPresent (c : Core) (q e : Nat) : Bool :=
  (List.range (c.present q)).any fun i => decide ((c.readItem q (c.slotOf q i)).1.entry = e + 2 ^ 23)

/-! ### Transfers -/

/-- PREFETCH_START: the spilled entry with the smallest USE in the window, if it fits below HWM (R364). -/
def prefetchStartCmd (s : Chip) (p : Nat) : Chip :=
  let x := (s.core p).stash
  let cands := x.entries.filter fun e => decide (e.loc = .spilled) && decide (e.use ≤ x.cursor + sthWin s p)
  match cands with
  | [] => s
  | e0 :: es =>
    let e := es.foldl (fun b y => if y.use < b.use ∨ (y.use = b.use ∧ y.id < b.id) then y else b) e0
    if x.occ + e.spill.length > sthHwm s p then s else
    match x.alloc (sthRing s p) e.spill.length with
    | none => s
    | some (fs, x') => s.onCore p fun c => { c with stash := x'.put { e with loc := .prefetching, frames := fs } }

/-- PREFETCH_DONE: the entry is in the ring; its spill frames are released. -/
def prefetchDoneCmd (s : Chip) (p : Nat) : Chip :=
  let x := (s.core p).stash
  match x.entries.find? fun e => decide (e.loc = .prefetching) with
  | none => s
  | some e =>
    let (bs, lost) := framesRd s (spillBase s p) e.spill e.len
    let s := framesWr (framesLost s (spillBase s p) e.spill) (ringBase s p) e.frames bs
    (s.onCore p fun c => { c with stash := x.put { e.marked lost with loc := .ring, spill := [] } }).sthBump p rSTH_PF_CNT

/-- STASH_HOLD_TIMEOUT: one hold lasts longer than STH_HOLDMAX; one event is raised for it (R363). -/
def stashHoldTimeoutCmd (s : Chip) (p : Nat) : Chip :=
  let x := (s.core p).stash
  let over_ := decide (s.now - x.holdSince > field (s.sth p rSTH_HOLDMAX) 0 20 * 1000)
  if x.holding.isSome && !x.holdRaised && over_ then
    s.onCore p fun c => { c.raise evStashHold 0 with stash := { x with holdRaised := true } }
  else s

/-- CHECKPOINT_ENTRY_ARRIVAL: a copy of the checkpoint entry is pushed into its UQ (R365). -/
def checkpointArrivalCmd (s : Chip) (p : Nat) : Chip :=
  let c := s.core p
  let x := c.stash
  match x.bringing with
  | none => s
  | some id => match x.entry? id with
    | none => s.setCore p { c with stash := { x with bringing := none } }
    | some e =>
      if c.room e.uq = 0 ∨ e.loc = .dropped then s else
      let (base, fs) := if e.loc = .spilled ∨ e.loc = .prefetching then (spillBase s p, e.spill) else (ringBase s p, e.frames)
      let (bs, lost) := framesRd s base fs e.len
      let (c, slot) := c.reserve e.uq c.nseq
      (framesUse (framesLost s base fs) base fs).setCore p { c.commitItem (stashItem e e.uq slot bs lost) with stash := { x with bringing := none } }

/-- The stash part of a step boundary (R366). -/
def Chip.stashBoundary (s : Chip) (p : Nat) : Chip :=
  let s := s.endHold p
  let x := (s.core p).stash
  let s' := s.onCore p fun c => { c with stash := { x with
    entries := [], named := [], uqs := [], cursor := 0, bringing := none, reclaim := false, holding := none, holdRaised := false } }
  match x.entries with
  | [] => s'
  | e :: _ => (s'.sthErr p e.id 4).onCore p fun c => c.raise evStashImbalance 0

/-! ### Configuration (R367) -/

/-- Do `n` frames from `base` lie in the stash region of HBM, or of CXL memory? -/
def Chip.inStashRegion (s : Chip) (cxl : Bool) (base n : Nat) : Bool :=
  decide (n = 0) || (decide (base ≥ cxlBase) == cxl && match s.regionOf base, s.regionOf (base + 4096 * n - 1) with
    | some (i, 4, _, _), some (j, 4, _, _) => decide (i = j)
    | _, _ => false)

/-- STH_CFG_WRITE: a configuration register of core `p`'s set (offset `o` in the set), while its job does not
run. -/
def sthWriteCmd (s : Chip) (p o v : Nat) (running : Bool) : Chip :=
  if running ∨ p ≥ nCores then s else
  let bad := s.sthErr p 0 5
  let wmOk := fun hwm lwm ring => decide (lwm < hwm) && decide (hwm ≤ ring)
  if o = 0 then
    let b := field v 12 36 * 4096
    if s.inStashRegion false b (sthRing s p) then s.setSth p rSTH_RING b else bad
  else if o = 8 then
    let ring := field v 0 20
    let sp := field v 32 22
    if decide (1 ≤ ring) && decide (ring ≤ 786432) && s.inStashRegion false (ringBase s p) ring && s.inStashRegion true (spillBase s p) sp &&
        (decide (s.sth p rSTH_WM = 0) || wmOk (sthHwm s p) (sthLwm s p) ring) then
      s.setSth p rSTH_SIZE (ring + sp * 2 ^ 32)
    else bad
  else if o = 0x10 then
    let b := field v 12 36 * 4096
    if s.inStashRegion true b (sthSpillMax s p) then s.setSth p rSTH_SPILL b else bad
  else if o = 0x18 then
    if wmOk (field v 0 20) (field v 20 20) (sthRing s p) then s.setSth p rSTH_WM (field v 0 40) else bad
  else if o = 0x20 then s.setSth p rSTH_CFG (field v 0 21)
  else if o = 0x24 then
    if field v 0 20 = 0 ∨ field v 0 20 > 1000000 then s else s.setSth p rSTH_HOLDMAX (field v 0 20)
  else s

/-- STH_STAT, computed (R367). -/
def sthStat (s : Chip) (p : Nat) : Nat :=
  let x := (s.core p).stash
  x.occ + x.spilled * 2 ^ 20 + x.entries.length * 2 ^ 42 + b2n x.holding.isSome * 2 ^ 59 + b2n x.reclaim * 2 ^ 60

end Sys2Proof.Machine
end

