-- ==== Sys2Proof/Machine/Ready.lean ====
section
/-!
DEFINITION. What an operation names, and when it may start: address words, the shape of a transfer, start conditions,
and the two data movers (08 R20, R280, R284, R288-R291, R297; 09 R316; 10 R359, R360; 05 R168; 06 R192).
-/
namespace Sys2Proof.Machine

/-! ### Address words (R288) -/

abbrev monitorStart : Nat := 0x3F0000

/-- The core whose store an address word of kind 11b names, and how much of it core `p` reaches: of its own all, of
another the part below its monitor region. -/
def Chip.wordCore (s : Chip) (p x y : Nat) : Option (Nat × Nat) :=
  (s.physOf x y).map fun q => (q, if q = p then 2 ^ 22 else monitorStart)

/-- May core `p` read `n` bytes at an address word plus an offset? -/
def Chip.wordRdOk (s : Chip) (p w : Nat) (off : Int) (n : Nat) : Bool :=
  match addrSpace w with
  | .device a => decide (0 ≤ (a : Int) + off) && s.runOk (.mover p) false true ((a : Int) + off).toNat n
  | .own o => decide (0 ≤ (o : Int) + off) && decide (((o : Int) + off).toNat + n ≤ 2 ^ 22)
  | .queue _ => false
  | .core x y o => match s.wordCore p x y with
    | some (_, lim) => decide (0 ≤ (o : Int) + off) && decide (((o : Int) + off).toNat + n ≤ lim)
    | none => false

/-- May `n` bytes be written at an address word plus an offset? -/
def Chip.wordWrOk (s : Chip) (p w : Nat) (off : Int) (n : Nat) (confirmed : Bool) : Bool :=
  match addrSpace w with
  | .device a =>
    let i := (a : Int) + off
    decide (0 ≤ i) && s.runOk (.mover p) true confirmed i.toNat n && !s.wrRefused i.toNat n
  | _ => s.wordRdOk p w off n

/-- The bytes at an address word in device memory or in the core's own store; the flag is lost data. -/
def Chip.wordBytes (s : Chip) (p w : Nat) (off : Int) (n : Nat) : List Byte × Bool :=
  match addrSpace w with
  | .device a => s.memRd ((a : Int) + off).toNat n
  | .own o => (Bytes.rdN (s.core p).store ((o : Int) + off).toNat n, (s.core p).upsetIn (0x400000 + ((o : Int) + off).toNat) n)
  | _ => (List.replicate n 0, false)

/-- Does a write at an address word reach a confirmed-only region? -/
def Chip.wordConfirmed (s : Chip) (w : Nat) (off : Int) (n : Nat) : Bool :=
  match addrSpace w with
  | .device a =>
    let a := ((a : Int) + off).toNat
    [a, a + n - 1].any fun x => match s.regionOf x with | some (_, 1, _, _) => true | _ => false
  | _ => false

/-- Split a run of bytes into the 64-byte lines it touches: line offset, bytes. -/
def lineParts (o : Nat) (bs : List Byte) : List (Nat × List Byte) :=
  (linesOf o bs.length).map fun l =>
    let lo := max o (64 * l)
    let hi := min (o + bs.length) (64 * l + 64)
    (lo, (bs.drop (lo - o)).take (hi - lo))

/-! ### The shape of a transfer (R289, R290) -/

/-- Byte offsets of the runs of a transfer, level 1 innermost (R289). -/
def movRuns (d : List Byte) : List Int :=
  (List.range (dCnt2 d)).flatMap fun (j : Nat) => (List.range (dCnt1 d)).map fun (i : Nat) => (i : Int) * dStr1 d + (j : Int) * dStr2 d

def movTotal (d : List Byte) : Nat := dLen0 d * dCnt1 d * dCnt2 d

def movSrcQ (d : List Byte) : Bool := isQueueSpace (dSrc d)
def movDstQ (d : List Byte) : Bool := isQueueSpace (dDst d)

/-- The width of a format whose blocks carry exponents or MX scales; none for a wide format. -/
def blockWidth (fb : Nat) : Option Nat := if fmtIsWide (fmtOf fb) then none else some (fmtWidth (fmtOf fb))

/-- The block width of the side to which the strides apply: the memory side; with memory on both sides the source. -/
def movStrW (d : List Byte) : Option Nat := blockWidth (if movSrcQ d then dMDFmt d else dSFmt d)

/-- A microscaling transfer with memory on both sides. It has one XADDR: the array there holds the source's exponents
or scales, and after the transfer the destination's; the destination is dense (DESIGN CHOICE, log 26). -/
def movMemMx (d : List Byte) : Bool := decide (dMode d ≠ 0) && !movSrcQ d && !movDstQ d

/-- Exponent bytes or scales of a run at offset `off` lie at XADDR + off div (4 w) (R290). -/
def expOff (w : Nat) (off : Int) : Int := off / (4 * w : Nat)

/-- Blocks of a transfer. -/
def movBlocks (d : List Byte) : Nat :=
  match movStrW d with | some w => movTotal d / (4 * w) | none => 0

/-- A range that an operation names: address word, offset, bytes. -/
structure Span where
  w : Nat
  off : Int
  n : Nat
deriving DecidableEq, Repr

/-- The ranges that an operation reads beside queue items, in the order of their data: of a MOV the codes, then the
exponents or scales; of an IGTH the inlay records. -/
def readSpans (d : List Byte) : List Span :=
  if dOp d = opIGTH then [{ w := dList d, off := 0, n := 80 * dTiles d }]
  else if dOp d ≠ opMOV ∨ movSrcQ d then []
  else
    (movRuns d).map (fun off => { w := dSrc d, off := off, n := dLen0 d }) ++
    (match blockWidth (dSFmt d) with
      | some w => if dMode d ≠ 0 ∨ movDstQ d then
          (movRuns d).map fun off => { w := dXAddr d, off := expOff w off, n := dLen0 d / (4 * w) } else []
      | none => [])

/-- The ranges that the codes of a MOV are written to. -/
def codeSpans (d : List Byte) : List Span :=
  if dOp d ≠ opMOV ∨ movDstQ d then []
  else if movMemMx d then [{ w := dDst d, off := 0, n := movBlocks d * 4 * fmtWidth (fmtOf (dMDFmt d)) }]
  else (movRuns d).map fun off => { w := dDst d, off := off, n := dLen0 d }

/-- The ranges that the exponents or scales of a MOV are written to. -/
def expSpans (d : List Byte) : List Span :=
  if dOp d ≠ opMOV ∨ movDstQ d then []
  else match blockWidth (dMDFmt d) with
    | none => []
    | some w =>
      if movMemMx d then [{ w := dXAddr d, off := 0, n := movBlocks d }]
      else if movSrcQ d then (movRuns d).map fun off => { w := dXAddr d, off := expOff w off, n := dLen0 d / (4 * w) }
      else []

/-- The lines that an operation reads from other cores' stores (R316): position, store offset, length, and the place
of the bytes in the data it gathers. -/
structure RemoteLine where
  x : Nat
  y : Nat
  o : Nat
  n : Nat
  at_ : Nat
deriving DecidableEq, Repr

def remoteLines : List Span → Nat → List RemoteLine
  | [], _ => []
  | r :: rs, g =>
    (match addrSpace r.w with
      | .core x y a =>
        let o := ((a : Int) + r.off).toNat
        (lineParts o (List.replicate r.n 0)).map fun q => { x := x, y := y, o := q.1, n := q.2.length, at_ := g + (q.1 - o) }
      | _ => []) ++ remoteLines rs (g + r.n)

def remotePlan (d : List Byte) : List RemoteLine := remoteLines (readSpans d) 0

/-- The data of the ranges that an operation reads: lines of other cores' stores have arrived in `buf`. -/
def gatherSpans (s : Chip) (p : Nat) (buf : Bytes) : List Span → Nat → List Byte × Bool
  | [], _ => ([], false)
  | r :: rs, g =>
    let (b, l) := match addrSpace r.w with
      | .core _ _ _ => (Bytes.rdN buf g r.n, false)
      | _ => s.wordBytes p r.w r.off r.n
    let (bs, ls) := gatherSpans s p buf rs (g + r.n)
    (b ++ bs, l || ls)

/-- The lines that an operation reads in its ranges of device memory and of its own store: they count, and a double-bit
error of the store is reported (15 R497; 08 R258). -/
def Chip.useSpans (s : Chip) (p : Nat) (rs : List Span) : Chip :=
  rs.foldl (fun s r => match addrSpace r.w with
    | .device a => s.hbmUse ((a : Int) + r.off).toNat r.n
    | .own o => s.onCore p fun c => c.unitRd ((o : Int) + r.off).toNat r.n
    | _ => s) s

/-- A device address at which an operation's ranges meet lost data, if any: a memory-poison event names it. -/
def Chip.lostSpan (s : Chip) (rs : List Span) : Option Nat :=
  rs.findSome? fun r => match addrSpace r.w with
    | .device a => let i := ((a : Int) + r.off).toNat; if (s.memRd i r.n).2 then some i else none
    | _ => none

/-- Does an operation descriptor name a core store range of this core's monitor region (R256)? `mine` says that a
logical position is this core's. -/
def opNamesMonitor (mine : Nat → Nat → Bool) (d : List Byte) : Bool :=
  (readSpans d ++ codeSpans d ++ expSpans d).any fun r => decide (r.n > 0) && (match addrSpace r.w with
    | .own o => decide ((o : Int) + r.off + r.n > (monitorStart : Int))
    | .core x y o => mine x y && decide ((o : Int) + r.off + r.n > (monitorStart : Int))
    | _ => false)

/-! ### Start conditions beside the tick (R20, R284) -/

/-- Does the operation ask for a capture? -/
def wantsCapture (d : List Byte) : Bool :=
  (dOp d == opCVT && (dCapO d || dCapI d)) || (dOp d == opPDRN && dCapO d) || dOp d == opKCAP

/-- Do the captures of an operation that reads `n` elements fit into KCORE's ring (06 R200)? -/
def Chip.capFits (s : Chip) (d : List Byte) (n : Nat) : Bool :=
  if !wantsCapture d then true
  else match s.physOf (dKX d) (dKY d) with
    | some q => (s.core q).kerfFits d n
    | none => true

/-- Does a MOV write into a confirmed-only region? -/
def Chip.movConf (s : Chip) (d : List Byte) : Bool := (codeSpans d ++ expSpans d).any fun r => s.wordConfirmed r.w r.off r.n

/-- The tag of what a MOV moves. -/
def movTag (c : Core) (d : List Byte) : Word := if movSrcQ d then (c.peek (field (dSrc d) 0 4)).1.tag else dTag d

/-- The conditions that SEND and RECV add (09 R312, R313): an operation that is refused waits for none of them. -/
def Chip.msgReady (s : Chip) (c : Core) (t : TOp) (send : Bool) : Bool :=
  let d := t.desc
  let (chip, x, y, chan) := (dPChip d, dPX d, dPY d, dPChan d)
  let q := (c.takePair send chip x y chan).2
  let o := (c.peek (dQA d)).1
  !c.earlierOnPair t && (!s.reachable chip x y || c.pairFull send chip x y chan || !send ||
    (q.tokens.contains q.count && (tagInv o.tag || decide (chip = s.id) || c.confirmed o.tag)))

/-- An earlier STSH has not started (10 R359). -/
def Core.earlierStash (c : Core) (t : TOp) : Bool :=
  c.ops.any fun u => decide (u.seq < t.seq) && decide (dOp u.desc = opSTSH) && u.waits

/-- Is an STSH refused, or has it frames (10 R359, R362)? -/
def Chip.stshReady (s : Chip) (p : Nat) (c : Core) (t : TOp) : Bool :=
  !c.earlierStash t && (!sthEn s p || (c.stash.entry? (dEntry t.desc)).isSome || decide (c.stash.entries.length ≥ 65536) ||
    (c.stash.alloc (sthRing s p) (ceilDiv (c.readChecked (dQA t.desc)).2.payload.length 4096)).isSome)

/-- Is a USTH refused, or is its entry where it can be taken (10 R360)? -/
def Chip.usthReady (s : Chip) (p : Nat) (c : Core) (t : TOp) : Bool :=
  let e := dEntry t.desc
  !sthEn s p ||
  (!(c.ops.any fun u => decide (u.seq < t.seq) && decide (dOp u.desc = opSTSH) && decide (dEntry u.desc = e)) &&
    (match c.stash.entry? e with
      | none => !c.stash.named.contains e
      | some en => decide (en.uq ≠ dQD t.desc) ||
        (decide (en.loc ≠ .prefetching) && (decide (en.loc ≠ .dropped) || c.entryPresent (dQD t.desc) e))))

/-- The start conditions of an operation, beside the tick of a timed start. -/
def Chip.opReady (s : Chip) (p : Nat) (t : TOp) : Bool :=
  let c := s.core p
  let d := t.desc
  let op := dOp d
  if op = opCVT ∨ op = opPDRN ∨ op = opLDT ∨ op = opRED ∨ op = opIGTH ∨ op = opKCAP then
    localReady c t (s.cycleNow p) (s.capFits d)
  else
    t.waits && c.queuesReady t.seq (opPops d) (opPushes d) &&
    (if op = opSEND then s.msgReady c t true
     else if op = opRECV then s.msgReady c t false
     else if op = opSTSH then s.stshReady p c t
     else if op = opUSTH then s.usthReady p c t
     else if op = opDACC then
       !s.protTouch (dHdr d) 64 && (tagInv (c.peek (dQA d)).1.tag || c.confirmed (c.peek (dQA d)).1.tag)
     else if op = opMOV then !s.movConf d || tagInv (movTag c d) || c.confirmed (movTag c d)
     else false)

/-! ### The data movers (R297) -/

/-- Does an operation occupy a mover? One that waits for its turn at a drawer, or for a stash frame, does not. -/
def TOp.onMover (t : TOp) : Bool :=
  isMoverOp t.desc && (match t.phase with | .started => true | .remote _ => true | .acks _ => true | _ => false)

/-- Does a data mover take the operation: one of the two is free, and no older operation is ready for it? -/
def Chip.moverTurn (s : Chip) (p : Nat) (t : TOp) : Bool :=
  !isMoverOp t.desc ||
  (decide (((s.core p).ops.filter TOp.onMover).length < 2) &&
    !((s.core p).ops.any fun u => decide (u.seq < t.seq) && isMoverOp u.desc && armMet u.arm (s.localTick p) && s.opReady p u))

/-- Does the operation start now? -/
def Chip.opStarts (s : Chip) (p : Nat) (t : TOp) : Bool :=
  armMet t.arm (s.localTick p) && s.opReady p t && s.moverTurn p t

end Sys2Proof.Machine
end

