-- ==== Sys2Proof/Machine/StashOps.lean ====
section
/-!
DEFINITION. STSH, USTH and the completion of a spill, after which a holding STSH may start (10 R359-R362).
-/
namespace Sys2Proof.Machine

/-- STSH starts: it allocates, or holds (R359, R362). -/
def stshCmd (s : Chip) (p id : Nat) : Chip :=
  let c := s.core p
  match c.op? id with
  | none => s
  | some t =>
    let d := t.desc
    let e := dEntry d
    let x := c.stash
    if dOp d ≠ opSTSH then s
    else if s.opStarts p t then
      let fail := fun cause => (s.setCore p ((c.late t.due (s.localTick p)).opAccessError t)).sthErr p e cause
      if !sthEn s p then fail 5
      else if (x.entry? e).isSome then fail 2
      else if x.entries.length ≥ 65536 then fail 1
      else
        let (c, o) := c.readChecked (dQA d)
        match x.alloc (sthRing s p) (ceilDiv o.payload.length 4096) with
        | none => s
        | some (fs, x') =>
          let ent : StashEntry := { id := e, recomp := dRecomp d, uq := dUQ d, use := dUse d, tag := o.tag,
                                    item := { o with payload := [] }, len := o.payload.length, frames := fs }
          let c := ((c.late t.due (s.localTick p)).pop (dQA d)).started t {}
          let s := (s.endHold p).setCore p { c with stash := { x' with
            entries := x'.entries ++ [ent], named := e :: x'.named, uqs := NatMap.wr x'.uqs e (dUQ d + 1)
            holding := none, holdRaised := false } }
          (framesWr s (ringBase s p) fs o.payload).reclaim p
    else if t.waits && armMet t.arm (s.localTick p) && c.queuesReady t.seq (opPops d) [] && !c.earlierStash t &&
        !s.stshReady p c t && x.holding.isNone then
      (s.onCore p fun c => { c with stash := { x with holding := some id, holdQ := sthSq s p, holdSince := s.now } }).sthBump p rSTH_HOLD_CNT
    else s

/-- USTH starts (R360). -/
def usthCmd (s : Chip) (p id : Nat) : Chip :=
  let c := s.core p
  match c.op? id with
  | none => s
  | some t =>
    let d := t.desc
    if dOp d ≠ opUSTH ∨ !s.opStarts p t then s
    else
      let e := dEntry d
      let x := c.stash
      let c := c.late t.due (s.localTick p)
      let fail := fun cause => (s.setCore p (c.opAccessError t)).sthErr p e cause
      if !sthEn s p then fail 5
      else match x.entry? e with
        | none => fail 3
        | some en =>
          if en.uq ≠ dQD d then fail 3
          else if en.loc = .dropped then s.setCore p { c.started t {} with stash := { x.drop e with cursor := en.use } }
          else
            let fromSpill := decide (en.loc = .spilled)
            let (base, fs) := if fromSpill then (spillBase s p, en.spill) else (ringBase s p, en.frames)
            let (bs, lost) := framesRd s base fs en.len
            let (c, slot) := c.reserve (dQD d) t.seq
            let c := c.started t { items := [stashItem en (dQD d) slot bs lost] }
            let s := s.setCore p { c with stash := { x.drop e with cursor := en.use } }
            let s := framesUse (framesLost s base fs) base fs
            (if fromSpill then s.sthBump p rSTH_PF_MISS_CNT else s).reclaim p

/-- SPILL_DONE: the oldest queued spill completes; a holding STSH may then allocate (R361, R362). -/
def spillDoneCmd (s : Chip) (p : Nat) : Chip :=
  let x := (s.core p).stash
  match x.entries.find? fun e => decide (e.loc = .spilling) with
  | none => s
  | some e =>
    if s.cxlFenced then s else
    let (bs, lost) := framesRd s (ringBase s p) e.frames e.len
    let s := framesWr (framesUse (framesLost s (ringBase s p) e.frames) (ringBase s p) e.frames) (spillBase s p) e.spill bs
    let s := (s.onCore p fun c => { c with stash := x.put { e.marked lost with loc := .spilled, frames := [] } }).sthBump p rSTH_SPILL_CNT
    let s := s.reclaim p
    match (s.core p).stash.holding with
    | some id => stshCmd s p id
    | none => s

end Sys2Proof.Machine
end

