-- ==== Sys2Proof/Machine/Mover.lean ====
section
/-!
DEFINITION. Core-level operations on the part: starts of CVT, PDRN, LDT, RED, KCAP and IGTH with their
captures, MOV with its microscaling modes, DACC and its application, and the commit of an operation
(08 R284-R291; 02 R72-R78; 05 R167-R172; 09 R316).
-/
namespace Sys2Proof.Machine

/-! ### Operations whose effect lies in the core (R284) -/

/-- The captured values go into the kerf ring of KCORE: FP32, little-endian, records one after the other from
KRF_BUF_BASE, round the ring's end (06 R200; DESIGN CHOICE, log 89). -/
def Chip.kerfPut (s : Chip) (q : Nat) (r : KerfRec) : Chip :=
  let k := s.core q
  let size := k.reg rKRF_BUF_SIZE * 2 ^ 20
  let s := s.setCore q (k.addKerf r)
  if !k.takesCapture r.input r.chain r.layer r.idx r.k0 then s
  else
    let bs := r.data.flatMap (leBytes 4)
    let base := k.reg rKRF_BUF_BASE / 4096 * 4096
    (s.memWrTry (base + k.kerfAt) (bs.take (size - k.kerfAt))).memWrTry base (bs.drop (size - k.kerfAt))

/-- A start of the operation `code`, with its captures delivered to KCORE. An operation that lacks nothing but ring space
waits for it (06 R200). -/
def opStart (s : Chip) (p id code : Nat) (run : Core → TOp → Core × List KerfRec) : Chip :=
  let c := s.core p
  match c.op? id with
  | none => s
  | some t =>
    if dOp t.desc ≠ code then s
    else if !s.opStarts p t then
      (if armMet t.arm (s.localTick p) && localReady c t (s.cycleNow p) (fun _ => true) && !s.opReady p t then
        s.setCore p { c with bufWait := id :: c.bufWait.filter (· != id) } else s)
    else
      let c := { c.late t.due (s.localTick p) with bufWait := c.bufWait.filter (· != id) }
      match s.physOf (dKX t.desc) (dKY t.desc) with
      | some q => let (c, caps) := run c t
                  caps.foldl (fun s r => s.kerfPut q r) (s.setCore p c)
      | none => s.setCore p (if wantsCapture t.desc then captureAccessError c t else (run c t).1)

def plain (f : Core → TOp → Core) : Core → TOp → Core × List KerfRec := fun c t => (f c t, [])

def cvtCmd (s : Chip) (p id : Nat) : Chip := opStart s p id opCVT cvtStart
def pdrnCmd (s : Chip) (p id : Nat) : Chip := opStart s p id opPDRN pdrnStart
def ldtCmd (s : Chip) (p id : Nat) : Chip := opStart s p id opLDT (plain ldtStart)
def redCmd (s : Chip) (p id : Nat) : Chip := opStart s p id opRED (plain redStart)
def kcapCmd (s : Chip) (p id : Nat) : Chip := opStart s p id opKCAP kcapStart

/-! ### MOV (R287-R290) -/

/-- Faults of a MOV that make it a format error before any data is read (R289, R290; 02 R43, R72, R78). DESIGN CHOICE,
log 83: a copy that names an MX format is one of them. -/
def movBad (c : Core) (d : List Byte) : Bool :=
  let sf := dSFmt d
  let df := dMDFmt d
  let both := !movSrcQ d && !movDstQ d
  let q := if movSrcQ d then field (dSrc d) 0 4 else field (dDst d) 0 4
  let strideBad := match movStrW d with
    | some w => decide (dLen0 d % (4 * w) ≠ 0) || decide (dStr1 d % (4 * w : Nat) ≠ 0) || decide (dStr2 d % (4 * w : Nat) ≠ 0)
    | none => false
  let scaleBad := movDstQ d && (blockWidth df).isSome && !scaleOk (dMxScale d)
  (!both && decide (movTotal d > c.qbytes q)) || strideBad || scaleBad ||
  (if dMode d = 0 then decide (sf ≠ df) || fmtByteBad sf || fmtIsMX (fmtOf sf) ||
      (both && (blockWidth sf).isSome && decide (dXAddr d ≠ 0))
   else if dMode d = 1 then fmtByteBad sf || fmtByteBad df || !fmtIsMX (fmtOf sf) || decide (df ≠ mxPeer (fmtOf sf)) ||
      !scaleOk (dMxScale d) || movSrcQ d
   else fmtByteBad sf || fmtByteBad df || inlOf sf || !mxExportOk (fmtOf sf) (fmtOf df) || movDstQ d)

/-- Faults of the item that a MOV takes from a queue end: another format than SFMT, too few bytes for `cb` of codes and
`nb` of exponents, a narrow item that no unit may read, and on an export a scale outside R43. -/
def movItemBad (d : List Byte) (o : OutItem) (hb : Bool) (cb nb : Nat) : Bool :=
  hb || decide (o.fmt ≠ dSFmt d) || decide (o.payload.length < cb + nb) ||
  (fmtIsNarrow (fmtOf o.fmt) && narrowItemBad o hb) || (decide (dMode d = 2) && !scaleOk o.scale.toNat)

/-- What the mover makes of the gathered codes and exponents: new ones, underflow and saturation counts,
a non-finite block, a format error (02 R72-R78). -/
structure MovData where
  codes : List Byte
  exps : List Nat := []
  uf : Nat := 0
  sat : Nat := 0
  nonfinite : Bool := false
  bad : Bool := false
deriving DecidableEq, Repr

def movConvert (d : List Byte) (codes : List Byte) (exps : List Nat) : MovData :=
  let sf := fmtOf (dSFmt d)
  let df := fmtOf (dMDFmt d)
  if dMode d = 0 then
    let w := fmtWidth sf
    let n := 8 * codes.length / max 1 w
    { codes := packCodes w ((unpackCodes w codes n).map (canonElem sf)) ++ codes.drop (n * w / 8)
      exps := exps, bad := fmtIsNarrow sf && exps.any (· == 255) }
  else
    let ws := fmtWidth sf
    let n := 8 * codes.length / ws
    let cs := unpackCodes ws codes n
    let blocks := (List.range (ceilDiv n 32)).map fun b => ((cs.drop (32 * b)).take 32, exps.getD b 0)
    if dMode d = 1 then
      let rs := blocks.map fun b => mxImport sf b.2 b.1
      { codes := packCodes (fmtWidth df) (rs.flatMap (·.codes)), exps := rs.map (·.exp)
        uf := (rs.filter (·.uf)).length, nonfinite := rs.any (·.nonfinite) }
    else
      let rs := blocks.map fun b => mxExport sf df b.2 b.1
      if rs.any (·.isNone) || exps.any (· == 255) then
        { codes := List.replicate (n * fmtWidth df / 8) 0, exps := blocks.map fun _ => 0, bad := true }
      else
        let ok := rs.filterMap id
        { codes := packCodes (fmtWidth df) (ok.flatMap (·.codes)), exps := ok.map (·.exp)
          sat := (ok.filter (·.sat)).length }

/-- Where the pieces of a destination go: device memory, this core's store, other cores' stores. -/
structure MovOut where
  mem : List (Nat × List Byte) := []
  store : List (Nat × List Byte) := []
  remote : List (Nat × Nat × Nat × List Byte) := []
deriving DecidableEq, Repr

def movPut (w : Nat) (off : Int) (bs : List Byte) (o : MovOut) : MovOut :=
  match addrSpace w with
  | .device a => { o with mem := o.mem ++ [(((a : Int) + off).toNat, bs)] }
  | .own a => { o with store := o.store ++ [(((a : Int) + off).toNat, bs)] }
  | .queue _ => o
  | .core x y a => { o with remote := o.remote ++ (lineParts (((a : Int) + off).toNat) bs).map fun q => (x, y, q.1, q.2) }

/-- The bytes of a list of ranges, dealt out in order. -/
def dealSpans : List Span → List Byte → List (Span × List Byte)
  | [], _ => []
  | r :: rs, bs => (r, bs.take r.n) :: dealSpans rs (bs.drop r.n)

/-- Requests to other cores' stores go out: packet `k` of an operation carries 64 k plus its place. -/
def Chip.askLines (s : Chip) (p : Nat) (t : TOp) : Chip :=
  let rs := remotePlan t.desc
  (List.range rs.length).foldl (fun s k =>
    let r := rs.getD k { x := 0, y := 0, o := 0, n := 0, at_ := 0 }
    s.inject p s.id r.x r.y { ty := 5, addr := r.o / 64 * 64, lenf := 1, seq := 64 * k + t.id })
    (s.onCore p fun c => c.setOp { t with phase := .remote (List.range rs.length) })

/-- A MOV ends as an access error after it has popped its input: its output carries cause R (R288). -/
def movRefused (c : Core) (t : TOp) : Core :=
  (c.raise evAccess 0).started t { items := t.res.items.map fun i => { i with poison := i.poison ||| poisonR } }

/-- The output item of a MOV into a queue end. -/
def movItem (c : Core) (t : TOp) (m : MovData) (bad : Bool) (tag : Word) (sp : BitVec 2) : OutItem :=
  let d := t.desc
  let i := t.res.items.headD (errItem (field (dDst d) 0 4) 0 0x0C tag sp)
  let df := fmtOf (dMDFmt d)
  let wide := fmtIsWide df
  let scale := if wide then 0x3F800000 else dMxScale d
  if bad then
    c.zeroOut i.q i.slot (if dMode d = 1 then df else dMDFmt d) scale (8 * movTotal d / max 1 (fmtWidth (fmtOf (dSFmt d)))) 0 tag sp
  else
    let ne := 8 * m.codes.length / max 1 (fmtWidth df)
    { q := i.q, slot := i.slot, tag := tag, poison := sp ||| (if m.nonfinite then poisonR else 0), fmt := dMDFmt d
      scale := BitVec.ofNat 32 scale, nelem := ne, nblk := if wide then 0 else ne / 32
      payload := if wide then m.codes else m.codes ++ fitBytes (padTo16 m.exps.length) (m.exps.map (BitVec.ofNat 8 ·)) }

/-- Where an MX export writes the source's tensor scale: the descriptor (02 R74). -/
def scaleBack (t : TOp) (sc : Word) : OpResult :=
  if t.addr ≥ 0x400000 then { store := [(t.addr - 0x400000 + 56, leBytes 4 sc.toNat)] }
  else { dram := [(t.addr + 56, leBytes 4 sc.toNat)] }

/-- The transfer with its data at hand: its results, or an access error. `exps` are the source's exponents or scales. A
format error leaves zeros in every code, exponent and scale (02 R39). A block with scale FFh raises its event once for
the transfer (DESIGN CHOICE, log 88). -/
def movFinish (s : Chip) (p : Nat) (t : TOp) (codes : List Byte) (exps : List Nat) (lost preBad : Bool) : Chip :=
  let d := t.desc
  let c := s.core p
  let i := t.input.headD (errItem 0 0 0x0C confTag 0)
  let tag := passTag i.tag
  let sp := i.poison ||| (if lost || t.hurt then poisonR else 0)
  let m := movConvert d codes exps
  let bad := preBad || m.bad
  let c := if bad then c.raise evFormat 0 else if m.nonfinite then c.raise evNonFinite 0 else c
  if movDstQ d then
    let o := movItem c t m bad tag sp
    s.setCore p ((if bad || decide (o.payload.length > c.qbytes o.q) then c else c.clamp m.uf m.sat 0).started t { items := [o] })
  else
    let poison := sp ||| (if bad || m.nonfinite then poisonR else 0)
    let cs := codeSpans d
    let es := expSpans d
    let len := fun (l : List Span) => l.foldl (fun n r => n + r.n) 0
    let put := dealSpans cs (if bad then List.replicate (len cs) 0 else m.codes) ++
      dealSpans es (if bad then List.replicate (len es) 0 else m.exps.map (BitVec.ofNat 8 ·))
    let okTag := c.confirmed tag
    if !put.all fun r => s.wordWrOk p r.1.w r.1.off r.1.n okTag then s.setCore p (movRefused c t) else
    let c := if bad then c else c.clamp m.uf m.sat 0
    if s.movConf d && decide (poison ≠ 0) then s.setCore p ((c.raise evPoisonEgress 0).started t {})
    else
      let o := put.foldl (fun o r => movPut r.1.w r.1.off r.2 o) ({} : MovOut)
      let back := if dMode d = 2 ∧ movSrcQ d ∧ !bad then scaleBack t i.scale else {}
      let r : OpResult := { mem := o.mem, store := o.store ++ back.store, dram := back.dram }
      if o.remote.isEmpty then s.setCore p (c.started t r)
      else
        (List.range o.remote.length).foldl (fun s k =>
          let (x, y, a, bs) := o.remote.getD k (0, 0, 0, [])
          s.inject p s.id x y { ty := 3, addr := a, lenf := 1, seq := 64 * k + t.id, payload := bs })
          (s.setCore p ((c.started t r).setOp { t with phase := .acks (List.range o.remote.length), res := r }))

/-- A MOV from memory goes on with the data of its ranges. -/
def movGo (s : Chip) (p : Nat) (t : TOp) : Chip :=
  let d := t.desc
  let (bs, lost) := gatherSpans s p t.buf (readSpans d) 0
  let s := match s.lostSpan (readSpans d) with | some a => s.poisonEvent a | none => s
  let s := s.useSpans p (readSpans d)
  movFinish s p t (bs.take (movTotal d)) ((bs.drop (movTotal d)).map (·.toNat)) (lost || t.bufBad) false

/-- What a MOV holds as its input: the item from a queue end, or the descriptor's tag for memory (06 R195). -/
def movInput (c : Core) (d : List Byte) : OutItem × Bool :=
  if movSrcQ d then c.peek (field (dSrc d) 0 4)
  else ({ q := 0, slot := 0, tag := dTag d, poison := 0, fmt := dSFmt d, nelem := 0, payload := [] }, false)

/-- MOV starts. -/
def movCmd (s : Chip) (p id : Nat) : Chip :=
  let c := s.core p
  match c.op? id with
  | none => s
  | some t =>
    let d := t.desc
    if dOp d ≠ opMOV ∨ !s.opStarts p t then s
    else
      let (o, hb) := movInput c d
      let c := (c.late t.due (s.localTick p)).popAll (opPops d)
      if s.movConf d && tagInv o.tag then s.setCore p (c.started t {})
      else
        let (c, t) := match opPushes d with
          | q :: _ => let (c, slot) := c.reserve q t.seq
                      (c, { t with input := [o], res := { items := [{ errItem q slot (dMDFmt d) (passTag o.tag) o.poison with poison := o.poison }] } })
          | [] => (c, { t with input := [o] })
        let s := s.setCore p (c.setOp t)
        let n := movTotal d
        let nb := match movStrW d with | some w => n / (4 * w) | none => 0
        let cb := if dMode d = 2 then nb * 4 * fmtWidth (fmtOf (dSFmt d)) else n
        if movSrcQ d then
          let bad := movBad c d || movItemBad d o hb cb nb
          let exps := ((o.payload.drop (if fmtIsWide (fmtOf o.fmt) then cb else codeBytes (fmtOf o.fmt) o.nblk)).take nb).map (·.toNat)
          movFinish s p t (if bad then List.replicate cb 0 else o.payload.take cb) (if bad then List.replicate nb 0 else exps) false bad
        else if movBad c d then movFinish s p t (List.replicate n 0) [] false true
        else if !(readSpans d).all fun r => s.wordRdOk p r.w r.off r.n then s.setCore p (movRefused c t)
        else if (remotePlan d).isEmpty then movGo s p t
        else s.askLines p t

/-! ### IGTH (R291) -/

/-- IGTH goes on with its records at hand. -/
def igthGo (s : Chip) (p : Nat) (t : TOp) : Chip :=
  let (bs, lost) := gatherSpans s p t.buf (readSpans t.desc) 0
  let s := match s.lostSpan (readSpans t.desc) with | some a => s.poisonEvent a | none => s
  let s := s.useSpans p (readSpans t.desc)
  s.setCore p (igthDone (s.core p) t bs (lost || t.bufBad))

/-- IGTH starts. -/
def igthCmd (s : Chip) (p id : Nat) : Chip :=
  let c := s.core p
  match c.op? id with
  | none => s
  | some t =>
    if dOp t.desc ≠ opIGTH ∨ !s.opStarts p t then s
    else
      let (c, t, bad) := igthTake (c.late t.due (s.localTick p)) t
      let s := s.setCore p (c.setOp t)
      if !(readSpans t.desc).all fun r => s.wordRdOk p r.w r.off r.n then s.setCore p (igthRefused c t)
      else if bad then s.setCore p (igthBad c t)
      else if (remotePlan t.desc).isEmpty then igthGo s p t
      else s.askLines p t

/-! ### Answers of other cores' stores (09 R316) -/

/-- STORE_READ_RESPONSE: one line arrives, with its payload error if it had one (09 R308); after the last, the
operation goes on with its data. -/
def storeReadResponseCmd (s : Chip) (p : Nat) (k : Packet) : Chip :=
  s.arrive p k fun s =>
    match (s.core p).op? (k.seq % 64) with
    | none => s
    | some t => match t.phase with
      | .remote left =>
        if !left.contains (k.seq / 64) then s else
        let r := (remotePlan t.desc).getD (k.seq / 64) { x := 0, y := 0, o := 0, n := 0, at_ := 0 }
        let t := { t with
          buf := Bytes.wrN t.buf r.at_ ((k.payload.drop (r.o % 64)).take r.n), bufBad := t.bufBad || decide (k.poison ≠ 0)
          phase := .remote (left.erase (k.seq / 64)) }
        let s := s.onCore p fun c => c.setOp t
        if t.phase ≠ .remote [] then s
        else if dOp t.desc = opIGTH then igthGo s p t else movGo s p t
      | _ => s

/-- STORE_WRITE_ACK: after the last acknowledgement the MOV may complete (R316). -/
def storeWriteAckCmd (s : Chip) (p : Nat) (k : Packet) : Chip :=
  s.arrive p k fun s => s.onCore p fun c => match c.op? (k.seq % 64) with
    | none => c
    | some t => match t.phase with
      | .acks left =>
        let rest := left.erase (k.seq / 64)
        c.setOp { t with phase := if rest.isEmpty then .started else .acks rest }
      | _ => c

/-! ### DACC (05 R167-R172) -/

def hdClaimStep (h : List Byte) : Nat := listLe h 0 8
def hdClaimUse (h : List Byte) : Nat := listLe h 8 4
def hdOwner (h : List Byte) : Nat := listLe h 12 2
def hdFlags (h : List Byte) : Nat := listLe h 14 2
def hdBase (h : List Byte) : Nat := field (listLe h 16 8) 0 48
def hdRows (h : List Byte) : Nat := listLe h 24 4
def hdCols (h : List Byte) : Nat := listLe h 28 4
def hdMask (h : List Byte) : Nat := field (listLe h 32 8) 0 48
def hdNext (h : List Byte) : Nat := listLe h 40 4

/-- A header with bytes replaced from an offset. -/
def hdPut (h : List Byte) (o : Nat) (bs : List Byte) : List Byte := h.take o ++ bs ++ h.drop (o + bs.length)
def hdSetFlags (h : List Byte) (v : Nat) : List Byte := hdPut h 14 (leBytes 2 v)

/-- The claim of a drawer (R169). -/
def hdClaim (h : List Byte) (step use : Nat) : List Byte :=
  hdPut (hdSetFlags (hdPut (hdPut h 0 (leBytes 8 step)) 8 (leBytes 4 use)) (hdFlags h / 4 * 4)) 40 (leBytes 4 0)

/-- The refusal cause of a DACC after the claim (R169); 0 is none. -/
def daccCause (h : List Byte) (step use seq : Nat) : Nat :=
  if hdClaimStep h = step ∧ hdClaimUse h ≠ use then 1
  else if hdClaimStep h = step ∧ bitOf (hdFlags h) 1 then 4
  else if hdClaimStep h = step ∧ seq < hdNext h then 3
  else 0

/-- The first refusal is recorded, a later one sets OVF (R185). -/
def Core.drwErr (c : Core) (addr cause : Nat) : Core :=
  if bitOf (c.reg rBE_DRW_ERR) 63 then c.setField rBE_DRW_ERR 51 1 1
  else c.setReg rBE_DRW_ERR (addr + cause * 2 ^ 48 + 2 ^ 63)

/-- Item faults of a DACC (R168 stage 3). -/
def daccItemBad (o : OutItem) (hb : Bool) (d h : List Byte) : Bool :=
  hb || decide (o.fmt ≠ 0x0C) || decide (dNCol d = 0) || decide (o.nelem % dNCol d ≠ 0) ||
  decide (dCol0 d + dNCol d > hdCols h) || decide (dRow0 d + o.nelem / dNCol d > hdRows h)

/-- DACC: stages 1 to 3 of R168. -/
def daccCmd (s : Chip) (p id : Nat) : Chip :=
  let c := s.core p
  match c.op? id with
  | none => s
  | some t =>
    let d := t.desc
    if dOp d ≠ opDACC then s
    else if !s.opStarts p t then (if t.waits && s.protTouch (dHdr d) 64 then s.holdWrite else s)
    else
      let (o, hb) := c.peek (dQA d)
      let c' := (c.late t.due (s.localTick p)).pop (dQA d)
      if tagInv o.tag then s.setCore p (c'.dropOp id)
      else
        let a := dHdr d
        let h := (s.memRd a 64).1
        let s := s.hbmUse a 64
        let len := 4 * hdRows h * hdCols h
        if !s.inConfirmed a 64 || !s.inConfirmed (hdBase h) (max 1 len) then s.setCore p ((c'.raise evAccess 0).dropOp id)
        else
          let refuse := fun (s : Chip) (h : List Byte) (cause : Nat) =>
            (s.memWrTry a (hdSetFlags h (hdFlags h ||| 1))).setCore p (((c'.drwErr a cause).raise evDrawer 0).dropOp id)
          let me := match s.logOf p with | some (x, y) => x + 256 * y | none => 0xFFFF
          if me ≠ hdOwner h then refuse s h 2
          else
            let h := if dSeqNo d = 0 ∧ hdClaimStep h ≠ c.step then hdClaim h c.step (dWUse d) else h
            let s := (s.hbmUse a 64).memWrTry a h
            let cause := daccCause h c.step (dWUse d) (dSeqNo d)
            if cause ≠ 0 then refuse s h cause
            else
              let bad := daccItemBad o hb d h
              let s := if bad then s.memWrTry a (hdSetFlags h (hdFlags h ||| 1)) else s
              let c' := if bad then c'.raise evFormat 0 else c'
              s.setCore p (c'.setOp { t with phase := .checked bad, input := [o] })

/-- Is a drawer element trained: its mask bit, and whether the mask read was lost (R167)? -/
def daccTrained (s : Chip) (h : List Byte) (r c : Nat) : Bool × Bool :=
  if !bitOf (hdFlags h) 2 then (true, false)
  else
    let i := if bitOf (hdFlags h) 3 then (r / 32) * ceilDiv (hdCols h) 32 + c / 32 else r
    let (b, l) := s.memRd (hdMask h + i / 8) 1
    (bitOf ((b.headD 0).toNat) (i % 8), l)

/-- The address of element `m` of the item in the drawer's array, if it is trained. -/
def daccAddr (s : Chip) (h d : List Byte) (m : Nat) : Option Nat :=
  let r := dRow0 d + m / dNCol d
  let c := dCol0 d + m % dNCol d
  if (daccTrained s h r c).1 then some (hdBase h + 4 * (hdCols h * r + c)) else none

/-- One element of a DACC with INIT = 0: the memory, and whether a drawer line was lost. -/
def daccElem (h d : List Byte) (o : OutItem) (st : Chip × Bool) (m : Nat) : Chip × Bool :=
  let (s, lost) := st
  match daccAddr s h d m with
  | none => (s, lost)
  | some a =>
    let (b, l) := s.memRd a 4
    if l then (s, true)
    else (s.memWr a (leBytes 4 (engAdd fp32 (fp32.decode (leNat b)) (fp32.decode (listLe o.payload (4 * m) 4)))), lost)

/-- Writes of four bytes, by rising address, joined where they adjoin. -/
def joinRuns : List (Nat × List Byte) → List (Nat × List Byte)
  | [] => []
  | (a, x) :: rest => match joinRuns rest with
    | (b, y) :: more => if a + x.length = b then (a, x ++ y) :: more else (a, x) :: (b, y) :: more
    | [] => [(a, x)]

/-- A DACC with INIT = 1: the item's values, canonical (02 R62), in whole lines where it covers them, which renews a line
that was lost (10 R346). -/
def daccInit (s : Chip) (h d : List Byte) (o : OutItem) : Chip :=
  let ws := (List.range o.nelem).filterMap fun m =>
    (daccAddr s h d m).map fun a => (a, leBytes 4 (canonElem 0x0C (listLe o.payload (4 * m) 4)))
  (joinRuns ws).foldl (fun s r => (lineParts r.1 r.2).foldl (fun s q => s.memWrTry q.1 q.2) s) s

/-- The HBM lines of a DACC's last stages (15 R497): its header, read and written, and of its rows of the drawer the lines
that it reads, unless INIT is 1, and writes. -/
def Chip.daccUse (s : Chip) (h d : List Byte) (o : OutItem) (writes : Bool) : Chip :=
  let s := (s.hbmUse (dHdr d) 64).hbmUse (dHdr d) 64
  if !writes then s else
  (List.range (o.nelem / max 1 (dNCol d))).foldl (fun s r =>
    let a := hdBase h + 4 * (hdCols h * (dRow0 d + r) + dCol0 d)
    let s := s.hbmUse a (4 * dNCol d)
    if dInit d then s else s.hbmUse a (4 * dNCol d)) s

/-- DACC_APPLY: stages 4 and 5 of R168. -/
def daccApplyCmd (s : Chip) (p id : Nat) : Chip :=
  let c := s.core p
  match c.op? id with
  | none => s
  | some t => match t.phase with
    | .checked bad =>
      let d := t.desc
      let a := dHdr d
      let h := (s.memRd a 64).1
      if hdNext h ≠ dSeqNo d then s
      else if s.protTouch a 64 || s.protTouch (hdBase h) (4 * hdRows h * hdCols h) then s.holdWrite else
      let o := t.input.headD { q := 0, slot := 0, tag := confTag, poison := 0, fmt := 0x0C, nelem := 0, payload := [] }
      let maskLost := !bad && (List.range o.nelem).any fun m =>
        (daccTrained s h (dRow0 d + m / dNCol d) (dCol0 d + m % dNCol d)).2
      let poisoned := bad || decide (o.poison ≠ 0) || maskLost
      let (s, lost) := if poisoned then (s, false) else if dInit d then (daccInit s h d o, false)
        else (List.range o.nelem).foldl (daccElem h d o) (s, false)
      let s := s.daccUse h d o (!poisoned)
      let s := if maskLost then s.poisonEvent (hdMask h) else if lost then s.poisonEvent (hdBase h) else s
      let fl := hdFlags h ||| (if poisoned || lost then 1 else 0) ||| (if dLast d then 2 else 0)
      let s := s.memWrTry a (hdPut (hdSetFlags h fl) 40 (leBytes 4 ((hdNext h + 1) % 2 ^ 32)))
      s.onCore p fun c =>
        let c := c.dropOp id
        if poisoned then c.raise evPoisonEgress 0 else c
    | _ => s

/-! ### Commit -/

/-- The results of a started operation take effect in the core on cycle `k`, and it leaves the transfer table (08 R280; 07 R236). A
SEND frees its slot (09 R313). -/
def Core.opDone (c : Core) (t : TOp) (k : Nat) : Core :=
  let r := t.res
  let c := r.items.foldl Core.commitItem c
  let c := match r.tile with
    | some (be, n, x, h) => c.commitTile be n x h k
    | none => c
  let c := r.store.foldl (fun (c : Core) (w : Nat × List Byte) => c.unitWr w.1 w.2) c
  let c := r.dram.foldl (fun (c : Core) (w : Nat × List Byte) => c.dramWr w.1 w.2) c
  let q := dQA t.desc
  let c := if dOp t.desc = opSEND ∧ !t.input.isEmpty then c.setQend q { c.qend q with sending := (c.qend q).sending - 1 } else c
  c.dropOp t.id

/-- A started operation commits once nothing holds it: a page under snapshot protection, or packets of a SEND that its
router has not taken. -/
def opCommit (s : Chip) (p id : Nat) : Chip :=
  let c := s.core p
  match c.op? id with
  | none => s
  | some t =>
    if t.phase ≠ .started then s
    else if t.res.mem.any (fun w => s.protTouch w.1 w.2.length) then s.holdWrite
    else if dOp t.desc = opSEND ∧ c.sendOut t then s
    else t.res.mem.foldl (fun (s : Chip) (w : Nat × List Byte) => ((s.wake w.1).hbmUse w.1 w.2.length).memWrTry w.1 w.2) (s.setCore p (c.opDone t (s.coreCycle p)))

/-- OPERATION_COMMIT: a started operation by its place, or the oldest executing VU issue. -/
def operationCommitCmd (s : Chip) (p : Nat) (id : Option Nat) : Chip :=
  match id with
  | some i => opCommit s p i
  | none => s.onCore p vuCommit

end Sys2Proof.Machine
end

