-- ==== Sys2Proof/Machine/Sched.lean ====
section
/-!
DEFINITION. The dovetail scheduler: block descriptors and their checks (05 R173), COND blocks (R179, R180),
dispatch (R174, R176), launch and completion of blocks (R175; 08 R265, R272).
-/
namespace Sys2Proof.Machine

/-- A block descriptor from its 32 bytes (R173). -/
def blockDescOf (d : List Byte) : BlockDesc :=
  let stash := fun i => let v := listLe d (24 + 3 * i) 3; if bitOf v 23 then some (field v 0 23) else none
  { code := field (listLe d 0 4) 0 22, len := field (listLe d 0 4) 22 6
    eng := bitOf (listLe d 4 2) 0, timed := bitOf (listLe d 4 2) 1, cond := bitOf (listLe d 4 2) 2
    seam := listLe d 6 2, launch := listLe d 8 8
    qconds := ((List.range 4).map fun m => listLe d (16 + 2 * m) 2).filterMap fun v =>
      if bitOf v 15 then some (field v 0 4, bitOf v 4, field v 5 10) else none
    stash0 := stash 0, stash1 := stash 1, grant := listLe d 30 2 }

/-- The checks at BENQ (R173; 08 R272, R278). -/
def blockOk (c : Core) (d : List Byte) (be : Bool) : Bool :=
  let b := blockDescOf d
  decide (1 ≤ b.len) && decide (b.len ≤ 32) && decide (b.code % 16 = 0) && decide (field (listLe d 0 4) 28 4 = 0) &&
  decide (listLe d 4 2 / 8 = 0) && (b.qconds.all fun q => decide (q.2.2 ≥ 1) && decide (cfgDepth (c.qcfgNewest q.1) ≠ 0)) &&
  decide (b.grant ≠ 0) && decide (b.eng = be) &&
  c.grants.any fun g => decide (g.handle = b.grant) && decide (g.state ≤ 2)

/-- Instructions enqueued to an engine and not launched (08 R273). -/
def Core.queued (c : Core) (be : Bool) : Nat :=
  ((if be then c.bwd else c.fwd).foldl (fun n b => n + b.2.len) 0) +
  ((c.eng be).halves.foldl (fun n h => n + (h.words.length - h.next)) 0)

/-- A stash entry is resident (08 R291). -/
def Core.resident (c : Core) (e : Nat) : Bool :=
  let u := NatMap.rd c.stash.uqs e
  decide (u ≠ 0) && c.entryPresent (u - 1) e

def Core.qcondHolds (c : Core) (q : Nat × Bool × Nat) : Bool :=
  if q.2.1 then decide (c.room q.1 ≥ q.2.2) else decide (c.present q.1 ≥ q.2.2)

def optResident (c : Core) (e : Option Nat) : Bool := match e with | some e => c.resident e | none => true

/-- Eligibility of a list's head (R174, R180; 08 R282). -/
def Core.eligible (c : Core) (be : Bool) : Bool :=
  match (if be then c.bwd else c.fwd) with
  | [] => false
  | (seq, b) :: _ =>
    (b.qconds.all fun q => c.qcondHolds q && !c.cfgHeldBefore seq q.1) &&
    (b.cond && b.decided || (!b.cond && optResident c b.stash0)) && optResident c b.stash1 &&
    (c.grants.any fun g => decide (g.handle = b.grant) && g.held) && decide ((c.eng be).halves.length < 2)

/-- COND_BLOCK_HEAD: the query of R180 for the forward head, once. -/
def condBlockHeadCmd (s : Chip) (p : Nat) : Chip :=
  let c := s.core p
  match c.fwd with
  | [] => s
  | (seq, b) :: rest =>
    if !b.cond || b.decided then s else
    let t := b.stash0.getD 0
    let live := c.stash.entry? t
    let there := c.resident t || (match live with | some e => decide (e.loc ≠ .dropped) | none => false)
    if there then
      let st := match live with | some e => c.stash.put { e with pinned := true } | none => c.stash
      (s.setCore p { c with fwd := rest, stash := st, fwdElig := 0 }).releaseGrant p b.grant
    else
      s.setCore p { c with fwd := (seq, { b with decided := true }) :: rest, stash := { c.stash with bringing := b.stash1 } }

/-- A head is dispatched: its instructions are copied at 4 a cycle into the free half; a double-bit error in them marks
what the block writes (08 R258). -/
def dispatchHead (c : Core) (be : Bool) (now : Nat) : Core :=
  match (if be then c.bwd else c.fwd) with
  | [] => c
  | (seq, b) :: rest =>
    let words := (List.range b.len).map fun k => BitVec.ofNat 128 (Bytes.rdLe c.store (b.code + 16 * k) 16)
    let endAt := now + ceilDiv b.len 4
    let c := if be then { c with bwd := rest } else { c with fwd := rest }
    let e := c.eng be
    let c := c.setEng be { e with halves := e.halves ++ [{ desc := b, blk := seq, words := words, copyDone := endAt
                                                           poison := c.upsetIn (0x400000 + b.code) (16 * b.len) }] }
    let c := c.unitRd b.code (16 * b.len)
    { c with blocks := c.blocks ++ [(seq, be, b.grant, b.qconds.map (·.1))], portUntil := endAt, portBwd := be }

/-- BLOCK_DISPATCH: the port, if it is free, dispatches one block by the order of R176. `fwdElig` counts the backward
dispatches in a row through which the forward head has stayed eligible. A bench that has still to take the point of its plan
dispatches no block (01 R29; 15 R495). -/
def blockDispatchCmd (s : Chip) (p : Nat) : Chip :=
  let c := s.core p
  let fe := c.eligible false
  let be := c.eligible true
  let pt := s.reg (rEN_B_PT (benchOf p))
  let changing := decide (field pt 0 4 ≠ field pt 4 4)
  if changing || (!fe && !be) || decide (s.coreCycle p < c.portUntil) then s else
  let now := s.coreCycle p
  if fe && (decide (c.fwdElig ≥ 2) || !be) then s.setCore p { dispatchHead c false now with fwdElig := 0 }
  else s.setCore p { dispatchHead c true now with fwdElig := if fe then c.fwdElig + 1 else 0 }

/-- The cycles, up to `k`, on which the eligible forward head of a core has waited on a backward copy and which are not
counted yet (R186). -/
def Core.prefRun (c : Core) (k : Nat) : Nat := match c.prefAt with | some a => min k c.portUntil - a | none => 0

/-- The forward head's eligibility is watched on cycle `k` (R176, R186), the core having been `c0` before: a head that is not
eligible has not stayed so, and waits on a backward copy are counted. -/
def Core.watched (c0 c : Core) (k : Nat) : Core :=
  let fe := c.eligible false
  let n := c0.prefRun k
  let c := if n = 0 then c else c.bump rDVT_PREF_CNT n
  { c with fwdElig := if fe then c.fwdElig else 0, prefAt := if fe && c.portBwd && decide (k < c.portUntil) then some k else none }

/-- Is a dispatched block still in the queue, looping or executing? -/
def Eng.blockLive (e : Eng) (seq : Nat) : Bool :=
  e.halves.any (fun h => h.blk == seq) || e.loops.any (fun l => l.blk == seq) || e.exec.any (fun x => x.blk == seq)

/-- Blocks whose last issue has passed its latency cycle complete, and their handles end (R265, R272). -/
def Chip.blockSweep (s : Chip) (p : Nat) : Chip :=
  let c := s.core p
  let live := fun (b : Nat × Bool × Nat × List Nat) => (c.eng b.2.1).blockLive b.1
  let gone := c.blocks.filter fun b => !live b
  gone.foldl (fun s b => s.spendGrant p b.2.2.1) (s.setCore p { c with blocks := c.blocks.filter live })

/-- BLOCK_LAUNCH. -/
def blockLaunchCmd (s : Chip) (p : Nat) (be : Bool) : Chip :=
  match ((s.core p).eng be).halves with
  | h :: _ =>
    if h.base.isSome then s else
    let c := blockLaunch (s.core p) be (s.cycleNow p) (s.localTick p)
    s.setCore p (if h.desc.timed && (c.eng be).halves.any (·.base.isSome) then c.late h.desc.due (s.tickAt p c.cyc) else c)
  | [] => s

/-- One launch of an engine whose opcode satisfies `ok`. -/
def launchCmd (s : Chip) (p : Nat) (be : Bool) (ok : Nat → Bool) : Chip :=
  (s.setCore p (engineLaunch (s.core p) be (s.tickAt p) ok)).blockSweep p

/-- ENGINE_LATENCY_REACHED. -/
def latencyReachedCmd (s : Chip) (p : Nat) (be : Bool) : Chip :=
  (s.setCore p (engineCommit (s.core p) be (s.tickAt p))).blockSweep p

/-! ### Late timed starts (09 R325) -/

/-- The head block of an engine's queue could launch on cycle `now` but for its tick. -/
def Core.halfReady (c : Core) (be : Bool) (now : Nat) (h : QHalf) : Bool :=
  decide (h.copyDone ≤ now) && decide ((c.eng be).lastAt + h.desc.seam ≤ now)

/-- Timed starts of a core whose program-order number satisfies `sel` pass their tick, between the local ticks `t0` and
now, or have passed it as they are issued (`t0` none): those that another condition holds there are late from then. -/
def Chip.markLate (s : Chip) (p : Nat) (t0 : Option Nat) (sel : Nat → Bool) : Core :=
  let c := s.core p
  let t1 := s.localTick p
  let now := s.cycleNow p
  let mark := fun (seq : Nat) (arm due : Option Nat) (ready : Bool) => if sel seq then dueAt arm due ready t0 t1 else due
  let block := fun (seq : Nat) (b : BlockDesc) (ready : Bool) =>
    { b with due := mark seq (if b.timed then some b.launch else none) b.due ready }
  let list := fun (l : List (Nat × BlockDesc)) => l.map fun x => (x.1, block x.1 x.2 false)
  let eng := fun (be : Bool) => { c.eng be with halves := (c.eng be).halves.mapIdx fun i h =>
    if h.base.isSome then h else { h with desc := block h.blk h.desc (decide (i = 0) && c.halfReady be now h) } }
  { c with
    ops := c.ops.map fun t => if t.waits then { t with due := mark t.seq t.arm t.due (s.opReady p t && s.moverTurn p t) } else t
    vuQ := c.vuQ.mapIdx fun i v => if v.loop.isSome then v else { v with due := mark v.seq v.arm v.due (decide (i = 0) && vuReady c now v) }
    ku := c.ku.mapIdx fun i k => if k.loop.isSome || k.run then k else
      { k with due := mark k.seq k.arm k.due (decide (i = 0) && (if vu k.word 0 8 = 0x60 then kselReady c now k else kchkReady c now k)) }
    fwd := list c.fwd, bwd := list c.bwd, fe := eng false, be := eng true }

/-- The work that core p has just issued is marked late if its tick has passed and another condition holds it. -/
def Chip.markNew (s : Chip) (p : Nat) : Chip := s.setCore p (s.markLate p none fun n => n + 1 == (s.core p).nseq)

/-- Time has run on a core since the local tick `t0`: late starts are marked, and the engines run. -/
def Chip.coreRun (s : Chip) (p t0 : Nat) : Chip :=
  s.setCore p ((s.markLate p (some t0) fun _ => true).runEngines (s.tickAt p) (s.cycleNow p))

/-- DVT_STAT (R186). -/
def dvtStat (s : Chip) (p : Nat) : Nat :=
  let c := s.core p
  c.fwd.length + c.bwd.length * 2 ^ 4 + b2n (c.eligible false) * 2 ^ 8 + b2n (c.eligible true) * 2 ^ 9 +
  b2n (decide (s.cycleNow p < c.portUntil)) * 2 ^ 10

end Sys2Proof.Machine
end

