-- ==== Sys2Proof/Machine/Job.lean ====
section
/-!
DEFINITION. Job images and their load (12 R437-R445), the job's cores, the reset of a core's units (13 R459,
R469; 14 R485), step begin (12 R447), and data sources (R444).
-/
namespace Sys2Proof.Machine

/-! ### The image (R437-R442) -/

abbrev hwType : Nat := 0x46420416

/-- A section table entry. -/
structure Section where
  ty : Nat
  ver : Nat
  rank : Nat
  off : Nat
  len : Nat
deriving DecidableEq, Repr

def imgParts (b : List Byte) : Nat := listLe b 12 4
def imgW (b : List Byte) : Nat := listLe b 16 1
def imgH (b : List Byte) : Nat := listLe b 17 1
def imgSections (b : List Byte) : List Section :=
  (List.range (listLe b 18 2)).map fun i =>
    let o := listLe b 24 8 + 32 * i
    { ty := listLe b o 2, ver := listLe b (o + 2) 2, rank := listLe b (o + 4) 4, off := listLe b (o + 8) 8, len := listLe b (o + 16) 8 }

def sharedRank : Nat := 0xFFFFFFFF

/-- The header of R437. -/
def imgHeaderOk (b : List Byte) : Bool :=
  decide (b.length ≥ 256) && decide (listLe b 0 4 = 0x424A5642) && decide (listLe b 4 2 = 1) && !nz b 7 1 &&
  decide (listLe b 8 4 = hwType) && decide (1 ≤ imgParts b) && decide (imgParts b ≤ 4096) &&
  decide (1 ≤ imgW b) && decide (imgW b ≤ 16) && decide (1 ≤ imgH b) && decide (imgH b ≤ 16) &&
  decide (1 ≤ listLe b 18 2) && !nz b 20 4 && decide (listLe b 24 8 % 8 = 0) && !nz b 32 224 &&
  decide (listLe b 24 8 + 32 * listLe b 18 2 ≤ b.length)

def secCount (ss : List Section) (ty rank : Nat) : Nat :=
  (ss.filter fun x => decide (x.ty = ty) && decide (x.rank = rank)).length

/-- The section table of R438. -/
def imgTableOk (b : List Byte) : Bool :=
  let ss := imgSections b
  let ps := imgParts b
  (ss.all fun x => decide (1 ≤ x.ty) && decide (x.ty ≤ 6) && decide (x.ver = 1) && decide (x.off % 8 = 0) &&
    decide (x.off + x.len ≤ b.length) &&
    (if x.ty = 3 ∨ x.ty = 4 ∨ x.ty = 5 then decide (x.rank < ps) else decide (x.rank = sharedRank))) &&
  decide (secCount ss 1 sharedRank = 1) && decide (secCount ss 2 sharedRank = 1) && decide (secCount ss 6 sharedRank ≤ 1) &&
  (List.range ps).all fun r => decide (secCount ss 3 r = 1) && decide (secCount ss 4 r = 1)

/-- The bytes of the first section of a type for a rank. -/
def imgSec (b : List Byte) (ty rank : Nat) : List Byte :=
  match (imgSections b).find? fun x => decide (x.ty = ty) && (decide (x.rank = rank) || decide (x.rank = sharedRank)) with
  | some x => (b.drop x.off).take x.len
  | none => []

def jobDesc (b : List Byte) : List Byte := imgSec b 1 sharedRank
def jobLayers (b : List Byte) : List Byte := imgSec b 2 sharedRank
def partSec (b : List Byte) (r : Nat) : List Byte := imgSec b 3 r
def partImgsz (b : List Byte) (r : Nat) : Nat := listLe (partSec b r) 8 8
def partPartner (b : List Byte) (r : Nat) : Nat :=
  let v := listLe (partSec b r) 4 4
  if v = sharedRank then (r + 1) % max 1 (imgParts b) else v

/-- A region entry of a PART section: BASE, LIMIT, KIND, PRANK. -/
def partRegions (ps : List Byte) : List (Nat × Nat × Nat × Nat) :=
  (List.range (listLe ps 32 2)).map fun i =>
    let o := 64 + 32 * i
    (listLe ps o 8, listLe ps (o + 8) 8, listLe ps (o + 16) 1, listLe ps (o + 20) 4)

/-- Core entries of a CORE section, back to back. -/
def coreEntries : Nat → List Byte → List (List Byte)
  | 0, _ => []
  | n + 1, b => b.take (listLe b 40 8) :: coreEntries n (b.drop (listLe b 40 8))

def jobEntries (b : List Byte) (r : Nat) : List (List Byte) := coreEntries (imgW b * imgH b) (imgSec b 4 r)

def pad8 (n : Nat) : Nat := (n + 7) / 8 * 8
def ceProg (e : List Byte) : List Byte := (e.drop 4096).take (listLe e 28 4)
def ceData (e : List Byte) : List Byte := (e.drop (4096 + pad8 (listLe e 28 4))).take (listLe e 32 4)

/-- `n` core store runs, and what follows them. -/
def ceRunsFrom : Nat → List Byte → List (Nat × List Byte) × List Byte
  | 0, b => ([], b)
  | n + 1, b =>
    let len := listLe b 4 4
    let (rs, rest) := ceRunsFrom n (b.drop (8 + pad8 len))
    ((listLe b 0 4, (b.drop 8).take len) :: rs, rest)

/-- The runs of an entry, and the lists that follow them. -/
def ceRuns (e : List Byte) : List (Nat × List Byte) × List Byte :=
  ceRunsFrom (listLe e 36 4) (e.drop (4096 + pad8 (listLe e 28 4) + pad8 (listLe e 32 4)))

/-- Bytes of the slot entry of slot n, and of the barrier entry of barrier b. -/
def ceSlot (e : List Byte) (n : Nat) : List Byte := (e.drop (336 + 16 * n)).take 16
def ceBar (e : List Byte) (b : Nat) : List Byte := (e.drop (1360 + 64 * b)).take 64
def ceBarParts (e : List Byte) (b : Nat) : Nat := field (listLe (ceBar e b) 0 8) 32 13
def ceNsh (e : List Byte) (n : Nat) : Nat := listLe (ceSlot e n) 12 2

/-- The ranks of barrier b's list: PLIST is an offset within the entry. -/
def ceBarRanks (e : List Byte) (b : Nat) : List Nat :=
  if bitOf (listLe (ceBar e b) 0 8) 17 then
    (List.range (ceBarParts e b)).map fun i => listLe e (listLe (ceBar e b) 8 4 + 2 * i) 2
  else []

/-- The shard lists follow the barrier rank lists, in ascending slot order: slot, and (x, y, slot, rank). -/
def ceShards (e : List Byte) : List (Nat × List (Nat × Nat × Nat × Nat)) :=
  let skip := (List.range 16).foldl (fun n b => n + 2 * (ceBarRanks e b).length) 0
  let b := (ceRuns e).2.drop skip
  ((List.range 64).foldl (fun (acc : List (Nat × List (Nat × Nat × Nat × Nat)) × Nat) n =>
    let k := ceNsh e n
    if k = 0 then acc else
    (acc.1 ++ [(n, (List.range k).map fun i =>
      let o := acc.2 + 8 * i
      (listLe b o 1, listLe b (o + 1) 1, listLe b (o + 2) 1, listLe b (o + 4) 4))], acc.2 + 8 * k)) ([], 0)).1

/-- Every rank that a rank's sections name (R445): partner, PRANKs, barrier homes and lists, verdict homes,
slot homes and shards. -/
def namedRanks (b : List Byte) (r : Nat) : List Nat :=
  let es := jobEntries b r
  let ls := jobLayers b
  ((if imgParts b > 1 then [partPartner b r] else []) ++
    ((partRegions (partSec b r)).filter (fun x => x.2.2.1 = 3)).map (·.2.2.2) ++
    (es.flatMap fun e => (List.range 16).flatMap fun i =>
      if bitOf (listLe (ceBar e i) 0 8) 17 then field (listLe (ceBar e i) 0 8) 18 12 :: ceBarRanks e i else []) ++
    (es.flatMap fun e => (List.range 64).flatMap fun n =>
      (if bitOf (listLe (ceSlot e n) 8 4) 31 then [field (listLe (ceSlot e n) 8 4) 8 12] else [])) ++
    (es.flatMap fun e => (ceShards e).flatMap fun x => x.2.map (·.2.2.2)) ++
    ((List.range 1024).filterMap fun l =>
      if bitOf (listLe ls (64 * l) 4) 0 then some (field (listLe ls (64 * l + 20) 4) 16 12) else none)).eraseDups

/-! ### Cores of the job -/

/-- The logical cores of the loaded job in order, with their physical cores where mapped. -/
def Chip.jobCores (s : Chip) : List (Nat × Nat × Nat) :=
  let w := imgW s.job.image
  let h := imgH s.job.image
  if s.job.st = .idle ∧ s.job.image.isEmpty then [] else
  (List.range (w * h)).filterMap fun n => (s.physOf (n % w) (n / w)).map fun p => (n % w, n / w, p)

def Chip.inJob (s : Chip) (p : Nat) : Bool := (s.jobCores).any fun c => c.2.2 == p

def Chip.chipOfRank (s : Chip) (r : Nat) : Nat :=
  if r = s.job.rank then s.id else ((s.job.chips.find? fun x => x.1 == r).map (·.2)).getD 0

/-- Reset of a core's units: work in flight, tiles, queue ends, chains, pairs, barriers, stash and grants go;
memories, registers of configuration, streams and counters stay (13 R459, R469; 04 R572). -/
def Core.resetUnits (c : Core) : Core :=
  let c := (List.range 16).foldl (fun c b => c.setReg (rBAR_STAT b) 0) c
  let c := (c.setReg rKRF_VR_WR 0).setReg rKRF_VR_RD 0
  { Core.reset with
    regs := c.regs, store := c.store
    seq := { iram := c.seq.iram, dram := c.seq.dram, csr := c.seq.csr, cycOff := c.seq.cycOff, instret := c.seq.instret
             tbBuf := c.seq.tbBuf, pc := 0xE000 }
    sctCfg := c.sctCfg, sctScale := c.sctScale
    ev := c.ev, upset := c.upset, nextHandle := c.nextHandle, nseq := c.nseq, step := c.step, good := c.good, fenced := c.fenced, cyc := c.cyc
    progAt := c.progAt, progStopped := c.progStopped, raised := c.raised }

/-- The job's units on a core are reset, without a fence; its grants are settled, and it discards the packets that are on
their way to it (09 R309). -/
def Chip.resetUnits (s : Chip) (p : Nat) : Chip := ((s.settleGrants p).onCore p Core.resetUnits).dropPackets p

/-- Block reset of a core: as above, its sequencer stops, and the core is fenced and not good (R459). -/
def Chip.blockResetCore (s : Chip) (p : Nat) : Chip :=
  (s.resetUnits p).onCore p fun c => { c.setField rSEQ_CTL 0 1 0 with fenced := true, good := false }

/-- VCF writes a register of a core by its fields; reserved bits stay (R441, R442). -/
def Core.vcfWrite (c : Core) (a v : Nat) : Core :=
  match findReg coreRegs a with
  | some r => c.setReg a (regWrite false r (c.reg a) v)
  | none => c

/-- VCF loads a layer's table entry. Rungs and LTn_CFG, and the two thresholds, land together, if they obey R203, R207 and
R216; an entry that breaks them leaves those registers as they are (DESIGN CHOICE, log 98: the order of VCF's writes). -/
def loadLayer (c : Core) (l cfg rungs twarn trej floor : Nat) : Core :=
  let rungs := (List.range 4).foldl (fun m i => m + field rungs (8 * i) 5 * 2 ^ (8 * i)) 0
  let c := if rungsOk rungs (field cfg 2 2) && decide (field cfg 4 2 ≤ field cfg 2 2) then
    (c.setReg (rLT_RUNGS l) rungs).setReg (rLT_CFG l) cfg else c
  let c := if posFinite twarn && posFinite trej && decide (twarn ≤ trej) then
    (c.setReg (rLT_TWARN l) twarn).setReg (rLT_TREJ l) trej else c
  ltWrite c l (rLT_FLOOR l) floor

/-- The job's settings on one core (R441, R442), at JOB_LOAD (`load`) or for a restore. The flags tell the slots that
start cold. -/
def loadCore (s : Chip) (e : List Byte) (load : Bool) (c : Core) : Core × List Nat :=
  let ls := jobLayers s.job.image
  let c := c.dropScales load
  let c := { c with
    seq := { c.seq with iram := Bytes.wrN c.seq.iram 0 (ceProg e), dram := Bytes.wrN c.seq.dram 0x10000 (ceData e) }
    store := (ceRuns e).1.foldl (fun (m : Bytes) (r : Nat × List Byte) => Bytes.wrN m r.1 r.2) c.store }
  let c := (List.range 4).foldl (fun c i => (c.setReg (rRS_KEY i) (listLe e (48 + 8 * i) 8)).setReg (rRS_CTR i) 0) c
  let c := (List.range 1024).foldl (fun c l =>
    let o := 64 * l
    let chip := s.chipOfRank (field (listLe ls (o + 20) 4) 16 12)
    let mine := bitOf (listLe e (112 + l / 8) 1) (l % 8)
    let cfg := setField (field (listLe ls o 4) 0 26) 1 1 (b2n mine)
    let c := loadLayer c l cfg (listLe ls (o + 4) 4) (listLe ls (o + 8) 4) (listLe ls (o + 12) 4) (listLe ls (o + 16) 4)
    let c := c.setReg (rLT_VHOME l) (field (listLe ls (o + 20) 4) 0 16 + chip * 2 ^ 16)
    (c.setReg (rLT_VCOUNT l) (field (listLe ls (o + 24) 4) 0 21)).setReg (rLT_SLOTS l) (listLe ls (o + 32) 8)) c
  let c := (c.krfWrite rKRF_BUF_BASE (listLe e 304 8)).krfWrite rKRF_BUF_SIZE (listLe e 312 2)
  let c := (c.vcfWrite rKRF_CFG (listLe e 314 1 + b2n (bitOf (listLe e 315 1) 0) * 2 ^ 8)).krfWrite rKRF_VR_BASE (listLe e 316 4)
  -- barriers, with their rank lists in the monitor region from 3F_8000h on
  let (c, at_) := (List.range 16).foldl (fun (acc : Core × Nat) b =>
    let (c, a) := acc
    let w := ceBar e b
    let v := listLe w 0 8
    let ranks := ceBarRanks e b
    let c := c.vcfWrite (rBAR_CFG b) (setField v 18 12 (s.chipOfRank (field v 18 12)))
    let c := c.setReg (rBAR_PLIST b) a
    let c := (List.range 4).foldl (fun c i => c.setReg (rBAR_MASK b i) (listLe w (16 + 8 * i) 8)) c
    ({ c with store := Bytes.wrN c.store a (ranks.flatMap fun r => leBytes 2 (s.chipOfRank r)) }, a + 2 * ranks.length)) (c, 0x3F8000)
  -- slots and shard lists
  let shards := ceShards e
  let (c, cold, _) := (List.range 64).foldl (fun (acc : Core × List Nat × Nat) n =>
    let (c, cold, a) := acc
    let w := ceSlot e n
    let link := listLe w 8 4
    let c := c.setReg (rSCT_CFG n) (sctCfgMerge (c.reg (rSCT_CFG n)) (listLe w 0 4))
    let (c, isCold) := sctLoad c n (listLe w 4 4)
    let c := c.vcfWrite (rSCT_LINK n) (setField link 8 12 (s.chipOfRank (field link 8 12)))
    let mine := (shards.find? fun x => x.1 == n).map (·.2) |>.getD []
    let c := c.setReg (rSCT_SHLIST n) (a + mine.length * 2 ^ 32)
    let bytes := mine.flatMap fun x => leBytes 4 (x.1 % 16 + x.2.1 % 16 * 16 + s.chipOfRank x.2.2.2 * 256 + x.2.2.1 % 64 * 2 ^ 20)
    ({ c with store := Bytes.wrN c.store a bytes }, (if isCold && decide (slotRecipe c n ≠ 0) then cold ++ [n] else cold), a + bytes.length))
    (c, [], (at_ + 3) / 4 * 4)
  let c := (c.setReg rPROG_LIMIT s.job.progUs).setReg rPROG_STAT 0
  ({ c with progAt := 0, progStopped := false }, cold)

/-- The stash settings of a logical core (R441, 10 R367). -/
def loadStash (s : Chip) (p : Nat) (e : List Byte) : Chip :=
  let g := fun o n => listLe e (240 + o) n
  let s := (s.setSth p rSTH_RING (g 0 8)).setSth p rSTH_SIZE (field (g 8 4) 0 20 + field (g 24 4) 0 22 * 2 ^ 32)
  let s := (s.setSth p rSTH_SPILL (g 16 8)).setSth p rSTH_WM (field (g 28 4) 0 20 + field (g 32 4) 0 20 * 2 ^ 20)
  let s := s.setSth p rSTH_CFG (field (g 36 1) 0 5 + field (g 40 4) 0 16 * 2 ^ 5)
  s.setSth p rSTH_HOLDMAX (field (g 44 4) 0 20)

def entryOf (s : Chip) (x y : Nat) : List Byte :=
  (jobEntries s.job.image s.job.rank).getD (y * imgW s.job.image + x) []

/-- Load of every mapped core of the job. -/
def loadCores (s : Chip) : Chip :=
  s.jobCores.foldl (fun s (x, y, p) =>
    let e := entryOf s x y
    let s := s.resetUnits p
    let (c, cold) := loadCore s e true (s.core p)
    let s := loadStash (s.setCore p c) p e
    cold.foldl (fun s n => s.log (.coldStart s.job.id x y n)) s) s

def initialCursors (s : Chip) : List (Nat × (Nat × Nat × Nat × Nat)) :=
  s.jobCores.map fun (x, y, _) =>
    let e := entryOf s x y
    (16 * y + x, (listLe e 80 4, listLe e 84 4, listLe e 88 8, listLe e 96 8))

/-- The INIT runs of the rank. -/
def initRuns : Nat → List Byte → List (Nat × List Byte)
  | 0, _ => []
  | n + 1, b => if b.length < 16 then [] else
    let len := listLe b 8 8
    (listLe b 0 8, (b.drop 16).take len) :: initRuns n (b.drop (16 + len))

def allInit (b : List Byte) (r : Nat) : List (Nat × List Byte) :=
  ((imgSections b).filter fun x => decide (x.ty = 5) && decide (x.rank = r)).flatMap fun x =>
    initRuns x.len ((b.drop x.off).take x.len)

/-! ### JOB_LOAD (R445) -/

/-- First address of the reserve windows that the job keeps (10 R347). -/
def Chip.reserveBase (s : Chip) : Nat :=
  let q := s.retCount
  s.reg rMEM_TOP - (List.range (field (s.reg rMEM_RESV) 0 6)).foldl (fun n i => n + windowGroups (q + i) * 2 ^ 21) 0

/-- The steps before the regions: a status and DETAIL, or none. -/
def loadCheck (img : List Byte) (digest rank parts accepted own : Nat) : Option (Nat × Nat) :=
  if Config.sha384 img ≠ digest ∨ !imgHeaderOk img then some (0xA, 0)
  else if listLe img 6 1 ≠ accepted ∧ listLe img 6 1 + 1 ≠ accepted then some (3, own)
  else if !imgTableOk img ∨ imgParts img ≠ parts then some (0xA, 0)
  else if rank ≥ imgParts img then some (4, 104)
  else none

/-- Snapshot settings of the job descriptor break R473 or R493. -/
def snpBad (d : List Byte) (parts : Nat) : Bool :=
  let en := listLe d 24 1
  let c0 := listLe d 28 2
  let c1 := listLe d 30 2
  let c2 := listLe d 32 2
  decide (en / 8 ≠ 0) || (bitOf en 2 && !bitOf en 1) || (bitOf en 0 && decide (parts = 1)) ||
  decide (c0 = 0) || decide (c1 = 0) || decide (c2 = 0) || decide (c2 % max 1 c1 ≠ 0)

/-- Base of layer-0 slot `k` of an image of `sz` bytes in a region. -/
def slotBase (base sz k : Nat) : Nat := base + k * (ceilDiv sz 4096 * 4096)

/-- The first kind-010b entry of the job that does not contain the staging pool: base and bytes (R440). -/
def localSnapRegion (img : List Byte) (r : Nat) : Option (Nat × Nat) :=
  let ps := partSec img r
  let stg := listLe ps 16 8
  ((partRegions ps).find? fun g => decide (g.2.2.1 = 2) && !(decide (g.1 ≤ stg) && decide (stg ≤ g.2.1 + 4095))).map
    fun g => (g.1, g.2.1 + 4096 - g.1)

/-- Regions in force, or a status (R440). -/
def loadRegions (s : Chip) (img : List Byte) (r : Nat) : Chip × Option (Nat × Nat) :=
  let rs := partRegions (partSec img r)
  let lim := min Config.jobLimit (min s.reserveBase (s.reg rMEM_TOP))
  let high := rs.any fun g => decide (g.1 < 2 ^ 40) && decide (g.2.1 + 4096 > lim)
  let small := rs.any fun g => decide (g.2.2.1 = 3) && decide (g.2.1 + 4096 - g.1 < 2 * (ceilDiv (partImgsz img g.2.2.2) 4096 * 4096))
  let noLocal := bitOf (listLe (jobDesc img) 24 1) 0 && (match localSnapRegion img r with
    | some (_, n) => decide (n < 2 * (ceilDiv (partImgsz img r) 4096 * 4096))
    | none => true)
  if high || small || noLocal then (s, some (7, 0)) else
  rs.foldl (fun (acc : Chip × Option (Nat × Nat)) g =>
    match acc with
    | (s, some e) => (s, some e)
    | (s, none) =>
      match (List.range 32).find? fun n => !bitOf (s.reg (rMEM_RGN_CTL n)) 3 with
      | none => (s, some (7, 0))
      | some n =>
        let s := (s.setReg (rMEM_RGN_BASE n) (field g.1 12 36 * 4096)).setReg (rMEM_RGN_LIMIT n) (field g.2.1 12 36 * 4096)
        let partner := if g.2.2.1 = 3 then s.chipOfRank g.2.2.2 else 0
        let s' := memRgnCtlWrite s n (g.2.2.1 % 8 + 8 + partner * 2 ^ 4)
        if bitOf (s'.reg (rMEM_RGN_CTL n)) 3 then (s', none) else (s', some (0xA, 0))) (s, none)

/-- Has every named rank announced itself? -/
def Chip.ranksKnown (s : Chip) : Bool :=
  (namedRanks s.job.image s.job.rank).all fun r => decide (r = s.job.rank) || s.job.chips.any fun x => x.1 == r

/-- The job is given up: nothing of it stays. -/
def Chip.jobDrop (s : Chip) : Chip :=
  let s := (List.range 32).foldl (fun s n =>
    let k := field (s.reg (rMEM_RGN_CTL n)) 0 3
    if 1 ≤ k ∧ k ≤ 4 then s.setField (rMEM_RGN_CTL n) 3 1 0 else s) s
  { memJobstWrite s 0 with job := { tick := s.job.tick }, snp := {} }

/-- The regions that name partners by chip, once the chips are known (R440). -/
def Chip.partnerRegions (s : Chip) : Chip :=
  (partRegions (partSec s.job.image s.job.rank)).foldl (fun s g =>
    if g.2.2.1 ≠ 3 then s else
    match (List.range 32).find? fun n => decide (s.reg (rMEM_RGN_BASE n) = field g.1 12 36 * 4096) && bitOf (s.reg (rMEM_RGN_CTL n)) 3 with
    | some n => s.setField (rMEM_RGN_CTL n) 4 12 (s.chipOfRank g.2.2.2)
    | none => s) s

/-- Steps 4 to 6 of R445: the map, the loads, PHASE 10b. A status tells a grid with too few good cores or
snapshot settings that break their rules. -/
def loadFinish (s : Chip) : Chip × Option (Nat × Nat) :=
  let img := s.job.image
  let s := s.partnerRegions.remap (imgW img) (imgH img)
  let d := jobDesc img
  if s.jobCores.length < imgW img * imgH img then (s.jobDrop, some (7, 0))
  else if snpBad d (imgParts img) then (s.jobDrop, some (4, 0))
  else
    let s := (allInit img s.job.rank).foldl (fun (s : Chip) (r : Nat × List Byte) => s.memWrTry r.1 r.2) s
    let s := loadCores s
    let s := s.setReg rSNP_CTL (listLe d 24 1)
    let s := s.setReg rSNP_CAD (listLe d 28 2 + listLe d 30 2 * 2 ^ 16 + listLe d 32 2 * 2 ^ 32)
    let ps := partSec img s.job.rank
    let s := (s.setReg rSNP_STAGE_BASE (field (listLe ps 16 8) 12 36 * 4096)).setReg rSNP_STAGE_SIZE (field (listLe ps 24 8) 0 20)
    let s := (List.range 3).foldl (fun s l => s.setReg (rSNP_LAST l) 0) s
    let s := s.setField rMEM_STAT 9 6 (field (s.reg rMEM_RESV) 0 6)
    let s := memJobstWrite s 2
    ({ s with job := { s.job with st := .loaded, cursors := initialCursors s }, snp := {} }, none)

/-! ### Steps -/

/-- A monitor starts its program in U-mode (R445; 14 R485). -/
def Core.startProgram (c : Core) (pc : Nat) : Core :=
  let c := c.setField rSEQ_CTL 0 1 1
  { c with seq := { c.seq with x := [], pc := BitVec.ofNat 32 pc, uMode := true, stall := none, resv := none } }

/-- Step begin on every core: the step information block and bit 0 of MBX_DB_R (R447). The core concludes, for every
chain, the passes of the unchecked layers below its first checked one (06 R205). -/
def Chip.stepBegin (s : Chip) (step base : Nat) : Chip :=
  s.jobCores.foldl (fun s (x, y, p) =>
    let e := entryOf s x y
    let s := if s.job.resume then s.onCore p fun c => c.startProgram (listLe e 8 4) else s
    let s := s.onCore p fun c =>
      (List.range 64).foldl concludePasses
        { c with store := Bytes.wrN c.store (listLe e 12 4) (leBytes 8 step ++ leBytes 8 base ++ List.replicate 48 0), step := step }
    s.doorbell (.core p) true 1 0) s

/-- The coordinator's rank: 0, or the lowest surviving one while rank 0 is lost (12 R434; 14 R491). -/
def Chip.coordRank (s : Chip) : Nat := ((List.range s.job.parts).find? fun r => !s.job.lost.contains r).getD 0

/-- Is the part the job's coordinator? -/
def Chip.coordinator (s : Chip) : Bool := decide (s.job.rank = s.coordRank)

def jobStCode : JobSt → Nat
  | .idle => 0 | .loaded => 1 | .paused => 2 | .running => 3 | .waiting => 4

/-! ### The data source (R444) -/

/-- The shard order of an epoch. -/
def shardSwaps (seed : DWord) (ctr : DWord) : Nat → List Nat → List Nat
  | 0, ord => ord
  | i + 1, ord =>
    let r := rsDraw seed ctr
    let j := r * (i + 2) / 2 ^ 32
    let a := ord.getD (i + 1) 0
    let b := ord.getD j 0
    shardSwaps seed (ctr + 1) i ((ord.set (i + 1) b).set j a)

def shardOrder (n epoch : Nat) (seed : DWord) : List Nat :=
  shardSwaps seed (BitVec.ofNat 64 (epoch * 2 ^ 32)) (n - 1) (List.range n)

/-- Length of shard `k` of the DATASRC section. -/
def shardLen (d : List Byte) (k : Nat) : Nat := listLe d (8 + 48 * k + 40) 8

/-- The cursor after `b` bytes: `fuel` bounds the shards that are crossed. -/
def advanceCursor (d : List Byte) : Nat → Nat → (Nat × Nat × Nat × Nat) → (Nat × Nat × Nat × Nat)
  | 0, _, c => c
  | fuel + 1, b, (shard, epoch, off, seed) =>
    let n := listLe d 0 4
    let k := (shardOrder n epoch (BitVec.ofNat 64 seed)).getD shard 0
    let left := shardLen d k - off
    if b < left then (shard, epoch, off + b, seed)
    else
      let next := if shard + 1 < n then (shard + 1, epoch, 0, seed) else (0, epoch + 1, 0, seed)
      advanceCursor d fuel (b - left) next

end Sys2Proof.Machine
end

