-- ==== Sys2Proof/Machine/Channels.lean ====
section
/-!
DEFINITION. Channels, rings and completion records (12 R417-R420, R426-R432), and how VCF takes a client's
next command.
-/
namespace Sys2Proof.Machine

/-! ### Rings in client buffers and core store -/

def Chip.buf (s : Chip) (c : Nat) : Bytes := Map.get (fun _ => ([] : Bytes)) s.vcf.bufs c
def Chip.setBuf (s : Chip) (c : Nat) (b : Bytes) : Chip :=
  { s with vcf := { s.vcf with bufs := Map.put (fun _ => ([] : Bytes)) s.vcf.bufs c b } }

/-- The memory that holds a mailbox's rings. -/
def Chip.ringMem (s : Chip) (m : Mbx) : Bytes :=
  match m with | .core p => (s.core p).store | .chip n => s.buf (n - 8)

def Chip.chRd (s : Chip) (m : Mbx) (a n : Nat) : Nat := Bytes.rdLe (s.ringMem m) a n
def Chip.chWrN (s : Chip) (m : Mbx) (a : Nat) (bs : List Byte) : Chip :=
  match m with | .core p => s.onCore p fun c => c.unitWr a bs | .chip n => s.setBuf (n - 8) (Bytes.wrN (s.buf (n - 8)) a bs)
def Chip.chWr (s : Chip) (m : Mbx) (a n v : Nat) : Chip := s.chWrN m a (leBytes n v)

/-- Where a channel's control block lies (R425, R441). -/
def Chip.chanBase (s : Chip) (m : Mbx) (ch : Nat) : Nat :=
  match m with
  | .core p => match s.logOf p with
    | some (x, y) => listLe (entryOf s x y) 16 4 + 64 * ch
    | none => 0
  | .chip _ => 0x40 * ch

/-- Ring entries E. -/
def Chip.chanE (s : Chip) (m : Mbx) (ch : Nat) : Nat := max 1 (s.chRd m (s.chanBase m ch + 2) 2)

def viewKey (m : Mbx) (ch : Nat) : Nat := match m with | .core p => 4096 + 32 * p + ch | .chip n => 32 * (n - 8) + ch
def Chip.view (s : Chip) (m : Mbx) (ch : Nat) : ChanView := Map.get (fun _ => ChanView.reset) s.vcf.views (viewKey m ch)
def Chip.setView (s : Chip) (m : Mbx) (ch : Nat) (v : ChanView) : Chip :=
  { s with vcf := { s.vcf with views := Map.put (fun _ => ChanView.reset) s.vcf.views (viewKey m ch) v } }

/-- Initialisation of client channel `ch` (R417, R425). -/
def Chip.chanInit (s : Chip) (c ch : Nat) : Chip :=
  let m := Mbx.chip (8 + c)
  let cb := leBytes 2 1 ++ leBytes 2 64 ++ leBytes 4 (s.reg rSEC_BOOTCNT) ++ List.replicate 16 0 ++
    leBytes 4 (0x10000 + 0x1800 * ch) ++ leBytes 4 (0x10800 + 0x1800 * ch) ++ List.replicate 32 0
  let s := s.chWrN m (0x40 * ch) cb
  let s := s.chWrN m (0x10800 + 0x1800 * ch) (List.replicate 4096 0)
  s.setView m ch ChanView.reset

/-- A 32-bit difference of indices. -/
def idxSub (a b : Nat) : Nat := (a + 2 ^ 32 - b % 2 ^ 32) % 2 ^ 32

/-- The channel stops (R420). -/
def Chip.chanError (s : Chip) (m : Mbx) (ch cause : Nat) : Chip :=
  let s := s.chWr m (s.chanBase m ch + 32) 1 cause
  let n := match m with | .core p => p | .chip n => n
  (s.log (.channelError n ch cause)).raise evChannel 0 0

/-- Is channel `ch` of a core mailbox served (R448)? -/
def coreServed (ch : Nat) : Bool := ch == 1 || ch == 2

/-- Slots newly acknowledged are reclaimed: VALID 0, SEQ unchanged (R430). -/
def Chip.reclaimSlots (s : Chip) (m : Mbx) (ch : Nat) : Chip :=
  let v := s.view m ch
  let e := s.chanE m ch
  let cpl := s.chRd m (s.chanBase m ch + 28) 4
  let n := min (idxSub v.ack v.reclaimed) e
  let s := (List.range n).foldl (fun s k =>
    let i := (v.reclaimed + k) % 2 ^ 32
    s.chWr m (cpl + 64 * (i % e) + 60) 4 0) s
  s.setView m ch { v with reclaimed := v.ack }

/-- CHANNEL_NOTICE: the active Steward takes the notice of a forward bank: the bit is cleared, then the indices
are read; a breach stops the channel (R419, R420, R430). -/
def channelNoticeCmd (s : Chip) (m : Mbx) (ch : Nat) : Chip :=
  if ch ≥ 32 ∨ !bitOf (s.mbxPend m false) ch then s else
  let s := s.doorbell m false 0 (2 ^ ch)
  let served := match m with | .core _ => coreServed ch | .chip n => decide (8 ≤ n) && decide (n < 16)
  if !served then s else
  let b := s.chanBase m ch
  if s.chRd m (b + 32) 1 ≠ 0 ∨ s.chRd m (b + 2) 2 = 0 then s else
  let prod := s.chRd m (b + 8) 4
  let ack := s.chRd m (b + 20) 4
  if idxSub prod (s.chRd m (b + 12) 4) > s.chanE m ch then s.chanError m ch 1
  else if idxSub (s.chRd m (b + 16) 4) ack > s.chanE m ch then s.chanError m ch 2
  else (s.setView m ch { s.view m ch with prod := prod, ack := ack }).reclaimSlots m ch

/-- A completion record, the VALID word last; then CPL_PROD and the return doorbell (R427, R428). -/
def Chip.complete (s : Chip) (m : Mbx) (ch idx seq status detail : Nat) (result : List Byte) : Chip :=
  let b := s.chanBase m ch
  let a := s.chRd m (b + 28) 4 + 64 * (idx % s.chanE m ch)
  let rec_ := leBytes 4 status ++ leBytes 4 detail ++ leBytes 8 (s.now) ++ fitBytes 40 result ++ leBytes 8 (seq % 2 ^ 32 + 2 ^ 63)
  let s := s.chWrN m a rec_
  let s := s.chWr m (b + 16) 4 ((idx + 1) % 2 ^ 32)
  s.doorbell m true (2 ^ ch) 0

/-- The command at the head of a channel, if VCF may start it: index and descriptor address (R426). -/
def Chip.headCmd (s : Chip) (m : Mbx) (ch : Nat) : Option (Nat × Nat) :=
  let b := s.chanBase m ch
  let i := s.chRd m (b + 12) 4
  let v := s.view m ch
  let busy := match m with
    | .chip n => s.vcf.running.any fun r => decide (r.c = n - 8) && decide (r.ch = ch)
    | .core _ => false
  if i = v.prod ∨ s.chRd m (b + 32) 1 ≠ 0 ∨ idxSub i v.ack ≥ s.chanE m ch ∨ busy = true then none
  else some (i, s.chRd m (b + 24) 4 + 32 * (i % s.chanE m ch))

/-- The descriptor is taken: CMD_CONS advances. -/
def Chip.takeCmd (s : Chip) (m : Mbx) (ch : Nat) : Chip :=
  let b := s.chanBase m ch
  s.chWr m (b + 12) 4 ((s.chRd m (b + 12) 4 + 1) % 2 ^ 32)

/-! ### Client commands -/

/-- The payload area (R425). -/
def inPayload (a n : Nat) : Bool := decide (0x40000 ≤ a) && decide (a + n ≤ 0x80000)

/-- Group of an opcode (R433); none for a reserved one. -/
def opGroup (op : Nat) : Option Nat :=
  if op = 1 ∨ op = 2 ∨ op = 0x50 then some 0
  else if op = 0x10 ∨ op = 0x11 ∨ op = 0x12 ∨ op = 0x20 ∨ op = 0x21 ∨ op = 0x30 ∨ op = 0x31 then some 1
  else if op = 0x40 ∨ op = 0x41 ∨ op = 0x60 ∨ op = 0x90 then some 2
  else if op = 0x70 ∨ op = 0x71 ∨ op = 0x72 then some 3
  else if op = 0x80 ∨ op = 0x81 then some 4 else none

/-- Reserved byte ranges of a command's fields, beside 8-15 of the header (R431, R435). -/
def opReserved (op : Nat) (g : List Byte) : Option Nat :=
  if nz g 8 8 then some 8
  else if op = 0x10 ∧ nz g 17 7 then some 17
  else if op = 0x30 ∧ nz g 17 7 then some 17
  else if op = 0x31 ∧ nz g 17 7 then some 17
  else if op = 0x40 ∧ dLe g 18 1 / 2 ≠ 0 then some 18
  else if op = 0x70 ∧ nz g 18 6 then some 18
  else none

/-- IFMAJ, IFMIN and release of the running Steward image. -/
def Chip.vcfVer (s : Chip) : Nat × Nat × Nat := s.vcf.ver.getD (b2n s.activeB) (2, 0, 0)
def Chip.verWord (s : Chip) : Nat := s.vcfVer.1 * 256 + s.vcfVer.2.1

def RunCmd.m (r : RunCmd) : Mbx := .chip (8 + r.c)

/-- VCF completes a command, which then is no longer running. -/
def Chip.finish (s : Chip) (r : RunCmd) (status detail : Nat) (result : List Byte) : Chip :=
  let s := { s with vcf := { s.vcf with running := s.vcf.running.filter fun q => !(decide (q.c = r.c) && decide (q.ch = r.ch)) } }
  s.complete r.m r.ch r.idx (r.idx + 1) status detail result

/-- The command goes on: VCF keeps it. -/
def Chip.keep (s : Chip) (r : RunCmd) : Chip := { s with vcf := { s.vcf with running := s.vcf.running ++ [r] } }

/-- Does the command's job state or place forbid it (R433, R434)? -/
def Chip.stateBad (s : Chip) (op : Nat) : Bool :=
  let st := s.job.st
  let co := s.coordinator
  if op = 0x10 then decide (st ≠ .idle)
  else if op = 0x11 then decide (st ≠ .loaded) || !co
  else if op = 0x12 then !(st == .loaded || st == .paused || st == .waiting)
  else if op = 0x20 then decide (st ≠ .paused) || !co
  else if op = 0x21 then decide (st = .idle) || !co
  else if op = 0x30 then !(st == .paused || st == .running) || !co
  else if op = 0x31 then !(st == .paused || st == .waiting) || !co
  else false

/-- VCF takes the next command of client mailbox `c`, channel `ch`, if its opcode is `op` (or if it completes
with an error whatever its opcode), and runs it. In hold mode the hold service answers (13 R464). -/
def vcfCmd (s : Chip) (c ch op : Nat) (run : Chip → RunCmd → Chip) : Chip :=
  let m := Mbx.chip (8 + c)
  if c ≥ 8 ∨ ch ≥ 32 ∨ s.pins.power ≠ .ready ∨ s.vcf.draining then s else
  match s.headCmd m ch with
  | none => s
  | some (i, d) =>
    let seq := s.chRd m d 4
    let len := s.chRd m (d + 4) 4
    let ptr := s.chRd m (d + 8) 8
    let r0 : RunCmd := { c := c, ch := ch, idx := i, op := op, msg := [] }
    let fail := fun st det => (s.takeCmd m ch).finish r0 st det []
    if seq ≠ (i + 1) % 2 ^ 32 then fail 1 seq
    else if len < 16 ∨ len > 65536 then fail 4 4
    else if ptr ≥ 2 ^ 22 ∨ !inPayload ptr len then fail 4 8
    else if s.chRd m (d + 16) 16 ≠ 0 then fail 4 16
    else
      let g := Bytes.rdN (s.ringMem m) ptr len
      let o := listLe g 0 2
      let maj := listLe g 2 1
      let min_ := listLe g 3 1
      let r : RunCmd := { c := c, ch := ch, idx := i, op := op, msg := g }
      if !(decide (maj = s.vcfVer.1) && decide (min_ ≤ s.vcfVer.2.1)) && decide (maj + 1 ≠ s.vcfVer.1) then fail 3 s.verWord
      else match opGroup o with
        | none => fail 2 o
        | some grp =>
          if o ≠ op then s
          else if s.hold ∧ !(o == 1 || o == 2 || o == 0x50) then fail 6 0xFFFF
          else if !bitOf (s.reg (rMBX_CL_CFG c)) (8 + grp) then fail 5 grp
          else match opReserved o g with
            | some off => fail 4 off
            | none =>
              if s.stateBad o then fail 6 (jobStCode s.job.st)
              else run (s.takeCmd m ch) r

end Sys2Proof.Machine
end

