-- ==== Sys2Proof/Machine/Snapshot.lean ====
section
/-!
DEFINITION. The snapshot engine: part images, captures and their commits, copy on first touch, uploads, and
the restore of a part (14 R473-R493; 12 R436).
-/
namespace Sys2Proof.Machine

/-! ### Part images (R478, R479) -/

def snpCad (s : Chip) (l : Nat) : Nat := field (s.reg rSNP_CAD) (16 * l) 16
def snpEn (s : Chip) (l : Nat) : Bool := bitOf (s.reg rSNP_CTL) l

/-- Pages of the snapshot set: those of the confirmed-only regions (R476). -/
def Chip.snpRuns (s : Chip) : List (Nat × Nat) :=
  ((List.range 32).filterMap fun n =>
    let c := s.reg (rMEM_RGN_CTL n)
    if bitOf c 3 ∧ field c 0 3 = 1 then
      let b := s.reg (rMEM_RGN_BASE n) / 4096
      some (b, s.reg (rMEM_RGN_LIMIT n) / 4096 + 1 - b)
    else none).mergeSort (fun x y => decide (x.1 ≤ y.1))

def Chip.snpPages (s : Chip) : List Nat := s.snpRuns.flatMap fun r => (List.range r.2).map (r.1 + ·)

/-- A page as it stood at the boundary. -/
def Chip.snpPage (s : Chip) (g : Nat) : List Byte :=
  match s.snp.staged.find? fun x => x.1 == g with
  | some x => x.2
  | none => s.bytesAt (4096 * g) 4096

def regionSection (s : Chip) : List Byte :=
  (s.snpRuns.flatMap fun r => leBytes 8 (4096 * r.1) ++ leBytes 8 r.2) ++ s.snpPages.flatMap s.snpPage

/-- Bases of the four loop-nest descriptor banks. -/
def lndBases : List Nat := [0x10000, 0x20000, 0x30000, 0x40000]

/-- The core record of a logical core. -/
def coreRecord (c : Core) (x y persOff persLen : Nat) : List Byte :=
  leBytes 1 x ++ leBytes 1 y ++ leBytes 2 1 ++ leBytes 4 (c.reg rVU_FCSR) ++
  ((List.range 4).flatMap fun i => leBytes 8 (c.reg (rRS_KEY i))) ++
  ((List.range 4).flatMap fun i => leBytes 8 (c.reg (rRS_CTR i))) ++
  leBytes 4 persOff ++ leBytes 4 persLen ++
  ((List.range 16).flatMap fun n => leBytes 8 (c.reg (rQE_CFG n))) ++ List.replicate 48 0 ++
  (lndBases.flatMap fun b => (List.range 15).flatMap fun d =>
    leBytes 4 (c.reg (b + 0x1040 + 0x40 * d)) ++ leBytes 4 0 ++
    (List.range 6).flatMap fun l => leBytes 8 (c.reg (b + 0x1048 + 0x40 * d + 8 * l))) ++
  List.replicate 480 0 ++ Bytes.rdN c.seq.dram 0x10000 61440 ++ Bytes.rdN c.store persOff persLen

/-- The records that the monitors stage (R480 step 2): CORE, SLOT, LADDER, CURSOR. -/
def stageRecords (s : Chip) : List (Nat × List Byte) :=
  let cs := s.jobCores
  [(2, cs.flatMap fun (x, y, p) =>
      let e := entryOf s x y
      coreRecord (s.core p) x y (listLe e 20 4) (listLe e 24 4)),
   (3, cs.flatMap fun (_, _, p) => (List.range 64).flatMap (slotRecord (s.core p))),
   (4, match cs with
      | (_, _, p) :: _ => (List.range 1024).flatMap fun l =>
          let v := (s.core p).reg (rLT_CFG l)
          leBytes 4 (field v 4 2 + field v 14 8 * 4)
      | [] => List.replicate 4096 0),
   (5, cs.flatMap fun (x, y, _) => match (s.job.cursors.find? fun c => c.1 == 16 * y + x) with
      | some (_, sh, ep, off, seed) => leBytes 4 sh ++ leBytes 4 ep ++ leBytes 8 off ++ leBytes 8 seed ++ List.replicate 8 0
      | none => List.replicate 32 0)]

def secVer (ty : Nat) : Nat := if ty = 3 then 2 else 1

/-- Section entries of a manifest, the sections packed from `off` on. -/
def secEntries : List (Nat × List Byte) → Nat → List Byte
  | [], _ => []
  | (ty, b) :: rest, off =>
    leBytes 2 ty ++ leBytes 2 (secVer ty) ++ leBytes 4 0 ++ leBytes 8 off ++ leBytes 8 b.length ++
      leBytes 48 (Config.sha384 b) ++ leBytes 8 0 ++ secEntries rest (off + b.length)

/-- A part image: manifest, then the sections (R478). -/
def makeImage (s : Chip) (layer step : Nat) (secs : List (Nat × List Byte)) : List Byte :=
  let head := leBytes 4 0x50414E53 ++ leBytes 2 3 ++ leBytes 1 layer ++ leBytes 1 0 ++ leBytes 8 step ++
    leBytes 4 s.job.id ++ leBytes 4 s.job.rank ++ leBytes 4 s.job.parts ++
    leBytes 1 (imgW s.job.image) ++ leBytes 1 (imgH s.job.image) ++ leBytes 2 secs.length ++
    leBytes 48 s.job.digest ++ List.replicate 48 0
  let man := head ++ fitBytes 1280 (secEntries secs 1456)
  man ++ leBytes 48 (Config.sha384 man) ++ secs.flatMap (·.2)

/-- The same image in another layer. -/
def relayer (img : List Byte) (layer : Nat) : List Byte :=
  let man := (img.take 6) ++ leBytes 1 layer ++ (img.take 1408).drop 7
  man ++ leBytes 48 (Config.sha384 man) ++ img.drop 1456

/-- Base of this part's layer-0 slot `k`, and the image size (R440). -/
def localSlot (s : Chip) (k : Nat) : Option Nat :=
  (localSnapRegion s.job.image s.job.rank).map fun r => slotBase r.1 (partImgsz s.job.image s.job.rank) k

/-! ### Captures (R480-R483) -/

/-- The slot of a layer that the next capture writes holds no image until that capture's manifest is written (R478, R481). -/
def clearSlot (s : Chip) (layer : Nat) : Chip :=
  let k := 1 - s.snp.slot.getD layer 0
  if layer = 0 then match localSlot s k with
    | some a => s.memWrTry a (leBytes 4 0)
    | none => s
  else { s with snp := { s.snp with l1 := s.snp.l1.filter fun x => x.1 ≠ k } }

/-- Layers due at boundary `step`: enabled layers on their cadence, and those a SNAP_TAKE names; layer 2 is
never captured (R473, R475). -/
def layersDue (s : Chip) (step : Nat) : List Nat :=
  [0, 1].filter fun l =>
    (snpEn s l && decide (step % max 1 (snpCad s l) = 0)) || s.snp.asked.contains l || (l == 1 && s.snp.asked.contains 2)

/-- A SNAP_TAKE whose capture or upload is not made completes without resource (log 41). -/
def failSnapTake (s : Chip) (layer : Nat) : Chip :=
  (s.vcf.running.filter fun r => decide (r.op = 0x30) && decide (listLe r.msg 16 1 = layer)).foldl (fun s r => s.finish r 7 0 []) s

/-- The running upload is abandoned (R475). -/
def Chip.abandonUpload (s : Chip) : Chip :=
  match s.snp.upload with
  | none => s
  | some (k, _) =>
    ((failSnapTake { s with snp := { s.snp with upload := none } } 2 |>.setField rSNP_STAT 3 1 0).bump rSNP_ABORT_CNT 1).log (.snapAbandoned k 2)

/-- The capture of boundary `step` starts: protection, staged records, MAGIC of the slots cleared. -/
def captureStart (s : Chip) (step : Nat) : Chip :=
  let due := layersDue s step
  if due.isEmpty then { s with snp := { s.snp with asked := [], want2 := false } } else
  let s := match s.snp.upload with
    | some (_, k) => if due.contains 1 && decide (k = 1 - s.snp.slot.getD 1 0) then s.abandonUpload else s
    | none => s
  let s := due.foldl clearSlot s
  let s := { s with snp := { s.snp with
    prot := s.snpPages, staged := [], sections := stageRecords s, step := step, due := due, doneL := []
    reports := [], want2 := s.snp.asked.contains 2, asked := [] } }
  let st := s.reg rSNP_STAT
  s.setReg rSNP_STAT (field st 3 1 * 8 + 1 + (b2n (due.contains 0) + 2 * b2n (due.contains 1)) * 16 + step % 2 ^ 48 * 256)

/-- When no destination is left to write, protection and staging end. -/
def captureRelease (s : Chip) : Chip :=
  if !s.snp.due.isEmpty then s else
  ({ s with snp := { s.snp with prot := [], staged := [], sections := [] } }.setField rSNP_STAT 2 1 0).setField rSNP_STAT 0 1
    (b2n (!s.snp.doneL.isEmpty))

/-- Is the capture of the last boundary still to be committed somewhere on this part? -/
def Chip.captureOpen (s : Chip) : Bool := !s.snp.due.isEmpty || !s.snp.doneL.isEmpty

/-- Have all ranks reported a layer of a step? -/
def allReported (s : Chip) (layer step : Nat) : Bool :=
  (List.range s.job.parts).all fun r => s.snp.reports.any fun x => decide (x = (r, step, layer))

/-- This part's image is complete: it reports to the coordinator. -/
def captureReport (s : Chip) (step layer : Nat) : Chip :=
  if s.coordinator then { s with snp := { s.snp with reports := (s.job.rank, step, layer) :: s.snp.reports } }
  else s.emit (.steward (.captureReport s.job.rank step layer) s.coordRank)

/-- CAPTURE_COMPLETE of a layer on this part (R480 steps 5 and 6). -/
def captureCompleteCmd (s : Chip) (layer : Nat) : Chip :=
  if !s.snp.due.contains layer then s else
  let img := makeImage s layer s.snp.step ((1, regionSection s) :: s.snp.sections)
  let k := 1 - s.snp.slot.getD layer 0
  let n := s.snpPages.length
  let s := if layer = 0 then
      (match localSlot s k with
        | some a => s.memWrTry a img
        | none => s).emit (.image 0 (partPartner s.job.image s.job.rank) img)
    else ({ s with snp := { s.snp with l1 := (k, img) :: s.snp.l1.filter fun x => x.1 ≠ k } }).emit (.image layer s.job.rank img)
  let s := s.bump rSNP_PAGE_CNT (if layer = 0 then 2 * n else n)
  let s := { s with snp := { s.snp with due := s.snp.due.filter (· ≠ layer), doneL := layer :: s.snp.doneL } }
  captureReport (captureRelease s) s.snp.step layer

/-- A running SNAP_TAKE of the layer completes with its identifier (12 R435). -/
def finishSnapTake (s : Chip) (layer step : Nat) : Chip :=
  (s.vcf.running.filter fun r => decide (r.op = 0x30) && decide (listLe r.msg 16 1 = layer)).foldl (fun s r =>
    s.finish r 0 0 (leBytes 8 (step % 2 ^ 48 + layer * 2 ^ 48) ++ leBytes 8 step)) s

/-- The layer's latest commit. -/
def setLast (s : Chip) (layer step : Nat) : Chip := s.setReg (rSNP_LAST layer) (step % 2 ^ 48 + 2 ^ 63)

/-- A background layer-2 upload starts from the layer-1 copy just committed, unless one runs (R475). -/
def uploadStart (s : Chip) (step : Nat) : Chip :=
  let want := s.snp.want2 || (snpEn s 2 && decide (step % max 1 (snpCad s 2) = 0))
  let s := { s with snp := { s.snp with want2 := false } }
  if !want then s
  else if s.snp.upload.isSome then failSnapTake (s.log (.snapSkipped step)) 2
  else { s with snp := { s.snp with upload := some (step, s.snp.slot.getD 1 0) } }.setField rSNP_STAT 3 1 1

/-- The capture of a layer is committed on this part. -/
def commitLayer (s : Chip) (layer step : Nat) : Chip :=
  let s := { s with snp := { s.snp with doneL := s.snp.doneL.filter (· ≠ layer), slot := s.snp.slot.set layer (1 - s.snp.slot.getD layer 0) } }
  let s := finishSnapTake (setLast s layer step) layer step
  let s := captureRelease s
  if layer = 1 then uploadStart s step else s

/-- Every other rank of the job. -/
def Chip.otherRanks (s : Chip) : List Nat := (List.range s.job.parts).filter (· ≠ s.job.rank)
def Chip.tellAll (s : Chip) (m : StewardMsg) : Chip := s.otherRanks.foldl (fun s r => s.emit (.steward m r)) s

/-- CAPTURE_COMMIT: every rank's part image of the step and layer is complete. -/
def captureCommitCmd (s : Chip) (layer : Nat) : Chip :=
  if !s.coordinator || !s.snp.doneL.contains layer || !allReported s layer s.snp.step then s
  else (commitLayer s layer s.snp.step).tellAll (.captureCommitted s.snp.step layer)

/-- DESTINATION_FAIL (R483): the layer is abandoned for this boundary; the job goes on. -/
def destinationFailCmd (s : Chip) (layer : Nat) : Chip :=
  if layer = 2 then s.abandonUpload
  else if !s.snp.due.contains layer then s else
  let s := { s with snp := { s.snp with due := s.snp.due.filter (· ≠ layer) } }
  captureRelease (failSnapTake ((s.bump rSNP_ABORT_CNT 1).log (.snapAbandoned s.snp.step layer)) layer)

/-- A running capture is abandoned whole (R487); no slot that it wrote holds a usable image (R483). -/
def captureAbandon (s : Chip) : Chip :=
  let ls := s.snp.due ++ s.snp.doneL
  let s := s.snp.doneL.foldl clearSlot s
  let s := ls.foldl (fun s l => (failSnapTake s l |>.bump rSNP_ABORT_CNT 1).log (.snapAbandoned s.snp.step l)) s
  captureRelease { s with snp := { s.snp with due := [], doneL := [], reports := [] } }

/-- LAYER2_UPLOAD_DONE: the upload completes; the layer commits once every rank has reported. -/
def uploadDoneCmd (s : Chip) : Chip :=
  match s.snp.upload with
  | none => s
  | some (step, k) =>
    let img := match s.snp.l1.find? fun x => x.1 == k with | some x => relayer x.2 2 | none => []
    let s := { s with snp := { s.snp with upload := none } }.setField rSNP_STAT 3 1 0
    let s := captureReport (s.emit (.image 2 s.job.rank img)) step 2
    if s.coordinator && allReported s 2 step then
      (finishSnapTake (setLast s 2 step) 2 step).tellAll (.captureCommitted step 2)
    else s

/-- COW_COPY_DONE: the page at an address is in the staging pool, its protection ends, and the held writes go on
(R482). -/
def cowCopyCmd (s : Chip) (a : Nat) : Chip :=
  let g := a / 4096
  if !s.snp.prot.contains g ∨ s.stagedPages ≥ field (s.reg rSNP_STAGE_SIZE) 0 20 then s else
  let s := { s with snp := { s.snp with
    prot := s.snp.prot.filter (· ≠ g), staged := s.snp.staged ++ [(g, s.bytesAt (4096 * g) 4096)] } }
  (s.bump rSNP_COW_CNT 1).setField rSNP_STAT 2 1 0

/-! ### Registers (R493) -/

/-- A write of SNP_CTL, SNP_CAD or a staging register: by VCF, while no job runs; one that breaks a rule is
ignored whole. A job of one part runs with layer 0 disabled. -/
def snpWrite (s : Chip) (a v : Nat) : Chip :=
  if s.job.st = .running then s
  else if a = rSNP_CTL then
    if bitOf v 2 && !bitOf v 1 || (bitOf v 0 && decide (s.job.st ≠ .idle) && decide (s.job.parts = 1)) then s else s.setReg a (field v 0 3)
  else if a = rSNP_CAD then
    let c := fun l => field v (16 * l) 16
    if c 0 = 0 ∨ c 1 = 0 ∨ c 2 = 0 ∨ c 2 % max 1 (c 1) ≠ 0 then s else s.setReg a (field v 0 48)
  else if a = rSNP_STAGE_BASE then s.setReg a (field v 12 36 * 4096)
  else if a = rSNP_STAGE_SIZE then if field v 0 20 = 0 then s else s.setReg a (field v 0 20)
  else s

/-! ### Restore (R484-R489) -/

/-- Section entry `i` of a manifest: type, version, and its bytes if its digest is right. -/
def secOf (img : List Byte) (i : Nat) : Nat × Nat × Option (List Byte) :=
  let o := 128 + 80 * i
  let b := (img.drop (listLe img (o + 8) 8)).take (listLe img (o + 16) 8)
  (listLe img o 2, listLe img (o + 2) 2,
    if b.length = listLe img (o + 16) 8 ∧ Config.sha384 b = listLe img (o + 24) 48 then some b else none)

def imgSecs (img : List Byte) : List (Nat × Nat × Option (List Byte)) := (List.range (listLe img 30 2)).map (secOf img)

/-- The bytes of a section of a type and version, if present and whole. -/
def secBytes (img : List Byte) (ty : Nat) : Option (List Byte) :=
  match (imgSecs img).find? fun x => x.1 == ty with
  | some (_, v, b) => if v = secVer ty then b else none
  | none => none

/-- Split a CORE section into records. -/
def coreRecords : Nat → List Byte → List (List Byte)
  | 0, _ => []
  | n + 1, b => let l := 65536 + listLe b 76 4; b.take l :: coreRecords n (b.drop l)

def recordOk (r : List Byte) : Bool :=
  decide (r.length ≥ 65536) && decide (listLe r 2 2 = 1) && decide (listLe r 76 4 ≤ 262144) && !nz r 208 48 && !nz r 3616 480 &&
  (List.range 60).all fun i => !nz r (256 + 56 * i + 4) 4

/-- Is an image there: manifest, MAGIC, digest (R488)? -/
def imagePresent (img : List Byte) : Bool :=
  decide (listLe img 0 4 = 0x50414E53) && decide (listLe img 1408 48 = Config.sha384 (img.take 1408))

/-- Is an image usable for this part (R488)? -/
def imageUsable (s : Chip) (img : List Byte) : Bool :=
  let cs := s.jobCores.length
  imagePresent img && (listLe img 4 2 == 2 || listLe img 4 2 == 3) &&
  decide (listLe img 32 48 = s.job.digest) && decide (listLe img 24 4 = s.job.parts) && decide (listLe img 20 4 = s.job.rank) &&
  decide (listLe img 28 1 = imgW s.job.image) && decide (listLe img 29 1 = imgH s.job.image) &&
  (imgSecs img).all (fun x => decide (1 ≤ x.1) && decide (x.1 ≤ 5)) &&
  (secBytes img 1).isSome && (secBytes img 5).isSome &&
  (match secBytes img 2 with
    | some b => (coreRecords cs b).all recordOk
    | none => false)

def imageStep (img : List Byte) : Nat := listLe img 8 8

/-- The number of run entries of a REGION section: the smallest one that its length agrees with. -/
def regionRuns (b : List Byte) : Nat :=
  ((List.range (b.length / 16 + 1)).find? fun n =>
    decide (16 * n + 4096 * (List.range n).foldl (fun k i => k + listLe b (16 * i + 8) 8) 0 = b.length)).getD 0

/-- Step 4 of R485. -/
def restoreRegion (s : Chip) (b : List Byte) : Chip :=
  let n := regionRuns b
  ((List.range n).foldl (fun (st : Chip × List Byte) i =>
    let len := 4096 * listLe b (16 * i + 8) 8
    (st.1.memWrTry (listLe b (16 * i) 8) (st.2.take len), st.2.drop len)) (s, b.drop (16 * n))).1

/-- Step 5 of R485 on one core: its core record. -/
def restoreCore (c : Core) (r : List Byte) : Core :=
  let c := c.setReg rVU_FCSR (listLe r 4 4)
  let c := (List.range 4).foldl (fun c i => (c.setReg (rRS_KEY i) (listLe r (8 + 8 * i) 8)).setReg (rRS_CTR i) (listLe r (40 + 8 * i) 8)) c
  let c := (List.range 16).foldl (fun c n => c.setReg (rQE_CFG n) (listLe r (80 + 8 * n) 8)) c
  let c := (List.range 4).foldl (fun c u => (List.range 15).foldl (fun c d =>
    let o := 256 + 56 * (15 * u + d)
    let b := lndBases.getD u 0
    let c := c.setReg (b + 0x1040 + 0x40 * d) (listLe r o 4)
    (List.range 6).foldl (fun c l => c.setReg (b + 0x1048 + 0x40 * d + 8 * l) (listLe r (o + 8 + 8 * l) 8)) c) c) c
  { c with seq := { c.seq with dram := Bytes.wrN c.seq.dram 0x10000 ((r.drop 4096).take 61440) }
           store := Bytes.wrN c.store (listLe r 72 4) ((r.drop 65536).take (listLe r 76 4)) }

/-- Ladder entries: POS and PASS_RUN of every layer, and the layers that were reset. -/
def restoreLadder (c : Core) (sec : Option (List Byte)) : Core × List Nat :=
  (List.range 1024).foldl (fun (acc : Core × List Nat) l =>
    let (c, rs) := acc
    let e := match sec with | some b => listLe b (4 * l) 4 | none => 0
    let bad := sec.isNone || decide (field e 0 2 > ltTop c l) || decide (e / 1024 ≠ 0)
    let c := (c.setField (rLT_CFG l) 4 2 (if bad then 0 else field e 0 2)).setField (rLT_CFG l) 14 8 (if bad then 0 else field e 2 8)
    (c, if bad then rs ++ [l] else rs)) (c, [])

/-- The job's units are halted (13 R469). -/
def Chip.haltUnits (s : Chip) : Chip :=
  s.jobCores.foldl (fun s (_, _, p) => s.resetUnits p) s

/-- The restore of this part from a usable image (R485), but for the state of the command. None when the grid
has too few good cores. -/
def restorePart (s : Chip) (img : List Byte) : Option Chip :=
  let s := (captureAbandon s).haltUnits.remap (imgW s.job.image) (imgH s.job.image)
  let cs := s.jobCores
  if cs.length < imgW s.job.image * imgH s.job.image then none else
  let s := cs.foldl (fun s (x, y, p) =>
    let e := entryOf s x y
    let s := s.resetUnits p
    let (c, _) := loadCore s e false (s.core p)
    loadStash (s.setCore p c) p e) s
  let s := restoreRegion s ((secBytes img 1).getD [])
  let recs := coreRecords cs.length ((secBytes img 2).getD [])
  let slots := secBytes img 3
  let ladder := if listLe img 4 2 = 2 then none else secBytes img 4
  let s := (List.range cs.length).foldl (fun s i =>
    let (x, y, p) := cs.getD i (0, 0, 0)
    let c := restoreCore (s.core p) (recs.getD i [])
    let (c, cold) := (List.range 64).foldl (fun (acc : Core × List Nat) n =>
      let r := match slots with | some b => (b.drop (5120 * i + 80 * n)).take 80 | none => []
      let (c, isCold) := sctRestore acc.1 n r
      (c, if isCold && decide (slotRecipe c n ≠ 0) then acc.2 ++ [n] else acc.2)) (c, [])
    let (c, rst) := restoreLadder c ladder
    let s := s.setCore p { c with step := imageStep img, progStopped := false, progAt := 0 }
    let s := cold.foldl (fun s n => s.log (.coldStart s.job.id x y n)) s
    if i = 0 then rst.foldl (fun s l => s.log (.ladderReset l)) s else s) s
  let cur := (secBytes img 5).getD []
  let cursors := (List.range cs.length).map fun i =>
    let (x, y, _) := cs.getD i (0, 0, 0)
    let o := 32 * i
    (16 * y + x, (listLe cur o 4, listLe cur (o + 4) 4, listLe cur (o + 8) 8, listLe cur (o + 16) 8))
  let s := (List.range 3).foldl (fun s l => s.setReg (rSNP_LAST l) 0) s
  some { s with en := { s.en with fresh := true, points := [] }, job := { s.job with
    st := .paused, step := imageStep img, released := false, resume := true, cursors := cursors, left := none, ran := 0
    pause := none, reports := [], relink := false } }

/-- Local layer-0 images: slot and image. -/
def localImages (s : Chip) : List (Nat × List Byte) :=
  [0, 1].filterMap fun k => (localSlot s k).map fun a => (k, s.bytesAt a (partImgsz s.job.image s.job.rank))

/-- The images of a layer that this part can read: its local slots, and what lies outside. -/
def layerImages (s : Chip) (layer : Nat) (ext : List (List Byte)) : List (List Byte) :=
  (if layer = 0 then (localImages s).map (·.2) else []) ++ ext.filter fun b => decide (listLe b 6 1 = layer)

def usableImages (s : Chip) (layer : Nat) (ext : List (List Byte)) : List (List Byte) :=
  (layerImages s layer ext).filter (imageUsable s)

/-- The step to restore: the one named, or the largest that every rank holds (R484). -/
def restoreStep (s : Chip) (layer ident : Nat) (ext : List (List Byte)) (others : List (Nat × List Nat)) : Option Nat :=
  let steps := ((usableImages s layer ext).map imageStep).filter fun k =>
    s.otherRanks.all fun r => others.any fun o => o.1 == r && o.2.contains k
  if ident = 0 then match steps with
    | [] => none
    | k :: ks => some (ks.foldl max k)
  else if steps.contains (ident % 2 ^ 48) && decide (ident / 2 ^ 48 = layer) then some (ident % 2 ^ 48) else none

/-- The local slot that holds step `k` becomes the latest, so that the next capture writes the other (R487). -/
def keepSlot (s : Chip) (layer k : Nat) : Chip :=
  if layer ≠ 0 then s else
  match (localImages s).find? fun x => imagePresent x.2 && decide (imageStep x.2 = k) with
  | some (j, _) => { s with snp := { s.snp with slot := s.snp.slot.set 0 j } }
  | none => s

/-- Restore of step `k` of a layer on this part. -/
def restoreTo (s : Chip) (layer k : Nat) (ext : List (List Byte)) : Option Chip :=
  match (usableImages s layer ext).find? fun b => decide (imageStep b = k) with
  | none => none
  | some b => (restorePart (keepSlot s layer k) b)

end Sys2Proof.Machine
end

