-- ==== Sys2Proof/Machine/JobCtl.lean ====
section
/-!
DEFINITION. What VCF does to a whole job: completion of STEP_RUN and STEP_PAUSE, pause at a boundary, halt,
restore from the latest snapshot, WAITING (12 R434-R436; 13 R469; 14 R484, R491).
-/
namespace Sys2Proof.Machine

/-- A running STEP_RUN completes: steps run, last step, tick of the last boundary. -/
def finishStepRun (s : Chip) (status detail : Nat) : Chip :=
  (s.vcf.running.filter fun r => decide (r.op = 0x20)).foldl (fun s r =>
    s.finish r status detail (leBytes 8 s.job.ran ++ leBytes 8 s.job.step ++ leBytes 8 s.job.tick)) s

/-- Running STEP_PAUSEs complete with the step at the boundary. -/
def finishStepPause (s : Chip) : Chip :=
  (s.vcf.running.filter fun r => decide (r.op = 0x21)).foldl (fun s r => s.finish r 0 0 (leBytes 8 s.job.step)) s

/-- The job will pause at its next step boundary; a fault's reason replaces a client's. -/
def requestPause (s : Chip) (status detail : Nat) : Chip :=
  if s.job.st = .running ∧ (s.job.pause.isNone ∨ status = 9) then { s with job := { s.job with pause := some (status, detail) } } else s

/-- A fault source pauses the running job at its next boundary, on every part (13 R469). -/
def faultPause (s : Chip) (src : Nat) : Chip :=
  if s.job.st = .running then (requestPause s 9 src).tellAll (.pauseAtBoundary src) else s

/-- The job's units halt in the middle of a step (13 R469). -/
def haltHere (s : Chip) (detail : Nat) : Chip :=
  let s := (captureAbandon s).haltUnits
  finishStepRun { s with job := { s.job with st := .paused, left := none, released := false, pause := none, reports := [] } } 9 detail

/-- The job holds for a repair or a spare. -/
def Chip.waitJob (s : Chip) : Chip := { s with job := { s.job with st := .waiting, released := false, left := none, pause := none } }

/-- Layer and step of the latest snapshot that every rank can restore; a tie takes the lower layer. -/
def restoreChoice (s : Chip) (media : Media) : Option (Nat × Nat) :=
  ([0, 1, 2].filterMap fun l => (restoreStep s l 0 media.images media.others).map fun k => (l, k)).foldl
    (fun (b : Option (Nat × Nat)) x => match b with
      | none => some x
      | some y => if x.2 > y.2 then some x else b) none

/-- The coordinator restores the job from its latest snapshot, or puts it into WAITING. -/
def restoreLatest (s : Chip) (media : Media) : Chip :=
  match restoreChoice s media with
  | none => s.waitJob.tellAll .wait
  | some (l, k) => match restoreTo s l k media.images with
    | none => s.waitJob.tellAll .wait
    | some t => t.tellAll (.snapRestore l k)

/-- A fault halts the running job; the coordinator restores it, another part tells the coordinator. -/
def faultHalt (s : Chip) (detail : Nat) (media : Media) : Chip :=
  if s.job.st ≠ .running then s else
  let s := haltHere s detail
  if s.coordinator then restoreLatest (s.tellAll (.haltJob detail)) media else s.emit (.steward (.haltJob detail) s.coordRank)

/-- A PROG or STASH severe: the second one at one step number pauses the job without another restore. -/
def stallHalt (s : Chip) (detail : Nat) (media : Media) : Chip :=
  if s.job.st ≠ .running then s
  else if s.job.onceAt = some (s.job.step + 1) then haltHere s detail
  else
    let n := s.job.step + 1
    faultHalt { s with job := { s.job with onceAt := some n } } detail media

/-- A link that some route of the job uses went down: the job pauses, and is restored at the re-plan (11 R386). -/
def linkPause (s : Chip) (detail : Nat) : Chip :=
  let s := if s.job.st = .running then haltHere s detail else s
  if s.job.st = .paused then { s with job := { s.job with relink := true } } else s

/-- A running update commit ends: PHASE, CAUSE, and the UPD_COMMIT's status if it is not yet complete (16 R530). -/
def Chip.commitEnd (s : Chip) (phase status cause : Nat) : Chip :=
  let s := (s.setField rSEC_UPD 0 3 phase).setField rSEC_UPD 3 1 0
  let s := if cause = 0 then s else s.setField rSEC_UPD 8 4 cause
  let s := { s with sec := { s.sec with todo := [] }, vcf := { s.vcf with draining := false } }
  (s.vcf.running.filter fun r => decide (r.op = 0x71)).foldl (fun s r => s.finish r status 0 []) s

/-- Is a commit running? -/
def Chip.commitRuns (s : Chip) : Bool := let p := field (s.reg rSEC_UPD) 0 3; decide (1 ≤ p) && decide (p ≤ 6)

/-- A switchover: the new active Steward completes every command in progress with 000Bh, and a running job pauses
at its next boundary (12 R436). -/
def Chip.switchover (s : Chip) : Chip :=
  let s := s.setField rMBX_ROLE 0 1 (b2n !(bitOf (s.reg rMBX_ROLE) 0))
  let s := requestPause s 0xB 0
  s.vcf.running.foldl (fun s r => s.finish r 0xB 0 []) s

end Sys2Proof.Machine
end

