-- ==== Sys2Proof/Machine/Links.lean ====
section
/-!
DEFINITION. Spline links (11 R371-R393, R404-R406): training, flits, credits, replay, link down and
retirement, link-state flooding, the route plan, and the link-group stops.
-/
namespace Sys2Proof.Machine

abbrev nLinks : Nat := 32
def slg (r : Nat → Nat → Nat) (l : Nat) : Nat := r (l / 4) (l % 4)
def rtEntry (s : Chip) (chip : Nat) : Nat := s.reg (rSL_RT chip)

def Link.inRetry (L : Link) : Bool := L.epis.isSome || L.rtryRx || L.gap.isSome
def Link.isUp (L : Link) : Bool := L.st == .up

/-! ### Sending flits (R375, R376, R379) -/

/-- RNB: another link of this part is in retry (R382). -/
def Chip.otherRetry (s : Chip) (l : Nat) : Bool := (List.range nLinks).any fun k => decide (k ≠ l) && (s.link k).isUp && (s.link k).inRetry

/-- A flit leaves, with the acknowledgement, retry bits and a credit count; the classes rotate. -/
def Chip.sendFlit (s : Chip) (l ty fseq : Nat) (payload : List Byte) : Chip :=
  let L := s.link l
  let h : FlitHdr := { fseq := fseq, fack := (L.exp + 4095) % 4096, rtry := L.epis.isSome, rnb := s.otherRetry l
                       ccls := L.rot, ccnt := L.given.getD L.rot 0 % 4096 }
  (s.setLink l { L with rot := (L.rot + 1) % 3 }).emit (.flit l ty h payload)

/-- A sequenced flit is sent for the first time and kept for replay. -/
def Chip.sendSeq (s : Chip) (l ty : Nat) (payload : List Byte) : Chip :=
  let L := s.link l
  let s := s.setLink l { L with next := (L.next + 1) % 4096, buf := L.buf ++ [⟨L.next, ty, payload⟩]
                                ackAt := if L.buf.isEmpty then s.now else L.ackAt }
  (s.sendFlit l ty L.next payload).bump (slg rSL_TXF_CNT l) 1

/-! ### Packets in the stream (R377, R378; 09 R306) -/

/-- Bytes 0-31 of a header flit. -/
def packetHeader (k : Packet) : List Byte :=
  leBytes 1 (k.ty % 16 + k.cls % 4 * 16 + b2n k.ord * 64 + b2n k.last * 128) ++ leBytes 1 k.lenf ++
  leBytes 2 (k.dcol % 16 + k.drow % 32 * 16 + k.dstop % 64 * 512) ++ leBytes 2 (k.scol % 16 + k.srow % 32 * 16 + k.sstop % 64 * 512) ++
  leBytes 2 (k.dx % 16 + k.dy % 16 * 16 + k.chan % 16 * 256) ++ leBytes 2 (k.sx % 16 + k.sy % 16 * 16) ++ leBytes 2 (k.schip % 4096) ++
  leBytes 1 (k.poison.toNat + b2n k.void * 4) ++ List.replicate 3 0 ++ leBytes 8 (k.addr % 2 ^ 48 + k.dchip % 4096 * 2 ^ 48) ++
  leBytes 4 k.seq ++ leBytes 4 k.tag.toNat

/-- A packet from its header and payload bytes. -/
def packetOf (h payload : List Byte) : Packet :=
  let g := fun o n lo w => field (listLe h o n) lo w
  { ty := g 0 1 0 4, cls := g 0 1 4 2, ord := bitOf (listLe h 0 1) 6, last := bitOf (listLe h 0 1) 7, lenf := listLe h 1 1
    dcol := g 2 2 0 4, drow := g 2 2 4 5, dstop := g 2 2 9 6, scol := g 4 2 0 4, srow := g 4 2 4 5, sstop := g 4 2 9 6
    dx := g 6 2 0 4, dy := g 6 2 4 4, chan := g 6 2 8 4, sx := g 8 2 0 4, sy := g 8 2 4 4, schip := g 10 2 0 12
    poison := BitVec.ofNat 2 (listLe h 12 1), void := bitOf (listLe h 12 1) 2
    addr := g 16 8 0 48, dchip := g 16 8 48 12, seq := listLe h 24 4, tag := BitVec.ofNat 32 (listLe h 28 4), payload := payload }

/-- A packet as the flit payloads that carry it, the last one padded with FFh. -/
def packetFlits : Nat → List Byte → List (List Byte)
  | 0, _ => []
  | n + 1, b => if b.isEmpty then [] else
    (b.take 242 ++ List.replicate (242 - b.length) 0xFF) :: packetFlits n (b.drop 242)

def packetFlitsOf (k : Packet) : List (List Byte) :=
  let b := packetHeader k ++ fitBytes (64 * k.lenf) k.payload
  packetFlits (b.length / 242 + 1) b

def bufferUnits (cls : Nat) : Nat := if cls = 2 then 256 else 1024

/-- Credits of a class at the sender. -/
def Link.credits (L : Link) (cls : Nat) : Nat := bufferUnits cls + L.freed.getD cls 0 - L.sent.getD cls 0

/-- May a packet go now? -/
def Link.maySend (L : Link) (k : Packet) : Bool :=
  decide (1 + k.lenf ≤ L.credits k.cls) && decide ((packetFlitsOf k).length + L.buf.length ≤ 1024)

/-- The packet that goes next: the classes in turn after the one served last, the oldest packet of each. -/
def Link.pick (L : Link) : Option Packet :=
  ([1, 2, 3].map fun d => (L.rr + d) % 3).findSome? fun c =>
    match L.txq.find? fun k => k.cls == c with
    | some k => if L.maySend k then some k else none
    | none => none

/-- The link sends what it can: flood payloads, then packets. -/
def Chip.pump : Nat → Chip → Nat → Chip
  | 0, s, _ => s
  | n + 1, s, l =>
    let L := s.link l
    if !L.isUp then s else
    match L.lmq with
    | b :: rest => if L.buf.length ≥ 1024 then s else
      Chip.pump n ((s.setLink l { L with lmq := rest }).sendSeq l 4 b) l
    | [] => match L.pick with
      | none => s
      | some k =>
        let s := s.setLink l { L with txq := L.txq.erase k, rr := k.cls, sent := L.sent.set k.cls (L.sent.getD k.cls 0 + 1 + k.lenf) }
        Chip.pump n ((packetFlitsOf k).foldl (fun s b => s.sendSeq l 0 b) s) l

def Chip.pumpAll (s : Chip) (l : Nat) : Chip := s.pump ((s.link l).txq.length + (s.link l).lmq.length) l

/-- A packet for the egress link `l`: discarded and counted when the link is not up (R385). -/
def Chip.linkEnqueue (s : Chip) (l : Nat) (k : Packet) : Chip :=
  let L := s.link l
  if !L.isUp then s.bump rSL_DISC_CNT 1
  else (s.setLink l { L with txq := L.txq ++ [{ k with via := 0 }] }).pumpAll l

/-! ### Link-state records (R389) -/

/-- This part's record. -/
def Chip.ownRecord (s : Chip) : LsRecord :=
  let ts := s.reg rTS_CFG
  { chip := s.id, hwtype := BitVec.ofNat 32 hwType, masterEn := bitOf ts 0, prio := field ts 1 8
    links := (List.range nLinks).filterMap fun l =>
      let L := s.link l
      if L.isUp then some { link := l, peer := L.peerChip, peerLink := L.peerLink } else none
    version := BitVec.ofNat 32 s.flood.version }

/-- A record as LM payload bytes (log 33). -/
def lmBytes (r : LsRecord) : List Byte :=
  fitBytes 242 (leBytes 2 r.chip ++ leBytes 4 r.hwtype.toNat ++ leBytes 1 (b2n r.masterEn) ++ leBytes 1 r.prio ++
    leBytes 4 r.version.toNat ++ leBytes 1 r.links.length ++
    r.links.flatMap fun x => leBytes 1 x.link ++ leBytes 2 x.peer ++ leBytes 1 x.peerLink)

def Flood.put (f : Flood) (r : LsRecord) : Flood := { f with recs := r :: f.recs.filter fun x => x.chip ≠ r.chip }

/-- A record goes out on every up link but `skip`. -/
def Chip.floodOut (s : Chip) (r : LsRecord) (skip : Option Nat) : Chip :=
  (List.range nLinks).foldl (fun s l =>
    let L := s.link l
    if L.isUp && skip != some l then (s.setLink l { L with lmq := L.lmq ++ [lmBytes r] }).pumpAll l else s) s

/-- This part's links or TS_CFG changed: a new version is flooded. `replan` says that the plan waits for it. -/
def Chip.floodOwn (s : Chip) (replan : Bool) : Chip :=
  let s := { s with flood := { s.flood with version := s.flood.version + 1 } }
  let r := s.ownRecord
  let s := { s with flood := { s.flood.put r with changedAt := s.now, stale := s.flood.stale || replan } }
  s.floodOut r none

/-! ### The route plan (R390) -/

/-- The records of a plan: two parts with one identifier are left out. -/
def planRecs (f : Flood) : List LsRecord := f.recs.filter fun r => !f.dups.contains r.chip

def recOf (rs : List LsRecord) (c : Nat) : Option LsRecord := rs.find? fun r => r.chip == c

/-- Neighbours of a part: local link and peer, where both ends report the link. -/
def neighbours (rs : List LsRecord) (c : Nat) : List (Nat × Nat) :=
  match recOf rs c with
  | none => []
  | some r => r.links.filterMap fun x =>
      match recOf rs x.peer with
      | some q => if q.links.any fun y => decide (y.peer = c) && decide (y.link = x.peerLink) then some (x.link, x.peer) else none
      | none => none

/-- The root. -/
def planRoot (rs : List LsRecord) : Option Nat :=
  let ms := rs.filter (·.masterEn)
  match (if ms.isEmpty then rs else ms) with
  | [] => none
  | r :: rest =>
    let better := fun (a b : LsRecord) => if ms.isEmpty then decide (b.chip < a.chip)
      else decide (b.prio < a.prio) || (decide (b.prio = a.prio) && decide (b.chip < a.chip))
    some (rest.foldl (fun a b => if better a b then b else a) r).chip

/-- Distances by rounds of relaxation: from `d0`, each part takes 1 plus the least of its successors. -/
def relax (rs : List LsRecord) (succ_ : Nat → List Nat) : Nat → List (Nat × Nat) → List (Nat × Nat)
  | 0, d => d
  | n + 1, d =>
    let get := fun c => (d.find? fun x => x.1 == c).map (·.2)
    relax rs succ_ n (rs.filterMap fun r =>
      let best := (succ_ r.chip).foldl (fun (b : Option Nat) w => match get w, b with
        | some k, some j => some (min j (k + 1))
        | some k, none => some (k + 1)
        | none, b => b) (get r.chip)
      best.map fun k => (r.chip, k))

def distOf (d : List (Nat × Nat)) (c : Nat) : Option Nat := (d.find? fun x => x.1 == c).map (·.2)

/-- Depths from the root. -/
def planDepths (rs : List LsRecord) : List (Nat × Nat) :=
  match planRoot rs with
  | none => []
  | some r => relax rs (fun c => (neighbours rs c).map (·.2)) rs.length [(r, 0)]

/-- Is the hop from `u` to `v` up? -/
def hopUp (dep : List (Nat × Nat)) (u v : Nat) : Bool :=
  match distOf dep u, distOf dep v with
  | some a, some b => decide (b < a) || (decide (b = a) && decide (v < u))
  | _, _ => false

/-- Distances to `D` over down hops only, and over legal paths. -/
def downDist (rs : List LsRecord) (dep : List (Nat × Nat)) (D : Nat) : List (Nat × Nat) :=
  relax rs (fun c => ((neighbours rs c).map (·.2)).filter fun v => !hopUp dep c v) rs.length [(D, 0)]
def legalDist (rs : List LsRecord) (dep : List (Nat × Nat)) (D : Nat) : List (Nat × Nat) :=
  relax rs (fun c => ((neighbours rs c).map (·.2)).filter fun v => hopUp dep c v) rs.length (downDist rs dep D)

/-- The best of a list of (link, next hop): the smaller next hop, then the smaller link. -/
def firstHop (xs : List (Nat × Nat)) : Option Nat :=
  match xs with
  | [] => none
  | x :: rest => some (rest.foldl (fun a b => if b.2 < a.2 ∨ (b.2 = a.2 ∧ b.1 < a.1) then b else a) x).1

/-- LINKA and LINKD of part `me` for destination `D`. -/
def planEntry (rs : List LsRecord) (dep : List (Nat × Nat)) (me D : Nat) : Option Nat × Option Nat :=
  let dn := downDist rs dep D
  let lg := legalDist rs dep D
  let ns := neighbours rs me
  let a := match distOf lg me with
    | none => none
    | some k => firstHop (ns.filter fun x =>
        if hopUp dep me x.2 then distOf lg x.2 == some (k - 1) else distOf dn x.2 == some (k - 1))
  let d := match distOf dn me with
    | none => none
    | some k => firstHop (ns.filter fun x => !hopUp dep me x.2 && distOf dn x.2 == some (k - 1))
  (a, d)

/-- The plan of this part as SL_RT entries. -/
def planTable (s : Chip) : List (Nat × Nat) :=
  let rs := planRecs s.flood
  let dep := planDepths rs
  rs.filterMap fun r =>
    if r.chip = s.id then none else
    match planEntry rs dep s.id r.chip with
    | (some a, d) => some (r.chip, a + d.getD 0 * 2 ^ 5 + 2 ^ 10)
    | (none, _) => none

/-- Links of the route from part `u` to part `v`: (part, link) pairs. -/
def routeLinks (rs : List LsRecord) (dep : List (Nat × Nat)) (v : Nat) : Nat → Nat → Bool → List (Nat × Nat)
  | 0, _, _ => []
  | n + 1, u, down =>
    if u = v then [] else
    let (a, d) := planEntry rs dep u v
    match (if down then d else a) with
    | none => []
    | some l => match (neighbours rs u).find? fun x => x.1 == l with
      | some (_, w) => (u, l) :: routeLinks rs dep v n w (!hopUp dep u w)
      | none => []

/-- Does some route between two parts of the job use a link of part `c` (R386)? -/
def jobUsesLink (s : Chip) (c l : Nat) : Bool :=
  let rs := planRecs s.flood
  let dep := planDepths rs
  let cs := (List.range s.job.parts).map s.chipOfRank
  decide (s.job.st ≠ .idle) && cs.any fun u => cs.any fun v => (routeLinks rs dep v 64 u false).contains (c, l)

/-- Install the plan and re-parent the time tree (R386, R394); with another root XSYNC is clear (R399). -/
def installPlan (s : Chip) : Chip :=
  let s := (List.range 4096).foldl (fun s n => s.setReg (rSL_RT n) 0) s
  let s := (planTable s).foldl (fun (s : Chip) (e : Nat × Nat) => s.setReg (rSL_RT e.1) e.2) s
  let rs := planRecs s.flood
  let dep := planDepths rs
  let root := (planRoot rs).getD s.id
  let own := distOf dep s.id
  let parent := match own with
    | some (k + 1) => firstHop ((neighbours rs s.id).filter fun x => distOf dep x.2 == some k)
    | _ => none
  let st := root % 4096 + (match own with | some k => min k 30 | none => 31) * 2 ^ 12 + parent.getD 0 * 2 ^ 17 + b2n parent.isSome * 2 ^ 22
  let s := if field (s.reg rTS_STAT) 0 12 = root % 4096 then s
    else { s.setField rCTB_STAT 2 1 0 with ts := { s.ts with goodRun := 0 } }
  let s := s.setReg rTS_STAT st
  let s := s.setField rCTB_STAT 3 1 (b2n (decide (root = s.id)))
  let s := if root = s.id then s.setReg rCTB_TRIM 0 else s
  { s with flood := { s.flood with stale := false }, ts := { s.ts with win := [] } }

/-! ### Link down and retirement (R385, R387) -/

/-- The first event is recorded in SL_DOWN; a later one sets OVF. -/
def Chip.slDown (s : Chip) (l cause : Nat) : Chip :=
  if bitOf (s.reg (slg rSL_DOWN l)) 63 then s.setField (slg rSL_DOWN l) 62 1 1
  else (s.setReg (slg rSL_DOWN l) (cause + 2 ^ 63)).setReg (slg rSL_DOWN_TIME l) s.now

/-- The link's packets that wait for it are discarded and counted; its replay buffer and partial packets go. -/
def Chip.linkStop (s : Chip) (l : Nat) (st : LinkSt) : Chip :=
  let L := s.link l
  let s := s.bump rSL_DISC_CNT L.txq.length
  s.setLink l { (Link.reset) with st := st, since := s.now, peerChip := L.peerChip, peerLink := L.peerLink, rxq := L.rxq, xid := L.xid }

/-- The link goes down; a job whose routes use it pauses (R386). -/
def Chip.linkDown (s : Chip) (l cause : Nat) : Chip :=
  let was := (s.link l).isUp
  let hit := was && jobUsesLink s s.id l
  let s := (s.linkStop l .down).slDown l cause
  let s := s.raise evLinkDown l cause
  let s := if was then s.floodOwn true else s
  if hit then linkPause s (srcLG (l / 4)) else s

/-- SL_CTL.RETIRE (R387). -/
def slRetireCmd (s : Chip) (l : Nat) : Chip :=
  if l ≥ nLinks ∨ (s.link l).st = .retired then s else
  let was := (s.link l).isUp
  let s := ((s.linkStop l .retired).slDown l 6).setField (slg rSL_CTL l) 1 1 1
  if was then s.floodOwn true else s

/-- SL_CTL.EN and ACKTO (R404): a value of ACKTO outside 1 to 20 is ignored. -/
def slCtlEnCmd (s : Chip) (l v : Nat) : Chip :=
  if l ≥ nLinks then s else
  let was := bitOf (s.reg (slg rSL_CTL l)) 0
  let ackto := field v 8 5
  let s := if 1 ≤ ackto ∧ ackto ≤ 20 then s.setField (slg rSL_CTL l) 8 5 ackto else s
  let s := s.setField (slg rSL_CTL l) 0 1 (field v 0 1)
  let L := s.link l
  if L.st = .retired then s
  else if bitOf v 0 && !was then s.setLink l { Link.reset with st := .pmd, since := s.now, xid := L.xid }
  else if !bitOf v 0 && was then
    let up := L.isUp
    let s := s.linkStop l .disabled
    if up then s.floodOwn true else s
  else s

/-! ### Training (R372-R374, R388) -/

def pmdDoneCmd (s : Chip) (l : Nat) : Chip :=
  let L := s.link l
  if L.st = .pmd then s.setLink l { L with st := .fec, since := s.now } else s

/-- The payload of an IDENT flit (R373; log 33). -/
def Chip.identBytes (s : Chip) (l : Nat) : List Byte :=
  fitBytes 242 (leBytes 4 hwType ++ leBytes 2 s.id ++ leBytes 1 l ++ leBytes 2 s.vcfVer.1)

/-- FEC_LOCK: the identity stage begins, and IDENT flits go out. -/
def fecLockCmd (s : Chip) (l : Nat) : Chip :=
  let L := s.link l
  if L.st = .fec then (s.setLink l { L with st := .ident, since := s.now, ident := none }).sendFlit l 5 0 (s.identBytes l) else s

/-- Bound of a training stage in ticks. -/
def stageBound (st : LinkSt) : Option Nat :=
  match st with
  | .pmd => some 500000000
  | .fec => some 10000000
  | .ident => some 1000000
  | _ => none

def trainingTimeoutCmd (s : Chip) (l : Nat) : Chip :=
  let L := s.link l
  match stageBound L.st with
  | some b => if s.now > L.since + b then s.linkDown l 3 else s
  | none => s

/-- The link is up: replay state and credits start afresh. -/
def Chip.linkUp (s : Chip) (l chip link : Nat) : Chip :=
  let L := s.link l
  let s := s.setLink l { Link.reset with st := .up, since := s.now, peerChip := chip, peerLink := link, ackAt := s.now, rxq := L.rxq, xid := L.xid }
  ((s.raise evLinkUp l 0).log (.linkUp l)).floodOwn (s.job.st ≠ .running && s.job.st ≠ .paused)

/-- IDENT_FLIT: hardware type, chip, link and fabric interface major of the peer. -/
def identFlitCmd (s : Chip) (l : Nat) (h : FlitHdr) (hw chip link major : Nat) : Chip :=
  let L := s.link l
  if L.st ≠ .ident ∨ !h.crcOk ∨ l ≥ nLinks then s else
  let id := (hw, chip, link, major)
  if L.ident ≠ some id then s.setLink l { L with ident := some id }
  else if !bitOf (s.reg rSL_ID) 12 then s
  else
    let own := s.vcfVer.1
    if hw ≠ hwType ∨ chip = s.id ∨ max own major - min own major > 1 then
      ((s.setLink l { L with st := .mismatch, since := s.now, peerChip := chip, peerLink := link }).slDown l 4).raise evPartner l hw
    else s.linkUp l chip link

def linkRetrainCmd (s : Chip) (l : Nat) : Chip :=
  let L := s.link l
  if L.st = .down ∧ bitOf (s.reg (slg rSL_CTL l)) 0 ∧ s.now ≥ L.since + 1000000000 then
    s.setLink l { L with st := .pmd, since := s.now }
  else s

def training (L : Link) : Bool := L.st == .pmd || L.st == .fec || L.st == .ident

/-- LANE_SIGNAL_LOSS: a lane of an up link, or of one past PMD training, is lost for more than 1 µs. -/
def laneLossCmd (s : Chip) (l : Nat) : Chip :=
  if l < nLinks ∧ ((s.link l).isUp || training (s.link l)) then s.linkDown l 5 else s

/-- FEC_FAILURE: `n` uncorrectable codewords in 1 ms. -/
def fecFailureCmd (s : Chip) (l n : Nat) : Chip :=
  if l ≥ nLinks ∨ !((s.link l).isUp || training (s.link l)) then s else
  let s := s.setField (slg rSL_FEC_CNT l) 32 32 (min (field (s.reg (slg rSL_FEC_CNT l)) 32 32 + n) 0xFFFFFFFF)
  if n > 1000 then s.linkDown l 5 else s

/-- LINK_DEGRADE: `n` codewords with corrected symbols in a 1 ms window whose rate is above the bound. -/
def linkDegradeCmd (s : Chip) (l n : Nat) : Chip :=
  if l ≥ nLinks ∨ !(s.link l).isUp then s else
  (s.setField (slg rSL_FEC_CNT l) 0 32 (min (field (s.reg (slg rSL_FEC_CNT l)) 0 32 + n) 0xFFFFFFFF)).raise evLinkDegrade l 0

/-! ### Replay (R379-R381) -/

/-- A replay trigger. -/
def Chip.replay (s : Chip) (l : Nat) : Chip :=
  let L := s.link l
  if !L.isUp ∨ L.buf.isEmpty then s else
  let e := L.epis.getD { start := s.now, count := 0, mark := 0 }
  if s.now ≥ e.start + 100000 ∧ L.epis.isSome then s.linkDown l 2
  else if e.count ≥ 64 then s.linkDown l 1
  else
    let s := if L.epis.isNone then s.countTo (slg rSL_RPL_CNT l) 32 32 else s
    let s := s.countTo (slg rSL_RPL_CNT l) 0 32
    let s := s.setLink l { L with epis := some { e with count := e.count + 1, mark := (L.next + 4095) % 4096 }
                                  lastReplay := some s.now, ackAt := s.now }
    L.buf.foldl (fun s f => s.sendFlit l f.ty f.fseq f.payload) s

def ackTo (s : Chip) (l : Nat) : Nat := 1000 * field (s.reg (slg rSL_CTL l)) 8 5

def ackTimeoutCmd (s : Chip) (l : Nat) : Chip :=
  let L := s.link l
  if L.isUp && !L.buf.isEmpty && decide (s.now ≥ L.ackAt + ackTo s l) then s.replay l else s

def nakRepeatCmd (s : Chip) (l : Nat) : Chip :=
  let L := s.link l
  match L.gap with
  | some t => if L.isUp && decide (s.now ≥ t + 2000) then (s.setLink l { L with gap := some s.now }).sendFlit l 2 0 [] else s
  | none => s

def episodeTimeoutCmd (s : Chip) (l : Nat) : Chip :=
  let L := s.link l
  match L.epis with
  | some e => if L.isUp && decide (s.now ≥ e.start + 100000) then s.linkDown l 2 else s
  | none => s

/-- The header of a flit with good CRC: retry bits, acknowledgement, credits (R375, R378-R380). -/
def Link.header (L : Link) (h : FlitHdr) (now : Nat) : Link :=
  let adv := (h.fack + 4096 - L.acked % 4096) % 4096
  let L := { L with rtryRx := h.rtry, rnbRx := h.rnb }
  let L := if 0 < adv ∧ adv ≤ L.buf.length then
      let left := L.buf.drop adv
      { L with
        acked := h.fack, buf := left, ackAt := now, lastReplay := none
        epis := match L.epis with
          | some e => if left.any (fun f => f.fseq == e.mark) then some e else none
          | none => none }
    else L
  if h.ccls = 3 then L else
  let f := L.freed.getD h.ccls 0
  { L with freed := L.freed.set h.ccls (f + (h.ccnt + 4096 - f % 4096) % 4096) }

/-- A discarded flit opens a gap, and a NAK goes out (R379). -/
def Chip.openGap (s : Chip) (l : Nat) : Chip :=
  let L := s.link l
  if L.gap.isSome then s else (s.setLink l { L with gap := some s.now }).sendFlit l 2 0 []

/-- A sequenced flit arrives: whether it is accepted; otherwise a gap may open and a NAK goes out. -/
def Chip.rxSeq (s : Chip) (l : Nat) (h : FlitHdr) : Chip × Bool :=
  if !h.crcOk then (s.openGap l, false)
  else
    let s := (s.setLink l ((s.link l).header h s.now)).pumpAll l
    let L := s.link l
    if h.fseq = L.exp then
      ((s.setLink l { L with exp := (L.exp + 1) % 4096, gap := none }).bump (slg rSL_RXF_CNT l) 1, true)
    else if (h.fseq + 4096 - L.exp) % 4096 < 2048 then (s.openGap l, false)
    else (s, false)

/-- Whole packets of a byte stream, and the bytes left; FFh at a packet boundary ends the flit. -/
def parseStream : Nat → List Byte → List Packet × List Byte
  | 0, b => ([], b)
  | n + 1, b =>
    if b.headD 0xFF = 0xFF then ([], [])
    else
      let len := 32 + 64 * listLe b 1 1
      if b.length < len then ([], b)
      else
        let (ps, rest) := parseStream n (b.drop len)
        (packetOf (b.take 32) ((b.take len).drop 32) :: ps, rest)

/-- DATA_FLIT. -/
def dataFlitCmd (s : Chip) (l : Nat) (h : FlitHdr) (payload : List Byte) : Chip :=
  if l ≥ nLinks ∨ !(s.link l).isUp then s else
  let (s, ok) := s.rxSeq l h
  if !ok then s else
  let L := s.link l
  let b := L.stream ++ fitBytes 242 payload
  let (ps, rest) := parseStream (b.length / 32 + 1) b
  s.setLink l { L with stream := rest, rxq := L.rxq ++ ps }

/-- IDLE_FLIT; one that fails its CRC is a discarded flit like any other. -/
def idleFlitCmd (s : Chip) (l : Nat) (h : FlitHdr) : Chip :=
  if l ≥ nLinks ∨ !(s.link l).isUp then s
  else if !h.crcOk then s.openGap l
  else (s.setLink l ((s.link l).header h s.now)).pumpAll l

/-- NAK_FLIT: a replay, unless one from ACKED + 1 started less than ACKTO ago. -/
def nakFlitCmd (s : Chip) (l : Nat) (h : FlitHdr) : Chip :=
  if l ≥ nLinks ∨ !(s.link l).isUp then s else
  if !h.crcOk then s.openGap l else
  let same := decide (h.fack = (s.link l).acked)
  let s := s.setLink l ((s.link l).header h s.now)
  let recent := match (s.link l).lastReplay with | some t => decide (s.now < t + ackTo s l) | none => false
  if same && recent then s else s.replay l

/-! ### Flood messages (R389) -/

/-- LM_FLIT: a link-state record. -/
def lmFlitCmd (s : Chip) (l : Nat) (h : FlitHdr) (r : LsRecord) : Chip :=
  if l ≥ nLinks ∨ !(s.link l).isUp then s else
  let (s, ok) := s.rxSeq l h
  if !ok then s else
  let dup := (decide (r.chip = s.id) && decide (r ≠ s.ownRecord)) ||
    (match recOf s.flood.recs r.chip with | some q => decide (q.version = r.version) && decide (q ≠ r) | none => false)
  if dup then
    if s.flood.dups.contains r.chip then s else
    let s := { s with flood := { s.flood with dups := r.chip :: s.flood.dups, changedAt := s.now, stale := true } }
    ((s.log (.duplicateId r.chip)).raise evFabricChip 0 r.chip).floodOut r (some l)
  else
    let newer := match recOf s.flood.recs r.chip with
      | some q => decide (r.version.toNat > q.version.toNat)
      | none => decide (r.chip ≠ s.id)
    if !newer then s else
    let lost := match recOf s.flood.recs r.chip with
      | some q => q.links.filter fun (x : LsLink) => !(r.links.any fun (y : LsLink) => y.link == x.link)
      | none => []
    let hit := lost.any fun (x : LsLink) => jobUsesLink s r.chip x.link
    let s := { s with flood := { s.flood.put r with changedAt := s.now, stale := true } }
    let s := if hit then linkPause s (srcLG (l / 4)) else s
    s.floodOut r (some l)

/-! ### The link-group stops (R391, R392) -/

/-- Is a hop from the peer of link `l` to this part up? -/
def arrivedUp (s : Chip) (l : Nat) : Bool :=
  let dep := planDepths (planRecs s.flood)
  hopUp dep (s.link l).peerChip s.id

/-- The stop frees the packet's units. -/
def Link.free (L : Link) (k : Packet) : Link := { L with given := L.given.set k.cls (L.given.getD k.cls 0 + 1 + k.lenf) }

/-- Stop of a memory address at a controller or the root complex. -/
def memStop (a : Nat) : Nat := if a < 0x10000000000 then 1 + chStack (hbmChannel a) else 27

/-- A packet enters the mesh at stop `n`. -/
def Chip.enterMesh (s : Chip) (n : Nat) (k : Packet) (dc dr st : Nat) : Chip :=
  let (sc, sr) := s.stopAt n
  let k := { k with dcol := dc, drow := dr, dstop := st, scol := sc, srow := sr, sstop := n, ord := s.orderYX sc sr dc dr }
  { s with flying := s.flying ++ [(16 * sr + sc, k)] }

/-- LINK_STOP_PACKET: the stop takes the oldest packet of link `l`. -/
def linkStopPacketCmd (s : Chip) (l : Nat) : Chip :=
  let L := s.link l
  match L.rxq with
  | [] => s
  | k :: rest =>
    let s := s.setLink l { L with rxq := rest } |>.setLink l ({ L with rxq := rest }.free k)
    let n := 17 + l / 4
    if k.dchip = s.id then
      if k.ty = 10 then
        let ok := s.mayAccess (.remote k.schip) (bitOf k.seq 23) true k.addr
        if ok then
          let (dc, dr) := s.stopAt (memStop k.addr)
          s.enterMesh n k dc dr (memStop k.addr)
        else { s with memResp := s.memResp ++ [MemResp.mk (.remote k.schip) (field k.seq 0 16) false [] false] }
      else match s.physOf k.dx k.dy with
        | some p => s.enterMesh n k (colOf p) (rowOf p) 0
        | none =>
          let (sc, sr) := s.stopAt n
          (s.recordDiscard (16 * sr + sc) k.ty 4).raise evFabricChip l k.dchip
    else
      let e := rtEntry s k.dchip
      if !bitOf e 10 then (s.bump rSL_DISC_CNT 1).raise evFabricChip l k.dchip
      else
        let out := if arrivedUp s l then field e 0 5 else field e 5 5
        let s := s.bump rSL_FWD_CNT 1
        if out / 4 = l / 4 then s.linkEnqueue out k
        else
          let (dc, dr) := s.stopAt (17 + out / 4)
          s.enterMesh n { k with via := out + 1 } dc dr (17 + out / 4)

/-- PACKET_FORWARD: as 09 R303 says; at the last router of a link-group stop the packet goes to its egress link. -/
def packetForwardLinkCmd (s : Chip) (r : Nat) (k : Packet) (chk : FlitCheck) : Chip :=
  let s := packetForwardCmd s r k chk
  match s.flying.find? fun f => decide (f.1 = atPort) && decide (17 ≤ f.2.dstop) && decide (f.2.dstop ≤ 24) with
  | some (a, q) =>
    let out := if q.via = 0 then field (rtEntry s q.dchip) 0 5 else q.via - 1
    { s with flying := s.flying.erase (a, q) }.linkEnqueue out q
  | none => s

/-- SL_STAT (R404). -/
def slStat (s : Chip) (l : Nat) : Nat :=
  let L := s.link l
  let st := match L.st with
    | .disabled => 0
    | .pmd => 1
    | .fec => 1
    | .ident => 1
    | .up => if L.inRetry then 3 else 2
    | .down => 4
    | .retired => 5
    | .mismatch => 6
  st + b2n L.epis.isSome * 8 + b2n L.rtryRx * 16 + b2n L.rnbRx * 32 + b2n L.gap.isSome * 64 + L.peerChip % 4096 * 2 ^ 7 +
  L.peerLink % 32 * 2 ^ 19 + (match L.epis with | some e => e.count | none => 0) * 2 ^ 24

/-- SL_RTn (R406): a write while a plan is installed, or at boot. -/
def slRtCmd (s : Chip) (n v : Nat) : Chip :=
  if n < 4096 ∧ (s.flood.stale ∨ s.pins.power = .boot) then s.setReg (rSL_RT n) (field v 0 11) else s

/-- TS_CFG (R407): flooded at once; it applies at the next re-plan. -/
def tsCfgCmd (s : Chip) (v : Nat) : Chip := (s.setReg rTS_CFG (field v 0 9)).floodOwn true

/-! ### Time exchanges (R395-R397) -/

/-- Timestamps and identifiers of a TIME flit as payload bytes (log 33). -/
def timeBytes : TimePayload → List Byte
  | .request x => fitBytes 242 (leBytes 1 0 ++ leBytes 1 x)
  | .response x t2 t3 => fitBytes 242 (leBytes 1 1 ++ leBytes 1 x ++ leBytes 8 (wrapInt 64 t2) ++ leBytes 8 (wrapInt 64 t3))

def Chip.parentLink (s : Chip) : Option Nat := if bitOf (s.reg rTS_STAT) 22 then some (field (s.reg rTS_STAT) 17 5) else none

/-- TIME_EXCHANGE_START: `t1` is the timestamp of the request's first symbol. -/
def timeExchangeCmd (s : Chip) (l : Nat) (t1 : Int) : Chip :=
  if l ≥ nLinks ∨ !(s.link l).isUp then s else
  let L := s.link l
  let s := if L.exch.isSome && s.parentLink == some l then s.countTo rTS_EXCH_CNT 32 32 else s
  let s := s.setLink l { L with xid := (L.xid + 1) % 256, exch := some (L.xid, t1) }
  s.sendFlit l 3 0 (timeBytes (.request L.xid))

/-- TIME_FLIT: `ta` is its arrival timestamp; `td` the departure timestamp of a response to a request. -/
def timeFlitCmd (s : Chip) (l : Nat) (h : FlitHdr) (t : TimePayload) (ta td : Int) : Chip :=
  if l ≥ nLinks ∨ !(s.link l).isUp then s else
  if !h.crcOk then s.openGap l else
  let s := (s.setLink l ((s.link l).header h s.now)).pumpAll l
  match t with
  | .request x => s.sendFlit l 3 0 (timeBytes (.response x ta td))
  | .response x t2 t3 =>
    let L := s.link l
    match L.exch with
    | none => s
    | some (x0, t1) =>
      if x0 ≠ x then s else
      let th := ((t2 - t1) - (ta - t3)).tdiv 2
      let de := ((ta - t1) - (t3 - t2)).tdiv 2
      let s := (s.setLink l { L with exch := none }).setReg (slg rSL_LAT l) (wrapInt 24 de)
      if s.parentLink = some l then
        { s.countTo rTS_EXCH_CNT 0 32 with ts := { s.ts with win := s.ts.win ++ [(th, de)] } }
      else s

def insertInt (x : Int) : List Int → List Int
  | [] => [x]
  | y :: ys => if x ≤ y then x :: y :: ys else y :: insertInt x ys

/-- The lower median. -/
def lowerMedian (xs : List Int) : Int := (xs.foldl (fun l x => insertInt x l) []).getD ((xs.length - 1) / 2) 0

def clampTrim (x : Int) : Int := max (-858993) (min 858993 x)

/-- DISCIPLINE_WINDOW: `pSync` says that the parent reports XSYNC (R396, R397). -/
def disciplineCmd (s : Chip) (pSync : Bool) : Chip :=
  if s.parentLink.isNone then s else
  let win := s.ts.win
  let dmin := match win with | [] => 0 | x :: xs => xs.foldl (fun m y => min m y.2) x.2
  let valid := win.filter fun x => decide (x.2 ≤ dmin + 32)
  let lost := win.length - valid.length
  let s := s.setField rTS_EXCH_CNT 32 32 (min (field (s.reg rTS_EXCH_CNT) 32 32 + lost) 0xFFFFFFFF)
  let deep := decide (field (s.reg rTS_STAT) 12 5 > 16)
  if valid.length ≥ 8 then
    let th := lowerMedian (valid.map (·.1))
    let integ := s.ts.integ + (th * 2 ^ 28).tdiv 1000000
    let trim := clampTrim (integ + (th * 2 ^ 31).tdiv 1000000)
    let small := decide (th.natAbs ≤ 2)
    let run := if small then s.ts.goodRun + 1 else 0
    let s := (s.setReg rCTB_TRIM (wrapInt 32 trim)).setReg rTS_OFFS (wrapInt 32 th)
    let s := { s with ts := { s.ts with win := [], integ := integ, goodRun := run, parentSync := pSync } }
    if !small || !pSync || deep then s.setField rCTB_STAT 2 1 0
    else if run ≥ 4 ∧ !bitOf (s.reg rCTB_STAT) 1 then s.setField rCTB_STAT 2 1 1 else s
  else { s with ts := { s.ts with win := [], goodRun := 0, parentSync := pSync } }.setField rCTB_STAT 2 1 0

end Sys2Proof.Machine
end

