-- ==== Sys2Proof/Machine/Power.lean ====
section
/-!
DEFINITION. Chip reset, power cycle, hold mode and the reset inputs (13 R462-R466; 17 R548-R552, R559, R560,
R569).
-/
namespace Sys2Proof.Machine

/-! ### Chip reset (13 R463; 17 R552) -/

/-- Registers that hold across a chip reset (13 R470; 10 R369). -/
def heldRegs : List Nat := [rFLT_FIRST, rFLT_FIRST_TIME, rFLT_RST_CAUSE, rFLT_RST_TIME, rMEM_TOP] ++ (List.range 64).map rMEM_RET

/-- What the security processor keeps in fuses and flash; pending proposals go. -/
def Security.kept (x : Security) : Security := { x with proposals := [], todo := [] }

/-- Every island but the always-on island is reset; what lies outside the part stays. -/
def Chip.islandReset (s : Chip) : Chip :=
  let c := heldRegs.foldl (fun (c : Chip) a => c.setReg a (s.reg a)) Chip.reset
  { c with
    cxl := s.cxl, vlog := s.vlog, outs := s.outs, sec := s.sec.kept
    vcf := { keyGen := s.vcf.keyGen }
    pins := { power := .boot, pwrOk := s.pins.pwrOk, railsOk := s.pins.railsOk, sysRst := s.pins.sysRst
              thermtrip := s.pins.thermtrip, resetting := true, peBif := s.pins.peBif, i3cAddr := s.pins.i3cAddr
              tapId := s.pins.tapId, trace := s.pins.trace, traceLost := s.pins.traceLost, traceSent := s.pins.traceSent } }

/-- May a chip reset start: powered, not in hold, not halted, not thermally off? -/
def Chip.resettable (s : Chip) : Bool := !s.hold && (s.pins.power == .boot || s.pins.power == .ready)

/-- A fault's chip reset: its source and tick are recorded. -/
def Chip.faultReset (s : Chip) (src : Nat) : Chip :=
  if !s.resettable then s else
  (s.islandReset.setReg rFLT_RST_CAUSE (src + 2 ^ 63)).setReg rFLT_RST_TIME s.now

/-- SYS_RST_N: a chip reset with no cause, held until the release; on the tick of a fault's chip reset, the
fault's record stays. -/
def sysRstCmd (s : Chip) : Chip :=
  if !s.resettable then s else
  let same := s.pins.resetting && bitOf (s.reg rFLT_RST_CAUSE) 63 && decide (s.now = 0)
  let t := s.islandReset
  let t := { t with pins := { t.pins with sysRst := true } }
  if same then t else (t.setReg rFLT_RST_CAUSE 0).setReg rFLT_RST_TIME s.now

def sysRstReleaseCmd (s : Chip) : Chip := { s with pins := { s.pins with sysRst := false } }

/-! ### Hold mode (13 R464) -/

/-- Hold mode starts: the hold service sends one part-lost message to the coordinator of the part's job. -/
def Chip.enterHold (s : Chip) : Chip :=
  if s.hold then s else
  let s := { s with hold := true }
  if s.job.st ≠ .idle ∧ !s.coordinator then s.emit (.steward (.partLost s.job.rank) s.coordRank) else s

/-! ### Power (17 R548, R549, R559) -/

/-- Everything is reset, the always-on island included; flash keeps its content. -/
def Chip.powerOff (s : Chip) : Chip :=
  { Chip.reset with
    outs := s.outs, vlog := s.vlog, sec := { s.sec.kept with stageSeq := 0, nextProp := 1 }, vcf := { keyGen := s.vcf.keyGen }
    pins := { power := .off, pwrOk := s.pins.pwrOk, railsOk := s.pins.railsOk, thermtrip := s.pins.thermtrip
              peBif := s.pins.peBif, i3cAddr := s.pins.i3cAddr } }

/-- PWR_OK_FALL: PWR_OK low for 1 µs or more. -/
def pwrOkFallCmd (s : Chip) : Chip :=
  let t := s.powerOff
  { t with pins := { t.pins with pwrOk := false } }

/-- VDD_AON_LOW: the power cycle starts whatever PWR_OK does; the pins of a thermal trip are released. -/
def vddAonLowCmd (s : Chip) : Chip :=
  let t := s.powerOff
  { t with pins := { t.pins with thermtrip := false } }

/-- Boot starts, unless a thermal trip still holds it. -/
def Chip.bootStart (s : Chip) : Chip := { s with pins := { s.pins with power := .boot, thermtrip := false } }

/-- POWER_GOOD: PWR_OK rises; the straps are sampled; `tj` is the hottest junction at the edge in °C (R554, R559). -/
def powerGoodCmd (s : Chip) (tj straps i3c : Nat) : Chip :=
  if s.pins.power ≠ .off ∨ s.pins.pwrOk then s else
  let s := { s with pins := { s.pins with pwrOk := true, peBif := straps % 4, i3cAddr := i3c % 4 } }
  if s.pins.thermtrip && decide (tj ≥ 110) then s
  else if !s.pins.railsOk then s
  else s.bootStart

/-- RAILS_WITHIN_RANGE: every rail comes within its range while PWR_OK is high. -/
def railsWithinRangeCmd (s : Chip) : Chip :=
  let s := { s with pins := { s.pins with railsOk := true } }
  if s.pins.power = .off ∧ s.pins.pwrOk ∧ !s.pins.thermtrip then s.bootStart else s

/-- The part turns off every regulator but that of VDD_AON (13 R466). -/
def Chip.thermalOff (s : Chip) : Chip :=
  let t := s.islandReset
  { t with hold := s.hold, pins := { t.pins with power := .thermalOff, thermtrip := true, resetting := false } }

/-- MEP_PERST_N and a function-level reset: the management endpoint only (17 R552, R569). -/
def mepResetCmd (s : Chip) : Chip := { s with pins := { s.pins with d3 := false } }

/-- A boot halt (16 R517). -/
def Chip.bootHalt (s : Chip) (cause : Nat) : Chip :=
  { s with pins := { s.pins with power := .halt } }.setField rSEC_STAT 9 4 cause

end Sys2Proof.Machine
end

