-- ==== Sys2Proof/Machine/Fault.lean ====
section
/-!
DEFINITION. Fault collection and reaction (13 R448-R472): sources, counting windows, reaction chains, grace
timers, block reset, the event ring, progress timers, and what VCF does about a fault (R469).
-/
namespace Sys2Proof.Machine

/-! ### Sources (R450-R452) -/

/-- Core source bit 0-6 of an event of a core. -/
def coreBit (ev : Nat) : Option Nat :=
  if ev = evNumerics then some 0
  else if ev = evHazard ∨ ev = evPoisonEgress then some 1
  else if (evFormat ≤ ev ∧ ev ≤ evStashImbalance) ∨ ev = evProgram then some 2
  else if ev = evCoreMemory then some 3
  else if ev = evStashHold then some 4
  else if ev = evProgress then some 5
  else if ev = evUnrepairable ∨ ev = evMonitorFault then some 6
  else none

/-- The source and sub-source of an event of an instance: a physical core, a bench, an HBM channel, a stack, a die,
a link, a port, a Steward pair or a bridge, by the event. An access error of an instance above the cores comes from
an Ethernet port (288, 289) or the management endpoint (290). -/
def evSource (ev inst : Nat) : Option (Nat × Option Nat) :=
  if ev = evAccess ∧ inst ≥ 288 then some (if inst = 290 then srcMEP else srcETH (inst % 2), none)
  else match coreBit ev with
  | some b => if inst < 288 then some (32 * benchOf inst + 7 * (inst % 4) + b, none) else none
  | none =>
    if evBenchReg ≤ ev ∧ ev ≤ evBenchThermal then (if inst < 72 then some (32 * inst + 28 + (ev - evBenchReg), none) else none)
    else if evMemCorr ≤ ev ∧ ev ≤ evMemPoison then (if inst < 512 then some (srcMC (chStack inst), some (chInStack inst)) else none)
    else if ev = evCtrlFail then (if inst < 16 then some (srcMC inst, none) else none)
    else if ev = evStashCtl then (if inst < 4 then some (srcMC (4 * inst), none) else none)
    else if evLinkDegrade ≤ ev ∧ ev ≤ evPartner then (if inst < nLinks then some (srcLG (inst / 4), some (inst % 4)) else none)
    else if ev = evPort then (if inst < 2 then some (srcETH inst, none) else none)
    else if ev = evRootPort then some (srcPCIE, none)
    else if ev = evCxlDown then some (srcCXL, none)
    else if ev = evEndpoint then some (srcMEP, none)
    else if ev = evLockstep then (if inst < 2 then some (srcSTWA + inst, none) else none)
    else if evControl ≤ ev ∧ ev ≤ evSnapshot then some (srcCTLX, none)
    else if ev = evSecInt then some (srcSECI, none)
    else if ev = evPolicy then some (srcSECP, none)
    else if ev = evHoldover then some (srcTBL, none)
    else if ev = evTbFail then some (srcTBF, none)
    else if ev = evEacc then some (srcEACC, none)
    else if ev = evOverCurrent then some (srcOVC, none)
    else if ev = evThermtrip then some (srcTHT, none)
    else if ev = evRail then some (srcRAIL, none)
    else if ev = evBridgeLane ∨ ev = evBridgeIso then (if inst < 4 then some (srcBRG inst, none) else none)
    else if ev = evAon then some (srcAON, none)
    else if ev = evFabricChip then some (srcFABG, none)
    else none

/-- Events that make their source severe at once. -/
def evImm (ev : Nat) : Bool :=
  [evProgress, evUnrepairable, evMonitorFault, evBenchReg, evBenchClock, evCtrlFail, evStashCtl, evLinkDown, evCxlDown,
   evLockstep, evSecInt, evHoldover, evTbFail, evOverCurrent, evThermtrip, evRail, evBridgeIso, evAon].contains ev

/-- The state register of a source or sub-source (R471). -/
def srcReg (s : Nat) (sub : Option Nat) : Nat :=
  match sub with
  | none => rFLT_SRC s
  | some c => if s < srcLG 0 then rFLT_SUBM (32 * (s - srcMC 0) + c) else rFLT_SUBL (4 * (s - srcLG 0) + c)

/-- Does the source have sub-sources, and how many? -/
def subCount (s : Nat) : Nat :=
  if srcMC 0 ≤ s ∧ s < srcLG 0 then 32 else if srcLG 0 ≤ s ∧ s < srcETH 0 then 4 else 0

/-- A source named by a command: its number in bits 15-0, and in bits 24-16 one more than the sub-source, or 0 for
the source itself. -/
def srcOf (code : Nat) : Nat × Option Nat :=
  let s := field code 0 16
  let k := field code 16 9
  if k = 0 ∨ subCount s = 0 then (s, none) else (s, some ((k - 1) % subCount s))

/-- Physical cores that a bench source belongs to. -/
def srcCores (s : Nat) : List Nat :=
  if s ≥ 2304 then [] else
  let cs := benchCores (s / 32)
  if s % 32 ≥ 28 then cs else cs.filter fun p => decide (p % 4 = s % 32 / 7)

/-- A source of a fenced core starts no chain (R457). -/
def Chip.suppressed (s : Chip) (src : Nat) : Bool :=
  decide (src < 2304) && decide (src % 32 < 28) && (srcCores src).any fun p => (s.core p).fenced

/-! ### Source state (R455, R471) -/

def srcState (v : Nat) : Nat := field v 16 2
def srcStage (v : Nat) : Nat := field v 18 2
def srcSevere (v : Nat) : Bool := decide (srcState v ≥ 2)

/-- The chain in force: RA, RB, RC of FLT_CFG; event 4Dh has 2 and 4 (R463). -/
def Chip.chain (s : Chip) (src : Nat) (stage : Nat) : Nat :=
  if src ≥ srcBRG 0 ∧ src < srcAON ∧ s.flt.iso.contains src then [2, 4, 7].getD stage 7
  else if stage ≥ 3 then 7 else field (s.reg (rFLT_CFG src)) (24 + 3 * stage) 3

def Chip.grace (s : Chip) (src : Nat) : Nat :=
  1000 * (if src ≥ srcBRG 0 ∧ src < srcAON ∧ s.flt.iso.contains src then 100000 else field (s.reg (rFLT_CFG src)) 33 20)

/-- Has a severe source taken the reaction in its chain so far? -/
def Chip.tookCode (s : Chip) (src : Nat) (sub : Option Nat) (code : Nat) : Bool :=
  let v := s.reg (srcReg src sub)
  srcSevere v && (List.range (srcStage v + 1)).any fun i => decide (s.chain src i = code)

/-- Every source and sub-source. -/
def allSources : List (Nat × Option Nat) :=
  ((List.range 2350).map fun s => (s, (none : Option Nat))) ++
  (List.range 512).map (fun n => (srcMC (n / 32), some (n % 32))) ++ (List.range 32).map fun l => (srcLG (l / 4), some (l % 4))

/-- ERR_N is driven low (R462, R463, R465, R466; in a boot halt, 16 R517). -/
def Chip.errN (s : Chip) : Bool :=
  s.hold || s.pins.power == .halt || s.pins.resetting || s.pins.thermtrip || s.flt.lockErr.isSome ||
  allSources.any fun x => s.tookCode x.1 x.2 5 || (s.flt.iso.contains x.1 && srcSevere (s.reg (srcReg x.1 x.2)))

/-- CFC_STAT: this core's severe and unacknowledged sources. -/
def Chip.cfcStat (s : Chip) (p : Nat) : Nat :=
  (List.range 7).foldl (fun n b =>
    n + b2n (srcSevere (s.reg (rFLT_SRC (32 * benchOf p + 7 * (p % 4) + b)))) * 2 ^ b) 0

/-- FLTN of a core: an interrupt reaction of one of its sources, or of its bench's (R458; 08 R261). -/
def Chip.fltn (s : Chip) (p : Nat) : Bool :=
  ((List.range 7).map fun b => 32 * benchOf p + 7 * (p % 4) + b).any (fun x => s.tookCode x none 1) ||
  ([28, 29, 30, 31].map fun b => 32 * benchOf p + b).any fun x => s.tookCode x none 1

/-! ### The event ring and the first event (R453, R454) -/

def Chip.onFlt (s : Chip) (f : FaultSt → FaultSt) : Chip := { s with flt := f s.flt }

/-- The bytes of a record. -/
def Chip.recordBytes (s : Chip) (src sub ev kind detail : Nat) : List Byte :=
  leBytes 8 s.now ++ leBytes 2 src ++ leBytes 2 sub ++ leBytes 1 ev ++ leBytes 1 kind ++ leBytes 2 0 ++ leBytes 8 detail ++ leBytes 8 0

/-- Where the next record goes. -/
def Chip.ringAddr (s : Chip) : Nat := field (s.reg rFLT_LOG_BASE) 12 36 * 4096 + 32 * (s.reg rFLT_LOG_WR % 4096)

/-- Is the ring in use, in a firmware region? -/
def Chip.ringOk (s : Chip) : Bool :=
  bitOf (s.reg rFLT_LOG_BASE) 0 && s.mayAccess .tables true true s.ringAddr && s.memKind s.ringAddr != .reserved

def Chip.ringWrite (s : Chip) (b : List Byte) : Chip :=
  if s.ringOk then (s.memWrTry s.ringAddr b).setReg rFLT_LOG_WR ((s.reg rFLT_LOG_WR + 1) % 2 ^ 32) else s

/-- One record: to the trace port (17 R562), and to the ring if that is in use and lies in a firmware region. -/
def Chip.record (s : Chip) (src sub ev kind detail : Nat) : Chip :=
  (s.trace 1 (s.recordBytes src sub ev kind detail)).ringWrite (s.recordBytes src sub ev kind detail)

/-- FLT_FIRST: the first event; on its own tick the lowest source, then the lowest sub-source. -/
def Chip.first (s : Chip) (src sub : Nat) : Chip :=
  let f := s.reg rFLT_FIRST
  if !bitOf f 63 then (s.setReg rFLT_FIRST (src + sub * 2 ^ 16 + 2 ^ 63)).setReg rFLT_FIRST_TIME s.now
  else
    let older := s.reg rFLT_FIRST_TIME = s.now ∧ (src < field f 0 16 ∨ (src = field f 0 16 ∧ sub < field f 16 9))
    let s := if older then s.setReg rFLT_FIRST (src + sub * 2 ^ 16 + 2 ^ 63) else s
    s.setField rFLT_FIRST 62 1 1

/-- The event is latched in its status word (R450, R451). -/
def Chip.latch (s : Chip) (src : Nat) : Chip :=
  if src < 2304 then s.setField (rFLT_BENCH_STAT (src / 32)) (src % 32) 1 1
  else s.setField rFLT_CHIP_STAT1 (src - 2304 + 8) 1 1

/-! ### Reactions (R458-R460, R463-R466, R469) -/

/-- A fixed source whose chain holds a terminal code. -/
def Chip.terminal (s : Chip) (src : Nat) : Bool :=
  (bitOf (s.reg (rFLT_CFG src)) 63 || s.flt.iso.contains src) &&
  (List.range 3).any fun i => decide (s.chain src i = 4) || decide (s.chain src i = 6)

/-- STATE, STAGE, REPEAT and WCOUNT clear, and the grace timer stops. -/
def Chip.quiet (s : Chip) (src : Nat) (sub : Option Nat) : Chip :=
  let key := srcReg src sub
  let v := s.reg key
  let s := s.setReg key (field v 32 32 * 2 ^ 32)
  { s with flt := { s.flt with graceEnd := NatMap.wr s.flt.graceEnd key 0 } }

def Chip.ackSource (s : Chip) (src : Nat) (sub : Option Nat) : Chip :=
  if src < 2350 ∧ srcSevere (s.reg (srcReg src sub)) ∧ !s.terminal src then s.quiet src sub else s

/-- Block reset (R459). `sub` is the link of a link group. In a boot halt no such block runs (16 R517). -/
def Chip.blockReset (s : Chip) (src : Nat) (sub : Option Nat) (media : Media) : Chip :=
  if s.pins.power == .halt then s
  else if src < 2304 then
    let cs := srcCores src
    let hit := cs.any s.inJob
    let s := cs.foldl Chip.blockResetCore s
    let r := NatMap.rd s.flt.router (src / 32)
    let s := if src % 32 = 30 ∧ r ≠ 0 then s.setField (rFAB_BYP ((r - 1) / 64)) ((r - 1) % 64) 1 1 else s
    if hit then (faultHalt s src media).ackSource src sub else s
  else if src < srcLG 0 then s
  else if src < srcETH 0 then
    let l := 4 * (src - srcLG 0) + sub.getD 0
    let s := s.linkDown l 5
    s.setLink l { s.link l with st := .pmd, since := s.now }
  else if src < srcPCIE then { s with vcf := { s.vcf with conns := s.vcf.conns.filter fun x => x.1 ≠ src - srcETH 0 } }
  else if src = srcMEP then mepResetCmd s
  else if src = srcEACC then s.setField rEN_STAT 0 1 0
  else s

/-- What VCF does on the interrupt or trap of a source; it acknowledges the source once it has acted (R469). -/
def Chip.vcfFault (s : Chip) (src : Nat) (sub : Option Nat) (ev inst : Nat) (media : Media) : Chip :=
  if s.pins.power ≠ .ready ∨ s.hold then s else
  let ack := fun (s : Chip) => s.ackSource src sub
  if src < 2304 then
    let b := src % 32
    let mine := (srcCores src).any s.inJob
    if b ≥ 28 then s
    else if b % 7 = 0 then ack (s.log (.fault src))
    else if b % 7 = 1 ∨ b % 7 = 2 then (if mine then ack (faultPause s src) else s)
    else if (b % 7 = 4 ∨ b % 7 = 5) ∧ mine then ack (stallHalt s src media)
    else s
  else if ev = evCtrlFail then ack (faultHalt (s.controllerFail inst).retireNext src media)
  else if src < srcLG 0 then
    match sub with
    | some c =>
      let ch := src - srcMC 0 + 16 * c
      let s := memRetireWrite s (ch + 2 ^ 9)
      ack (if s.fencedCh.contains ch then faultPause s src else s)
    | none => s
  else if src < srcETH 0 then
    let l := 4 * (src - srcLG 0) + sub.getD 0
    if ev = evLinkDown then ack s
    else if s.job.st = .running ∧ jobUsesLink s s.id l then ack { s with flt := { s.flt with retire := s.flt.retire ++ [l] } }
    else ack (installPlan (slRetireCmd s l))
  else if src = srcCXL then
    ack (if (List.range 32).any fun n => bitOf (s.reg (rMEM_RGN_CTL n)) 3 && decide (s.reg (rMEM_RGN_BASE n) ≥ cxlBase) then faultPause s src else s)
  else if src = srcTBL then ack (s.log (.fault src))
  else s

/-- A reaction starts (R458): its record, its effect, and its grace timer. -/
def Chip.react (s : Chip) (src : Nat) (sub : Option Nat) (stage ev inst detail : Nat) (media : Media) : Chip :=
  if s.hold then s else
  let code := s.chain src stage
  let key := srcReg src sub
  let s := s.record src (sub.getD 0) ev ((if stage = 0 then 2 else 3) + code * 4) detail
  let s := s.onFlt fun f => { f with graceEnd := NatMap.wr f.graceEnd key (s.now + s.grace src) }
  if code = 1 ∨ code = 2 then s.vcfFault src sub ev inst media
  else if code = 3 then s.blockReset src sub media
  else if code = 4 then s.faultReset src
  else if code = 6 then s.enterHold
  else s

/-- Lockstep mismatch of a Steward pair (R465): `b` names pair B. -/
def Chip.lockstep (s : Chip) (b : Bool) : Chip :=
  let s := s.onFlt fun f => { f with lockErr := some (s.now + 100000000) }
  let active := s.activeB == b
  let phase := field (s.reg rSEC_UPD) 0 3
  let s := if phase = 3 then
      { s with sec := { s.sec with actSlot := Sys2Proof.setField s.sec.actSlot 2 1 (field (s.reg rSEC_STAT) 7 1) } }
    else s
  let s := if phase = 3 ∨ phase = 5 then s.commitEnd 0 0xA 0xA else s
  if !active then s.setField rMBX_ROLE 1 1 0
  else if s.stbyOk then s.switchover.setField rMBX_ROLE 1 1 0
  else s.faultReset (srcSTWA + b2n b)

/-- A source becomes severe. -/
def Chip.severe (s : Chip) (src : Nat) (sub : Option Nat) (ev inst detail : Nat) (media : Media) : Chip :=
  let key := srcReg src sub
  let s := s.record src (sub.getD 0) ev 1 detail
  let s := (s.setField key 16 2 2).setField key 18 2 0
  let s := s.onFlt fun f =>
    { f with why := (key, ev, inst, detail) :: f.why.filter fun w => w.1 ≠ key
             iso := if ev = evBridgeIso then src :: f.iso else f.iso }
  s.react src sub 0 ev inst detail media

/-- One event counts at its source (R455, R457). -/
def Chip.count (s : Chip) (src : Nat) (sub : Option Nat) (ev inst detail : Nat) (media : Media) : Chip :=
  let key := srcReg src sub
  let v := s.reg key
  let s := s.countTo key 32 32
  let minor := fun (s : Chip) => s.record src (sub.getD 0) ev 0 detail
  if srcSevere v then minor (s.setField key 20 1 1)
  else if s.suppressed src then minor s
  else
    let cfg := s.reg (rFLT_CFG src)
    let fresh := srcState v = 0 ∨ s.now ≥ NatMap.rd s.flt.winEnd key
    let n := if fresh then 1 else field v 0 16 + 1
    let s := (s.setField key 0 16 n).setField key 16 2 1
    let s := s.onFlt fun f => if fresh then { f with winEnd := NatMap.wr f.winEnd key (s.now + 2 ^ field cfg 16 6 * 1000) } else f
    if evImm ev ∨ n ≥ field cfg 0 16 then s.severe src sub ev inst detail media else minor s

/-- Does the collector work: power is good, or the part holds or waits? -/
def Chip.collects (s : Chip) : Bool := s.pins.power == .boot || s.pins.power == .ready || s.pins.power == .halt

/-- An event reaches its collector (R449-R455). -/
def Chip.collect (s : Chip) (ev inst detail : Nat) (media : Media) : Chip :=
  if !s.collects then s else
  if ev = evFallback ∨ ev = evLinkUp then
    let s := s.record 0xFFFF 0 ev 0 detail
    if ev = evFallback ∧ s.pins.power = .ready then s.log (.fallBack (s.job.step + 1) (detail % 64) (detail / 64)) else s
  else match evSource ev inst with
  | none => s
  | some (src, sub) =>
    let s := (s.latch src).first src (sub.getD 0)
    let s := s.onFlt fun f => if ev = evFabric then { f with router := NatMap.wr f.router inst (detail + 1) } else f
    let s := s.count src sub ev inst detail media
    if ev = evLockstep ∧ !s.hold ∧ s.pins.power ≠ .halt then s.lockstep (decide (inst = 1)) else s

/-- A core-memory finding that no read of the model has made (08 R258; DESIGN CHOICE, log 96, for the form of DETAIL): with
bit 32 a corrected error, which counts in SEQ_ECC and is no event; with bit 33 an upset of the word at the local address in
DETAIL[31:0], which the next read of that word meets; otherwise a double-bit error that a read has met. -/
def coreMemoryFound (c : Core) (detail : Nat) : Core :=
  if bitOf detail 32 then c.setField rSEQ_ECC 0 16 (min (field (c.reg rSEQ_ECC) 0 16 + 1) 0xFFFF)
  else if bitOf detail 33 then
    let a := field detail 0 32
    let w := a / eccWord a * eccWord a
    if c.upset.contains w then c else { c with upset := w :: c.upset }
  else c.setField rSEQ_ECC 16 16 (min (field (c.reg rSEQ_ECC) 16 16 + 1) 0xFFFF)

/-- FAULT_EVENT: an event that a block raised, or that comes from outside the model, reaches its collector. -/
def faultEventCmd (s : Chip) (ev inst detail : Nat) (media : Media) : Chip :=
  let found := decide (ev = evCoreMemory) && decide (inst < 288) && !(s.core inst).raised.contains (ev, detail)
  let s := if ((coreBit ev).isSome || ev == evFallback) && decide (inst < 288) then s.onCore inst fun c => { c with raised := c.raised.erase (ev, detail) }
    else { s with raised := s.raised.erase (ev, inst, detail) }
  let s := if found then s.onCore inst fun c => coreMemoryFound c detail else s
  if found && (bitOf detail 32 || bitOf detail 33) then s else s.collect ev inst detail media

/-- FAULT_WINDOW_END: the source is quiet again. -/
def faultWindowEndCmd (s : Chip) (code : Nat) : Chip :=
  let (src, sub) := srcOf code
  let key := srcReg src sub
  if src < 2350 ∧ srcState (s.reg key) = 1 ∧ s.now ≥ NatMap.rd s.flt.winEnd key then
    (s.setField key 0 16 0).setField key 16 2 0
  else s

/-- GRACE_EXPIRY: the next code of the chain starts, or the chain ends. -/
def graceExpiryCmd (s : Chip) (code : Nat) (media : Media) : Chip :=
  let (src, sub) := srcOf code
  let key := srcReg src sub
  let v := s.reg key
  if src ≥ 2350 ∨ s.hold ∨ srcState v ≠ 2 ∨ s.now < NatMap.rd s.flt.graceEnd key then s else
  let next := srcStage v + 1
  if s.chain src next = 7 then s.setField key 16 2 3
  else
    let (_, ev, inst, detail) := (s.flt.why.find? fun w => w.1 == key).getD (key, 0, 0, 0)
    (s.setField key 18 2 next).react src sub next ev inst detail media

/-! ### Acknowledgement by a command (R456, R463) -/

/-- FLT_ACK_WRITE: SUB 0 of a source with sub-sources names the source and its sub-source 0. -/
def fltAckWriteCmd (s : Chip) (v : Nat) : Chip :=
  let src := field v 0 16
  let k := field v 16 9
  if subCount src = 0 then (if k = 0 then s.ackSource src none else s)
  else if k ≥ subCount src then s
  else
    let s := s.ackSource src (some k)
    if k = 0 then s.ackSource src none else s

/-- The FLT_ACK command: the source and every severe sub-source of it. -/
def Chip.ackAll (s : Chip) (src : Nat) : Chip :=
  (List.range (subCount src)).foldl (fun s k => s.ackSource src (some k)) (s.ackSource src none)

/-- CFC_ACK_WRITE by the monitor of the core. -/
def cfcAckCmd (s : Chip) (p v : Nat) : Chip :=
  (List.range 7).foldl (fun s b => if bitOf v b then s.ackSource (32 * benchOf p + 7 * (p % 4) + b) none else s) s

/-- Unfence: the core's seven sources return to quiet (R457). -/
def Chip.unfenceSources (s : Chip) (p : Nat) : Chip :=
  (List.range 7).foldl (fun s b => s.quiet (32 * benchOf p + 7 * (p % 4) + b) none) s

/-! ### Configuration (R458, R471) -/

/-- May code `c` stand in the chain of a configurable source, at place RA or later? -/
def codeOk (src c : Nat) (first : Bool) : Bool :=
  if c = 0 ∨ c = 1 ∨ c = 5 then true
  else if c = 2 then decide (src = srcSTWA) || decide (src = srcSTWA + 1) || decide (src = srcSECI) || decide (src = srcTBL) || decide (src = srcTBF)
  else if c = 3 then
    (decide (src < 2304)) || (decide (srcLG 0 ≤ src) && decide (src ≤ srcMEP)) || decide (src = srcEACC)
  else if c = 7 then !first
  else false

def fltCfgWriteCmd (s : Chip) (n v : Nat) : Chip :=
  if n ≥ 2350 ∨ bitOf (s.reg (rFLT_CFG n)) 63 then s
  else
    let grace := field v 33 20
    let ok := decide (1 ≤ field v 0 16) && decide (field v 16 6 ≤ 39) && decide (1 ≤ grace) && decide (grace ≤ 1000000) &&
      codeOk n (field v 24 3) true && codeOk n (field v 27 3) false && codeOk n (field v 30 3) false
    if ok then s.setReg (rFLT_CFG n) (field v 0 22 + field v 24 29 * 2 ^ 24) else s.setField rFLT_CTL 2 1 1

/-- FLT_FIRST_CLEAR: VALID written as 1. -/
def fltFirstClearCmd (s : Chip) (v : Nat) : Chip :=
  if bitOf v 63 then (s.setReg rFLT_FIRST 0).setReg rFLT_FIRST_TIME 0 else s

/-! ### Progress timers (R467, R472; 11 R383) -/

def progLimitOk (v : Nat) : Bool := decide (field v 0 26 = 0) || (decide (1000 ≤ field v 0 26) && decide (field v 0 26 ≤ 60000000))

def progLimitCmd (s : Chip) (p v : Nat) : Chip :=
  if progLimitOk v then s.onCore p fun c => c.setReg rPROG_LIMIT (field v 0 26) else s

/-- Does the core have a stalled instruction, an operation that has not started, or a block that waits? -/
def Core.waitsForWork (c : Core) : Bool :=
  c.seq.stall.isSome || c.ops.any (fun t => t.waits) || !c.fwd.isEmpty || !c.bwd.isEmpty

/-- Chips that the core's waits name: SEND and RECV, and the global homes of its barriers with more than one part. -/
def Core.waitChips (c : Core) : List Nat :=
  (c.ops.filterMap fun t => if dOp t.desc = opSEND ∨ dOp t.desc = opRECV then some (dPChip t.desc) else none) ++
  (List.range 16).filterMap fun b => if barValid c b ∧ field (barCfg c b) 32 13 > 1 then some (field (barCfg c b) 18 12) else none

/-- The egress links of those chips. -/
def Chip.waitLinks (s : Chip) (p : Nat) : List Nat :=
  ((s.core p).waitChips.filter (· ≠ s.id)).filterMap fun k =>
    let e := rtEntry s k
    if bitOf e 10 then some (field e 0 5) else none

def Chip.progPaused (s : Chip) (p : Nat) : Bool := (s.waitLinks p).any fun l => (s.link l).inRetry || (s.link l).rnbRx
def Chip.progDown (s : Chip) (p : Nat) : Bool := (s.waitLinks p).any fun l => (s.link l).st == .down

/-- The timer of a core counts. -/
def Chip.progRuns (s : Chip) (p : Nat) : Bool :=
  let c := s.core p
  decide (s.job.st = .running) && s.inJob p && decide (c.reg rPROG_LIMIT ≠ 0) && !c.progStopped && c.waitsForWork &&
  !s.progPaused p && !s.progDown p

/-- PROG_STAT (R472). -/
def Chip.progStat (s : Chip) (p : Nat) : Nat :=
  let c := s.core p
  min (c.progAt / 1000) (2 ^ 26 - 1) + b2n (s.progRuns p) * 2 ^ 26 + b2n (s.progPaused p && !c.progStopped) * 2 ^ 27 + b2n c.progStopped * 2 ^ 28

/-- One tick of every progress timer: a timer that depends on a down link stops for good. -/
def Chip.progTicks (s : Chip) (n : Nat) : Chip :=
  if s.job.st ≠ .running then s else
  s.jobCores.foldl (fun s (_, _, p) =>
    if s.progDown p && (s.core p).waitsForWork then s.onCore p fun c => { c with progStopped := true }
    else if s.progRuns p then s.onCore p fun c => { c with progAt := c.progAt + n } else s) s

/-- The core's timer restarts: a block, an instruction or an operation of the core is complete. -/
def Core.progressed (c : Core) : Core := { c with progAt := 0 }

/-- PROGRESS_TIMEOUT: the count reaches PROG_LIMIT. -/
def progressTimeoutCmd (s : Chip) (p : Nat) : Chip :=
  if s.progRuns p && decide ((s.core p).progAt ≥ 1000 * (s.core p).reg rPROG_LIMIT) then
    s.onCore p fun c => (c.progressed).raise evProgress p
  else s

/-! ### Rows with an event of their own -/

/-- BENCH_THERMAL (15 R508). -/
def benchThermalCmd (s : Chip) (b : Nat) : Chip := s.collect evBenchThermal b 0 {}
/-- OVER_CURRENT (15 R511). -/
def overCurrentCmd (s : Chip) (media : Media) : Chip := s.collect evOverCurrent 0 0 media
/-- RAIL_OUT_OF_RANGE (17 R551). -/
def railOutCmd (s : Chip) (media : Media) : Chip :=
  let s := { s with pins := { s.pins with railsOk := false } }
  s.collect evRail 0 0 media
/-- THERMTRIP (R466). -/
def thermtripCmd (s : Chip) : Chip :=
  if s.pins.power = .off then s else (s.collect evThermtrip 0 0 {}).thermalOff
/-- LOCKSTEP_MISMATCH (R465). -/
def lockstepCmd (s : Chip) (b : Bool) : Chip := s.collect evLockstep (b2n b) 0 {}
/-- LOCKSTEP_ERR_N_RELEASE: the 100 ms have run out. -/
def lockErrReleaseCmd (s : Chip) : Chip :=
  match s.flt.lockErr with
  | some t => if s.now ≥ t then { s with flt := { s.flt with lockErr := none } } else s
  | none => s

/-- FLT_CHIP_STAT0 and 1 (R451): the bench bits are the OR of each bench's word. -/
def Chip.chipStat0 (s : Chip) : Nat := (List.range 64).foldl (fun n b => n + b2n (decide (s.reg (rFLT_BENCH_STAT b) ≠ 0)) * 2 ^ b) 0
def Chip.chipStat1 (s : Chip) : Nat :=
  (List.range 8).foldl (fun n b => n + b2n (decide (s.reg (rFLT_BENCH_STAT (64 + b)) ≠ 0)) * 2 ^ b) 0 +
  field (s.reg rFLT_CHIP_STAT1) 8 46 * 2 ^ 8
/-- FLT_CTL: ERRN, HOLD, CFGERR. -/
def Chip.fltCtl (s : Chip) : Nat := b2n s.errN + b2n s.hold * 2 + field (s.reg rFLT_CTL) 2 1 * 4
/-- FLT_SRC of a source, with SUPP (R457). -/
def Chip.fltSrc (s : Chip) (src : Nat) : Nat := Sys2Proof.setField (s.reg (rFLT_SRC src)) 21 1 (b2n (s.suppressed src))

end Sys2Proof.Machine
end

