-- ==== Sys2Proof/Machine/Boundary.lean ====
section
/-!
DEFINITION. The step boundary (01 R34; 03 R108; 06 R191, R208, R211; 09 R315, R334; 10 R366; 14 R480; 15 R507)
and the release of the next step (14 R480; 12 R447).
-/
namespace Sys2Proof.Machine

/-! ### One core -/

/-- Is a message of the tracker part of a replay (03 R111)? -/
def SysMsg.replay : SysMsg → Bool
  | .shardAmax _ _ j | .tensorScale _ _ j => j.isSome
  | _ => false

/-- What a boundary does to a core beside its stash: ladder, tracker slots, tags, and every table that a step
owns. Scales of replays end with their step; a kerf record stays while a held KCHK names it (06 R200). -/
def Core.stepReset (c : Core) : Core :=
  let c := ladderUpdate c
  let fmt := ladderFmt c
  let c := { c with jit := [], jitWait := [], scaleDue := c.scaleDue.filter fun e => e.2.isNone
                    shardGot := c.shardGot.filter fun e => decide (e.1 < 64) }
  let c := (List.range 64).foldl (sctBoundary fmt) c
  let c := (List.range 64).foldl Core.waitSync (c.mapTags confirmTag)
  let c := { c with sel := [], chains := [], attempts := [], tallies := [], unchk := [], forcedAt := []
                    kerf := c.kerf.filter fun r => c.ku.any fun k => kchkNames c k r
                    sys := c.sys.filter fun m => m.1.isSome && !m.2.replay }
  (List.range 16).foldl Core.barBoundary c.pairsBoundary

def Chip.coresBoundary (s : Chip) : Chip :=
  s.jobCores.foldl (fun s (_, _, p) => (s.onCore p Core.stepReset).stashBoundary p) s

/-! ### The conditions of R34 -/

/-- Is the tag of a queue item or a stash entry speculative? One that is invalidated counts (06 R191). -/
def Core.speculative (c : Core) (t : Word) : Bool := !c.confirmed t

/-- Tags of the committed items of queue end n. -/
def Core.itemTags (c : Core) (n : Nat) : List Word :=
  (List.range (c.qend n).slots.length).filterMap fun i =>
    if (c.qend n).slots.getD i .committed = .committed then some (c.readItem n (c.slotOf n i)).1.tag else none

/-- Work that can still write a drawer or device memory: DACC, and a MOV whose destination is no queue end. -/
def TOp.writesMemory (t : TOp) : Bool :=
  decide (dOp t.desc = opDACC) || (decide (dOp t.desc = opMOV) && (opPushes t.desc).isEmpty)

/-- Does a chain of the step, as this core knows it, lack the verdict of some layer? A chain of which the core has seen
neither a selection nor a verdict is not one of the step. -/
def Core.chainOpen (c : Core) (ch : Nat) : Bool :=
  let x := c.chain ch
  let seen := c.sel.any (fun e => e.chain == ch) || c.attempts.any (fun a => a.chain == ch) ||
    c.tallies.any (fun t => tagChain t.tag == ch) || !x.early.isEmpty || !x.finals.isEmpty || !x.dead.isEmpty
  seen && decide (c.finalTo ch ≠ 1024)

/-- The conditions of R34 on one core: every layer of the step's chains has a verdict; no operation that writes gradients
or weights is incomplete; no tile register, stash entry or queue item is speculative. What a core's program has still to
issue, the core does not know: the command says that it has issued all (DESIGN CHOICE, log 95). -/
def Core.boundaryReady (c : Core) : Bool :=
  !(List.range 64).any c.chainOpen &&
  !c.ops.any TOp.writesMemory &&
  ([c.fe, c.be].all fun e => e.t.all fun t => tagInv t.2.tag || !c.speculative t.2.tag) &&
  ((List.range 16).all fun n => (c.itemTags n).all fun t => !c.speculative t) &&
  c.stash.entries.all fun e => !c.speculative e.tag

/-- The conditions of R34 on this part. -/
def Chip.boundaryReady (s : Chip) : Bool := s.jobCores.all fun c => (s.core c.2.2).boundaryReady

/-! ### Reports to the coordinator -/

/-- Every part is at the boundary. -/
def Chip.allReady (s : Chip) : Bool :=
  (List.range s.job.parts).all fun r => s.job.reports.any fun x => decide (x = (r, s.job.step))

/-- A report of a rank, with its choice of point, at the coordinator. -/
def Chip.noteReport (s : Chip) (rank step pt : Nat) : Chip :=
  { s with job := { s.job with reports := (rank, step) :: s.job.reports.filter fun x => x.1 ≠ rank }
           en := { s.en with points := (rank, pt) :: s.en.points.filter fun x => x.1 ≠ rank } }

/-- This part's own report. -/
def Chip.report (s : Chip) : Chip :=
  if s.coordinator then s.noteReport s.job.rank s.job.step s.job.pt
  else s.emit (.steward (.boundaryReport s.job.rank s.job.step s.job.pt) s.coordRank)

/-- The point for the first step after JOB_START or a restore, by the job descriptor's annotation (R507). -/
def Chip.firstPoint (s : Chip) : Nat :=
  let d := jobDesc s.job.image
  planPoint s { eb := (listLe d 0 8 : Rat), eu := (listLe d 8 8 : Rat), cyc := listLe d 16 8, fixed := Config.free s.now 1 } s.now

/-- The job runs on this part, until `count` more boundaries, and reports for its next step. -/
def Chip.startSteps (s : Chip) (count : Nat) : Chip :=
  let s := s.markStep
  let pt := if s.en.fresh then s.firstPoint else s.job.pt
  Chip.report { s with job := { s.job with
    st := .running, released := false, left := if count = 0 then none else some count, ran := 0, pause := none, pt := pt } }

/-! ### Captures that hold a boundary (R480 step 4) -/

/-- A capture that waited for the previous one starts once that one is no longer open. -/
def Chip.afterCapture (s : Chip) : Chip :=
  if bitOf (s.reg rSNP_STAT) 1 && !s.captureOpen then
    (captureStart (s.setField rSNP_STAT 1 1 0) s.job.step).report
  else s

/-- The capture due at the boundary just reached: it starts, or the job holds for the previous one. -/
def Chip.boundaryCapture (s : Chip) : Chip :=
  if !(layersDue s s.job.step).isEmpty && s.captureOpen then (s.setField rSNP_STAT 1 1 1).bump rSNP_HOLD_CNT 1
  else (captureStart s s.job.step).report

/-! ### Fences that wait for a boundary (12 R435) -/

def fenceCore (r : RunCmd) : Nat := listLe r.msg 16 1 + 16 * listLe r.msg 17 1
def fenceAuto (r : RunCmd) : Bool := bitOf (listLe r.msg 18 1) 0

/-- A CORE_FENCE that waits for the job's boundary. -/
def Chip.fenceWaiting (s : Chip) : Option RunCmd := s.vcf.running.find? fun r => r.op == 0x40

/-- A core is fenced: its block is reset and it leaves the map at the next build. -/
def Chip.fence (s : Chip) (p : Nat) : Chip := (s.blockResetCore p).onCore p fun c => { c with fenced := true }

/-! ### STEP_BOUNDARY -/

/-- Links that wait for the boundary to retire, and the plan without them (11 R387). -/
def Chip.boundaryLinks (s : Chip) : Chip :=
  if s.flt.retire.isEmpty then s
  else installPlan (s.flt.retire.foldl slRetireCmd { s with flt := { s.flt with retire := [] } })

/-- Does the job stop at the boundary just reached? A fence with AUTO keeps its STEP_RUN. -/
def Chip.boundaryStop (s : Chip) : Chip :=
  let counted := s.job.left == some 0
  match s.job.pause with
  | none => if counted then finishStepPause (finishStepRun { s with job := { s.job with st := .paused, left := none } } 0 0) else s
  | some (status, detail) =>
    let s := { s with job := { s.job with st := .paused, pause := none } }
    match s.fenceWaiting with
    | some r =>
      if fenceAuto r ∧ status = 8 then s
      else
        let s := (finishStepRun { s with job := { s.job with left := none } } (if counted then 0 else status) detail).fence (fenceCore r)
        finishStepPause (s.finish r 0 0 (leBytes 1 1))
    | none =>
      finishStepPause (finishStepRun { s with job := { s.job with left := none } } (if counted && decide (status = 8) then 0 else status) detail)

/-- STEP_BOUNDARY: `m` is what the accountant measured over the step beside the energy that the part counts. It comes once
the conditions of R34 hold. A boundary at which a fault pauses the job takes no snapshot (13 R469). -/
def stepBoundaryCmd (s : Chip) (m : PlanMeas) : Chip :=
  if s.job.st ≠ .running ∨ s.job.released = false ∨ s.boundaryReady = false then s else
  let s := s.coresBoundary.envBoundary
  let s := { s with job := { s.job with
    step := s.job.step + 1, released := false, ran := s.job.ran + 1, left := s.job.left.map (· - 1), tick := s.now, reports := [] } }
  let pt := planPoint s (s.stepPred m) s.now
  let s := s.markStep
  let s := { s with job := { s.job with pt := pt }, en := { s.en with fresh := false, points := [] } }
  let s := s.boundaryLinks
  let faulted := match s.job.pause with | some (st, _) => st == 9 | none => false
  let s := if faulted then s.report else s.boundaryCapture
  s.boundaryStop

/-! ### STEP_RELEASE -/

/-- Step `step` is released on this part, with its base tick and the job's point. -/
def Chip.releaseStep (s : Chip) (step base pt : Nat) : Chip :=
  let s := (s.setPlan pt).stepBegin step base
  { s with job := { s.job with released := true, base := base, pt := pt, resume := false } }

/-- STEP_RELEASE: the coordinator releases the step once every part has reported and no boundary holds; the base
lies at least 50 µs ahead (09 R326), and the point is the lowest choice. -/
def stepReleaseCmd (s : Chip) (base : DWord) : Chip :=
  let ok := s.job.st == .running && !s.job.released && s.coordinator && s.allReady && !bitOf (s.reg rSNP_STAT) 1 &&
    decide (base.toNat ≥ s.now + 50000)
  if !ok then s
  else
    let pt := s.en.points.foldl (fun m x => min m x.2) s.job.pt
    (s.releaseStep (s.job.step + 1) base.toNat pt).tellAll (.release (s.job.step + 1) base pt)

end Sys2Proof.Machine
end

