-- ==== Sys2Proof/Machine/Repair.lean ====
section
/-!
DEFINITION. Array repair and self-test (04 R141-R147; 05 R165, R183; 16 R522).
-/
namespace Sys2Proof.Machine

abbrev rShim (be : Bool) : Nat := if be then rBE_SHIM_STAT else rFE_SHIM_STAT
abbrev rRepair (be : Bool) : Nat := if be then rBE_REPAIR else rFE_REPAIR
abbrev rBistStat (be : Bool) : Nat := if be then rBE_BIST_STAT else rFE_BIST_STAT
abbrev rEngStat (be : Bool) : Nat := if be then 0x20020 else 0x10020

/-- The row bypassed in array `a`; 3Fh for none. -/
def Core.bypassRow (c : Core) (be : Bool) (a : Nat) : Nat := field (c.reg (rShim be)) (8 * a) 6
def Core.spareBad (c : Core) (be : Bool) (a : Nat) : Bool := bitOf (c.reg (rShim be)) (8 * a + 7)

/-- Fuse repairs, written by the boot sequencer: a row 0-31, or none (R144, R183). -/
def Core.fuseRepairs (c : Core) (p : Nat) : Core :=
  let row := fun (i : Nat) => if Config.fuseRepair p i < 32 then Config.fuseRepair p i else 0x3F
  let word := fun (o : Nat) => (List.range 4).foldl (fun n a => n + row (o + a) * 2 ^ (8 * a)) 0
  (c.setReg rFE_SHIM_STAT (word 0)).setReg rBE_SHIM_STAT (word 4)

/-- A physical row of an unrepaired array is bypassed; otherwise nothing. -/
def Core.repairRow (c : Core) (be : Bool) (a row : Nat) : Core :=
  if a ≥ 4 ∨ row > 31 ∨ c.bypassRow be a ≠ 0x3F ∨ c.spareBad be a then c else
  ((c.setField (rShim be) (8 * a) 6 row).setField (rShim be) (8 * a + 6) 1 1).setField (rRepair be) (8 * a) 6 row

/-- VCF adds an entry to the repair map (16 R524). -/
def Chip.mapRepair (s : Chip) (p e a row : Nat) : Chip :=
  if s.sec.repairs.contains (p, e, a, row) ∨ s.sec.repairs.length ≥ 2304 then s else
  { s with sec := { s.sec with repairs := s.sec.repairs ++ [(p, e, a, row)], rtSeq := s.sec.rtSeq + 1 } }

/-- FE_REPAIR and BE_REPAIR: each field that names a row of an unrepaired array bypasses it, and VCF records the
map entry (R143). -/
def repairWriteCmd (s : Chip) (p : Nat) (be : Bool) (v : Nat) : Chip :=
  (List.range 4).foldl (fun s a =>
    let row := field v (8 * a) 6
    let c := s.core p
    let c' := c.repairRow be a row
    if c' = c then s else (s.setCore p c').mapRepair p (b2n be) a row) s

/-- START of a self-test: ignored while one runs. -/
def bistStartCmd (s : Chip) (p : Nat) (be : Bool) (v : Nat) : Chip :=
  if bitOf v 0 && !bitOf ((s.core p).reg (rEngStat be)) 10 then s.onCore p fun c => c.setField (rEngStat be) 10 1 1 else s

/-- A tile all of whose contents the self-test left open (log 8). -/
def freeTile (n k : Nat) : Tile :=
  let v := fun (i : Nat) => Config.free n (16384 * k + 10240 + i)
  { openCodes n k Tile.reset with
    fmt := v 0 % 256, scale := BitVec.ofNat 32 (v 1), tag := BitVec.ofNat 32 (v 2), poison := BitVec.ofNat 2 (v 3)
    inl := (List.range (v 4 % 17)).map fun i => v (5 + i) % 2 ^ 32 }

def freeMap (n k m w : Nat) : NatMap :=
  (List.range m).foldl (fun (x : NatMap) i => NatMap.wr x i (Config.free n (2 ^ 20 + 1024 * k + i) % 2 ^ w)) []

def freeBuf (n k : Nat) : WBuf :=
  { cur := { lo := freeTile n (2 * k), hi := freeTile n (2 * k + 1), half := Config.free n (2 ^ 19 + k) % 2, ori := bitOf (Config.free n (2 ^ 19 + k)) 1 } }

/-- The run tile (AF24 or AB19), the block counters and the sidecar are open; the elements of A stay. -/
def freeAcc (be : Bool) (n r : Nat) (x : Acc) : Acc :=
  { x with run := freeMap n r 1024 (if be then 19 else 24), cnt := freeMap n (32 + r) 1024 6, inl := []
           sa := BitVec.ofNat 32 (Config.free n (2 ^ 21 + 2 * r)), sb := BitVec.ofNat 32 (Config.free n (2 ^ 21 + 2 * r + 1)) }

/-- What a self-test overwrites: buffers, run tiles, block counters, sidecars; a backward test sets the column
masks. T and A stay. -/
def Eng.scrambled (e : Eng) (be : Bool) (n : Nat) : Eng :=
  let e := (List.range 8).foldl (fun (e : Eng) k => e.setBuf k (freeBuf n k)) e
  let e := (List.range 32).foldl (fun (e : Eng) r => e.setAcc r (freeAcc be n r (e.acc r))) e
  if be then { e with cm := List.replicate 4 (BitVec.allOnes 128), cmPoison := List.replicate 4 0 } else e

/-- One array's findings: FROW 0-32 or 3Fh, NROW 0-33, COLF (R146). -/
def bistField (x : BistArray) : Nat := (if x.nrow = 0 then 0x3F else min x.frow 32) + min x.nrow 33 * 2 ^ 6 + b2n x.col * 2 ^ 12

/-- Faulty rows other than the spare. -/
def bistRows (x : BistArray) : Nat := x.nrow - b2n (x.spareBad && decide (x.nrow ≥ 1))

/-- Can the array not be repaired (R142)? DESIGN CHOICE, log 94: the spare row alone is no faulty row found; an array in
use that needs no spare runs on. -/
def Core.unrepairable (c : Core) (be : Bool) (a : Nat) (x : BistArray) : Bool :=
  let bypass := c.bypassRow be a
  x.col || decide (bistRows x ≥ 2) || (x.spareBad && (decide (bistRows x ≥ 1) || decide (bypass ≠ 0x3F))) ||
  (decide (bistRows x = 1) && decide (bypass ≠ 0x3F) && decide (bypass ≠ x.frow))

/-- BIST_DONE: the self-test of an engine completes. An array that cannot be repaired fences the core. -/
def bistDoneCmd (s : Chip) (p : Nat) (be : Bool) (arrays : List BistArray) : Chip :=
  let c := s.core p
  if !bitOf (c.reg (rEngStat be)) 10 then s else
  let xs := (List.range 4).map fun a => arrays.getD a { frow := 0, nrow := 0, col := false, spareBad := false }
  let bad := (List.range 4).any fun a => c.unrepairable be a (xs.getD a { frow := 0, nrow := 0, col := false, spareBad := false })
  let c := c.setEng be ((c.eng be).scrambled be c.nseq)
  let c := { c with nseq := c.nseq + 1 }
  let c := (c.setField (rEngStat be) 10 1 0).setField (rEngStat be) 11 1 1
  let c := (List.range 4).foldl (fun (c : Core) a =>
    let x := xs.getD a { frow := 0, nrow := 0, col := false, spareBad := false }
    (c.setField (rBistStat be) (16 * a) 16 (bistField x)).setField (rShim be) (8 * a + 7) 1 (b2n x.spareBad)) c
  s.setCore p (if bad then ({ c with fenced := true, good := false } : Core).raise evUnrepairable p else c)

/-- The lowest of some rows; 63 for none. -/
def lowest (rows : List Nat) : Nat := rows.foldl min 63

/-- The settling of one array at boot (16 R522): `rows` are the faulty rows that the self-test found, 32 the spare, and
`col` a column fault. The fuse repair stands already; a map entry comes next, then the bypass of a single faulty row, and
a core with an array that cannot be repaired is fenced (R142). -/
def Chip.bootArray (s : Chip) (p e a : Nat) (rows : List Nat) (col : Bool) : Chip :=
  let be := e == 1
  let c := s.core p
  let rows := ((List.range 33).filter rows.contains)
  let c := c.setField (rBistStat be) (16 * a) 16 (bistField { frow := lowest rows, nrow := rows.length, col := col, spareBad := false })
  let c := c.setField (rShim be) (8 * a + 7) 1 (b2n (rows.contains 32))
  let mapped := if c.bypassRow be a ≠ 0x3F then [] else
    ((s.sec.repairs.filter fun r => r.1 == p && r.2.1 == e && r.2.2.1 == a).take 1).map fun r => r.2.2.2
  let c := mapped.foldl (fun c row => c.repairRow be a row) c
  let faulty := (List.range 32).filter fun r => rows.contains r || mapped.contains r
  let new := match faulty with
    | [r] => if c.bypassRow be a = 0x3F ∧ !c.spareBad be a then some r else none
    | _ => none
  let c := match new with | some r => c.repairRow be a r | none => c
  let s := s.setCore p c
  let s := match new with | some r => s.mapRepair p e a r | none => s
  if col || faulty.any (fun r => decide (c.bypassRow be a ≠ r)) || (c.spareBad be a && (!faulty.isEmpty || decide (c.bypassRow be a ≠ 0x3F))) then
    s.onCore p fun c => ({ c with fenced := true, good := false } : Core).raise evUnrepairable p
  else s

/-- The arrays that a boot has something to settle for. -/
def bootArrays (found : List (Nat × Nat × Nat × Nat)) (cols : List (Nat × Nat × Nat)) : List (Nat × Nat × Nat) :=
  ((found.map fun r => (r.1, r.2.1, r.2.2.1)) ++ cols).dedup.filter fun k => decide (k.1 < nCores) && decide (k.2.1 < 2) && decide (k.2.2 < 4)

/-- Boot repair (R141; 16 R522): the self-test of every array completes, and each array with a fault found or a map entry
is settled. -/
def Chip.bootRepair (s : Chip) (found : List (Nat × Nat × Nat × Nat)) (cols : List (Nat × Nat × Nat)) : Chip :=
  let s := (List.range nCores).foldl (fun (s : Chip) p => s.onCore p fun c =>
    (c.setField (rEngStat false) 11 1 1).setField (rEngStat true) 11 1 1) s
  (bootArrays (s.sec.repairs ++ found) cols).foldl (fun (s : Chip) k =>
    s.bootArray k.1 k.2.1 k.2.2 ((found.filter fun r => r.1 == k.1 && r.2.1 == k.2.1 && r.2.2.1 == k.2.2).map fun r => r.2.2.2)
      (cols.contains k)) s

end Sys2Proof.Machine
end

