-- ==== Sys2Proof/Machine/Boot.lean ====
section
/-!
DEFINITION. Images and signatures, the boot stages, protected settings, and the runtime record
(16 R514-R527, R539).
-/
namespace Sys2Proof.Machine

/-! ### Images (R519-R521) -/

/-- This unit's fingerprint, 48 bytes. -/
def unitFp : List Byte := (List.range 6).flatMap fun i => leBytes 8 (Config.unitFingerprint i).toNat

/-- Do an ECDSA signature and an ML-DSA signature both verify under the key pair number `k`? -/
def dualVerify (k : Nat) (msg ec ml : List Byte) : Bool := Config.verify (2 * k) msg ec && Config.verify (2 * k + 1) msg ml

/-- The key pair number of a public key given as bytes; 0-3 are the vendor image keys, 4 the recovery key. -/
def keyNumber (key : List Byte) : Nat := 5 + leNat key

/-- The measurement of an image: SHA-384 of bytes 0-255 and of its PDIGEST. -/
def imageMeas (b : List Byte) : Nat := Config.sha384 (b.take 256 ++ (b.drop 32).take 48)

def slotImgOf (b : List Byte) : SlotImg :=
  { svn := listLe b 12 4, ifmaj := listLe b 16 1, ifmin := listLe b 17 1, release := listLe b 20 4, meas := imageMeas b,
    unitb := bitOf (listLe b 7 1) 0, payload := (b.drop 5120).take (listLe b 24 4) }

/-- Bytes of the slots of a class. -/
def slotSize (c : Nat) : Nat := [0x100000, 0x80000, 0x800000, 0x40000].getD c 0

/-- The checks of R520 in their order: the CAUSE of the first that fails. -/
def imageCheck (x : Security) (b : List Byte) (target : Nat) : Option Nat :=
  let plen := listLe b 24 4
  let k := listLe b 28 1
  let unitb := bitOf (listLe b 7 1) 0
  if listLe b 0 4 ≠ 0x4D494246 ∨ listLe b 4 2 ≠ 1 ∨ listLe b 7 1 / 2 ≠ 0 ∨ nz b 18 2 ∨ nz b 29 3 ∨ nz b 128 128 ∨ nz b 4979 141 ∨
      k > 3 ∨ plen + 5120 > slotSize target then some 1
  else if listLe b 6 1 ≠ target then some 2
  else if listLe b 8 4 ≠ hwType then some 3
  else if !Config.verify (2 * k) (b.take 256) ((b.drop 256).take 96) then some 4
  else if !Config.verify (2 * k + 1) (b.take 256) ((b.drop 352).take 4627) then some 5
  else if listLe b 32 48 ≠ Config.sha384 ((b.drop 5120).take plen) ∨ b.length < 5120 + plen then some 6
  else if (unitb && (b.drop 80).take 48 ≠ unitFp) || (x.binding && !unitb) then some 7
  else if listLe b 12 4 < x.minSvn.getD target 0 then some 8
  else none

/-- The image in a slot. -/
def Security.slot (x : Security) (c k : Nat) : SlotImg := Map.get (fun _ => SlotImg.reset) x.slots (2 * c + k)
def Security.setSlot (x : Security) (c k : Nat) (i : SlotImg) : Security :=
  { x with slots := Map.put (fun _ => SlotImg.reset) x.slots (2 * c + k) i }

/-- Does the image in a slot verify at boot? `bad` names slots whose bytes fail. -/
def Security.slotOk (x : Security) (bad : List (Nat × Nat)) (c k : Nat) : Bool :=
  let i := x.slot c k
  !bad.contains (c, k) && decide (i.svn ≥ x.minSvn.getD c 0) && (!x.binding || i.unitb)

/-- The slot that a class boots: the active one, else the other; none if neither verifies (R518). -/
def Security.choose (x : Security) (bad : List (Nat × Nat)) (c : Nat) : Option Nat :=
  let a := field x.actSlot c 1
  if x.slotOk bad c a then some a else if x.slotOk bad c (1 - a) then some (1 - a) else none

/-- A class runs the image of a slot: SVN, measurement, ACTB, and the version of the Steward image. -/
def Chip.runImage (s : Chip) (c k : Nat) : Chip :=
  let i := s.sec.slot c k
  let s := (s.setReg (rSEC_SVN c) i.svn).setField rSEC_STAT (5 + c) 1 k
  (List.range 6).foldl (fun s j => s.setReg (rSEC_MEAS c j) (field i.meas (64 * j) 64)) s

/-- A slot becomes the active one of its class in the runtime record. -/
def Chip.markActive (s : Chip) (c k : Nat) : Chip :=
  { s with sec := { s.sec with actSlot := Sys2Proof.setField s.sec.actSlot c 1 k, rtSeq := s.sec.rtSeq + 1 } }

/-- Boot of one class (R518); the halt cause if neither slot verifies. -/
def Chip.bootClass (s : Chip) (bad : List (Nat × Nat)) (c cause : Nat) : Chip × Bool :=
  match s.sec.choose bad c with
  | none => (s.bootHalt cause, false)
  | some k =>
    let second := k ≠ field s.sec.actSlot c 1
    let s := s.runImage c k
    if second then (((s.markActive c k).setField rSEC_STAT (13 + c) 1 1).log (.bootFallback c), true) else (s, true)

/-! ### Protected settings (R526, R527) -/

/-- Records of a settings blob: type, version, data. -/
def settingsRecords : Nat → List Byte → List (Nat × Nat × List Byte)
  | 0, _ => []
  | n + 1, b =>
    if b.length < 8 then [] else
    let len := listLe b 4 4
    (listLe b 0 2, listLe b 2 2, (b.drop 8).take len) :: settingsRecords n (b.drop (8 + pad8 len))

/-- The version of the running VCF for a record type. -/
def settingsVersion (ty : Nat) : Nat := if ty = 3 then 2 else 1

/-- Is the blob's signature good under the owner key? -/
def settingsOk (x : Security) (b : List Byte) : Bool :=
  let n := 16 + listLe b 8 8
  decide (listLe b 0 4 = 0x53544553) && decide (listLe b 4 2 = 1) && decide (b.length ≥ n + 4723) &&
  (match x.owner with
    | some key => dualVerify (keyNumber key) (b.take n) ((b.drop n).take 96) ((b.drop (n + 96)).take 4627)
    | none => false)

/-- Defaults of the settings (R424, R526). -/
def Chip.settingsDefaults (s : Chip) : Chip := s.setReg (rMBX_CL_CFG 0) 0x1F01

/-- One record of the running version. -/
def Chip.setting (s : Chip) (ty : Nat) (d : List Byte) : Chip :=
  if ty = 1 then s.setReg rSL_ID (field (listLe d 0 4) 0 13)
  else if ty = 2 then (List.range 8).foldl (fun s i => s.setReg (rMBX_CL_CFG i) (listLe d (4 * i) 4 &&& 0x1F07)) s
  else if ty = 3 then (List.range (d.length / 16)).foldl (fun s i => fltCfgWriteCmd s (listLe d (16 * i) 8) (listLe d (16 * i + 8) 8)) s
  else if ty = 4 then (let w := listLe d 0 4; if 900 ≤ w ∧ w ≤ 1500 then s.setEnvelope w else s)
  else if ty = 5 then s.setReg rTS_CFG (field (listLe d 0 4) 0 9)
  else if ty = 6 then memResvWrite s (listLe d 0 4)
  else if ty = 7 then s.setReg rFLT_LOG_BASE (listLe d 0 8 &&& 0xFFFFFFFFF001)
  else s

def Chip.settings (s : Chip) (b : List Byte) : Chip :=
  let s := s.settingsDefaults
  if !settingsOk s.sec b then s.log .settingsSignature else
  (settingsRecords b.length ((b.drop 16).take (listLe b 8 8))).foldl (fun (s : Chip) (r : Nat × Nat × List Byte) =>
    if r.1 = 0 ∨ r.1 > 7 then s
    else if r.2.1 ≠ settingsVersion r.1 then s.log (.settingsReset r.1)
    else s.setting r.1 r.2.2) s

/-! ### Stages (R516) -/

def Chip.stage (s : Chip) : Nat := field (s.reg rSEC_STAT) 0 4
def Chip.nextStage (s : Chip) : Chip := s.setField rSEC_STAT 0 4 (s.stage + 1)

/-- Stage 1: fuse repairs of every core. -/
def stage1 (s : Chip) : Chip := (List.range nCores).foldl (fun s p => s.onCore p fun c => c.fuseRepairs p) s

/-- The runtime record at boot (R523, R524). -/
def Chip.readRecord (s : Chip) (bad : Bool) : Chip :=
  if bad then
    { s with sec := { s.sec with bootCnt := 0, repairs := [], retires := [], actSlot := 0, rtSeq := 1 } }.log .recordReset
  else { s with sec := { s.sec with bootCnt := s.sec.bootCnt + 1, rtSeq := s.sec.rtSeq + 1 } }

/-- Stage 2: flash, partition table, key store, the security processor's own image, runtime record and keys. -/
def stage2 (s : Chip) (f : BootFind) : Chip :=
  let s := f.flash.foldl (fun (s : Chip) (e : Nat × List Byte) =>
    if e.1 < 8 ∧ (imageCheck s.sec e.2 (e.1 / 2)).isNone then { s with sec := s.sec.setSlot (e.1 / 2) (e.1 % 2) (slotImgOf e.2) } else s) s
  if f.sfdpBad then s.bootHalt 5
  else if f.tableBad then s.bootHalt 6
  else if f.keyStoreBad then s.bootHalt 7
  else
    let s := s.readRecord f.runtimeBad
    let s := s.setReg rSEC_BOOTCNT (s.sec.bootCnt % 2 ^ 32)
    let s := if f.keysBad then
        { s with sec := { s.sec with owner := none, operator := none, minSvn := [0, 0, 0, 0], permitted := 15, binding := false } }.log .keyReset
      else s
    (s.bootClass f.badSlots 0 1).1

/-- Stage 3: accountant and Stewards, island clocks, settings. -/
def stage3 (s : Chip) (f : BootFind) : Chip :=
  match s.bootClass f.badSlots 1 3 with
  | (s, false) => s
  | (s, true) => match s.bootClass f.badSlots 2 2 with
    | (s, false) => s
    | (s, true) =>
      let i := s.sec.slot 2 (field (s.reg rSEC_STAT) 7 1)
      let s := { s with vcf := { s.vcf with ver := [(i.ifmaj, i.ifmin, i.release), (i.ifmaj, i.ifmin, i.release)] } }
      (s.setField rEN_STAT 0 1 1).settings f.settings

/-- A monitor image in a core: its code in the monitor region of the instruction SRAM (08 R256, R259). -/
def Core.loadMonitor (c : Core) (payload : List Byte) : Core :=
  { c with seq := { c.seq with iram := Bytes.wrN c.seq.iram 0xE000 (fitBytes 8192 payload) } }

/-- RUN rises: the sequencer starts in M-mode at E000h. -/
def Core.startMonitor (c : Core) : Core :=
  let c := c.setField rSEQ_CTL 0 1 1
  { c with seq := { c.seq with pc := 0xE000#32, uMode := false, stall := none, resv := none } }

/-- Stage 4: core tests, repair, bypasses, monitors, map. -/
def stage4 (s : Chip) (f : BootFind) : Chip :=
  match s.bootClass f.badSlots 3 4 with
  | (s, false) => s
  | (s, true) =>
    let s := f.badCores.foldl (fun (s : Chip) p => if p < nCores then s.onCore p fun c => { c with good := false, fenced := true } else s) s
    let s := s.bootRepair f.repairs f.badColumns
    let s := f.badRouters.foldl (fun (s : Chip) r =>
      if r < nCores then (s.onCore r fun c => { c with good := false, fenced := true }).setField (rFAB_BYP (r / 64)) (r % 64) 1 1 else s) s
    let img := (s.sec.slot 3 (field (s.reg rSEC_STAT) 8 1)).payload
    let s := (List.range nCores).foldl (fun (s : Chip) p => s.onCore p fun c => if c.fenced then c else (c.loadMonitor img).startMonitor) s
    s.remap 16 16

/-- One retirement is carried out whole, without a running migration. -/
def Chip.retireWhole (s : Chip) (ch : Nat) (lost poison : Bool) : Chip :=
  let q := s.retCount
  if q ≥ 64 then (s.fenceChannel ch).setField rMEM_STAT 7 1 1 else
  let s := s.setReg rMEM_TOP (s.reg rMEM_TOP - windowGroups q * 2 ^ 21)
  let s := (s.setReg (rMEM_RET q) (ch + 2 ^ 9 + b2n lost * 2 ^ 10)).setReg rMEM_MIG (ch + 2 ^ 28)
  let s := { s with migLost := poison }
  let s := (List.range s.moveCount).foldl Chip.movePage s
  let s := { s.setReg rMEM_MIG 0 with migLost := false }
  let s := (s.setField (rECC ch) 48 1 1).setField (rMC_STAT (chStack ch)) (chInStack ch) 1 0
  s.setField rMEM_STAT 0 7 (field (s.reg rMEM_STAT) 0 7 + 1)

/-- Stage 5: HBM training; the retirement record is replayed in order of q (R525); a stack that does not train
retires. -/
def stage5 (s : Chip) (f : BootFind) : Chip :=
  let s := (s.setReg rMEM_TOP 0x10000000000)
  let s := (List.range 64).foldl (fun (s : Chip) q => s.setReg (rMEM_RET q) 0) s
  let s := { s with redir := [] }
  let s := s.sec.retires.foldl (fun (s : Chip) r => s.retireWhole r.1 (r.2 == 1) false) s
  f.badStacks.foldl (fun (s : Chip) n =>
    if n ≥ 16 then s else
    (List.range 32).foldl (fun (s : Chip) c =>
      let ch := n + 16 * c
      if s.retired.contains ch then s else
      let s := if s.retCount < 64 then { s with sec := { s.sec with retires := s.sec.retires ++ [(ch, 1)], rtSeq := s.sec.rtSeq + 1 } } else s
      s.retireWhole ch true true) (s.controllerFail n)) s

/-- The CXL mapping of R352: the ports with CXL devices, 1, 2 or 4 of them, of one capacity. -/
def cxlPorts (ds : List PortDevice) : List (Nat × Nat) :=
  ((List.range 4).filterMap fun i => match ds.getD i .none with | .cxl g => some (i, g) | _ => none)

def Chip.mapCxl (s : Chip) : Chip :=
  let ps := cxlPorts s.pins.devices
  let ps := if ps.length = 3 then ps.take 2 else ps
  if ps.isEmpty then s else
  let least := ps.foldl (fun m x => min m x.2) (ps.headD (0, 0)).2
  let ways := ps.length
  let cfg := (if ways = 1 then 0 else if ways = 2 then 1 else 2) + ps.foldl (fun n x => n + 2 ^ (2 + x.1)) 0
  let s := (s.setReg rCXL_CFG cfg).setReg rCXL_MAP (min (ways * least) 4096)
  s.setField rCXL_STAT 0 4 (ps.foldl (fun n x => n + 2 ^ x.1) 0)

/-- Is port `i` of the root port present under a PE_BIF strap (17 R554)? -/
def portPresent (strap i : Nat) : Bool :=
  if strap = 0 then decide (i = 0) else if strap = 1 then decide (i = 0) || decide (i = 2) else decide (strap = 2) && decide (i < 4)

/-- Stage 6: root ports; links start to train. With the reserved strap the root port trains no link, and is logged as
failed (17 R554). -/
def stage6 (s : Chip) (f : BootFind) : Chip :=
  let ds := (List.range 4).map fun i => if portPresent s.pins.peBif i then f.devices.getD i .none else .none
  let s := if s.pins.peBif = 3 then s.log (.portFailed 0) else s
  let s := { s with pins := { s.pins with devices := ds.map fun d => match d with | .other => .none | d => d } }
  let s := (List.range 4).foldl (fun (s : Chip) i => if ds.getD i .none = .other then s.log (.portFailed i) else s) s
  (List.range nLinks).foldl (fun (s : Chip) l => slCtlEnCmd s l (1 + 4 * 2 ^ 8)) s.mapCxl

/-- The time base takes the lock value; bench cycles run on (09 R319; 15 R494). -/
def Chip.rebase (s : Chip) (v : Nat) : Chip :=
  (List.range 72).foldl (fun (t : Chip) b =>
    let x := s.bench b
    t.setBench b { base := x.base + (s.now - x.baseTick) * (9 + field (s.reg (rEN_B_PT b)) 0 4) / 10, baseTick := v }) (s.setReg rCTB_NOW v)

/-- Stage 7: the plan, and the lock of the time base (09 R319; R516). `late` says that the stage reached its bound:
a link that trains still is left down. -/
def stage7 (s : Chip) (f : BootFind) (late : Bool) : Chip :=
  let s := if late then (List.range nLinks).foldl (fun (s : Chip) l => if training (s.link l) then s.linkDown l 3 else s) s else s
  let s := installPlan s
  let alone := s.flood.recs.all fun r => r.chip == s.id
  let v := match f.lockFrom with
    | some v => v.toNat
    | none => match s.ts.ptp with
      | some (_, t, v) => if bitOf (s.reg rCTB_STAT) 3 then (v + (s.now - t)) % 2 ^ 64 else if alone then 0 else s.now
      | none => if alone then 0 else s.now
  (s.rebase v).setField rCTB_STAT 0 1 1

/-- Stage 8: boot lock, client mailboxes, ready. -/
def stage8 (s : Chip) (f : BootFind) : Chip :=
  let s := (List.range 8).foldl (fun (s : Chip) c => (List.range 32).foldl (fun s ch => s.chanInit c ch) s) s
  let s := (s.setField rSEC_STAT 4 1 1).setReg rSEC_BOOT_MS (f.ms % 2 ^ 17)
  { s with pins := { s.pins with power := .ready, resetting := false } }

/-- The stage in progress ends. -/
def bootStage (s : Chip) (f : BootFind) (late : Bool) : Chip :=
  if s.pins.power ≠ .boot ∨ s.pins.sysRst ∨ s.hold then s else
  let n := s.stage
  let t := if n = 1 then stage1 s
    else if n = 2 then stage2 s f
    else if n = 3 then stage3 s f
    else if n = 4 then stage4 s f
    else if n = 5 then stage5 s f
    else if n = 6 then stage6 s f
    else if n = 7 then stage7 s f late
    else if n = 8 then stage8 s f
    else s
  if t.pins.power = .halt then t else if n ≤ 8 then t.nextStage else t

def bootStageDoneCmd (s : Chip) (f : BootFind) : Chip := bootStage s f false
def bootStageTimeoutCmd (s : Chip) (f : BootFind) : Chip := bootStage s f true

/-- The boot lock (00 R13). -/
def Chip.locked (s : Chip) : Bool := bitOf (s.reg rSEC_STAT) 4

end Sys2Proof.Machine
end

