-- ==== Sys2Proof/Machine/Update.lean ====
section
/-!
DEFINITION. Live update and two-party changes (16 R528-R538): the stage set, the commit order, proposals and
approvals.
-/
namespace Sys2Proof.Machine

/-! ### Sources in a command (12 R435, R443) -/

/-- Bytes of the payload area of the command's buffer, by offset from the area's start. -/
def Chip.payloadAt (s : Chip) (r : RunCmd) (off n : Nat) : List Byte := Bytes.rdN (s.ringMem r.m) (0x40000 + off) n
def payloadIn (off n : Nat) : Bool := decide (off + n ≤ 0x40000)

/-- The image that a source names: its bytes, or the offset of the field that breaks R443. `ext` are the bytes that
the outside source holds. -/
def Chip.imageSource (s : Chip) (r : RunCmd) (srck : Nat) (at_ : Nat) (ext : List Byte) : Except Nat (List Byte) :=
  let g := r.msg
  if srck > 2 then .error at_
  else if srck = 0 then
    let off := listLe g 24 4
    let n := listLe g 32 8
    if nz g 28 4 then .error 28 else if nz g 40 8 then .error 40 else if nz g 48 8 then .error 48
    else if !payloadIn off n then .error 24 else .ok (s.payloadAt r off n)
  else if srck = 1 then
    if listLe g 24 1 > 3 then .error 24 else if nz g 25 3 then .error 25 else if nz g 48 8 then .error 48
    else .ok (fitBytes (min (listLe g 40 8) ext.length) ext)
  else
    let off := listLe g 24 4
    let t := s.payloadAt r off 296
    if nz g 28 4 then .error 28 else if nz g 32 8 then .error 32 else if nz g 40 8 then .error 40 else if nz g 48 8 then .error 48
    else if !payloadIn off 296 ∨ listLe t 0 1 ≠ 0 ∨ listLe t 1 1 > 1 ∨ (listLe t 2 1 ≠ 4 ∧ listLe t 2 1 ≠ 6) then .error 24
    else .ok (fitBytes (min (listLe t 40 8) ext.length) ext)

/-! ### The stage set (R528, R529) -/

def Chip.setOpen (s : Chip) : Bool := bitOf (s.reg rSEC_UPD) 3
def Chip.staged (s : Chip) : Nat := field (s.reg rSEC_UPD) 4 4
/-- The slot that a class does not run. -/
def Chip.inactive (s : Chip) (c : Nat) : Nat := 1 - field (s.reg rSEC_STAT) (5 + c) 1

/-- UPD_STAGE. TARGET is byte 16, SRCK byte 17 (log 60). -/
def Chip.updStage (s : Chip) (r : RunCmd) (ext : List Byte) : Chip :=
  let g := r.msg
  let c := listLe g 16 1
  if c > 3 then s.finish r 4 16 []
  else match s.imageSource r (listLe g 17 1) 17 ext with
  | .error o => s.finish r 4 o []
  | .ok b =>
    let bad := fun (k : Nat) => (s.setField rSEC_UPD 8 4 k).finish r 0xA 0 []
    let maj := listLe b 16 1
    let others := s.setOpen && decide (s.staged - field s.staged c 1 * 2 ^ c ≠ 0)
    if s.commitRuns then s.finish r 7 0 []
    else match imageCheck s.sec b c with
    | some k => bad k
    | none =>
      if others ∧ maj ≠ field (s.reg rSEC_UPD) 12 8 then s.finish r 3 s.verWord []
      else if maj ≠ s.vcfVer.1 ∧ maj ≠ s.vcfVer.1 + 1 then s.finish r 3 s.verWord []
      else if !bitOf s.sec.permitted c then bad 9
      else
        let fresh := !s.setOpen
        let id := if fresh then s.sec.stageSeq + 1 else s.sec.stageSeq
        let st := if fresh then 0 else s.staged
        let s := { s with sec := { s.sec.setSlot c (s.inactive c) (slotImgOf b) with stageSeq := id } }
        let s := (s.setReg rSEC_STAGE_ID (id % 2 ^ 64)).setReg rSEC_UPD
          (8 + (st ||| 2 ^ c) * 2 ^ 4 + field (s.reg rSEC_UPD) 8 4 * 2 ^ 8 + maj * 2 ^ 12)
        s.finish r 0 0 (leBytes 8 id)

/-- The set is closed. -/
def Chip.closeSet (s : Chip) : Chip := (s.setField rSEC_UPD 3 1 0).setField rSEC_UPD 4 4 0

/-- Does the command name the open set? -/
def Chip.namesSet (s : Chip) (r : RunCmd) : Bool := s.setOpen && decide (listLe r.msg 16 8 = s.sec.stageSeq)

/-! ### The commit (R530-R533) -/

/-- The phase that a class starts with. -/
def firstPhase (c : Nat) : Nat := if c = 1 then 1 else if c = 0 then 2 else if c = 2 then 3 else 6

/-- The order of the classes. -/
def commitOrder : List Nat := [1, 0, 2, 3]

/-- A phase starts. The slot change is recorded before the class restarts. -/
def Chip.phaseStart (s : Chip) (ph : Nat) : Chip :=
  let s := { s.setField rSEC_UPD 0 3 ph with sec := { s.sec with phaseAt := s.now } }
  if ph = 1 then (s.markActive 1 (s.inactive 1)).setField rEN_STAT 0 1 0
  else if ph = 2 then
    let s := s.markActive 0 (s.inactive 0)
    { s with sec := { s.sec with proposals := [] } }
  else if ph = 3 then (s.markActive 2 (s.inactive 2)).setField rMBX_ROLE 1 1 0
  else if ph = 4 then { s with vcf := { s.vcf with draining := true } }
  else if ph = 5 then s.setField rMBX_ROLE 1 1 0
  else s.markActive 3 (s.inactive 3)

/-- The next class of the set, or the end. -/
def Chip.nextClass (s : Chip) : Chip :=
  match s.sec.todo with
  | [] => s.commitEnd 7 0 0
  | c :: rest => { s with sec := { s.sec with todo := rest } }.phaseStart (firstPhase c)

/-- UPD_COMMIT. -/
def Chip.updCommit (s : Chip) (r : RunCmd) : Chip :=
  if !s.namesSet r then s.finish r 0xC 0 []
  else if s.commitRuns then s.finish r 7 0 []
  else
    let todo := commitOrder.filter fun c => bitOf s.staged c
    { s.keep r with sec := { s.sec with todo := todo } }.nextClass

/-- UPD_ABORT: during a commit the classes not yet started keep their images. -/
def Chip.updAbort (s : Chip) (r : RunCmd) : Chip :=
  if !s.namesSet r then s.finish r 0xC 0 []
  else { s.closeSet with sec := { s.sec with todo := [] } }.finish r 0 0 []

/-- The Steward image of the pair that is now standby is the new one. -/
def Chip.standbyNew (s : Chip) : Chip :=
  let k := field s.sec.actSlot 2 1
  let i := s.sec.slot 2 k
  let v := (i.ifmaj, i.ifmin, i.release)
  { s with vcf := { s.vcf with ver := s.vcf.ver.set (b2n !s.activeB) v } }.setField rMBX_ROLE 1 1 1

/-- The new monitor is installed in every core that is not fenced: a core without a running job restarts in it. -/
def Chip.installMonitors (s : Chip) : Chip :=
  let img := (s.sec.slot 3 (field s.sec.actSlot 3 1)).payload
  (List.range nCores).foldl (fun (s : Chip) p =>
    let busy := s.job.st = .running ∧ s.inJob p
    s.onCore p fun c => if c.fenced then c else if busy then c.loadMonitor img else (c.loadMonitor img).startMonitor) s

/-- A phase fails: the class goes back to its old slot, and the commit ends. -/
def Chip.phaseFail (s : Chip) (c : Nat) : Chip := (s.markActive c (field (s.reg rSEC_STAT) (5 + c) 1)).commitEnd 0 0xA 0xA

/-- UPD_PHASE_DONE: the running phase of a commit ends. -/
def updPhaseDoneCmd (s : Chip) (res : PhaseResult) : Chip :=
  let ph := field (s.reg rSEC_UPD) 0 3
  match res with
  | .ok =>
    if ph = 1 then ((accountantRunningCmd s).runImage 1 (field s.sec.actSlot 1 1)).nextClass
    else if ph = 2 then (s.runImage 0 (field s.sec.actSlot 0 1)).nextClass
    else if ph = 3 then (s.standbyNew.runImage 2 (field s.sec.actSlot 2 1)).phaseStart 4
    else if ph = 5 then s.standbyNew.nextClass
    else if ph = 6 then (s.installMonitors.runImage 3 (field s.sec.actSlot 3 1)).nextClass
    else s
  | .failed =>
    if ph = 1 then (accountantRunningCmd s).phaseFail 1
    else if ph = 2 then s.phaseFail 0
    else if ph = 3 then s.phaseFail 2
    else if ph = 5 then s.commitEnd 0 0xA 0xA
    else s
  | .monitor p =>
    if ph ≠ 6 ∨ p ≥ nCores then s else
    let hit := s.inJob p
    let s := s.installMonitors.onCore p fun c => { c with fenced := true, good := false }
    let s := if hit then faultHalt s (32 * benchOf p + 7 * (p % 4) + 6) {} else s
    (s.runImage 3 (field s.sec.actSlot 3 1)).nextClass

/-- PLANNED_SWITCHOVER (R532): no command in progress but the UPD_COMMIT, or 600 s have passed. -/
def plannedSwitchoverCmd (s : Chip) : Chip :=
  let idle := s.vcf.running.all fun r => decide (r.op = 0x71)
  if field (s.reg rSEC_UPD) 0 3 ≠ 4 ∨ !(idle || decide (s.now ≥ s.sec.phaseAt + 600000000000)) then s else
  let s := s.switchover
  { s with vcf := { s.vcf with draining := false } }.phaseStart 5

/-! ### Two-party changes (R534-R538) -/

/-- The key of a role: 0 owner, 1 operator, 2 vendor recovery. -/
def Security.roleKey (x : Security) (role : Nat) : Option Nat :=
  if role = 0 then x.owner.map keyNumber else if role = 1 then x.operator.map keyNumber else if role = 2 then some 4 else none

/-- The dual signature of R535. -/
def Security.signed (x : Security) (role : Nat) (msg sig : List Byte) : Bool :=
  match x.roleKey role with
  | some k => dualVerify k msg (sig.take 96) (sig.drop 96)
  | none => false

def propLen (ptype : Nat) : Nat := [32768, 32, 48, 2704].getD ptype 0

/-- The message that a proposal's signature covers. -/
def propMsg (ptype : Nat) (body : List Byte) : List Byte :=
  leBytes 48 (Config.sha384 (leBytes 4 ptype ++ leBytes 4 hwType ++ unitFp ++ body))

/-- A policy violation counts (00 R13; R537). -/
def Chip.violation (s : Chip) (detail : Nat) : Chip := (s.countTo rSEC_PVIOL_CNT 0 32).raise evPolicy 0 detail

/-- POL_PROPOSE. -/
def Chip.polPropose (s : Chip) (r : RunCmd) : Chip :=
  let g := r.msg
  let ty := listLe g 16 4
  let (bo, bn, so, sn, role) := (listLe g 20 4, listLe g 24 4, listLe g 28 4, listLe g 32 4, listLe g 36 1)
  if ty > 3 then s.finish r 4 16 []
  else if bn ≠ propLen ty then s.finish r 4 24 []
  else if !payloadIn bo bn then s.finish r 4 20 []
  else if sn ≠ 4723 then s.finish r 4 32 []
  else if !payloadIn so sn then s.finish r 4 28 []
  else if role > 2 then s.finish r 4 36 []
  else if role = 2 ∧ ty ≠ 3 then (s.violation ty).finish r 0xA 0 []
  else
    let body := s.payloadAt r bo bn
    let msg := propMsg ty body
    if ty = 2 ∧ nz body 0 48 ∧ body ≠ unitFp then s.finish r 4 20 []
    else if ty = 3 ∧ (listLe body 0 1 > 1 ∨ nz body 1 7 ∨ nz body 105 7) then s.finish r 4 20 []
    else if ty = 1 ∧ (listLe body 16 1 / 32 ≠ 0 ∨ nz body 17 15) then s.finish r 4 20 []
    else if !s.sec.signed role msg (s.payloadAt r so sn) then s.finish r 0xA 0 []
    else
      let id := s.sec.nextProp
      let e := s.now + 600000000000
      let q : Proposal := { ptype := ty, id := id, role := role, body := body, msg := msg, expiry := e }
      let s := { s with sec := { s.sec with nextProp := id + 1, proposals := (s.sec.proposals.filter fun (x : Proposal) => x.ptype ≠ ty) ++ [q] } }
      s.finish r 0 0 (leBytes 8 id ++ leBytes 8 e)

/-- Does a staged image break the policy? -/
def Chip.setBreaks (s : Chip) : Bool :=
  s.setOpen && (List.range 4).any fun c => bitOf s.staged c &&
    (!bitOf s.sec.permitted c || decide ((s.sec.slot c (s.inactive c)).svn < s.sec.minSvn.getD c 0) ||
      (s.sec.binding && !(s.sec.slot c (s.inactive c)).unitb))

/-- A change comes into force (R534). -/
def Chip.applyChange (s : Chip) (q : Proposal) : Chip :=
  let b := q.body
  let x := s.sec
  let s := s.log (.policy q.ptype)
  if q.ptype = 0 then { s with sec := { x with table := some b } }
  else if q.ptype = 1 then
    let s := { s with sec := { x with minSvn := (List.range 4).map fun c => listLe b (4 * c) 4, permitted := listLe b 16 1 % 16
                                      binding := bitOf (listLe b 16 1) 4 } }
    if s.setBreaks then s.closeSet else s
  else if q.ptype = 2 then { s with sec := { x with bound := leNat b } }
  else
    let key := (b.drop 8).take 97 ++ (b.drop 112).take 2592
    if listLe b 0 1 = 0 then { s with sec := { x with owner := some key } } else { s with sec := { x with operator := some key } }

/-- POL_APPROVE. -/
def Chip.polApprove (s : Chip) (r : RunCmd) : Chip :=
  let g := r.msg
  let id := listLe g 16 8
  let (so, sn, role) := (listLe g 24 4, listLe g 28 4, listLe g 32 1)
  match s.sec.proposals.find? fun q => q.id == id with
  | none => s.finish r 0xC 0 []
  | some q =>
    if s.now ≥ q.expiry then
      { s with sec := { s.sec with proposals := s.sec.proposals.filter fun (x : Proposal) => x.id ≠ id } }.finish r 0xC 0 []
    else if sn ≠ 4723 then s.finish r 4 28 []
    else if !payloadIn so sn then s.finish r 4 24 []
    else if role > 2 ∨ role = q.role then s.finish r 4 32 []
    else if role = 2 ∧ q.ptype ≠ 3 then (s.violation q.ptype).finish r 0xA 0 []
    else if !s.sec.signed role (leBytes 48 (Config.sha384 (q.msg ++ leBytes 8 id))) (s.payloadAt r so sn) then s.finish r 0xA 0 []
    else
      let s := { s with sec := { s.sec with proposals := s.sec.proposals.filter fun (x : Proposal) => x.id ≠ id } }
      (s.applyChange q).finish r 0 0 []

end Sys2Proof.Machine
end

