-- ==== Sys2Proof/Machine/Window.lean ====
section
/-!
DEFINITION. A core's control window (08 R298): reads and whole-register writes by window offset, the write
rules of each register, and held writes of queue ends and streams (08 R282; 03 R97).
-/
namespace Sys2Proof.Machine

/-- Is a job running on the part? -/
def Chip.running (s : Chip) : Bool := s.job.st == .running

/-- The sequencer of core p. -/
def isSeqOf (a : Agent) (p : Nat) : Bool := a == .seqU p || a == .seqM p

/-- May the agent reach the window of core p at all (R298)? -/
def reaches (a : Agent) (p : Nat) : Bool := isSeqOf a p || isSteward a

/-! ### Reads -/

/-- SEQ_STAT.STALL (R299). -/
def StallCause.code : StallCause → Nat
  | .feQueued => 1
  | .beQueued => 2
  | .fwdFull => 3
  | .bwdFull => 4
  | .vuQueued => 5
  | .kuFull => 6
  | .opsFull => 7
  | .grants => 8
  | .qfence => 9
  | .mfence => 10
  | .bwait => 11
  | .rsRead => 12

def seqStat (c : Core) : Nat :=
  (match c.seq.stall with | some x => x.cause.code | none => 0) + b2n c.seq.uMode * 2 ^ 4 + b2n c.seq.arm.isSome * 2 ^ 5

/-- Handles that are outstanding (R272). -/
def Core.openGrants (c : Core) : Nat := (c.grants.filter fun g => g.state ≠ 0).length

/-- The issues of an engine that execute on cycle `k` (07 R234). -/
def Eng.executing (e : Eng) (k : Nat) : Nat := (e.exec.filter fun x => decide (x.finAt > k)).length

/-- SEQ_INFL (R273, R299), on cycle `k`. -/
def seqInfl (c : Core) (k : Nat) : Nat :=
  c.queued false + c.fe.executing k * 2 ^ 6 + c.queued true * 2 ^ 9 + c.be.executing k * 2 ^ 15 + c.vuWaiting * 2 ^ 18 +
  c.vuX.length * 2 ^ 24 + c.ku.length * 2 ^ 29 + c.ops.length * 2 ^ 32 + c.openGrants * 2 ^ 39

/-- FE_STAT and BE_STAT (04 R147, 05 R184): the fill of the instruction queue and the issues that execute. -/
def engStat (c : Core) (be : Bool) (k : Nat) : Nat :=
  let e := c.eng be
  let fill := e.halves.foldl (fun n h => n + (h.words.length - h.next)) 0
  fill % 128 + e.executing k * 2 ^ 7 + field (c.reg (rEngStat be)) 10 2 * 2 ^ 10

/-- QE_STATn (R283). -/
def qeStat (c : Core) (n : Nat) : Nat :=
  c.present n + c.reservedCount n * 2 ^ 10 + c.heldCount n * 2 ^ 20 + b2n (c.qend n).cfgErr * 2 ^ 30

/-- KRF_STAT (06 R214). -/
def krfStat (c : Core) : Nat :=
  (c.ku.filter fun k => vu k.word 0 8 = 0x61).length + c.sel.length * 2 ^ 3 + b2n (!c.bufWait.isEmpty) * 2 ^ 16 +
  b2n (decide ((c.reg rKRF_VR_WR + 1) % 64 = c.reg rKRF_VR_RD)) * 2 ^ 17

/-- MSG_STAT (09 R317): entries of the pair table, SENDs that wait, RECVs that have started. -/
def msgStat (c : Core) : Nat :=
  c.pairs.length + (c.ops.filter fun t => decide (dOp t.desc = opSEND) && t.waits).length * 2 ^ 9 +
  (c.ops.filter fun t => decide (dOp t.desc = opRECV) && !t.waits).length * 2 ^ 16

/-- The cycles of the stall that lasts (R276). -/
def Core.stalledFor (c : Core) (now : Nat) : Nat := match c.seq.stall with | some x => now - x.since | none => 0

/-- A register of core p as a read of window offset `a` sees it. Status fields are computed from the unit they
show; a reserved place reads 0. -/
def Chip.coreRd (s : Chip) (p a : Nat) : Nat :=
  let c := s.core p
  match findReg coreRegs a with
  | none => 0
  | some r =>
    if a = rSEQ_STAT then seqStat c
    else if a = rSEQ_INFL then seqInfl c (s.coreCycle p)
    else if a = rSEQ_STALL_CNT then (c.reg a + c.stalledFor (s.cycleNow p)) % 2 ^ 64
    else if a = rFE_STAT then engStat c false (s.coreCycle p)
    else if a = rBE_STAT then engStat c true (s.coreCycle p)
    else if a = rDVT_PREF_CNT then (c.reg a + c.prefRun (s.coreCycle p)) % 2 ^ 64
    else if a = rDVT_STAT then dvtStat s p
    else if a = rKRF_STAT then krfStat c
    else if a = rMSG_STAT then msgStat c
    else if a = rPROG_STAT then progStat s p
    else if a = rCFC_STAT then cfcStat s p
    else if a = rCMBX_PEND then s.mbxPend (.core p) false
    else if a = rCMBX_PEND_R then s.mbxPend (.core p) true
    else if r.base = rQE_STAT 0 then qeStat c (r.idx a).1
    else if r.base = rQE_CFG 0 then c.qcfgNewest (r.idx a).1
    else c.reg a

/-! ### Queue end configuration (R282) -/

/-- Does the ring of a configuration value fit for the agent? -/
def qeCfgOk (user : Bool) (v : Nat) : Bool :=
  let top := cfgBase v + cfgDepth v * (64 + 64 * cfgISize v)
  decide (top ≤ 0x400000) && !(user && (decide (top > monitorStart) || decide (cfgBase v ≥ monitorStart)))

/-- A configuration lands: the ring's items are discarded. -/
def Core.landCfg (c : Core) (n v : Nat) : Core :=
  let q := c.qend n
  (c.setReg (rQE_CFG n) v).setQend n { q with head := 0, slots := [], sending := 0, held := q.held.drop 1 }

/-- The oldest held configuration of queue end `n` lands, once no unfinished work issued before it names `n`. -/
def Core.takeCfg (c : Core) (n : Nat) : Core :=
  match (c.qend n).held with
  | (seq, v) :: _ => if c.namesBefore seq n then c else c.landCfg n v.toNat
  | [] => c

/-- A write of QE_CFGn: checked, then held until its earlier users are done. -/
def Core.qeCfg (c : Core) (user : Bool) (n v : Nat) : Core :=
  let v := field v 0 22 / 64 * 64 + field v 32 20 * 2 ^ 32
  if n ≥ 16 then c
  else if !qeCfgOk user v then c.setQend n { c.qend n with cfgErr := true }
  else
    let q := c.qend n
    let c := { c.setQend n { q with held := q.held ++ [(c.nseq, BitVec.ofNat 64 v)] } with nseq := c.nseq + 1 }
    if q.held.isEmpty then c.takeCfg n else c

/-! ### Stream registers (03 R97) -/

/-- Does unfinished work issued before `seq` use stream `n`? RS0 and RS1 serve conversions, RS2 the selections of
the kerf unit, RS3 VRFILL. -/
def Core.streamUsed (c : Core) (seq n : Nat) : Bool :=
  c.ops.any (fun t => decide (t.seq < seq) && decide (convStream t.desc = some n)) ||
  (decide (n = 2) && c.ku.any fun k => decide (k.seq < seq) && decide (vu k.word 0 8 = 0x60)) ||
  (decide (n = 3) && (c.vuQ.any (fun v => decide (v.seq < seq) && decide (vu v.word 0 8 = 0x3D)) ||
    c.vuX.any fun v => decide (v.seq < seq) && v.fill))

/-- The register a held stream write names: `k` is 2 n for RS_KEYn and 2 n + 1 for RS_CTRn. -/
def rsAddr (k : Nat) : Nat := if k % 2 = 0 then rRS_KEY (k / 2) else rRS_CTR (k / 2)

/-- The oldest held write of the stream of `k` lands, once no earlier user is unfinished. -/
def Core.landRs (c : Core) (k : Nat) : Core :=
  match c.rsHeld.find? fun h => h.2.1 / 2 == k / 2 with
  | some (seq, k', v) =>
    if c.streamUsed seq (k / 2) then c
    else { c.setReg (rsAddr k') v.toNat with rsHeld := c.rsHeld.erase (seq, k', v) }
  | none => c

/-- A write of a stream register. -/
def Core.rsWrite (c : Core) (k v : Nat) : Core :=
  if k ≥ 8 then c else
  let first := !c.rsHeld.any fun h => h.2.1 / 2 == k / 2
  let c := { c with rsHeld := c.rsHeld ++ [(c.nseq, k, BitVec.ofNat 64 v)], nseq := c.nseq + 1 }
  if first then c.landRs k else c

/-! ### Writes with rules of their own -/

/-- SEQ_CTL.RUN (R259, R299): a rising RUN starts the monitor, a falling one stops fetch. -/
def seqCtlCmd (s : Chip) (who : Agent) (p v : Nat) : Chip :=
  if !isSteward who then s else
  let was := bitOf ((s.core p).reg rSEQ_CTL) 0
  let s := s.onCore p fun c => c.setReg rSEQ_CTL (field v 0 1)
  if bitOf v 0 && !was then s.onCore p Core.startMonitor else s

/-- A Steward's write into an SRAM alias (R259): offsets 0-FFFFh are the instruction SRAM, 1_0000h-1_FFFFh the
data SRAM. -/
def sramAliasCmd (s : Chip) (who : Agent) (p off : Nat) (data : List Byte) : Chip :=
  let c := s.core p
  if !isSteward who || !(c.fenced || !bitOf (c.reg rSEQ_CTL) 0) || decide (off + data.length > 0x20000) then s else
  let lo := if off < 0x10000 then data.take (0x10000 - off) else []
  let hi := if off < 0x10000 then data.drop (0x10000 - off) else data
  s.setCore p { c with seq := { c.seq with iram := Bytes.wrN c.seq.iram off lo, dram := Bytes.wrN c.seq.dram (max off 0x10000) hi } }

/-- CLAMP_CLR (03 R104). -/
def clampClrCmd (s : Chip) (who : Agent) (p v : Nat) : Chip :=
  if !isSteward who then s else s.onCore p fun c =>
    let c := if bitOf v 0 then c.setReg rCLAMP_UF 0 else c
    let c := if bitOf v 1 then c.setReg rCLAMP_SAT 0 else c
    if bitOf v 2 then c.setReg rCLAMP_IOVF 0 else c

/-- SCT_HIST, SCT_LINK, SCT_SHLIST: Stewards only, while the job does not run (03 R113, R573). -/
def sctQuietWrite (s : Chip) (who : Agent) (p a v : Nat) : Chip :=
  if !isSteward who || s.running then s else
  match findReg coreRegs a with
  | some r => s.onCore p fun c => c.setReg a (regWrite false r (c.reg a) v)
  | none => s

/-- FE_REPAIR and BE_REPAIR: Stewards only, while the core is fenced (04 R142, 05 R181). -/
def repairCmd (s : Chip) (who : Agent) (p : Nat) (be : Bool) (v : Nat) : Chip :=
  if isSteward who && (s.core p).fenced then repairWriteCmd s p be v else s

/-- FE_BIST_CTL and BE_BIST_CTL. -/
def bistCmd (s : Chip) (who : Agent) (p : Nat) (be : Bool) (v : Nat) : Chip :=
  if isSteward who && (s.core p).fenced then bistStartCmd s p be v else s

/-- VALID written as 1 clears the hazard record (07 R252). -/
def Core.hzdClear (c : Core) (be : Bool) (v : Nat) : Core :=
  let b := engBase be
  if bitOf v 63 then (c.setReg (b + 0x50) 0).setReg (b + 0x58) 0 else c

/-- VALID written as 1 clears a record register: encoding error, drawer error, message error. -/
def Core.recClear (c : Core) (a v : Nat) : Core := if bitOf v 63 then c.setReg a 0 else c

/-- TL_LATE_MAX.CLR (09 R325). -/
def Core.lateClear (c : Core) (v : Nat) : Core := if bitOf v 63 then c.setReg rTL_LATE_MAX 0 else c

/-- BAR_CFG, BAR_PLIST and BAR_MASK (09 R335). -/
def barRegWrite (s : Chip) (who : Agent) (p a v : Nat) : Chip :=
  if !isSteward who || s.running then s else
  match findReg coreRegs a with
  | some r =>
    if r.base = rBAR_CFG 0 ∧ (field v 8 9 = 0 ∨ field v 8 9 > 256 ∨ field v 32 13 = 0 ∨ field v 32 13 > 4096) then s
    else s.onCore p fun c => c.setReg a (regWrite false r (c.reg a) v)
  | none => s

/-- VU_FCSR: a reserved or dynamic rounding mode leaves RM as it is (02 R66, R67). -/
def Core.fcsrWrite (c : Core) (v w : Nat) : Core :=
  c.setReg rVU_FCSR (if field v 0 3 ≥ 5 then Sys2Proof.setField w 0 3 (field (c.reg rVU_FCSR) 0 3) else w)

/-- A register of the KU block, its loop descriptors apart, that a core program may not write: all but KRF_VR_RD (06, the
registers' section). -/
def krfOwn (a : Nat) : Bool :=
  (decide (0x40000 ≤ a) && decide (a < 0x41000) || decide (rLT_CFG 0 ≤ a) && decide (a < rLT_CFG 1024)) && decide (a ≠ rKRF_VR_RD)

/-- The part of an agent a mailbox register write speaks for: a client acts through no window. -/
def cmbxWrite (s : Chip) (who : Agent) (p a v : Nat) : Chip :=
  if a = rCMBX_DB then mbxDbCmd s (.core p) false who 0 v 0
  else if a = rCMBX_DB_R then mbxDbCmd s (.core p) true who 0 v 0
  else if a = rCMBX_MASK then mbxMaskCmd s (.core p) false who 0 v
  else if a = rCMBX_MASK_R then mbxMaskCmd s (.core p) true who 0 v
  else s

/-- A write of a whole register of core p, at its window offset, by an agent that reaches the window. -/
def Chip.coreWrite (s : Chip) (who : Agent) (p a v : Nat) : Chip :=
  if !reaches who p then s else
  match findReg coreRegs a with
  | none => s
  | some r =>
    let n := (r.idx a).1
    let b := r.base
    if krfOwn a && !isSteward who then s
    else if a = rVU_FCSR then s.onCore p fun c => c.fcsrWrite v (regWrite false r (c.reg a) v)
    else if a = rSEQ_CTL then seqCtlCmd s who p v
    else if b = rQE_CFG 0 then s.onCore p fun c => c.qeCfg (who == .seqU p) n v
    else if b = rQE_STAT 0 then (if bitOf v 30 then s.onCore p fun c => c.setQend n { c.qend n with cfgErr := false } else s)
    else if b = rRS_KEY 0 then s.onCore p fun c => c.rsWrite (2 * n) v
    else if b = rRS_CTR 0 then s.onCore p fun c => c.rsWrite (2 * n + 1) v
    else if a = rCLAMP_CLR then clampClrCmd s who p v
    else if b = rSCT_CFG 0 then s.onCore p fun c => sctCfgWrite c n v
    else if b = rSCT_SCALE 0 then s.onCore p fun c => sctScaleWrite c n v
    else if b = rSCT_HIST 0 0 ∨ b = rSCT_LINK 0 ∨ b = rSCT_SHLIST 0 then sctQuietWrite s who p a v
    else if a = rFE_REPAIR then repairCmd s who p false v
    else if a = rBE_REPAIR then repairCmd s who p true v
    else if a = rFE_BIST_CTL then bistCmd s who p false v
    else if a = rBE_BIST_CTL then bistCmd s who p true v
    else if a = rFE_HZD_STAT then s.onCore p fun c => c.hzdClear false v
    else if a = rBE_HZD_STAT then s.onCore p fun c => c.hzdClear true v
    else if a = rFE_ERR_STAT ∨ a = rBE_ERR_STAT ∨ a = rBE_DRW_ERR ∨ a = rMSG_ERR then s.onCore p fun c => c.recClear a v
    else if a = rKRF_BUF_BASE ∨ a = rKRF_BUF_SIZE ∨ a = rKRF_VR_BASE then s.onCore p fun c => c.krfWrite a v
    else if a = rKRF_VR_RD then s.onCore p fun c => vrRdWrite c v
    else if rLT_CFG 0 ≤ a ∧ a < rLT_CFG 1024 then
      s.onCore p fun c => ltWrite c ((a - rLT_CFG 0) / 64) a (regWrite false r (c.reg a) v)
    else if a = rTL_LATE_MAX then s.onCore p fun c => c.lateClear v
    else if b = rBAR_CFG 0 ∨ b = rBAR_PLIST 0 ∨ b = rBAR_MASK 0 0 then barRegWrite s who p a v
    else if a = rPROG_LIMIT then (if isSteward who then progLimitCmd s p v else s)
    else if a = rCFC_ACK then (if who == .seqM p then cfcAckCmd s p v else s)
    else if 0x80000 ≤ a then cmbxWrite s who p a v
    else s.onCore p fun c => c.setReg a (regWrite false r (c.reg a) v)

/-! ### The sequencer's window port (R298) -/

/-- The register that holds the 32 bits at a window offset: its address and width. -/
def windowReg (a : Nat) : Option (Nat × Nat) :=
  match findReg coreRegs a with
  | some r => some (a, r.width)
  | none => match findReg coreRegs (a - 4) with
    | some r => if r.width = 64 ∧ 4 ≤ a then some (a - 4, 64) else none
    | none => none

/-- A 32-bit load of the sequencer of core p from its window: the value and the port's new state. -/
def Chip.portLoad (s : Chip) (p a : Nat) : Nat × Chip :=
  match windowReg a with
  | none => (0, s)
  | some (r, w) =>
    if w = 32 then (s.coreRd p r % 2 ^ 32, s)
    else if r = a then
      let v := s.coreRd p r
      (v % 2 ^ 32, s.onCore p fun c => { c with seq := { c.seq with latch := BitVec.ofNat 32 (v / 2 ^ 32) } })
    else ((s.core p).seq.latch.toNat, s)

/-- A 32-bit store. -/
def Chip.portStore (s : Chip) (who : Agent) (p a : Nat) (v : Nat) : Chip :=
  match windowReg a with
  | none => s
  | some (r, w) =>
    if w = 32 then s.coreWrite who p r (v % 2 ^ 32)
    else if r = a then s.onCore p fun c => { c with seq := { c.seq with held := some (r, BitVec.ofNat 32 v) } }
    else
      let lo := match (s.core p).seq.held with | some (q, x) => if q = r then x.toNat else 0 | none => 0
      (s.onCore p fun c => { c with seq := { c.seq with held := none } }).coreWrite who p r (lo + v % 2 ^ 32 * 2 ^ 32)

/-- The agent a core's sequencer is now. -/
def Chip.seqAgent (s : Chip) (p : Nat) : Agent := if (s.core p).seq.uMode then .seqU p else .seqM p

/-- WINDOW_PAIR_ACCESS: one 32-bit access of the sequencer to half of a 64-bit register; a load's value leaves the
port. -/
def windowPairCmd (s : Chip) (p : Nat) (store : Bool) (a : Nat) (v : Nat) : Chip :=
  match windowReg a with
  | some (_, 64) =>
    if store then s.portStore (s.seqAgent p) p a v
    else let (x, s') := s.portLoad p a; s'.emit (.value x)
  | _ => s

end Sys2Proof.Machine
end

