-- ==== Sys2Proof/Machine/Registers.lean ====
section
/-!
DEFINITION. Reads and writes of the chip-level registers by device address, with the write rules of each block,
and the width and alignment rule of every access (00 R12-R14).
-/
namespace Sys2Proof.Machine

/-- The physical core of per-core set `j` of stash controller `i` (10 R367). -/
def coreOfStash (i j : Nat) : Nat := 16 * (i / 2 * 9 + j / 8) + (i % 2 * 8 + j % 8)

/-- A chip-level register as a read of its device address sees it. -/
def Chip.chipRd (s : Chip) (a : Nat) : Nat :=
  match findReg chipRegs a with
  | none => 0
  | some r =>
    let ij := r.idx a
    if r.base = rEN_B_E 0 then s.benchE ij.1
    else if a = rFLT_CHIP_STAT0 then s.chipStat0
    else if a = rFLT_CHIP_STAT1 then s.chipStat1
    else if a = rFLT_CTL then s.fltCtl
    else if r.base = rFLT_SRC 0 then s.fltSrc ij.1
    else if r.base = rSL_STAT 0 0 then slStat s (4 * ij.1 + ij.2)
    else if r.base = rSTH_STAT 0 0 then sthStat s (coreOfStash ij.1 ij.2)
    else if r.base = rSMMBX_PEND ∨ r.base = rEMMBX_PEND ∨ r.base = rAMMBX_PEND ∨ r.base = rXMMBX_PEND 0 then
      s.mbxPend (.chip (field a 12 4)) false
    else if r.base = rSMMBX_PEND_R ∨ r.base = rEMMBX_PEND_R ∨ r.base = rAMMBX_PEND_R ∨ r.base = rXMMBX_PEND_R 0 then
      s.mbxPend (.chip (field a 12 4)) true
    else s.reg a

/-- The generic write of a chip register, by the access type of each field; a write to an RWL field after the
boot lock is a policy violation (00 R13). -/
def Chip.plainWrite (s : Chip) (r : RegRow) (a v : Nat) : Chip :=
  let s := s.setReg a (regWrite s.locked r (s.reg a) v)
  if s.locked && rwlViolation r then s.violation 1 else s

/-- CTB_TRIM (09 R321, R323). -/
def ctbTrimCmd (s : Chip) (who : Agent) (v : Nat) : Chip :=
  let t := signedOf 32 v
  if isSteward who && decide (-858993 ≤ t) && decide (t ≤ 858993) then s.setReg rCTB_TRIM (field v 0 32) else s

/-- The four registers of a mailbox that software writes. -/
def chipMbxWrite (s : Chip) (who : Agent) (a v : Nat) : Chip :=
  let m := field a 12 4
  let o := field a 0 12
  if o = 0 then mbxDbCmd s (.chip m) false who (m - 8) v 0
  else if o = 4 then mbxMaskCmd s (.chip m) false who (m - 8) v
  else if o = 0x10 then mbxDbCmd s (.chip m) true who (m - 8) v 0
  else if o = 0x14 then mbxMaskCmd s (.chip m) true who (m - 8) v
  else s

/-- A write of the chip collector (13 R470, R471): by the active Steward only. -/
def fltBlockWrite (s : Chip) (who : Agent) (r : RegRow) (a v : Nat) : Chip :=
  if !s.isActive who then (if isSteward who && s.locked && rwlViolation r then s.violation 1 else s)
  else if a = rFLT_ACK then fltAckWriteCmd s v
  else if a = rFLT_FIRST then fltFirstClearCmd s v
  else if r.base = rFLT_CFG 0 then fltCfgWriteCmd s (r.idx a).1 v
  else s.plainWrite r a v

/-- SL_CTL: EN and ACKTO, then RETIRE (11 R404). -/
def slCtlWrite (s : Chip) (l v : Nat) : Chip :=
  let s := slCtlEnCmd s l v
  if bitOf v 1 then slRetireCmd s l else s

/-- A write of a whole chip-level register by an agent. -/
def Chip.chipWrite (s : Chip) (who : Agent) (a v : Nat) : Chip :=
  match findReg chipRegs a with
  | none => s
  | some r =>
    let (i, j) := r.idx a
    let b := r.base
    if 0x20000500000 ≤ a ∧ a < 0x20000510000 then chipMbxWrite s who a v
    else if a = rMBX_ROLE then mbxRoleCmd s who v
    else if 0x20000600000 ≤ a ∧ a < 0x20000700000 then fltBlockWrite s who r a v
    else if 0x20000800000 ≤ a ∧ a < 0x20000900000 then (if who == .accountant then s.plainWrite r a v else s)
    else if 0x20000900000 ≤ a ∨ !isSteward who then s
    else if a = rCTB_TRIM then ctbTrimCmd s who v
    else if b = rFAB_MAP 0 then fabMapCmd s i v
    else if b = rFAB_BYP 0 then fabBypCmd s i v s.running
    else if a = rFAB_ERR then (if bitOf v 63 then s.setReg a 0 else s)
    else if a = rCXL_CFG ∧ !cxlWaysOk v ∧ !s.locked then s
    else if a = rMEM_RESV then memResvWrite s v
    else if a = rMEM_RETIRE then memRetireWrite s v
    else if a = rMEM_JOBST then memJobstWrite s v
    else if b = rMEM_RGN_CTL 0 then memRgnCtlWrite s i v
    else if b = rSTH_ERR 0 0 then (if bitOf v 63 then s.setReg a 0 else s)
    else if 0x20000100000 ≤ a ∧ a < 0x20000200000 then sthWriteCmd s (coreOfStash i j) (field a 0 8) v s.running
    else if b = rSL_CTL 0 0 then slCtlWrite s (4 * i + j) v
    else if b = rSL_DOWN 0 0 then (if bitOf v 63 then (s.setReg a 0).setReg (a + 8) 0 else s)
    else if b = rSL_RT 0 then slRtCmd s i v
    else if a = rTS_CFG then tsCfgCmd s v
    else if 0x20000700000 ≤ a then snpWrite s a v
    else s.plainWrite r a v

/-- The access error of a control register access (00 R14), to the core or to the Stewards. -/
def Chip.regError (s : Chip) (who : Agent) : Chip :=
  match who with
  | .seqU p => s.onCore p fun c => c.raise evAccess 0
  | .seqM p => s.onCore p fun c => c.raise evAccess 0
  | _ => s.raise evControl 0 0

/-- The upper half of a 64-bit register: no access of 32 bits reaches it (00 R14). -/
def upperHalf (rows : List RegRow) (a : Nat) : Bool :=
  (findReg rows a).isNone && decide (4 ≤ a) && (match findReg rows (a - 4) with | some r => r.width == 64 | none => false)

/-- One write of `width` bits at an aligned address, by the rules of R14. Cores are 0-287 and `a` is a window
offset; other values of `p` mean that `a` is a device address. -/
def registerWriteCmd (s : Chip) (who : Agent) (p a width v : Nat) : Chip :=
  let inWindow := decide (0x20010000000 ≤ a) && decide (a < 0x20010000000 + nCores * 0x100000)
  let (core, a) := if p < nCores then (some p, a) else if inWindow then (some ((a - 0x20010000000) / 0x100000), a % 0x100000) else (none, a)
  let row := match core with | some _ => findReg coreRegs a | none => findReg chipRegs a
  let rows := if core.isSome then coreRegs else chipRegs
  let bad := (width ≠ 32 ∧ width ≠ 64) ∨ a % (width / 8) ≠ 0 ∨ (width = 32 ∧ upperHalf rows a = true)
  match row, core with
  | some r, some p => if reaches who p && decide (bad ∨ r.width ≠ width) then s.regError who else s.coreWrite who p a (v % 2 ^ width)
  | some r, none => if bad ∨ r.width ≠ width then s.regError who else s.chipWrite who a (v % 2 ^ width)
  | none, some p =>
    if bad then (if reaches who p then s.regError who else s)
    else if 0xA0000 ≤ a ∧ a < 0xC0000 then sramAliasCmd s who p (a - 0xA0000) (leBytes (width / 8) v)
    else s
  | none, none => if bad then s.regError who else s

end Sys2Proof.Machine
end

