-- ==== Sys2Proof/Machine/Commands.lean ====
section
/-!
DEFINITION. The Vabin client commands (12 R433-R436), the Steward messages between the parts of a job (12 R434,
14 R480, R484, R491), and the services of the job channels (12 R448).
-/
namespace Sys2Proof.Machine

/-! ### Group 0: queries and channels -/

def ifQueryRun (s : Chip) (r : RunCmd) : Chip :=
  s.finish r 0 0 (leBytes 1 s.vcfVer.1 ++ leBytes 1 s.vcfVer.2.1 ++ leBytes 2 0 ++ leBytes 4 s.vcfVer.2.2 ++ leBytes 4 hwType ++
    leBytes 4 s.id ++ leBytes 4 (s.reg rSEC_BOOTCNT) ++ leBytes 4 (field (s.reg (rMBX_CL_CFG r.c)) 8 5) ++ leBytes 8 Config.jobLimit)

/-- Channels 1 to 31 are reinitialised, their running commands report nowhere, and the mailbox's access keys are
drawn again (R417, R420, R423). -/
def chResetRun (s : Chip) (r : RunCmd) : Chip :=
  let run := s.vcf.running.filter fun q => !(decide (q.c = r.c) && decide (q.ch ≠ 0))
  let gen := [0, 1].foldl (fun (m : NatMap) p => NatMap.wr m (2 * r.c + p) (NatMap.rd m (2 * r.c + p) + 1)) s.vcf.keyGen
  let s := { s with vcf := { s.vcf with running := run, keyGen := gen } }
  let s := (List.range 31).foldl (fun s k => s.chanInit r.c (k + 1)) s
  if r.ch = 0 then s.finish r 0 0 [] else s

/-- The value of a register that TEL_QUERY may read: one whose fields are all read-only (R435). -/
def Chip.telRead (s : Chip) (a : Nat) : Option Nat :=
  if 0x20010000000 ≤ a ∧ a < 0x20010000000 + nCores * 0x100000 then
    match findReg coreRegs (a % 0x100000) with
    | some r => if r.fields.all (fun f => f.acc == .ro) then some (s.coreRd ((a - 0x20010000000) / 0x100000) (a % 0x100000)) else none
    | none => none
  else match findReg chipRegs a with
    | some r => if r.fields.all (fun f => f.acc == .ro) then some (s.chipRd a) else none
    | none => none

def telQueryRun (s : Chip) (r : RunCmd) : Chip :=
  let n := listLe r.msg 16 4
  let list := listLe r.msg 20 4
  let dst := listLe r.msg 24 4
  if n = 0 ∨ n > 1024 then s.finish r 4 16 []
  else if !payloadIn list (8 * n) then s.finish r 4 20 []
  else if !payloadIn dst (8 * n) then s.finish r 4 24 []
  else
    let b := s.payloadAt r list (8 * n)
    let vals := (List.range n).map fun i => s.telRead (listLe b (8 * i) 8)
    match (List.range n).find? fun i => (vals.getD i none).isNone with
    | some i => s.finish r 4 i []
    | none => (s.chWrN r.m (0x40000 + dst) (vals.flatMap fun v => leBytes 8 (v.getD 0))).finish r 0 0 (leBytes 4 n)

/-! ### Group 1: the job -/

/-- Cores that are usable and not mapped to the job. -/
def Chip.spareCount (s : Chip) : Nat := ((List.range nCores).filter fun p => s.usable p && !s.inJob p).length

/-- The load ends, well or not (R445 steps 4 to 6). -/
def Chip.loadEnd (s : Chip) (r : RunCmd) : Chip :=
  match loadFinish s with
  | (s, some (st, det)) => s.finish r st det []
  | (s, none) => s.finish r 0 0 (leBytes 4 s.job.id ++ leBytes 2 s.jobCores.length ++ leBytes 2 s.spareCount)

/-- Ranks the image names, without this one. -/
def Chip.namedOthers (s : Chip) : List Nat := (namedRanks s.job.image s.job.rank).dedup.filter (· ≠ s.job.rank)

def jobLoadRun (s : Chip) (r : RunCmd) (ext : List Byte) : Chip :=
  let rank := listLe r.msg 104 4
  let parts := listLe r.msg 108 4
  let us := listLe r.msg 112 4
  let dig := leNat ((r.msg.drop 56).take 48)
  if s.vcf.running.any fun q => q.op == 0x10 then s.finish r 6 0 []
  else match s.imageSource r (listLe r.msg 16 1) 16 ext with
    | .error off => s.finish r 4 off []
    | .ok img =>
      if parts = 0 ∨ parts > 4096 then s.finish r 4 108 []
      else if us < 1000 ∨ us > 60000000 then s.finish r 4 112 []
      else match loadCheck img dig rank parts s.vcfVer.1 s.verWord with
        | some (st, det) => s.finish r st det []
        | none =>
          let s := s.fencedCh.foldl (fun s ch => memRetireWrite s (ch + 512)) s
          match loadRegions (memJobstWrite s 1) img rank with
          | (s, some (st, det)) => s.jobDrop.finish r st det []
          | (s, none) =>
            let s := { s with job := { s.job with
                                id := s.vcf.jobSeq + 1, rank := rank, parts := parts, image := img, digest := dig, progUs := us
                                step := 0, chips := s.job.chips.filter fun x => x.1 ≠ rank }
                              vcf := { s.vcf with jobSeq := s.vcf.jobSeq + 1 } }
            let s := s.namedOthers.foldl (fun s q => s.emit (.steward (.announce rank s.id) q)) s
            if s.ranksKnown then s.loadEnd r else s.keep r

/-- A rank announces its chip identifier (R445 step 3). A load that waited for it goes on; in a loaded job the
rank is a replacement part, which the partner reservation now admits as READER (14 R492). -/
def rankAnnounceCmd (s : Chip) (rank chip : Nat) : Chip :=
  let s := { s with job := { s.job with chips := (rank, chip) :: s.job.chips.filter fun x => x.1 ≠ rank,
                                         lost := s.job.lost.filter (· ≠ rank) } }
  if s.job.st ≠ .idle then
    (partRegions (partSec s.job.image s.job.rank)).foldl (fun (s : Chip) (g : Nat × Nat × Nat × Nat) =>
      if g.2.2.1 ≠ 3 ∨ g.2.2.2 ≠ rank then s else
      match (List.range 32).find? fun n => decide (s.reg (rMEM_RGN_BASE n) = field g.1 12 36 * 4096) && bitOf (s.reg (rMEM_RGN_CTL n)) 3 with
      | some n => if field (s.reg (rMEM_RGN_CTL n)) 4 12 = chip then s else s.setField (rMEM_RGN_CTL n) 16 12 chip
      | none => s) s
  else match s.vcf.running.find? fun r => r.op == 0x10 with
    | some r => if s.ranksKnown then s.loadEnd r else s
    | none => s

/-- Programs start at ENTRY in U-mode, at boundary 0. Boundary 0 is due for every cadence, so its snapshot starts
here (14 R473). -/
def Chip.startJob (s : Chip) : Chip :=
  let s := s.jobCores.foldl (fun s (x, y, p) => s.onCore p fun c => { c.startProgram (listLe (entryOf s x y) 4 4) with step := 0 }) s
  captureStart { s with job := { s.job with step := 0, released := false, resume := false, reports := [] }
                        en := { s.en with fresh := true, points := [] } } 0

/-- JOB_START completes: every part is at boundary 0. -/
def Chip.startedAll (s : Chip) : Chip :=
  match s.vcf.running.find? fun r => r.op == 0x11 with
  | some r =>
    if s.allReady then finishStepPause (({ s with job := { s.job with st := .paused } } : Chip).finish r 0 0 []) else s
  | none => s

def jobStartRun (s : Chip) (r : RunCmd) : Chip :=
  let s := (s.startJob.tellAll .jobStart).keep r
  (s.noteReport s.job.rank 0 0).startedAll

def jobUnloadRun (s : Chip) (r : RunCmd) : Chip := (captureAbandon s).haltUnits.jobDrop.finish r 0 0 []

def stepRunRun (s : Chip) (r : RunCmd) : Chip :=
  let n := listLe r.msg 16 4
  ((s.startSteps n).tellAll (.stepRun n)).keep r

def stepPauseRun (s : Chip) (r : RunCmd) : Chip :=
  if s.job.st = .paused then s.finish r 0 0 (leBytes 8 s.job.step)
  else ((requestPause s 8 0).tellAll .stepPause).keep r

def snapTakeRun (s : Chip) (r : RunCmd) : Chip :=
  let l := listLe r.msg 16 1
  if l > 2 ∨ (l = 0 ∧ s.job.parts = 1) then s.finish r 4 16 []
  else (({ s with snp := { s.snp with asked := l :: s.snp.asked } } : Chip).tellAll (.snapTake l)).keep r

/-- Marks a CORE_FENCE with AUTO whose job stays PAUSED after its restore. -/
abbrev fencePaused : Nat := 2 ^ 40

/-- The fences of a paused job complete once it is restored, or without a spare. -/
def Chip.finishFences (s : Chip) (status : Nat) : Chip :=
  (s.vcf.running.filter fun r => decide (r.op = 0x40) && decide (r.aux = fencePaused)).foldl
    (fun s r => s.finish r status 0 (leBytes 1 1)) s

/-- The restore is whole: every rank holds the restored state. A fence that waited for it lets the job run again. -/
def Chip.restoredAll (s : Chip) : Chip :=
  match s.job.restoring with
  | none => s
  | some (k, _) =>
    if !(s.otherRanks.all fun q => s.job.restoredBy.any fun x => decide (x = (q, k))) then s
    else
      let s := { s with job := { s.job with restoring := none, restoredBy := [] } }
      let s := (s.vcf.running.filter fun r => decide (r.op = 0x31)).foldl (fun s r => s.finish r 0 0 (leBytes 8 k)) s
      match s.fenceWaiting with
      | some r =>
        if r.aux = 0 then finishStepPause s
        else if r.aux = fencePaused then finishStepPause (s.finishFences 0)
        else
          let left := r.aux - 1
          let s := (s.startSteps left).tellAll (.stepRun left)
          s.finish r 0 0 (leBytes 1 1)
      | none => finishStepPause s

/-- The coordinator restores step `k` of a layer everywhere. -/
def Chip.restoreEverywhere (s : Chip) (layer k : Nat) (media : Media) : Option Chip :=
  (restoreTo s layer k media.images).map fun t =>
    Chip.tellAll { t with job := { t.job with restoring := some (k, layer), restoredBy := [] } } (.snapRestore layer k)

def snapRestoreRun (media : Media) (s : Chip) (r : RunCmd) : Chip :=
  let l := listLe r.msg 16 1
  if l > 2 then s.finish r 4 16 []
  else match restoreStep s l (listLe r.msg 24 8) media.images media.others with
    | none => s.finish r 0xA 0 []
    | some k => match s.restoreEverywhere l k media with
      | some t => (t.keep r).restoredAll
      | none => (s.waitJob.tellAll .wait).finish r 7 0 []

/-! ### Group 2: cores, faults, energy -/

/-- PCOL and PROW of a core command, or the offset of the bad one. -/
def corePlace (r : RunCmd) : Except Nat Nat :=
  if listLe r.msg 16 1 > 15 then .error 16 else if listLe r.msg 17 1 > 17 then .error 17 else .ok (fenceCore r)

/-- A fence with AUTO after its boundary: the fence, the map, and the latest snapshot; the job then runs the
steps it still owes its STEP_RUN (R435). -/
def Chip.autoFence (s : Chip) (r : RunCmd) (media : Media) : Chip :=
  let owed := match s.job.left with | some n => some (s.job.step + n) | none => none
  let s := s.fence (fenceCore r)
  let fail := fun (s : Chip) => (finishStepRun (s.waitJob.tellAll .wait) 9 0).finish r 7 0 (leBytes 1 1)
  if !s.coordinator then
    let s := s.emit (.steward .restoreJob s.coordRank)
    { s with vcf := { s.vcf with running := s.vcf.running.map fun q => if q = r then { q with aux := 1 } else q } }
  else match restoreChoice s media with
    | none => fail s
    | some (l, k) => match s.restoreEverywhere l k media with
      | none => fail s
      | some t =>
        let left := match owed with | some n => n - k | none => 0
        Chip.restoredAll { t with vcf := { t.vcf with running := t.vcf.running.map fun q => if q = r then { q with aux := left + 1 } else q } }

/-- A fence with AUTO of a core mapped to a job that does not run: the fence, the map, and the latest snapshot; the
job stays PAUSED. -/
def Chip.pausedFence (s : Chip) (r : RunCmd) (media : Media) : Chip :=
  let s := (s.fence (fenceCore r)).keep { r with aux := fencePaused }
  if !s.coordinator then s.emit (.steward .restoreJob s.coordRank)
  else match restoreChoice s media with
    | none => (s.waitJob.tellAll .wait).finishFences 7
    | some (l, k) => match s.restoreEverywhere l k media with
      | none => (s.waitJob.tellAll .wait).finishFences 7
      | some t => t.restoredAll

def coreFenceRun (media : Media) (s : Chip) (r : RunCmd) : Chip :=
  match corePlace r with
  | .error off => s.finish r 4 off []
  | .ok p =>
    let mapped := s.job.st != .idle && s.inJob p
    if mapped && s.job.st == .running then ((requestPause s 8 0).tellAll .stepPause).keep r
    else if mapped && fenceAuto r && (s.job.st == .paused || s.job.st == .waiting) then s.pausedFence r media
    else (s.fence p).finish r 0 0 (leBytes 1 (b2n mapped))

/-- CORE_FENCE: a new command, or the rest of one whose boundary has come. -/
def coreFenceCmd (s : Chip) (c ch : Nat) (media : Media) : Chip :=
  match s.vcf.running.find? fun r => decide (r.c = c) && decide (r.ch = ch) && r.op == 0x40 && r.aux == 0 with
  | some r => if s.job.st = .running then s else s.autoFence r media
  | none => vcfCmd s c ch 0x40 (coreFenceRun media)

/-- CORE_UNFENCE: `pass` is the result of the core's self-test. -/
def coreUnfenceRun (pass : Bool) (s : Chip) (r : RunCmd) : Chip :=
  match corePlace r with
  | .error off => s.finish r 4 off []
  | .ok p =>
    if !pass then s.finish r 6 (jobStCode s.job.st) []
    else ((s.onCore p fun c => { c with fenced := false, good := true }).unfenceSources p).finish r 0 0 []

def fltAckRun (s : Chip) (r : RunCmd) : Chip :=
  let src := listLe r.msg 16 2
  if src ≥ 2350 then s.finish r 4 16 [] else (s.ackAll src).finish r 0 0 []

def envSetRun (s : Chip) (r : RunCmd) : Chip :=
  let w := listLe r.msg 16 4
  if w < 900 ∨ w > 1500 then s.finish r 4 16 []
  else
    let (s, step) := s.envAccept w
    s.finish r 0 0 (leBytes 8 step)

/-! ### Messages between Stewards -/

/-- A non-coordinator part, or the coordinator, is asked by another part. `media` is what the snapshot media hold. -/
def stewardMessageCmd (s : Chip) (msg : StewardMsg) (media : Media) : Chip :=
  match msg with
  | .jobStart =>
    if s.job.st = .loaded ∧ ¬ s.coordinator then
      let s := s.startJob
      ({ s with job := { s.job with st := .paused } } : Chip).emit (.steward (.boundaryReport s.job.rank 0 0) s.coordRank)
    else s
  | .stepRun n =>
    if s.job.st = .paused ∧ ¬ s.coordinator then
      let s := s.startSteps n
      (s.vcf.running.filter fun r => decide (r.op = 0x40) && decide (r.aux ≠ 0)).foldl (fun s r => s.finish r 0 0 (leBytes 1 1)) s
    else s
  | .stepPause => requestPause s 8 0
  | .snapTake l => { s with snp := { s.snp with asked := l :: s.snp.asked } }
  | .snapRestore l k =>
    if ¬ (s.job.st = .paused ∨ s.job.st = .waiting) ∨ s.coordinator = true then s
    else match restoreTo s l k media.images with
      | some t => (t.emit (.steward (.restored t.job.rank k) t.coordRank)).finishFences 0
      | none => (s.waitJob.emit (.steward .wait s.coordRank)).finishFences 7
  | .release step base pt =>
    if s.job.st = .running ∧ s.job.released = false ∧ step = s.job.step + 1 ∧ s.coordinator = false then s.releaseStep step base.toNat pt
    else s
  | .boundaryReport rank step pt => if s.coordinator ∧ step = s.job.step then (s.noteReport rank step pt).startedAll else s
  | .captureReport rank step l =>
    if !s.coordinator then s
    else
      let s := { s with snp := { s.snp with reports := (rank, step, l) :: s.snp.reports } }
      if l = 2 ∧ allReported s 2 step then (finishSnapTake (setLast s 2 step) 2 step).tellAll (.captureCommitted step 2) else s
  | .captureCommitted step l =>
    if l = 2 then setLast s 2 step
    else if s.snp.doneL.contains l ∧ step = s.snp.step then (commitLayer s l step).afterCapture else s
  | .haltJob src =>
    if s.job.st ≠ .running then s
    else if s.coordinator then restoreLatest ((haltHere s src).tellAll (.haltJob src)) media
    else haltHere s src
  | .restoreJob =>
    if !s.coordinator then s
    else if s.job.st = .running then restoreLatest ((haltHere s 0).tellAll (.haltJob 0)) media
    else if s.job.st = .paused ∨ s.job.st = .waiting then restoreLatest s media else s
  | .wait => if s.job.st = .idle then s else s.waitJob.finishFences 7
  | .pauseAtBoundary src => requestPause s 9 src
  | .partLost rank =>
    let s := if rank = s.job.rank then s else { s with job := { s.job with lost := rank :: s.job.lost.filter (· ≠ rank) } }
    if s.coordinator ∧ s.job.st ≠ .idle then ((finishStepRun ((captureAbandon s).haltUnits.waitJob) 9 0)).tellAll .wait else s
  | .restored rank k => Chip.restoredAll { s with job := { s.job with restoredBy := (rank, k) :: s.job.restoredBy } }
  | .announce rank chip => rankAnnounceCmd s rank chip

/-- PART_LOST_MSG (14 R491): the job goes to WAITING on every remaining part. -/
def partLostCmd (s : Chip) (rank : Nat) : Chip := stewardMessageCmd s (.partLost rank) {}

/-! ### Job channels (R448) -/

/-- The DATASRC section of the job image. -/
def dataSrc (s : Chip) : List Byte := imgSec s.job.image 6 sharedRank

/-- A message at the head of a job channel of a core: its index and bytes, or a command that ends in error. -/
def coreMessage (s : Chip) (p ch : Nat) (run : Chip → Nat → Nat → List Byte → Chip) : Chip :=
  let m := Mbx.core p
  if s.pins.power ≠ .ready ∨ s.hold ∨ s.vcf.draining ∨ !s.inJob p then s else
  match s.headCmd m ch with
  | none => s
  | some (i, d) =>
    let seq := s.chRd m d 4
    let len := s.chRd m (d + 4) 4
    let ptr := s.chRd m (d + 8) 8
    let t := s.takeCmd m ch
    if seq ≠ (i + 1) % 2 ^ 32 then t.complete m ch i (i + 1) 1 seq []
    else if len < 16 ∨ len > 65536 then t.complete m ch i (i + 1) 4 4 []
    else if ptr + len > 0x3F0000 then t.complete m ch i (i + 1) 4 8 []
    else if s.chRd m (d + 16) 16 ≠ 0 then t.complete m ch i (i + 1) 4 16 []
    else run t i len (Bytes.rdN (s.ringMem m) ptr len)

/-- INPUT_FETCH: `data` is what the data source holds at the cursor. -/
def inputFetchCmd (s : Chip) (p : Nat) (data : List Byte) : Chip :=
  coreMessage s p 1 fun s i _ g =>
    let m := Mbx.core p
    let n := listLe g 8 4
    let dst := listLe g 12 4
    if listLe g 0 2 ≠ 0x100 then s.complete m 1 i (i + 1) 2 (listLe g 0 2) []
    else if dst + n > 0x3F0000 then s.complete m 1 i (i + 1) 4 12 []
    else
      let s := s.chWrN m dst (fitBytes n data)
      let key := match s.logOf p with | some (x, y) => 16 * y + x | none => 0
      let src := dataSrc s
      let s := { s with job := { s.job with cursors := s.job.cursors.map fun (e : Nat × (Nat × Nat × Nat × Nat)) =>
        if e.1 = key then (e.1, advanceCursor src (n + listLe src 0 4 + 1) n e.2) else e } }
      s.complete m 1 i (i + 1) 0 0 []

/-- LOG: text for the job log, with the logical core and step. -/
def logCmd (s : Chip) (p : Nat) : Chip :=
  coreMessage s p 2 fun s i len g =>
    if len > 4096 then s.complete (.core p) 2 i (i + 1) 4 4 []
    else
      let (x, y) := (s.logOf p).getD (0, 0)
      (s.log (.text x y (s.core p).step g)).complete (.core p) 2 i (i + 1) 0 0 []

end Sys2Proof.Machine
end

