-- ==== Sys2Proof/Machine/Time.lean ====
section
/-!
DEFINITION. The time base: counting with trim, holdover, the compare interrupt, timed starts, and the rows that
are the run-out of a timer (09 R318-R325; 08 R261, R268).
-/
namespace Sys2Proof.Machine

/-! ### Counting (R318) -/

/-- Does the time base count (R323: from power-good)? It is held in reset while SYS_RST_N is low. -/
def Chip.ticking (s : Chip) : Bool := s.pins.power != .off && s.pins.power != .thermalOff && !s.pins.sysRst

/-- The sum, in 2^-32 ticks, that `n` cycles add to the fractional register. -/
def Chip.trimSum (s : Chip) (n : Nat) : Int :=
  (s.ctbFrac : Int) + (n : Int) * (2 ^ 32 + signedOf 32 (field (s.reg rCTB_TRIM) 0 32))

/-- The trace port sends `n` fifths of a byte: whole records leave (17 R562). -/
def traceSend : List (List Byte) → Nat → List (List Byte) × List (List Byte) × Nat
  | [], _ => ([], [], 0)
  | r :: rs, n =>
    if 5 * r.length ≤ n then
      let (gone, left, k) := traceSend rs (n - 5 * r.length)
      (r :: gone, left, k)
    else ([], r :: rs, n)

/-- 400 MB/s, so 2 fifths of a byte a tick. -/
def Chip.traceRun (s : Chip) (n : Nat) : Chip :=
  let (gone, left, k) := traceSend s.pins.trace (s.pins.traceSent + 2 * n)
  { s with outs := gone.reverse.map Out.trace ++ s.outs, pins := { s.pins with trace := left, traceSent := k } }

/-- The counter, the count of adjustments and the fractional register take new values. -/
def Chip.ctbAdd (s : Chip) (adv adj frac : Nat) : Chip :=
  { (s.bump rCTB_NOW adv).bump rCTB_ADJ_CNT adj with ctbFrac := frac }

/-- Time has run on in every core since the part was `t`. -/
def Chip.coresRun (s t : Chip) : Chip :=
  (s.cores.map (·.1)).foldl (fun s p => s.coreRun p (t.localTick p)) s

/-- `n` cycles of TBCLK: the counter counts and takes each carry or borrow of the fractional sum; the progress
timers count the ticks (13 R467), and the cores' engines run. -/
def Chip.ctbRun (s : Chip) (n : Nat) : Chip :=
  if !s.ticking then (if s.pins.power == .off then s else s.traceRun n) else
  let t := s.trimSum n
  let adv := (t / 2 ^ 32).toNat
  let adj := (t / 2 ^ 32 - n).natAbs
  (((s.ctbAdd adv adj (t % 2 ^ 32).toNat).progTicks adv).coresRun s).traceRun adv

/-- Cycles until the counter has advanced by `d` ticks or more. -/
def Chip.cyclesFor (s : Chip) (d : Nat) : Nat :=
  let rate := (2 ^ 32 + signedOf 32 (field (s.reg rCTB_TRIM) 0 32)).toNat
  ceilDiv (d * 2 ^ 32 - s.ctbFrac) rate

/-- Time runs on to tick `t`, if it lies ahead. -/
def Chip.runTo (s : Chip) (t : Nat) : Chip :=
  if t ≤ s.now ∨ t ≥ 2 ^ 64 then s else s.ctbRun (s.cyclesFor (t - s.now))

/-- Time runs on to the due tick of a timer that runs. -/
def Chip.runOut (s : Chip) (due : Option Nat) : Chip := match due with | some t => s.runTo t | none => s

/-- One cycle of TBCLK, which is what the part does while no command waits. -/
def Chip.tick (s : Chip) : Chip := s.ctbRun 1

/-- TRIM_ADJUST: the cycles up to the next one on which the fractional sum carries or borrows; none with a trim
of 0. -/
def trimAdjustCmd (s : Chip) : Chip :=
  let r := signedOf 32 (field (s.reg rCTB_TRIM) 0 32)
  if r > 0 then s.ctbRun (ceilDiv (2 ^ 32 - s.ctbFrac) r.toNat)
  else if r < 0 then s.ctbRun (s.ctbFrac / (-r).toNat + 1)
  else s

/-! ### Holdover (R322) -/

def holdoverTicks : Nat := 10000000

/-- REFCLK_LOSS. -/
def refclkLossCmd (s : Chip) : Chip :=
  if !s.ticking || bitOf (s.reg rCTB_STAT) 1 then s else
  { ((s.setField rCTB_STAT 0 3 2)).raise evHoldover 0 0 with holdAt := s.now }

/-- HOLDOVER_RELOCK, within 10 ms: the master is in bound at once; another part sets XSYNC in a later window of
R397. -/
def holdoverRelockCmd (s : Chip) : Chip :=
  if !bitOf (s.reg rCTB_STAT) 1 ∨ s.now > s.holdAt + holdoverTicks then s else
  let s := (s.setField rCTB_STAT 0 2 1).countTo rCTB_STAT 16 16
  s.setField rCTB_STAT 2 1 (field (s.reg rCTB_STAT) 3 1)

/-- HOLDOVER_TIMEOUT: the time base source failure (00 R7). -/
def holdoverTimeoutCmd (s : Chip) : Chip :=
  if !bitOf (s.reg rCTB_STAT) 1 then s else
  (s.runTo (s.holdAt + holdoverTicks)).raise evTbFail 0 0

/-! ### Compare and timed starts (08 R261; R324) -/

/-- The tick of the time base on which a core's local copy reaches tick `t`. -/
def Chip.dueLocal (p t : Nat) : Nat := t + Config.ctbLag (benchOf p) % 3

/-- CTBCMP_MATCH: the local copy reaches SEQ_CTBCMP; from then the interrupt is pending. -/
def ctbcmpMatchCmd (s : Chip) (p : Nat) : Chip := s.runTo (Chip.dueLocal p ((s.core p).reg rSEQ_CTBCMP))

/-- Any operation starts that waits at place `id`. -/
def anyOpStart (s : Chip) (p id : Nat) : Chip :=
  match (s.core p).op? id with
  | none => s
  | some t =>
    let k := dOp t.desc
    if k = opCVT then cvtCmd s p id else if k = opPDRN then pdrnCmd s p id else if k = opLDT then ldtCmd s p id
    else if k = opRED then redCmd s p id else if k = opSEND then sendCmd s p id else if k = opRECV then recvCmd s p id
    else if k = opSTSH then stshCmd s p id else if k = opUSTH then usthCmd s p id else if k = opIGTH then igthCmd s p id
    else if k = opKCAP then kcapCmd s p id else if k = opDACC then daccCmd s p id else if k = opMOV then movCmd s p id
    else s

/-- KSEL at the head of the KU. -/
def kselCmd (s : Chip) (p : Nat) : Chip := let c := s.core p; s.setCore p (kuLate c (kselStart c (s.localTick p) (s.cycleNow p)) (s.localTick p))

/-- The HBM lines of the weight columns that a starting KCHK reads (15 R497). -/
def Chip.kchkUse (s : Chip) (p : Nat) : Chip :=
  match (kchkStart (s.core p) (s.localTick p) (s.cycleNow p) s.inConfirmed (fun a n => s.memRd a n)).ku with
  | k :: _ =>
    if !k.run || ((s.core p).ku.headD k).run then s else
    let d := (s.core p).kchkDesc k.word
    if kdWKind d then s else
    (List.range 32).foldl (fun s j =>
      s.hbmUse (kdWbase d + (32 * (kTile k.word % kdCgrp d) + j) * kdStride d + 4 * kdK0 d) (4 * kdKN d)) s
  | [] => s

/-- KCHK at the head of the KU: weights come from confirmed-only regions (06 R201). -/
def kchkCmd (s : Chip) (p : Nat) : Chip :=
  let c := s.core p
  (s.kchkUse p).setCore p (kuLate c (kchkStart c (s.localTick p) (s.cycleNow p) s.inConfirmed (fun a n => s.memRd a n)) (s.localTick p))

/-- The tick of a timed start that waits. -/
def Chip.timedTick (s : Chip) (p : Nat) (k : TimedKind) : Option Nat :=
  let c := s.core p
  match k with
  | .block e => match (c.eng (e == .be)).halves with
    | h :: _ => if h.desc.timed && h.base.isNone then some h.desc.launch else none
    | [] => none
  | .operation id => match c.op? id with | some t => if t.waits then t.arm else none | none => none
  | .vector => match c.vuQ with | v :: _ => if v.loop.isNone then v.arm else none | [] => none
  | .kerf => match c.ku with | k :: _ => if k.loop.isNone && !k.run then k.arm else none | [] => none

/-- TIMED_START: the local copy reaches the tick, and the start is made if every other condition holds. -/
def timedStartCmd (s : Chip) (p : Nat) (k : TimedKind) : Chip :=
  match s.timedTick p k with
  | none => s
  | some t =>
    let s := s.runTo (Chip.dueLocal p t)
    match k with
    | .block e => blockLaunchCmd s p (e == .be)
    | .operation id => anyOpStart s p id
    | .vector => s.onCore p fun c => vuStart c (s.localTick p) (s.cycleNow p) fun _ => true
    | .kerf => if vu ((s.core p).ku.headD { seq := 0, word := 0, epoch := 0 }).word 0 8 = 0x60 then kselCmd s p else kchkCmd s p

/-! ### Due ticks of the timers -/

def Chip.windowDue (s : Chip) (code : Nat) : Option Nat :=
  let (src, sub) := srcOf code
  let key := srcReg src sub
  if src < 2350 ∧ srcState (s.reg key) = 1 then some (NatMap.rd s.flt.winEnd key) else none

def Chip.graceDue (s : Chip) (code : Nat) : Option Nat :=
  let (src, sub) := srcOf code
  let key := srcReg src sub
  if src < 2350 ∧ !s.hold ∧ srcState (s.reg key) = 2 then some (NatMap.rd s.flt.graceEnd key) else none

def Chip.trainingDue (s : Chip) (l : Nat) : Option Nat := (stageBound (s.link l).st).map fun b => (s.link l).since + b + 1

def Chip.retrainDue (s : Chip) (l : Nat) : Option Nat :=
  if (s.link l).st = .down then some ((s.link l).since + 1000000000) else none

def Chip.ackDue (s : Chip) (l : Nat) : Option Nat :=
  let L := s.link l
  if L.isUp && !L.buf.isEmpty then some (L.ackAt + ackTo s l) else none

def Chip.nakDue (s : Chip) (l : Nat) : Option Nat := if (s.link l).isUp then (s.link l).gap.map (· + 2000) else none

def Chip.episodeDue (s : Chip) (l : Nat) : Option Nat :=
  if (s.link l).isUp then (s.link l).epis.map fun e => e.start + 100000 else none

def Chip.holdDue (s : Chip) (p : Nat) : Option Nat :=
  let x := (s.core p).stash
  if x.holding.isSome && !x.holdRaised then some (x.holdSince + field (s.sth p rSTH_HOLDMAX) 0 20 * 1000 + 1) else none

/-- PLANNED_SWITCHOVER waits for the commands in progress, 600 s at most (16 R532). -/
def Chip.switchDue (s : Chip) : Option Nat :=
  if field (s.reg rSEC_UPD) 0 3 = 4 ∧ !(s.vcf.running.all fun r => decide (r.op = 0x71)) then some (s.sec.phaseAt + 600000000000) else none

/-- The progress timer of a core that counts (13 R467). -/
def Chip.progDue (s : Chip) (p : Nat) : Option Nat :=
  let lim := 1000 * (s.core p).reg rPROG_LIMIT
  if s.progRuns p then some (s.now + (lim - (s.core p).progAt)) else none

/-! ### Re-planning (11 R386, R390) -/

/-- REPLAN: 200 µs without a change of link state; a job that a link's loss paused is restored from a layer that
every rank holds. -/
def replanCmd (s : Chip) (media : Media) : Chip :=
  if !s.flood.stale then s else
  let s := installPlan (s.runTo (s.flood.changedAt + 200000))
  if s.job.relink ∧ s.coordinator then restoreLatest { s with job := { s.job with relink := false } } media else s

end Sys2Proof.Machine
end

