-- ==== Sys2Proof/Machine/Pins.lean ====
section
/-!
DEFINITION. The management ports: TAP, trace port, I3C and I2C telemetry, the management endpoint, root port
removal, IEEE 1588 messages (17 R552, R561-R569).
-/
namespace Sys2Proof.Machine

/-! ### TAP (R552, R561; 16 R540) -/

abbrev idcode : Nat := 0x1416C3A7

def Chip.tapSelect (s : Chip) (id : Bool) : Chip := { s with pins := { s.pins with tapId := id } }

/-- TRST_N: Test-Logic-Reset selects IDCODE. -/
def trstCmd (s : Chip) : Chip := s.tapSelect true
/-- IDCODE is selected and shifted out. -/
def tapIdcodeCmd (s : Chip) : Chip := (s.tapSelect true).emit (.value idcode)
/-- A 4-bit code: every code but IDCODE's selects the bypass register. -/
def tapBypassCmd (s : Chip) (code : Nat) : Chip := s.tapSelect (decide (code % 16 = 1))

/-! ### Trace port (R562) -/

/-- Is the part powered far enough to form records of its own? -/
def Chip.forming (s : Chip) : Bool := s.pins.power == .boot || s.pins.power == .ready

/-- The 1 ms status record. -/
def traceStatusCmd (s : Chip) : Chip :=
  if s.forming then s.trace 3 (leBytes 8 s.now ++ leBytes 8 (s.reg rEN_PKG_E) ++ leBytes 8 (s.reg rEN_GRANT_CNT)) else s

/-- The 1 ms record of a boot halt. -/
def haltTraceCmd (s : Chip) : Chip :=
  if s.pins.power == .halt then s.trace 4 (leBytes 8 s.now ++ leBytes 4 (s.reg rSEC_STAT)) else s

/-- The count of dropped records, when there is space for its record. -/
def traceDropCmd (s : Chip) : Chip :=
  let t := s.trace 5 (leBytes 4 s.pins.traceLost)
  if s.pins.traceLost = 0 ∨ t.pins.trace = s.pins.trace then s
  else { t with pins := { t.pins with traceLost := 0 } }

/-! ### Telemetry (R563-R565) -/

/-- Does the target acknowledge its address? -/
def Chip.tlmAcks (s : Chip) : Bool :=
  ((s.pins.power == .boot && decide (s.stage ≥ 4)) || s.pins.power == .ready) && bitOf (s.reg rEN_STAT) 0

def tlmReset (o : Nat) : Nat := if o = 0 then 0x46420416 else if o = 4 then 8 else if o = 8 then 0x05DC0000 else 0

def Chip.tlm (s : Chip) (o : Nat) : Nat := Map.get tlmReset s.pins.tlm o

/-- TLM_STATE.STATE. -/
def Chip.tlmState (s : Chip) : Nat :=
  if s.hold then 3 else if s.pins.power == .boot then 0 else if s.job.st == .running then 2 else 1

/-- The registers of the map at one moment. -/
def Chip.tlmNow (s : Chip) (o : Nat) : Nat :=
  let x := s.pins.sensors
  if o = 0 then 0x46420416
  else if o = 4 then s.tlmState + field (s.reg rSEC_STAT) 0 4 * 2 ^ 3 + b2n s.errN * 2 ^ 7
  else if o = 8 then field (s.reg rEN_PKG_P) 0 16 + field (s.reg rEN_ENV) 0 16 * 2 ^ 16
  else if o = 0x0C then x.tjMax % 2 ^ 8 + x.hbmMax % 2 ^ 8 * 2 ^ 8 + x.hot % 2 ^ 8 * 2 ^ 16
  else if o = 0x10 then x.mv % 2 ^ 16 + x.amps % 2 ^ 16 * 2 ^ 16
  else if o = 0x14 then field (s.reg rFLT_FIRST) 0 16 + b2n (bitOf (s.reg rFLT_FIRST) 63) * 2 ^ 16
  else s.reg rSEC_BOOTCNT

/-- TELEMETRY_REFRESH: every register takes one consistent value. -/
def telemetryRefreshCmd (s : Chip) (x : Sensors) : Chip :=
  if !s.tlmAcks then s else
  let s := { s with pins := { s.pins with sensors := x } }
  let m := (List.range 7).foldl (fun (m : Map Nat) i => Map.put tlmReset m (4 * i) (s.tlmNow (4 * i))) s.pins.tlm
  { s with pins := { s.pins with tlm := m } }

/-- A private write: one byte sets the offset, without its low two bits; more bytes are ignored. -/
def Chip.tlmWrite (s : Chip) (bs : List Byte) : Chip :=
  match bs with
  | [b] => { s with pins := { s.pins with i3cOff := b.toNat / 4 * 4 } }
  | _ => s

/-- A private read of `n` bytes: 32-bit words from the offset, which advances by 4 for each word begun. -/
def Chip.tlmRead (s : Chip) (n : Nat) : Chip :=
  if n = 0 then s else
  let words := ceilDiv n 4
  let bs := ((List.range words).flatMap fun k => leBytes 4 (s.tlm ((s.pins.i3cOff + 4 * k) % 256))).take n
  ({ s with pins := { s.pins with i3cOff := (s.pins.i3cOff + 4 * words) % 256 } }).emit (.bytes 3 bs)

/-- I3C_OFFSET_WRITE, at the dynamic address. -/
def i3cOffsetCmd (s : Chip) (off : Nat) : Chip :=
  if s.tlmAcks && s.pins.dynAddr.isSome then s.tlmWrite [BitVec.ofNat 8 off] else s

/-- I3C_READ of `n` bytes, at the dynamic address. -/
def i3cReadCmd (s : Chip) (n : Nat) : Chip := if s.tlmAcks && s.pins.dynAddr.isSome then s.tlmRead n else s

/-- A dynamic address is assigned to a target that has none. -/
def Chip.assignAddr (s : Chip) (a : Nat) : Chip :=
  if s.tlmAcks && s.pins.dynAddr.isNone then { s with pins := { s.pins with dynAddr := some (a % 128) } } else s

def setdasaCmd (s : Chip) (a : Nat) : Chip := s.assignAddr a
def entdaaCmd (s : Chip) (a : Nat) : Chip := s.assignAddr a

/-- I2C_TRANSFER at the static address, while there is no dynamic one: a write of `wr`, then a read of `n` bytes. -/
def i2cCmd (s : Chip) (wr : List Byte) (n : Nat) : Chip :=
  if s.tlmAcks && s.pins.dynAddr.isNone then (s.tlmWrite wr).tlmRead n else s

/-! ### PCIe (R552, R568, R569) -/

def mepPerstCmd (s : Chip) : Chip := mepResetCmd s
def flrCmd (s : Chip) : Chip := mepResetCmd s
def d3hotCmd (s : Chip) (d3 : Bool) : Chip := { s with pins := { s.pins with d3 := d3 } }

/-- PCIE_SURPRISE_REMOVAL of a device that is in use. -/
def removalCmd (s : Chip) (port : Nat) : Chip :=
  let ds := s.pins.devices
  if ds.getD port .none == .none || s.pins.removed.contains port then s else
  let s := { s with pins := { s.pins with devices := ds.set port .none, removed := port :: s.pins.removed } }
  s.raise evRootPort port port

/-! ### IEEE 1588 (R567; 09 R319; 11 R394, R396) -/

/-- IEEE_1588_MESSAGE: the arrival is timestamped from the CTB. A message that carries a time is what the fabric
master locks to, and after that what it follows by a trim; the rules give no control law, so the trim is free
within its limits (log 13). -/
def ptpCmd (s : Chip) (port : Nat) (time : Option DWord) : Chip :=
  match time with
  | none => s
  | some v =>
    if port ≥ 2 then s else
    let s := { s with ts := { s.ts with ptp := some (port, s.now, v.toNat) } }
    if s.pins.power == .ready && bitOf (s.reg rCTB_STAT) 3 then
      s.setReg rCTB_TRIM (wrapInt 32 ((Config.free s.now 3 % 1717987 : Nat) - 858993 : Int))
    else s

end Sys2Proof.Machine
end

