-- ==== Sys2Proof/Machine/Client.lean ====
section
/-!
DEFINITION. The client window on the management endpoint and over RDMA (12 R421-R425).
-/
namespace Sys2Proof.Machine

/-! ### RDMA connections (R423) -/

/-- The access key of a mailbox and a port, drawn at each boot and at each channel reset. -/
def Chip.accessKey (s : Chip) (c port : Nat) : Nat :=
  Config.random ((s.sec.bootCnt * 2 ^ 20 + NatMap.rd s.vcf.keyGen (2 * c + port)) * 16 + 2 * c + port) % 2 ^ 32

/-- May mailbox `c` be reached through Ethernet port `port` (R424)? -/
def Chip.ethPath (s : Chip) (c port : Nat) : Bool := decide (c < 8) && decide (port < 2) && bitOf (s.reg (rMBX_CL_CFG c)) (1 + port)

/-- RDMA_CONNECT: accepted with the access key of an enabled port. -/
def rdmaConnectCmd (s : Chip) (port c key : Nat) : Chip :=
  if s.ethPath c port && decide (key = s.accessKey c port) && !s.vcf.conns.contains (port, c) then
    { s with vcf := { s.vcf with conns := s.vcf.conns ++ [(port, c)] } }
  else s

/-! ### The window (R421, R422) -/

/-- Where an access of `n` bytes at a window offset goes. -/
inductive WinPart where
  | page (c o : Nat)
  | gap
  | buffer (c o : Nat)
  | data (a : Nat)
  | outside
deriving DecidableEq, Repr

def winPart (off n : Nat) : WinPart :=
  let e := off + n
  if e ≤ 0x8000 ∧ off / 0x1000 = (e - 1) / 0x1000 then .page (off / 0x1000) (off % 0x1000)
  else if 0x400000 ≤ off ∧ e ≤ 0x800000 ∧ (off - 0x400000) / 0x80000 = (e - 1 - 0x400000) / 0x80000 then
    .buffer ((off - 0x400000) / 0x80000) (off % 0x80000)
  else if e ≤ 0x800000 then .gap
  else if 2 ^ 48 ≤ off ∧ e ≤ 2 ^ 49 then .data (off - 2 ^ 48)
  else .outside

/-- The port number of a path, as event 0Ah and the outputs name it. -/
def pathPort : ClientPath → Nat
  | .ep => 2
  | .rdma p _ => p

/-- An access-error event of the path (13 R452). -/
def Chip.pathError (s : Chip) (path : ClientPath) : Chip := s.raise evAccess (288 + pathPort path) 0

/-- Does the path reach mailbox `c`: by the EP path of its configuration, or as the mailbox of the connection? -/
def Chip.pathReaches (s : Chip) (path : ClientPath) (c : Nat) : Bool :=
  match path with
  | .ep => s.clEp c
  | .rdma _ m => m == c

/-- Is there a path at all: the endpoint in D0, or an accepted connection? -/
def Chip.pathUp (s : Chip) (path : ClientPath) : Bool :=
  match path with
  | .ep => !s.pins.d3
  | .rdma p m => s.vcf.conns.contains (p, m)

def isRdma : ClientPath → Bool
  | .ep => false
  | .rdma _ _ => true

/-- A register of a mailbox page. -/
def Chip.pageRd (s : Chip) (c o : Nat) : Nat :=
  if o = 8 then s.mbxPend (.chip (8 + c)) false
  else if o = 0x18 then s.mbxPend (.chip (8 + c)) true
  else if o < 0x1C then s.mbxRd (.chip (8 + c)) (o / 4) else 0

/-- CLIENT_WINDOW_READ. -/
def clientReadCmd (s : Chip) (path : ClientPath) (off n : Nat) : Chip :=
  if n = 0 ∨ !s.pathUp path then (if isRdma path then s else s.emit .readError) else
  let give := fun (s : Chip) bs => s.emit (.bytes (pathPort path) bs)
  match winPart off n with
  | .page c o =>
    if !s.pathReaches path c then (if isRdma path then s.emit .readError else give s (List.replicate n 0))
    else if n = 4 ∧ o % 4 = 0 then give s (leBytes 4 (s.pageRd c o))
    else give (s.pathError path) (List.replicate n 0)
  | .gap => if isRdma path then s.emit .readError else give s (List.replicate n 0)
  | .buffer c o =>
    if s.pathReaches path c then give s (Bytes.rdN (s.buf c) o n)
    else if isRdma path then s.emit .readError else give s (List.replicate n 0)
  | .data a =>
    if s.runOk .client false true a n then
      let (bs, lost) := s.memRd a n
      give (if lost then s.raise evMemPoison (hbmChannel a) a else s) bs
    else (s.pathError path).emit .readError
  | .outside => (s.pathError path).emit .readError

/-- Does the client own byte `o` of its buffer (R425)? -/
def clientOwns (o : Nat) : Bool :=
  if o < 0x800 then (decide (8 ≤ o % 64) && decide (o % 64 < 12)) || (decide (20 ≤ o % 64) && decide (o % 64 < 24))
  else if 0x10000 ≤ o ∧ o < 0x40000 then decide ((o - 0x10000) % 0x1800 < 0x800)
  else decide (0x40000 ≤ o) && decide (o < 0x80000)

/-- The channel of a buffer byte, 32 for none. -/
def bufChannel (o : Nat) : Nat :=
  if o < 0x800 then o / 64 else if 0x10000 ≤ o ∧ o < 0x40000 then (o - 0x10000) / 0x1800 else 32

/-- A client's write into its buffer: bytes outside its parts are discarded, and counted once per channel. -/
def Chip.bufWrite (s : Chip) (c o : Nat) (bs : List Byte) : Chip :=
  let at_ := bs.zipIdx.map fun (e : Byte × Nat) => (o + e.2, e.1)
  let s := (at_.filter fun e => clientOwns e.1).foldl (fun (s : Chip) (e : Nat × Byte) => s.setBuf c (Bytes.wr (s.buf c) e.1 e.2)) s
  (((at_.filter fun e => !clientOwns e.1).map fun e => bufChannel e.1).eraseDups).foldl (fun (s : Chip) ch => s.log (.clientWrite c ch)) s

/-- CLIENT_WINDOW_WRITE. -/
def clientWriteCmd (s : Chip) (path : ClientPath) (off : Nat) (bs : List Byte) : Chip :=
  if bs.isEmpty ∨ !s.pathUp path then s else
  match winPart off bs.length with
  | .page c o =>
    if !s.pathReaches path c then (if isRdma path then s.emit .readError else s)
    else if bs.length = 4 ∧ o % 4 = 0 then
      let v := listLe bs 0 4
      if o = 0 then mbxDbCmd s (.chip (8 + c)) false .client c v 0
      else if o = 0x10 then mbxDbCmd s (.chip (8 + c)) true .client c v 0
      else s
    else s.pathError path
  | .gap => if isRdma path then s.emit .readError else s
  | .buffer c o =>
    if s.pathReaches path c then s.bufWrite c o bs else if isRdma path then s.emit .readError else s
  | .data _ => let s := s.pathError path; if isRdma path then s.emit .readError else s
  | .outside => let s := s.pathError path; if isRdma path then s.emit .readError else s

end Sys2Proof.Machine
end

