-- ==== Sys2Proof/Machine/Sequencer.lean ====
section
/-!
DEFINITION. The core sequencer (08 R254-R276): address map, CSRs, traps and local interrupts, the RV32IMAC
instructions, and stalls. Choices that the RISC-V documents leave to an implementation are log 4.
-/
namespace Sys2Proof.Machine

/-! ### Registers and the address map -/

/-- Integer register `i`; x0 reads 0. -/
def Core.xr (c : Core) (i : Nat) : Word := if i = 0 then 0 else BitVec.ofNat 32 (NatMap.rd c.seq.x i)

/-- Write integer register `i`; a write of x0 is discarded. -/
def Core.setX (c : Core) (i : Nat) (v : Word) : Core :=
  if i = 0 then c else { c with seq := { c.seq with x := NatMap.wr c.seq.x i v.toNat } }

/-- What lies at a local address (R255). -/
inductive Place where
  | iram
  | dram
  | store
  | window
  | none
deriving DecidableEq, Repr

def placeOf (a : Nat) : Place :=
  if a < 0x10000 then .iram
  else if a < 0x20000 then .dram
  else if 0x400000 ≤ a ∧ a < 0x800000 then .store
  else if 0x1000000 ≤ a ∧ a < 0x1100000 then .window
  else .none

/-- The monitor region (R256), by local address. -/
def inMonitor (a : Nat) : Bool :=
  (decide (0xE000 ≤ a) && decide (a < 0x10000)) || (decide (0x1F000 ≤ a) && decide (a < 0x20000)) ||
  (decide (0x7F0000 ≤ a) && decide (a < 0x800000))

/-- `n` bytes of a memory of the core, little-endian. -/
def Core.localRd (c : Core) (a n : Nat) : Nat :=
  match placeOf a with
  | .iram => Bytes.rdLe c.seq.iram a n
  | .dram => Bytes.rdLe c.seq.dram a n
  | .store => Bytes.rdLe c.store (a - 0x400000) n
  | _ => 0

def Core.localWr (c : Core) (a n v : Nat) : Core :=
  let c := c.mend a n
  match placeOf a with
  | .iram => { c with seq := { c.seq with iram := Bytes.wrLe c.seq.iram a n v } }
  | .dram => { c with seq := { c.seq with dram := Bytes.wrLe c.seq.dram a n v } }
  | .store => { c.count mWrite 1 with store := Bytes.wrLe c.store (a - 0x400000) n v }
  | _ => c

/-- A load of the sequencer counts its line of core store (15 R497). -/
def Core.localUse (c : Core) (a : Nat) : Core := if placeOf a = .store then c.count mRead 1 else c

/-- A byte string of data SRAM or core store. -/
def Core.localBytes (c : Core) (a n : Nat) : List Byte :=
  match placeOf a with
  | .dram => Bytes.rdN c.seq.dram a n
  | .store => Bytes.rdN c.store (a - 0x400000) n
  | _ => []

/-! ### CSRs (R254, R262) -/

abbrev csrMstatus := 0x300
abbrev csrMie := 0x304
abbrev csrMtvec := 0x305
abbrev csrMcounteren := 0x306
abbrev csrMepc := 0x341
abbrev csrMcause := 0x342
abbrev csrMtval := 0x343
abbrev csrQxdeleg := 0x7C0
abbrev csrQxtvec := 0x800
abbrev csrQxepc := 0x801
abbrev csrQxcause := 0x802
abbrev csrQxstatus := 0x803

/-- A stored CSR; mcounteren resets to 5. -/
def Core.csr (c : Core) (n : Nat) : Nat :=
  if n = csrMcounteren then NatMap.rd c.seq.csr n ^^^ 5 else NatMap.rd c.seq.csr n

def Core.setCsr (c : Core) (n v : Nat) : Core :=
  { c with seq := { c.seq with csr := NatMap.wr c.seq.csr n (if n = csrMcounteren then v ^^^ 5 else v) } }

/-- mip (R261): the sources are levels. -/
def Chip.mip (s : Chip) (p : Nat) : Nat :=
  let c := s.core p
  b2n c.kverd * 2 ^ 16 + b2n (s.mbxin p) * 2 ^ 17 +
  b2n ((List.range 16).any fun b => (c.barrier b).fired) * 2 ^ 18 +
  b2n (decide (s.localTick p ≥ c.reg rSEQ_CTBCMP)) * 2 ^ 19 + b2n (s.fltn p) * 2 ^ 20

def Chip.mcycle (s : Chip) (p : Nat) : Nat := (s.cycleNow p + (s.core p).seq.cycOff) % 2 ^ 64

/-- mhartid: the logical position of the core, or FFFF_FFFFh. -/
def Chip.hartid (s : Chip) (p : Nat) : Nat := match s.logOf p with | some (x, y) => 16 * y + x | none => 0xFFFFFFFF

/-- The value of CSR `n`; none if it does not exist. -/
def Chip.csrRd (s : Chip) (p n : Nat) : Option Nat :=
  let c := s.core p
  if n = 0x300 ∨ n = 0x304 ∨ n = 0x305 ∨ n = 0x306 ∨ n = 0x340 ∨ n = 0x341 ∨ n = 0x342 ∨ n = 0x343 ∨ n = csrQxdeleg ∨
      (0x800 ≤ n ∧ n ≤ 0x803) then some (c.csr n)
  else if n = 0x344 then some (s.mip p)
  else if n = 0x301 then some 0x40901105
  else if n = 0xF14 then some (s.hartid p)
  else if n = 0xB00 ∨ n = 0xC00 then some (s.mcycle p % 2 ^ 32)
  else if n = 0xB80 ∨ n = 0xC80 then some (s.mcycle p / 2 ^ 32)
  else if n = 0xB02 ∨ n = 0xC02 then some (c.seq.instret % 2 ^ 32)
  else if n = 0xB82 ∨ n = 0xC82 then some (c.seq.instret / 2 ^ 32)
  else if n = 0x310 ∨ n = 0x30A ∨ n = 0x31A ∨ n = 0x320 ∨ (0x323 ≤ n ∧ n ≤ 0x33F) ∨ (0x3A0 ≤ n ∧ n ≤ 0x3EF) ∨
      (0xB03 ≤ n ∧ n ≤ 0xB1F) ∨ (0xB83 ≤ n ∧ n ≤ 0xB9F) ∨ (0xC03 ≤ n ∧ n ≤ 0xC1F) ∨ (0xC83 ≤ n ∧ n ≤ 0xC9F) ∨
      (0xF11 ≤ n ∧ n ≤ 0xF15) then some 0
  else none

/-- May the mode read CSR `n`? A user-mode read of a counter needs its mcounteren bit. -/
def Core.csrAllowed (c : Core) (n : Nat) : Bool :=
  if !c.seq.uMode then true
  else if 0xC00 ≤ n ∧ n < 0xCA0 then bitOf (c.csr csrMcounteren) (n % 32)
  else decide (field n 8 2 = 0)

/-- What a write of `v` leaves in a stored CSR. -/
def csrLegal (n old v : Nat) : Nat :=
  if n = csrMstatus then
    let mpp := if field v 11 2 = 0 ∨ field v 11 2 = 3 then field v 11 2 else field old 11 2
    field v 3 1 * 2 ^ 3 + field v 7 1 * 2 ^ 7 + mpp * 2 ^ 11 + field v 17 1 * 2 ^ 17 + field v 21 1 * 2 ^ 21
  else if n = csrMie then field v 16 5 * 2 ^ 16
  else if n = csrMtvec then field v 2 30 * 4 + (if field v 0 2 ≤ 1 then field v 0 1 else field old 0 1)
  else if n = csrMcounteren then field v 0 1 + field v 2 1 * 4
  else if n = csrMepc ∨ n = csrQxepc then field v 1 31 * 2
  else if n = csrQxdeleg then field v 0 4
  else if n = csrQxtvec then field v 2 30 * 4
  else if n = csrQxstatus then field v 0 2
  else v

/-- A write of CSR `n`. The retirement count takes its written value after the writing instruction. -/
def Chip.csrWr (s : Chip) (p n v : Nat) : Chip :=
  let setCyc := fun w => s.onCore p fun c =>
    { c with seq := { c.seq with cycOff := (w + 2 ^ 64 - s.cycleNow p % 2 ^ 64) % 2 ^ 64 } }
  let setRet := fun w => s.onCore p fun c => { c with seq := { c.seq with instret := (w + 2 ^ 64 - 1) % 2 ^ 64 } }
  let m := s.mcycle p
  let r := (s.core p).seq.instret
  if n = 0xB00 then setCyc (m / 2 ^ 32 * 2 ^ 32 + v)
  else if n = 0xB80 then setCyc (m % 2 ^ 32 + v * 2 ^ 32)
  else if n = 0xB02 then setRet (r / 2 ^ 32 * 2 ^ 32 + v)
  else if n = 0xB82 then setRet (r % 2 ^ 32 + v * 2 ^ 32)
  else if n = 0x300 ∨ n = 0x304 ∨ n = 0x305 ∨ n = 0x306 ∨ n = 0x340 ∨ n = 0x341 ∨ n = 0x342 ∨ n = 0x343 ∨ n = csrQxdeleg ∨
      (0x800 ≤ n ∧ n ≤ 0x803) then s.onCore p fun c => c.setCsr n (csrLegal n (c.csr n) v)
  else s

/-! ### Traps and interrupts -/

/-- A trap into M-mode: mepc, mcause, mtval, mstatus and the pc from mtvec; an interrupt in vectored mode adds
4 × its number. -/
def Core.trapM (c : Core) (int : Bool) (cause tval : Nat) : Core :=
  let ms := c.csr csrMstatus
  let ms := Sys2Proof.setField (Sys2Proof.setField (Sys2Proof.setField ms 7 1 (field ms 3 1)) 3 1 0) 11 2 (if c.seq.uMode then 0 else 3)
  let tv := c.csr csrMtvec
  let pc := field tv 2 30 * 4 + (if int && bitOf tv 0 then 4 * cause else 0)
  let c := (((c.setCsr csrMepc c.seq.pc.toNat).setCsr csrMcause (cause + (if int then 2 ^ 31 else 0))).setCsr csrMtval tval).setCsr
    csrMstatus ms
  { c with seq := { c.seq with pc := BitVec.ofNat 32 pc, uMode := false, stall := none } }

/-- A synchronous exception; one that the compiled program takes also raises a program-exception event (R577). -/
def Chip.exception (s : Chip) (p cause tval : Nat) : Chip :=
  s.onCore p fun c =>
    let ev := c.seq.uMode
    let pc := c.seq.pc.toNat
    let c := c.trapM false cause tval
    if ev then c.raise evProgram (cause + pc * 2 ^ 32) else c

/-- Does interrupt `n` reach the core, and where to: true is the delegated handler. -/
def Core.intTarget (c : Core) (n : Nat) : Option Bool :=
  if !bitOf (c.csr csrMie) n then none
  else if n < 20 && bitOf (c.csr csrQxdeleg) (n - 16) then
    (if c.seq.uMode && bitOf (c.csr csrQxstatus) 0 then some true else none)
  else if c.seq.uMode || bitOf (c.csr csrMstatus) 3 then some false else none

/-- A stall ends: its cycles are counted (R276). -/
def Chip.endStall (s : Chip) (p : Nat) : Chip :=
  s.onCore p fun c => match c.seq.stall with
    | some x => { c.bump rSEQ_STALL_CNT (s.cycleNow p - x.since) with seq := { c.seq with stall := none } }
    | none => c

/-- LOCAL_INTERRUPT: the lowest pending enabled interrupt is taken (R261, R262). -/
def localInterruptCmd (s : Chip) (p : Nat) : Chip :=
  let c := (s.endStall p).core p
  if !bitOf (c.reg rSEQ_CTL) 0 then s else
  let ip := s.mip p
  match (List.range 5).find? fun k => bitOf ip (16 + k) && (c.intTarget (16 + k)).isSome with
  | none => s
  | some k =>
    if c.intTarget (16 + k) = some true then
      let st := c.csr csrQxstatus
      let c := ((c.setCsr csrQxepc c.seq.pc.toNat).setCsr csrQxcause (16 + k)).setCsr csrQxstatus (field st 0 1 * 2)
      s.setCore p { c with seq := { c.seq with pc := BitVec.ofNat 32 (c.csr csrQxtvec), stall := none } }
    else s.setCore p (c.trapM true (16 + k) 0)

/-! ### The result of one instruction -/

/-- What an instruction does: it retires with a new pc, it traps, or it stalls (R276). -/
inductive SeqRes where
  | ok (s : Chip) (pc : Word)
  | trap (s : Chip) (cause tval : Nat)
  | wait (cause : StallCause)

abbrev illegalCause : Nat := 2

/-! ### Loads and stores -/

inductive LoadRes where
  | val (v : Nat) (s : Chip)
  | fault (s : Chip) (cause : Nat)
  | wait

/-- The privilege of data accesses: MPRV uses MPP. -/
def Core.dataUser (c : Core) : Bool :=
  c.seq.uMode || (bitOf (c.csr csrMstatus) 17 && decide (field (c.csr csrMstatus) 11 2 = 0))

/-- The stream whose counter lies at a window offset. -/
def ctrStream (a : Nat) : Option Nat := (List.range 4).find? fun n => decide (a = rRS_CTR n) || decide (a = rRS_CTR n + 4)

/-- A load of `n` bytes; one that meets a double-bit error is an access fault (R258). A read of a stream counter waits for the stream's earlier users and writes (03 R97). -/
def Chip.seqLoad (s : Chip) (p a n : Nat) : LoadRes :=
  let c := s.core p
  if a % n ≠ 0 then .fault s 4
  else if c.dataUser && inMonitor a then .fault s 5
  else match placeOf a with
    | .none => .fault s 5
    | .window =>
      if n ≠ 4 then .val 0 (s.regError (s.seqAgent p))
      else match ctrStream (a - 0x1000000) with
        | some k =>
          if c.streamUsed c.nseq k || c.rsHeldBefore c.nseq k then .wait
          else let (v, s) := s.portLoad p (a - 0x1000000); .val v s
        | none => let (v, s) := s.portLoad p (a - 0x1000000); .val v s
    | _ =>
      if c.upsetIn a n then .fault (s.onCore p Core.memErr) 5
      else .val (c.localRd a n) (s.onCore p fun c => c.localUse a)

/-- A store of `n` bytes: the new state, or the cause of its exception. -/
def Chip.seqStore (s : Chip) (p a n v : Nat) : Except Nat Chip :=
  let c := s.core p
  if a % n ≠ 0 then .error 6
  else if c.dataUser && inMonitor a then .error 7
  else match placeOf a with
    | .none => .error 7
    | .window => .ok (if n ≠ 4 then s.regError (s.seqAgent p) else s.portStore (s.seqAgent p) p (a - 0x1000000) v)
    | _ => .ok (s.setCore p (c.localWr a n v))

/-! ### RV32IM -/

/-- The OP and OP-IMM operations, by funct3; `alt` is bit 30. -/
def aluOp (f3 : Nat) (alt : Bool) (a b : Word) : Word :=
  let sh := b.toNat % 32
  match f3 with
  | 0 => if alt then a - b else a + b
  | 1 => a <<< sh
  | 2 => if a.slt b then 1 else 0
  | 3 => if a.ult b then 1 else 0
  | 4 => a ^^^ b
  | 5 => if alt then a.sshiftRight sh else a >>> sh
  | 6 => a ||| b
  | _ => a &&& b

/-- The M extension, by funct3. -/
def mulOp (f3 : Nat) (a b : Word) : Word :=
  let hi := fun (x : Int) => BitVec.ofInt 32 (x / (2 ^ 32 : Nat))
  match f3 with
  | 0 => a * b
  | 1 => hi (a.toInt * b.toInt)
  | 2 => hi (a.toInt * (b.toNat : Int))
  | 3 => hi ((a.toNat : Int) * (b.toNat : Int))
  | 4 => if b = 0 then BitVec.allOnes 32 else BitVec.ofInt 32 (a.toInt.tdiv b.toInt)
  | 5 => if b = 0 then BitVec.allOnes 32 else BitVec.ofNat 32 (a.toNat / b.toNat)
  | 6 => if b = 0 then a else BitVec.ofInt 32 (a.toInt.tmod b.toInt)
  | _ => if b = 0 then a else BitVec.ofNat 32 (a.toNat % b.toNat)

/-- Branch conditions, by funct3; none is reserved. -/
def branchOp (f3 : Nat) (a b : Word) : Option Bool :=
  match f3 with
  | 0 => some (a == b)
  | 1 => some (a != b)
  | 4 => some (a.slt b)
  | 5 => some (!a.slt b)
  | 6 => some (a.ult b)
  | 7 => some (!a.ult b)
  | _ => none

/-- The AMO operations, by funct5. -/
def amoOp (f5 : Nat) (m r : Word) : Option Word :=
  match f5 with
  | 0 => some (m + r)
  | 1 => some r
  | 4 => some (m ^^^ r)
  | 8 => some (m ||| r)
  | 12 => some (m &&& r)
  | 16 => some (if m.slt r then m else r)
  | 20 => some (if m.slt r then r else m)
  | 24 => some (if m.ult r then m else r)
  | 28 => some (if m.ult r then r else m)
  | _ => none

/-- Immediates of the 32-bit formats. -/
def immI (w : Nat) : Int := signedOf 12 (field w 20 12)
def immS (w : Nat) : Int := signedOf 12 (field w 25 7 * 32 + field w 7 5)
def immB (w : Nat) : Int := signedOf 13 (field w 31 1 * 2 ^ 12 + field w 7 1 * 2 ^ 11 + field w 25 6 * 2 ^ 5 + field w 8 4 * 2)
def immJ (w : Nat) : Int := signedOf 21 (field w 31 1 * 2 ^ 20 + field w 12 8 * 2 ^ 12 + field w 20 1 * 2 ^ 11 + field w 21 10 * 2)

/-- Extend a loaded value by the funct3 of its load. -/
def loadExt (f3 v : Nat) : Word :=
  match f3 with
  | 0 => BitVec.ofInt 32 (signedOf 8 v)
  | 1 => BitVec.ofInt 32 (signedOf 16 v)
  | _ => BitVec.ofNat 32 v

def execLoad (s : Chip) (p w : Nat) (len : Nat) : SeqRes :=
  let c := s.core p
  let f3 := field w 12 3
  let a := (BitVec.ofInt 32 ((c.xr (field w 15 5)).toInt + immI w)).toNat
  let n := if f3 % 4 = 0 then 1 else if f3 % 4 = 1 then 2 else 4
  if f3 = 3 ∨ f3 ≥ 6 then .trap s illegalCause w
  else match s.seqLoad p a n with
    | .val v s => .ok (s.onCore p fun c => c.setX (field w 7 5) (loadExt f3 v)) (c.seq.pc + BitVec.ofNat 32 len)
    | .fault s cause => .trap s cause a
    | .wait => .wait .rsRead

def execStore (s : Chip) (p w : Nat) (len : Nat) : SeqRes :=
  let c := s.core p
  let f3 := field w 12 3
  let a := (BitVec.ofInt 32 ((c.xr (field w 15 5)).toInt + immS w)).toNat
  if f3 > 2 then .trap s illegalCause w
  else match s.seqStore p a (2 ^ f3) ((c.xr (field w 20 5)).toNat % 2 ^ (8 * 2 ^ f3)) with
    | .ok s => .ok s (c.seq.pc + BitVec.ofNat 32 len)
    | .error cause => .trap s cause a

/-- LR, SC and the AMOs: data SRAM and core store only. -/
def execAmo (s : Chip) (p w : Nat) : SeqRes :=
  let c := s.core p
  let f5 := field w 27 5
  let rd := field w 7 5
  let a := (c.xr (field w 15 5)).toNat
  let npc := c.seq.pc + 4
  let lr := f5 = 2
  let okPlace := placeOf a = .dram ∨ placeOf a = .store
  if field w 12 3 ≠ 2 ∨ (lr ∧ field w 20 5 ≠ 0) ∨ (f5 ≠ 2 ∧ f5 ≠ 3 ∧ (amoOp f5 0 0).isNone) then .trap s illegalCause w
  else if a % 4 ≠ 0 then .trap s (if lr then 4 else 6) a
  else if ¬ okPlace ∨ (c.dataUser = true ∧ inMonitor a = true) then .trap s (if lr then 5 else 7) a
  else if f5 ≠ 3 ∧ c.upsetIn a 4 = true then .trap (s.onCore p Core.memErr) (if lr then 5 else 7) a
  else
    let m := BitVec.ofNat 32 (c.localRd a 4)
    let c := if f5 = 3 then c else c.localUse a
    let r := c.xr (field w 20 5)
    if lr then .ok (s.setCore p { (c.setX rd m) with seq := { (c.setX rd m).seq with resv := some (a / 64) } }) npc
    else if f5 = 3 then
      let hit := c.seq.resv == some (a / 64)
      let c' := if hit then c.localWr a 4 r.toNat else c
      let c' := c'.setX rd (if hit then 0 else 1)
      .ok (s.setCore p { c' with seq := { c'.seq with resv := none } }) npc
    else match amoOp f5 m r with
      | some v => .ok (s.setCore p ((c.localWr a 4 v.toNat).setX rd m)) npc
      | none => .trap s illegalCause w

/-- Zicsr. -/
def execCsr (s : Chip) (p w : Nat) : SeqRes :=
  let c := s.core p
  let f3 := field w 12 3
  let n := field w 20 12
  let rd := field w 7 5
  let rs := field w 15 5
  let src := if f3 ≥ 4 then rs else (c.xr rs).toNat
  let writes := f3 % 4 = 1 ∨ rs ≠ 0
  match s.csrRd p n with
  | none => .trap s illegalCause w
  | some old =>
    if c.csrAllowed n = false ∨ (writes ∧ field n 10 2 = 3) then .trap s illegalCause w
    else
      let new := if f3 % 4 = 1 then src else if f3 % 4 = 2 then old ||| src else old &&& (0xFFFFFFFF - src)
      let s := if writes then s.csrWr p n new else s
      .ok (s.onCore p fun c => c.setX rd (BitVec.ofNat 32 old)) (c.seq.pc + 4)

/-- ECALL, EBREAK, MRET, WFI. -/
def execSystem (s : Chip) (p w : Nat) (len : Nat) : SeqRes :=
  let c := s.core p
  if field w 7 5 ≠ 0 ∨ field w 15 5 ≠ 0 then .trap s illegalCause w
  else match field w 20 12 with
    | 0 => .trap s (if c.seq.uMode then 8 else 11) 0
    | 1 => .trap s 3 c.seq.pc.toNat
    | 0x302 =>
      if c.seq.uMode then .trap s illegalCause w
      else
        let ms := c.csr csrMstatus
        let user := decide (field ms 11 2 = 0)
        let ms' := setField (setField (setField ms 3 1 (field ms 7 1)) 7 1 1) 11 2 0
        let ms' := if user then setField ms' 17 1 0 else ms'
        let pc := BitVec.ofNat 32 (c.csr csrMepc)
        .ok (s.setCore p { c.setCsr csrMstatus ms' with seq := { (c.setCsr csrMstatus ms').seq with uMode := user } }) pc
    | 0x105 => if c.seq.uMode && bitOf (c.csr csrMstatus) 21 then .trap s illegalCause w else .ok s (c.seq.pc + BitVec.ofNat 32 len)
    | _ => .trap s illegalCause w

end Sys2Proof.Machine
end

