-- ==== Sys2Proof/Machine/QueueExt.lean ====
section
/-!
DEFINITION. The queue extension (08 R263-R276): issue of blocks, operations, VU and KU instructions, fences, the
time base, barriers, doorbells, rungs and energy grants.
-/
namespace Sys2Proof.Machine

/-- The pc after a four-byte instruction. -/
def Chip.pcNext (s : Chip) (p : Nat) : Word := (s.core p).seq.pc + 4

/-- Why a structure address is refused (R256, R264): outside the memories or misaligned, mtval is the address; in
the monitor region for the program, mtval is the instruction. -/
inductive AddrCheck where
  | good
  | badAddr
  | monitor
deriving DecidableEq, Repr

def Core.structAddr (c : Core) (a n : Nat) : AddrCheck :=
  if a % n ≠ 0 ∨ ¬ (placeOf a = .dram ∨ placeOf a = .store) then .badAddr
  else if c.seq.uMode && inMonitor a then .monitor
  else .good

/-- Does a core store range touch the monitor region? -/
def rangeInMonitor (o n : Nat) : Bool := decide (o + n > monitorStart) && decide (0 < n)

/-- A program-order number is taken. -/
def Core.issued (c : Core) : Core := { c with nseq := c.nseq + 1 }

/-- The tick an armed issue gets (R268): one already passed is met at issue (09 R324). -/
def Chip.armTick (s : Chip) (p : Nat) : Option Nat := (s.core p).seq.arm.map fun t => max t (s.localTick p)

def Core.disarm (c : Core) : Core := { c with seq := { c.seq with arm := none } }

/-- Is every named queue end enabled, in the newest configuration (R278, R282)? -/
def Core.endsOn (c : Core) (ns : List Nat) : Bool := ns.all fun n => decide (cfgDepth (c.qcfgNewest n) ≠ 0)

/-- Lowest free place of the transfer table. -/
def Core.freePlace (c : Core) : Nat := ((List.range 64).find? fun i => !c.ops.any fun t => t.id == i).getD 0

/-- The checks of an operation descriptor at issue (R278, R284, R289, R291). -/
def Core.opDescOk (c : Core) (d : List Byte) : Bool :=
  decide (1 ≤ dOp d) && decide (dOp d ≤ 12) && !descReserved d && descValidBits d && !descBadFields d &&
  c.endsOn (opNames d)

/-- The read of a structure by QOP: its lines of core store count, and a double-bit error is reported (R258; 15 R497). -/
def Core.structRead (c : Core) (a n : Nat) : Core :=
  if placeOf a = .store then c.unitRd (a - 0x400000) n else if c.upsetIn a n then c.memErr else c

def qxQop (s : Chip) (p : Nat) (w a : Nat) : SeqRes :=
  let c := s.core p
  match c.structAddr a 64 with
  | .badAddr => .trap s illegalCause a
  | .monitor => .trap s illegalCause w
  | .good =>
    let d := c.localBytes a 64
    if !c.opDescOk d || (c.seq.uMode && opNamesMonitor (fun x y => s.physOf x y == some p) d) then .trap s illegalCause w
    else if c.ops.length ≥ 64 then .wait .opsFull
    else
      let t : TOp := { id := c.freePlace, seq := c.nseq, desc := d, arm := s.armTick p, addr := a, hurt := c.upsetIn a 64 }
      .ok ((s.setCore p { c.issued.disarm.structRead a 64 with ops := c.ops ++ [t] }).markNew p) (s.pcNext p)

def qxQpushV (s : Chip) (p : Nat) (w a : Nat) : SeqRes :=
  let c := s.core p
  match c.structAddr a 16 with
  | .badAddr => .trap s illegalCause a
  | .monitor => .trap s illegalCause w
  | .good =>
    let v := BitVec.ofNat 128 (leNat (c.localBytes a 16))
    if !vuWordOk v || !c.endsOn (vQD v :: vuPops v) then .trap s illegalCause w
    else if c.vuWaiting ≥ 32 then .wait .vuQueued
    else
      let i : VuInstr := { seq := c.nseq, word := v, rm := field (c.reg rVU_FCSR) 0 3, arm := s.armTick p }
      .ok ((s.setCore p { c.issued.disarm with vuQ := c.vuQ ++ [i] }).markNew p) (s.pcNext p)

def qxQpushK (s : Chip) (p : Nat) (w a : Nat) : SeqRes :=
  let c := s.core p
  match c.structAddr a 16 with
  | .badAddr => .trap s illegalCause a
  | .monitor => .trap s illegalCause w
  | .good =>
    let v := BitVec.ofNat 128 (leNat (c.localBytes a 16))
    let sel := vu v 0 8 = 0x60
    if !kuWordOk v || (decide sel && !c.endsOn [kQD v]) || (c.seq.uMode && !decide sel && rangeInMonitor (kDesc v) 32) then
      .trap s illegalCause w
    else if c.ku.length ≥ 4 then .wait .kuFull
    else
      let i : KuInstr := { seq := c.nseq, word := v, epoch := (c.chain (kChain v)).epoch, arm := s.armTick p }
      .ok ((s.setCore p { c.issued.disarm with ku := c.ku ++ [i] }).markNew p) (s.pcNext p)

def qxBenq (s : Chip) (p : Nat) (be : Bool) (w a : Nat) : SeqRes :=
  let c := s.core p
  match c.structAddr a 32 with
  | .badAddr => .trap s illegalCause a
  | .monitor => .trap s illegalCause w
  | .good =>
    let d := c.localBytes a 32
    let b := blockDescOf d
    let l := if be then c.bwd else c.fwd
    if !blockOk c d be || (c.seq.uMode && rangeInMonitor b.code (16 * b.len)) then .trap s illegalCause w
    else if c.queued be + b.len > 32 then .wait (if be then .beQueued else .feQueued)
    else if l.length ≥ 8 then .wait (if be then .bwdFull else .fwdFull)
    else
      let b := if b.timed then { b with launch := max b.launch (s.localTick p) } else b
      let c := (c.setGrant b.grant fun g => { g with state := 3 }).issued
      let c := if be then { c with bwd := l ++ [(c.nseq - 1, b)] } else { c with fwd := l ++ [(c.nseq - 1, b)] }
      .ok ((s.setCore p c).markNew p) (s.pcNext p)

/-- Work issued before now and not complete, by the kinds of a QFENCE mask (R265). -/
def Core.fenceOpen (c : Core) (mask : Nat) : Bool :=
  let n := c.nseq
  (bitOf mask 0 && (c.fwd.any (fun b => decide (b.1 < n)) || c.blocks.any fun b => decide (b.1 < n) && !b.2.1)) ||
  (bitOf mask 1 && (c.bwd.any (fun b => decide (b.1 < n)) || c.blocks.any fun b => decide (b.1 < n) && b.2.1)) ||
  (bitOf mask 2 && (c.vuQ.any (fun v => decide (v.seq < n)) || c.vuX.any fun v => decide (v.seq < n))) ||
  (bitOf mask 3 && c.ku.any fun k => decide (k.seq < n)) ||
  (bitOf mask 4 && c.ops.any fun t => decide (t.seq < n))

/-- Does the operation write outside this core's store (R266)? -/
def writesOut (d : List Byte) : Bool :=
  if dOp d = opSEND ∨ dOp d = opSTSH ∨ dOp d = opDACC then true
  else if dOp d = opMOV then (match addrSpace (dDst d) with | .device _ => true | .core _ _ _ => true | _ => false)
  else false

/-- What MFENCE waits for: operations that have not started, writes outside, deliveries (R266). -/
def Core.mfenceOpen (c : Core) : Bool :=
  c.ops.any (fun t => decide (t.seq < c.nseq) && (t.waits || writesOut t.desc)) || !c.owed.isEmpty

def qxQfence (s : Chip) (p : Nat) (w mask : Nat) : SeqRes :=
  if mask ≥ 32 then .trap s illegalCause w
  else if (s.core p).fenceOpen mask then .wait .qfence
  else .ok s (s.pcNext p)

def qxMfence (s : Chip) (p : Nat) : SeqRes :=
  if (s.core p).mfenceOpen then .wait .mfence else .ok s (s.pcNext p)

def qxQxret (s : Chip) (p : Nat) (w : Nat) : SeqRes :=
  let c := s.core p
  if !c.seq.uMode then .trap s illegalCause w
  else
    let st := c.csr csrQxstatus
    .ok (s.setCore p (c.setCsr csrQxstatus (setField st 0 1 (field st 1 1)))) (BitVec.ofNat 32 (c.csr csrQxepc))

def qxCtbrl (s : Chip) (p : Nat) (rd : Nat) : SeqRes :=
  let t := s.localTick p
  let c := (s.core p).setX rd (BitVec.ofNat 32 t)
  .ok (s.setCore p { c with seq := { c.seq with tbBuf := BitVec.ofNat 32 (t / 2 ^ 32) } }) (s.pcNext p)

def qxCtbrh (s : Chip) (p : Nat) (rd : Nat) : SeqRes :=
  .ok (s.onCore p fun c => c.setX rd c.seq.tbBuf) (s.pcNext p)

def qxTarm (s : Chip) (p : Nat) (lo hi : Nat) : SeqRes :=
  let c := s.core p
  .ok (s.setCore p { c with seq := { c.seq with arm := some (lo + hi * 2 ^ 32) } }) (s.pcNext p)

/-- BARV (R269; 09 R332, R333). -/
def qxBarv (s : Chip) (p : Nat) (w rd b : Nat) : SeqRes :=
  if b ≥ 16 ∨ barValid (s.core p) b = false then .trap s illegalCause w
  else
    let g := barArr (s.core p) b
    let s := s.barArrive p b
    .ok (s.onCore p fun c => (c.setBarrier b { c.barrier b with own := g + 1 }).setX rd (BitVec.ofNat 32 g)) (s.pcNext p)

/-- Does a generation exceed the last one BARV returned on this core? -/
def Core.genAbove (c : Core) (b g : Nat) : Bool := decide (g ≥ (c.barrier b).own)

def qxBwait (s : Chip) (p : Nat) (w b g : Nat) : SeqRes :=
  if b ≥ 16 ∨ (s.core p).genAbove b g = true then .trap s illegalCause w
  else if barDone (s.core p) b ≤ g then .wait .bwait
  else .ok s (s.pcNext p)

/-- BPOLL: a 1 clears the notice and arms it for the next generation; one complete already fires at once. -/
def qxBpoll (s : Chip) (p : Nat) (w rd b g : Nat) : SeqRes :=
  let c := s.core p
  if b ≥ 16 ∨ c.genAbove b g = true then .trap s illegalCause w
  else if barDone c b ≤ g then .ok (s.setCore p (c.setX rd 0)) (s.pcNext p)
  else
    let fired := decide (barDone c b > g + 1)
    let c := c.setBarrier b { c.barrier b with fired := fired, notice := if fired then none else some (g + 1) }
    .ok (s.setCore p (c.setX rd 1)) (s.pcNext p)

/-- DBELL: the memory fence, then the doorbell bit (R270; 12 R446). -/
def qxDbell (s : Chip) (p : Nat) (w ch : Nat) : SeqRes :=
  if ch ≥ 32 ∨ ((s.core p).seq.uMode = true ∧ ch ≥ 16) then .trap s illegalCause w
  else if (s.core p).mfenceOpen then .wait .mfence
  else .ok (mbxDbCmd s (.core p) false (s.seqAgent p) 0 (2 ^ ch) 0) (s.pcNext p)

def qxWrung (s : Chip) (p : Nat) (w rd ch l : Nat) : SeqRes :=
  if ch ≥ 64 ∨ l ≥ 1024 then .trap s illegalCause w
  else .ok (s.onCore p fun c => c.setX rd (BitVec.ofNat 32 (c.rung ch l))) (s.pcNext p)

/-- The next handle of the order after `h` that is not outstanding (R272). -/
def Core.nextFree (c : Core) : Nat → Nat → Nat
  | 0, h => h
  | n + 1, h => if c.grants.any (fun g => g.handle == h) then c.nextFree n (if h = 65535 then 1 else h + 1) else h

def qxGreq (s : Chip) (p : Nat) (w rd nj : Nat) : SeqRes :=
  let c := s.core p
  if nj = 0 then .trap s illegalCause w
  else if c.openGrants ≥ 64 then .wait .grants
  else
    let h := c.nextFree 65 c.nextHandle
    let g : Grant := { handle := h, state := 1, nj := nj }
    let c : Core := { c with grants := c.grants ++ [g], nextHandle := if h = 65535 then 1 else h + 1 }
    let s := s.setCore p (c.setX rd (BitVec.ofNat 32 h))
    .ok { s with en := { s.en with sent := s.en.sent ++ [{ p := p, handle := h, nj := nj }] } } (s.pcNext p)

def Core.grantState (c : Core) (h : Nat) : Nat :=
  match c.grants.find? fun g => g.handle == h with | some g => g.state | none => 0

def qxGstat (s : Chip) (p : Nat) (w rd h : Nat) : SeqRes :=
  if h ≥ 65536 then .trap s illegalCause w
  else .ok (s.onCore p fun c => c.setX rd (BitVec.ofNat 32 (c.grantState h))) (s.pcNext p)

def qxGrel (s : Chip) (p : Nat) (w h : Nat) : SeqRes :=
  let st := (s.core p).grantState h
  if h ≥ 65536 ∨ ¬ (st = 1 ∨ st = 2) then .trap s illegalCause w
  else .ok (s.releaseGrant p h) (s.pcNext p)

/-! ### Encoding (R263) -/

/-- The word of a queue-extension instruction. -/
def qxWord (f7 f3 rd rs1 rs2 : Nat) : Nat := f7 * 2 ^ 25 + rs2 * 2 ^ 20 + rs1 * 2 ^ 15 + f3 * 2 ^ 12 + rd * 2 ^ 7 + 0x0B

/-- A custom-0 instruction. -/
def execQx (s : Chip) (p w : Nat) : SeqRes :=
  let c := s.core p
  let rd := field w 7 5
  let r1 := field w 15 5
  let r2 := field w 20 5
  let a := (c.xr r1).toNat
  let b := (c.xr r2).toNat
  let bad := SeqRes.trap s illegalCause w
  let only := fun (ok : Bool) (x : SeqRes) => if ok then x else bad
  match field w 25 7, field w 12 3 with
  | 0, 0 => only (rd == 0 && r2 == 0) (qxQpushV s p w a)
  | 1, 0 => only (rd == 0 && r2 == 0) (qxQpushK s p w a)
  | 0, 1 => only (rd == 0 && r2 == 0) (qxQop s p w a)
  | 0, 2 => only (rd == 0 && r2 == 0) (qxBenq s p false w a)
  | 1, 2 => only (rd == 0 && r2 == 0) (qxBenq s p true w a)
  | 0, 3 => only (rd == 0 && r2 == 0) (qxQfence s p w a)
  | 1, 3 => only (rd == 0 && r1 == 0 && r2 == 0) (qxMfence s p)
  | 2, 3 => only (rd == 0 && r1 == 0 && r2 == 0) (qxQxret s p w)
  | 0, 4 => only (r1 == 0 && r2 == 0) (qxCtbrl s p rd)
  | 1, 4 => only (r1 == 0 && r2 == 0) (qxCtbrh s p rd)
  | 2, 4 => only (rd == 0) (qxTarm s p a b)
  | 0, 5 => only (r2 == 0) (qxBarv s p w rd a)
  | 1, 5 => only (rd == 0) (qxBwait s p w a b)
  | 2, 5 => qxBpoll s p w rd a b
  | 0, 6 => only (rd == 0 && r2 == 0) (qxDbell s p w a)
  | 1, 6 => qxWrung s p w rd a b
  | 0, 7 => only (r2 == 0) (qxGreq s p w rd a)
  | 1, 7 => only (r2 == 0) (qxGstat s p w rd a)
  | 2, 7 => only (rd == 0 && r2 == 0) (qxGrel s p w a)
  | _, _ => bad

/-! ### Retire, trap or stall (R276) -/

/-- The effect of one instruction of `len` bytes whose word is `w`, if the sequencer runs. A stalled instruction
counts its cycles when it retires. -/
def seqApply (s : Chip) (p w len : Nat) (r : SeqRes) : Chip :=
  match r with
  | .ok s pc => (s.endStall p).onCore p fun c =>
    { c.count mSeq 1 with seq := { c.seq with pc := pc, instret := (c.seq.instret + 1) % 2 ^ 64 } }
  | .trap s cause tval => (s.endStall p).exception p cause tval
  | .wait cause => s.onCore p fun c =>
    if c.seq.stall.isSome then { c with seq := { c.seq with stall := c.seq.stall.map fun x => { x with cause := cause } } }
    else { c with seq := { c.seq with stall := some { word := BitVec.ofNat 32 w, len := len, cause := cause, since := s.cycleNow p, seq := c.nseq } } }

/-- Does the sequencer of core p execute now? -/
def Chip.seqRuns (s : Chip) (p : Nat) : Bool := bitOf ((s.core p).reg rSEQ_CTL) 0 && (s.core p).seq.stall.isNone

/-- A queue-extension instruction of the running sequencer, at its pc. -/
def queueCmd (s : Chip) (p w : Nat) : Chip := if s.seqRuns p then seqApply s p w 4 (execQx s p w) else s

end Sys2Proof.Machine
end

