-- ==== Sys2Proof/Machine/Rv.lean ====
section
/-!
DEFINITION. Fetch, the compressed instructions as words of their base instructions, and RV_INSTRUCTION (08 R254,
R255).
-/
namespace Sys2Proof.Machine

/-! ### RVC, quadrant by quadrant: the word of the instruction that a half-word stands for -/

def encI (imm rs1 f3 rd op : Nat) : Nat := imm % 4096 * 2 ^ 20 + rs1 * 2 ^ 15 + f3 * 2 ^ 12 + rd * 2 ^ 7 + op
def encR (f7 rs2 rs1 f3 rd op : Nat) : Nat := f7 * 2 ^ 25 + rs2 * 2 ^ 20 + rs1 * 2 ^ 15 + f3 * 2 ^ 12 + rd * 2 ^ 7 + op
def encS (imm rs2 rs1 f3 op : Nat) : Nat :=
  field imm 5 7 * 2 ^ 25 + rs2 * 2 ^ 20 + rs1 * 2 ^ 15 + f3 * 2 ^ 12 + field imm 0 5 * 2 ^ 7 + op
def encB (imm rs2 rs1 f3 : Nat) : Nat :=
  field imm 12 1 * 2 ^ 31 + field imm 5 6 * 2 ^ 25 + rs2 * 2 ^ 20 + rs1 * 2 ^ 15 + f3 * 2 ^ 12 + field imm 1 4 * 2 ^ 8 +
  field imm 11 1 * 2 ^ 7 + 0x63
def encJ (imm rd : Nat) : Nat :=
  field imm 20 1 * 2 ^ 31 + field imm 1 10 * 2 ^ 21 + field imm 11 1 * 2 ^ 20 + field imm 12 8 * 2 ^ 12 + rd * 2 ^ 7 + 0x6F

/-- The low bits of a sign-extended immediate of `n` bits. -/
def sext (n x : Nat) : Nat := wrapInt 32 (signedOf n x)

/-- Quadrant 0. -/
def rvc0 (h : Nat) : Option Nat :=
  let rd := 8 + field h 2 3
  let rs := 8 + field h 7 3
  let off := field h 10 3 * 8 + field h 6 1 * 4 + field h 5 1 * 64
  match field h 13 3 with
  | 0 =>
    let imm := field h 11 2 * 16 + field h 7 4 * 64 + field h 6 1 * 4 + field h 5 1 * 8
    if imm = 0 then none else some (encI imm 2 0 rd 0x13)
  | 2 => some (encI off rs 2 rd 0x03)
  | 6 => some (encS off rd rs 2 0x23)
  | _ => none

/-- Quadrant 1. -/
def rvc1 (h : Nat) : Option Nat :=
  let rd := field h 7 5
  let imm := field h 12 1 * 32 + field h 2 5
  let rp := 8 + field h 7 3
  let rq := 8 + field h 2 3
  let jmp := sext 12 (field h 12 1 * 2 ^ 11 + field h 11 1 * 16 + field h 9 2 * 256 + field h 8 1 * 1024 + field h 7 1 * 64 +
    field h 6 1 * 128 + field h 3 3 * 2 + field h 2 1 * 32)
  let br := sext 9 (field h 12 1 * 256 + field h 10 2 * 8 + field h 5 2 * 64 + field h 3 2 * 2 + field h 2 1 * 32)
  match field h 13 3 with
  | 0 => some (encI (sext 6 imm) rd 0 rd 0x13)
  | 1 => some (encJ jmp 1)
  | 2 => some (encI (sext 6 imm) 0 0 rd 0x13)
  | 3 =>
    if rd = 2 then
      let v := field h 12 1 * 512 + field h 6 1 * 16 + field h 5 1 * 64 + field h 3 2 * 128 + field h 2 1 * 32
      if v = 0 then none else some (encI (sext 10 v) 2 0 2 0x13)
    else if imm = 0 then none else some (field (sext 6 imm) 0 20 * 2 ^ 12 + rd * 2 ^ 7 + 0x37)
  | 4 =>
    match field h 10 2 with
    | 0 => if imm ≥ 32 then none else some (encR 0 imm rp 5 rp 0x13)
    | 1 => if imm ≥ 32 then none else some (encR 32 imm rp 5 rp 0x13)
    | 2 => some (encI (sext 6 imm) rp 7 rp 0x13)
    | _ =>
      if bitOf h 12 then none
      else match field h 5 2 with
        | 0 => some (encR 32 rq rp 0 rp 0x33)
        | 1 => some (encR 0 rq rp 4 rp 0x33)
        | 2 => some (encR 0 rq rp 6 rp 0x33)
        | _ => some (encR 0 rq rp 7 rp 0x33)
  | 5 => some (encJ jmp 0)
  | 6 => some (encB br 0 rp 0)
  | _ => some (encB br 0 rp 1)

/-- Quadrant 2. -/
def rvc2 (h : Nat) : Option Nat :=
  let rd := field h 7 5
  let rs := field h 2 5
  match field h 13 3 with
  | 0 => if bitOf h 12 then none else some (encR 0 rs rd 1 rd 0x13)
  | 2 => if rd = 0 then none else some (encI (field h 12 1 * 32 + field h 4 3 * 4 + field h 2 2 * 64) 2 2 rd 0x03)
  | 4 =>
    if !bitOf h 12 then
      if rs = 0 then (if rd = 0 then none else some (encI 0 rd 0 0 0x67)) else some (encR 0 rs 0 0 rd 0x33)
    else if rs = 0 then (if rd = 0 then some 0x00100073 else some (encI 0 rd 0 1 0x67))
    else some (encR 0 rs rd 0 rd 0x33)
  | 6 => some (encS (field h 9 4 * 4 + field h 7 2 * 64) rs 2 2 0x23)
  | _ => none

/-- The instruction of a half-word; none is illegal. -/
def rvcWord (h : Nat) : Option Nat :=
  match h % 4 with
  | 0 => rvc0 h
  | 1 => rvc1 h
  | _ => rvc2 h

/-! ### Execution of a 32-bit word of length `len` -/

/-- The shift and funct7 rules of OP-IMM and OP. -/
def opImmOk (w : Nat) : Bool :=
  match field w 12 3 with
  | 1 => decide (field w 25 7 = 0)
  | 5 => decide (field w 25 7 = 0) || decide (field w 25 7 = 32)
  | _ => true

def opOk (w : Nat) : Bool :=
  let f3 := field w 12 3
  decide (field w 25 7 = 0) || decide (field w 25 7 = 1) || (decide (field w 25 7 = 32) && (f3 == 0 || f3 == 5))

/-- One instruction of the sequencer. -/
def execRv (s : Chip) (p w len : Nat) : SeqRes :=
  let c := s.core p
  let pc := c.seq.pc
  let npc := pc + BitVec.ofNat 32 len
  let rd := field w 7 5
  let a := c.xr (field w 15 5)
  let b := c.xr (field w 20 5)
  let bad := SeqRes.trap s illegalCause w
  let put := fun (v : Word) => SeqRes.ok (s.setCore p (c.setX rd v)) npc
  match field w 0 7 with
  | 0x37 => put (BitVec.ofNat 32 (field w 12 20 * 2 ^ 12))
  | 0x17 => put (pc + BitVec.ofNat 32 (field w 12 20 * 2 ^ 12))
  | 0x6F => .ok (s.setCore p (c.setX rd npc)) (pc + BitVec.ofInt 32 (immJ w))
  | 0x67 =>
    if field w 12 3 ≠ 0 then bad
    else .ok (s.setCore p (c.setX rd npc)) ((a + BitVec.ofInt 32 (immI w)) &&& BitVec.ofNat 32 0xFFFFFFFE)
  | 0x63 => match branchOp (field w 12 3) a b with
    | some t => .ok s (if t then pc + BitVec.ofInt 32 (immB w) else npc)
    | none => bad
  | 0x03 => execLoad s p w len
  | 0x23 => execStore s p w len
  | 0x13 =>
    if opImmOk w then
      let shift := field w 12 3 = 1 ∨ field w 12 3 = 5
      put (aluOp (field w 12 3) (decide shift && bitOf w 30) a (if shift then BitVec.ofNat 32 (field w 20 5) else BitVec.ofInt 32 (immI w)))
    else bad
  | 0x33 =>
    if !opOk w then bad
    else if field w 25 7 = 1 then put (mulOp (field w 12 3) a b)
    else put (aluOp (field w 12 3) (bitOf w 30) a b)
  | 0x0F => if field w 12 3 ≤ 1 then .ok s npc else bad
  | 0x2F => execAmo s p w
  | 0x73 => if field w 12 3 = 0 then execSystem s p w len else if field w 12 3 = 4 then bad else execCsr s p w
  | 0x0B => execQx s p w
  | _ => bad

/-- May core code at `a` not be fetched: outside the instruction SRAM, or of the monitor in U-mode (R255, R256)? -/
def Core.noFetch (c : Core) (a : Nat) : Bool := decide (a ≥ 0x10000) || (c.seq.uMode && inMonitor a)

/-- Does the fetch at the pc fail for a double-bit error (R258)? -/
def Core.fetchUpset (c : Core) : Bool :=
  let pc := c.seq.pc.toNat
  !c.noFetch pc && (c.upsetIn pc 2 || (decide (Bytes.rdLe c.seq.iram pc 2 % 4 = 3) && !c.noFetch (pc + 2) && c.upsetIn (pc + 2) 2))

/-- Fetch (R255, R256, R258): the word and length of the instruction at the pc, or the address of an access fault. -/
def Core.fetch (c : Core) : Except Nat (Nat × Nat) :=
  let pc := c.seq.pc.toNat
  let bad := fun (a : Nat) => c.noFetch a || c.upsetIn a 2
  if bad pc then .error pc
  else
    let h := Bytes.rdLe c.seq.iram pc 2
    if h % 4 ≠ 3 then .ok (h, 2)
    else if bad (pc + 2) then .error (pc + 2)
    else .ok (Bytes.rdLe c.seq.iram pc 4, 4)

/-- The instruction that a fetched word of `len` bytes is. -/
def execFetched (s : Chip) (p w len : Nat) : SeqRes :=
  if len = 2 then (match rvcWord w with | some x => execRv s p x 2 | none => .trap s illegalCause w) else execRv s p w 4

/-- RV_INSTRUCTION: fetch and execute one instruction. -/
def rvInstructionCmd (s : Chip) (p : Nat) : Chip :=
  if !s.seqRuns p then s
  else match (s.core p).fetch with
    | .error a => ((if (s.core p).fetchUpset then s.onCore p Core.memErr else s)).exception p 1 a
    | .ok (w, len) => seqApply s p w len (execFetched s p w len)

/-- SEQ_STALL_RETIRE: the stalled instruction retires once its bound has room or its result is ready (R276). -/
def stallRetireCmd (s : Chip) (p : Nat) : Chip :=
  if !bitOf ((s.core p).reg rSEQ_CTL) 0 then s
  else match (s.core p).seq.stall with
    | none => s
    | some x => seqApply s p x.word.toNat x.len (execFetched s p x.word.toNat x.len)

end Sys2Proof.Machine
end

