-- ==== Sys2Proof/Machine/State.lean ====
section
/-!
DEFINITION. The state of the block: the part (`Chip`) and the queue of commands that wait, first in, first out.
-/
namespace Sys2Proof.Machine

structure State where
  chip : Chip := {}
  pending : List Instr := []
deriving DecidableEq, Repr

/-- The part right after power-good, in boot stage 1 (17 R548, R549; log 9). -/
def State.reset : State := { chip := Chip.reset, pending := [] }

/-- Why the machine stops. -/
inductive Fault where
  /-- A command names a core, link, bench, engine or register that the part does not have. Raised by the checks of
  Machine/Lift.lean. Safe: the part has no such unit, so nothing of it could act. -/
  | noSuchUnit
deriving DecidableEq, Repr

/-- Why a command has no meaning. -/
inductive Refusal where
  /-- Raised by an arm of `exec` whose command is not modelled. Safe. -/
  | notModelled (mnemonic : String)
deriving DecidableEq, Repr

abbrev Result := Host.Outcome State Fault Refusal

end Sys2Proof.Machine
end

