-- ==== Sys2Proof/Machine/Lift.lean ====
section
/-!
DEFINITION. How a command's effect on the part becomes the outcome of a step: which islands must be running (01 R28;
13 R464; 17 R549, R552), the units that exist, and what every command settles at its end.
-/
namespace Sys2Proof.Machine

/-- Where a command acts. `core`: blocks that hold mode stops; `held`: blocks that hold mode keeps; `aon`: the
always-on island; `always`: pins and power, whose effects check their own conditions. -/
inductive Domain where
  | core
  | held
  | aon
  | always
deriving DecidableEq, Repr

def Domain.active (d : Domain) (s : Chip) : Bool :=
  let up := (s.pins.power == .boot || s.pins.power == .ready) && !s.pins.sysRst
  match d with
  | .core => up && !s.hold
  | .held => up
  | .aon => s.pins.power != .off && s.pins.power != .thermalOff
  | .always => true

/-- Verdict records that core p formed go to the trace port (17 R562). -/
def Chip.drainVerdicts (s : Chip) (p : Nat) : Chip :=
  let new := (s.core p).vrNew
  if new.isEmpty then s
  else
    let xy := (s.logOf p).getD (0, 0)
    let h := leBytes 1 xy.1 ++ leBytes 1 xy.2 ++ leBytes 2 s.id ++ leBytes 4 0
    (new.foldl (fun (s : Chip) r => s.trace 2 (h ++ r)) s).onCore p fun c => { c with vrNew := [] }

/-- What a core has not yet completed: operations, vector and kerf instructions, blocks and engine issues. -/
def Core.workLeft (c : Core) : Nat × Nat × Nat × Nat × Nat :=
  (c.ops.length, c.vuQ.length + c.vuX.length, c.ku.length, c.blocks.length, c.fe.exec.length + c.be.exec.length)

/-- Some work of the core was completed between two moments. -/
def Core.lessWork (c c' : Core) : Bool :=
  let a := c.workLeft
  let b := c'.workLeft
  decide (b.1 < a.1) || decide (b.2.1 < a.2.1) || decide (b.2.2.1 < a.2.2.1) || decide (b.2.2.2.1 < a.2.2.2.1) ||
    decide (b.2.2.2.2 < a.2.2.2.2)

/-- A core `c` after a command that it met as `c0`, on cycle `k`: completed work restarts its progress timer (13 R467), and
the eligibility of its forward head is watched (05 R176, R186). -/
def Core.settled (c0 c : Core) (k : Nat) : Core := Core.watched c0 (if c0.lessWork c then c.progressed else c) k

/-- The effect of a command on a core. -/
def Chip.settleCore (s s' : Chip) (p : Nat) : Chip :=
  (s'.setCore p (Core.settled (s.core p) (s'.core p) (s'.coreCycle p))).drainVerdicts p

/-- The outcome of a command: its effect where its island runs, and no effect elsewhere. -/
def State.act (s : State) (d : Domain) (f : Chip → Chip) : Result :=
  .next (if d.active s.chip then { s with chip := f s.chip } else s)

/-- A command to core p. -/
def State.actCore (s : State) (d : Domain) (p : Nat) (f : Chip → Chip) : Result :=
  if p < nCores then s.act d fun m => m.settleCore (f m) p else .fault .noSuchUnit

/-- A command to one of `n` units. -/
def State.actUnit (s : State) (d : Domain) (u n : Nat) (f : Chip → Chip) : Result :=
  if u < n then s.act d f else .fault .noSuchUnit

/-- A queue-extension instruction of core p (08 R263): its register numbers are 0 to 31. -/
def State.actQx (s : State) (p f7 f3 rd rs1 rs2 : Nat) : Result :=
  if rd < 32 ∧ rs1 < 32 ∧ rs2 < 32 then s.actCore .core p fun m => queueCmd m p (qxWord f7 f3 rd rs1 rs2)
  else .fault .noSuchUnit

/-- A client command at the head of channel `ch` of mailbox `c`. -/
def State.actClient (s : State) (c ch : Nat) (f : Chip → Chip) : Result :=
  if c < 8 ∧ ch < 32 then s.act .held f else .fault .noSuchUnit

/-- A command to a mailbox: one of the 288 core mailboxes, or chip mailbox 0 to 15 (12 R411). -/
def State.actMbx (s : State) (m : Mbx) (f : Chip → Chip) : Result :=
  if (match m with | .core p => decide (p < nCores) | .chip n => decide (n < 16)) then s.act .held f else .fault .noSuchUnit

/-- A register that is written in hold mode too: one of a chip mailbox or of MBX_ROLE (13 R464). -/
def heldReg (p a : Nat) : Bool := decide (p ≥ nCores) && decide (0x20000500000 ≤ a) && decide (a < 0x20000520000)

/-- A system message that arrives at core p is no longer on its way. -/
def Chip.takeSys (s : Chip) (p : Nat) (m : SysMsg) : Chip :=
  match s.logOf p with
  | none => s
  | some (x, y) =>
    let key := (some (s.id, x, y), m)
    match s.cores.find? fun (e : Nat × Core) => e.2.sys.contains key with
    | some (q, _) => s.onCore q fun c => { c with sys := c.sys.erase key }
    | none => s

/-- A command to a core that changes nothing but the core. -/
def State.actOn (s : State) (p : Nat) (f : Core → Core) : Result := s.actCore .core p fun m => m.onCore p f

end Sys2Proof.Machine
end

