-- ==== Sys2Proof/Machine/EnergyCmds.lean ====
section
/-!
DEFINITION. Meanings of commands: energy accountant and bench points (15).
-/
namespace Sys2Proof.Machine

/-- ACCOUNTING_PERIOD (R501). -/
def execAccountingPeriod (pkg : Nat) (benches : List Repeats) (s : State) : Result :=
  s.act .held fun m => accountingPeriodCmd m pkg benches

/-- GRANT_REQUEST_MSG (R502). -/
def execGrantRequestMsg (p : Nat) (handle : Nat) (s : State) : Result := s.actCore .core p fun m => grantRequestMsgCmd m p handle

/-- GRANT_ISSUE (R503): the handle may make its core's forward head eligible. -/
def execGrantIssue (s : State) : Result := s.act .held fun m =>
  match m.en.queue with
  | g :: _ => m.settleCore (grantIssueCmd m) g.p
  | [] => grantIssueCmd m

/-- CALIBRATION (R499). -/
def execCalibration (measured counted : Nat) (s : State) : Result := s.act .held fun m => calibrationCmd m measured counted m.now

/-- EXCEED_CHECK (R505). -/
def execExceedCheck (mw : Nat) (s : State) : Result := s.act .held fun m => exceedCheckCmd m mw

/-- POINT_CHANGE (R495). -/
def execPointChange (b : Nat) (s : State) : Result := s.actUnit .core b 72 fun m => pointChangeCmd m b

/-- BENCH_PARK (R496). -/
def execBenchPark (b : Nat) (s : State) : Result := s.actUnit .core b 72 fun m => benchParkCmd m b

/-- ACCOUNTANT_RUNNING (R506). -/
def execAccountantRunning (s : State) : Result := s.act .held fun m => accountantRunningCmd m

end Sys2Proof.Machine
end

