-- ==== Sys2Proof/Machine/EngineCmds.lean ====
section
/-!
DEFINITION. Meanings of commands: block lists, the forward and the backward engine (04; 05; 07).
-/
namespace Sys2Proof.Machine

/-- COND_BLOCK_HEAD (R180). -/
def execCondBlockHead (p : Nat) (s : State) : Result := s.actCore .core p fun m => condBlockHeadCmd m p

/-- BLOCK_DISPATCH (R176). -/
def execBlockDispatch (p : Nat) (s : State) : Result := s.actCore .core p fun m => blockDispatchCmd m p

/-- BLOCK_LAUNCH (R175). -/
def execBlockLaunch (p : Nat) (eng : Engine) (s : State) : Result := s.actCore .core p fun m => blockLaunchCmd m p (eng == .be)

/-- FNOP (R225). -/
def execFnop (p : Nat) (s : State) : Result := s.actCore .core p fun m => launchCmd m p false fun o => !(o == 0x01 || o == 0x02)

/-- FWLD (R130). -/
def execFwld (p : Nat) (s : State) : Result := s.actCore .core p fun m => launchCmd m p false fun o => o == 0x01

/-- FMMA (R124). -/
def execFmma (p : Nat) (s : State) : Result := s.actCore .core p fun m => launchCmd m p false fun o => o == 0x02

/-- BNOP (R225). -/
def execBnop (p : Nat) (s : State) : Result := s.actCore .core p fun m => launchCmd m p true fun o => !(o == 0x11 || o == 0x12 || o == 0x13)

/-- BWLD (R160). -/
def execBwld (p : Nat) (s : State) : Result := s.actCore .core p fun m => launchCmd m p true fun o => o == 0x11

/-- BMMA (R153). -/
def execBmma (p : Nat) (s : State) : Result := s.actCore .core p fun m => launchCmd m p true fun o => o == 0x12

/-- BCM (R166). -/
def execBcm (p : Nat) (s : State) : Result := s.actCore .core p fun m => launchCmd m p true fun o => o == 0x13

/-- ENGINE_LATENCY_REACHED (R133). -/
def execEngineLatencyReached (p : Nat) (eng : Engine) (s : State) : Result := s.actCore .core p fun m => latencyReachedCmd m p (eng == .be)

/-- BIST_DONE (R143). -/
def execBistDone (p : Nat) (eng : Engine) (arrays : List BistArray) (s : State) : Result :=
  s.actCore .core p fun m => bistDoneCmd m p (eng == .be) arrays

end Sys2Proof.Machine
end

