-- ==== Sys2Proof/Machine/FabricCmds.lean ====
section
/-!
DEFINITION. Meanings of commands: packets, messages, transfers and barriers (09).
-/
namespace Sys2Proof.Machine

/-- PACKET_FORWARD (R301). -/
def execPacketForward (r : Nat) (pkt : Packet) (chk : FlitCheck) (s : State) : Result :=
  s.actUnit .held r nCores fun m => if m.hold && pkt.via == 0 then m else packetForwardLinkCmd m r pkt chk

/-- DATA_MESSAGE (R312). -/
def execDataMessage (p : Nat) (pkt : Packet) (flitErr : Bool) (s : State) : Result := s.actCore .core p fun m => dataMessageCmd m p pkt flitErr

/-- VOID_MESSAGE (R314). -/
def execVoidMessage (p : Nat) (pkt : Packet) (s : State) : Result := s.actCore .core p fun m => voidMessageCmd m p pkt

/-- READY_TOKEN (R313). -/
def execReadyToken (p : Nat) (pkt : Packet) (s : State) : Result := s.actCore .core p fun m => readyTokenCmd m p pkt

/-- DELIVERY_ACK (R313). -/
def execDeliveryAck (p : Nat) (pkt : Packet) (s : State) : Result := s.actCore .core p fun m => deliveryAckCmd m p pkt

/-- STORE_WRITE (R316). -/
def execStoreWrite (p : Nat) (pkt : Packet) (s : State) : Result := s.actCore .core p fun m => storeWriteCmd m p pkt

/-- STORE_WRITE_ACK (R316). -/
def execStoreWriteAck (p : Nat) (pkt : Packet) (s : State) : Result := s.actCore .core p fun m => storeWriteAckCmd m p pkt

/-- STORE_READ_REQUEST (R316). -/
def execStoreReadRequest (p : Nat) (pkt : Packet) (s : State) : Result := s.actCore .core p fun m => storeReadRequestCmd m p pkt

/-- STORE_READ_RESPONSE (R316). -/
def execStoreReadResponse (p : Nat) (pkt : Packet) (s : State) : Result := s.actCore .core p fun m => storeReadResponseCmd m p pkt

/-- BARRIER_ARRIVAL (R332). -/
def execBarrierArrival (p : Nat) (pkt : Packet) (s : State) : Result := s.actCore .core p fun m => barrierArrivalCmd m p pkt

/-- BARRIER_COMPLETION (R332). -/
def execBarrierCompletion (p : Nat) (pkt : Packet) (s : State) : Result := s.actCore .core p fun m => barrierCompletionCmd m p pkt

end Sys2Proof.Machine
end

