-- ==== Sys2Proof/Machine/FaultCmds.lean ====
section
/-!
DEFINITION. Meanings of commands: faults and reactions (13).
-/
namespace Sys2Proof.Machine

/-- FAULT_EVENT (R455). -/
def execFaultEvent (ev : Nat) (inst : Nat) (detail : Nat) (media : Media) (s : State) : Result :=
  s.act .aon fun m => faultEventCmd m ev inst detail media

/-- FAULT_WINDOW_END (R455). -/
def execFaultWindowEnd (src : Nat) (s : State) : Result := s.act .aon fun m => faultWindowEndCmd (m.runOut (m.windowDue src)) src

/-- GRACE_EXPIRY (R460). -/
def execGraceExpiry (src : Nat) (media : Media) (s : State) : Result := s.act .aon fun m => graceExpiryCmd (m.runOut (m.graceDue src)) src media

/-- PROGRESS_TIMEOUT (R467). -/
def execProgressTimeout (p : Nat) (s : State) : Result := s.actCore .core p fun m => progressTimeoutCmd (m.runOut (m.progDue p)) p

/-- THERMTRIP (R466). -/
def execThermtrip (s : State) : Result := s.act .always fun m => thermtripCmd m

/-- BENCH_THERMAL (R508). -/
def execBenchThermal (b : Nat) (s : State) : Result := s.actUnit .aon b 72 fun m => benchThermalCmd m b

/-- OVER_CURRENT (R511). -/
def execOverCurrent (media : Media) (s : State) : Result := s.act .aon fun m => overCurrentCmd m media

/-- LOCKSTEP_MISMATCH (R465). -/
def execLockstepMismatch (who : Agent) (s : State) : Result := s.act .aon fun m => if isSteward who then lockstepCmd m (who == .stewardB) else m

/-- LOCKSTEP_ERR_N_RELEASE (R465). -/
def execLockstepErrNRelease (s : State) : Result := s.act .aon fun m => lockErrReleaseCmd (m.runOut m.flt.lockErr)

end Sys2Proof.Machine
end

