-- ==== Sys2Proof/Machine/KerfCmds.lean ====
section
/-!
DEFINITION. Meanings of commands: kerf checks, verdicts and tracker messages (06; 03 R108-R111).
-/
namespace Sys2Proof.Machine

/-- KSEL (R197). -/
def execKsel (p : Nat) (s : State) : Result := s.actCore .core p fun m => kselCmd m p

/-- KCHK (R201). -/
def execKchk (p : Nat) (s : State) : Result := s.actCore .core p fun m => kchkCmd m p

/-- KCHK_DONE (R202). -/
def execKchkDone (p : Nat) (s : State) : Result := s.actCore .core p fun m => m.onCore p Sys2Proof.Machine.kchkDone

/-- CORE_VERDICT_MSG (R205). -/
def execCoreVerdictMsg (p : Nat) (v : CoreVerdict) (s : State) : Result :=
  s.actCore .core p fun m => (m.takeSys p (.coreVerdict v)).onCore p fun c => Sys2Proof.Machine.coreVerdictMsg c m.id (m.logOf p) v

/-- LAYER_VERDICT_MSG (R206). -/
def execLayerVerdictMsg (p : Nat) (v : LayerVerdict) (s : State) : Result :=
  s.actCore .core p fun m => (m.takeSys p (.layerVerdict v)).onCore p fun c => Sys2Proof.Machine.layerVerdictMsg c m.id (m.logOf p) v

/-- SHARD_AMAX_MSG (R108). -/
def execShardAmaxMsg (p : Nat) (slot : Nat) (amax : Nat) (jit : Option Nat) (s : State) : Result :=
  s.actCore .core p fun m => (m.takeSys p (.shardAmax slot amax jit)).onCore p fun c => shardAmax c (slot % 64) (amax % 2 ^ 32) jit

/-- TENSOR_SCALE_MSG (R108). -/
def execTensorScaleMsg (p : Nat) (slot : Nat) (scale : Nat) (jit : Option Nat) (s : State) : Result :=
  s.actCore .core p fun m => (m.takeSys p (.tensorScale slot scale jit)).onCore p fun c => tensorScale c (slot % 64) (scale % 2 ^ 32) jit

end Sys2Proof.Machine
end

