-- ==== Sys2Proof/Machine/LinkCmds.lean ====
section
/-!
DEFINITION. Meanings of commands: spline links (11).
-/
namespace Sys2Proof.Machine

/-- LINK_STOP_PACKET (R391). -/
def execLinkStopPacket (l : Nat) (s : State) : Result := s.actUnit .held l nLinks fun m => linkStopPacketCmd m l

/-- PMD_TRAINING_DONE (R373). -/
def execPmdTrainingDone (l : Nat) (s : State) : Result := s.actUnit .held l nLinks fun m => pmdDoneCmd m l

/-- FEC_LOCK (R373). -/
def execFecLock (l : Nat) (s : State) : Result := s.actUnit .held l nLinks fun m => fecLockCmd m l

/-- IDENT_FLIT (R373). -/
def execIdentFlit (l : Nat) (h : FlitHdr) (hw : Nat) (chip : Nat) (link : Nat) (major : Nat) (s : State) : Result :=
  s.actUnit .held l nLinks fun m => identFlitCmd m l h hw chip link major

/-- TRAINING_TIMEOUT (R373). -/
def execTrainingTimeout (l : Nat) (s : State) : Result := s.actUnit .held l nLinks fun m => trainingTimeoutCmd (m.runOut (m.trainingDue l)) l

/-- DATA_FLIT (R379). -/
def execDataFlit (l : Nat) (h : FlitHdr) (payload : List Byte) (s : State) : Result := s.actUnit .held l nLinks fun m => dataFlitCmd m l h payload

/-- IDLE_FLIT (R376). -/
def execIdleFlit (l : Nat) (h : FlitHdr) (s : State) : Result := s.actUnit .held l nLinks fun m => idleFlitCmd m l h

/-- NAK_FLIT (R380). -/
def execNakFlit (l : Nat) (h : FlitHdr) (s : State) : Result := s.actUnit .held l nLinks fun m => nakFlitCmd m l h

/-- TIME_FLIT (R395). -/
def execTimeFlit (l : Nat) (h : FlitHdr) (t : TimePayload) (ta : Int) (td : Int) (s : State) : Result :=
  s.actUnit .held l nLinks fun m => timeFlitCmd m l h t ta td

/-- LM_FLIT (R389). -/
def execLmFlit (l : Nat) (h : FlitHdr) (r : LsRecord) (s : State) : Result := s.actUnit .held l nLinks fun m => lmFlitCmd m l h r

/-- ACK_TIMEOUT (R380). -/
def execAckTimeout (l : Nat) (s : State) : Result := s.actUnit .held l nLinks fun m => ackTimeoutCmd (m.runOut (m.ackDue l)) l

/-- NAK_REPEAT (R379). -/
def execNakRepeat (l : Nat) (s : State) : Result := s.actUnit .held l nLinks fun m => nakRepeatCmd (m.runOut (m.nakDue l)) l

/-- EPISODE_TIMEOUT (R381). -/
def execEpisodeTimeout (l : Nat) (s : State) : Result := s.actUnit .held l nLinks fun m => episodeTimeoutCmd (m.runOut (m.episodeDue l)) l

/-- LANE_SIGNAL_LOSS (R372). -/
def execLaneSignalLoss (l : Nat) (s : State) : Result := s.actUnit .held l nLinks fun m => laneLossCmd m l

/-- FEC_FAILURE (R372). -/
def execFecFailure (l : Nat) (n : Nat) (s : State) : Result := s.actUnit .held l nLinks fun m => fecFailureCmd m l n

/-- LINK_DEGRADE (R372). -/
def execLinkDegrade (l : Nat) (n : Nat) (s : State) : Result := s.actUnit .held l nLinks fun m => linkDegradeCmd m l n

/-- LINK_RETRAIN (R388). -/
def execLinkRetrain (l : Nat) (s : State) : Result := s.actUnit .held l nLinks fun m => linkRetrainCmd (m.runOut (m.retrainDue l)) l

/-- TIME_EXCHANGE_START (R395). -/
def execTimeExchangeStart (l : Nat) (t1 : Int) (s : State) : Result := s.actUnit .held l nLinks fun m => timeExchangeCmd m l t1

/-- DISCIPLINE_WINDOW (R396). -/
def execDisciplineWindow (pSync : Bool) (s : State) : Result := s.act .core fun m => disciplineCmd m pSync

/-- REPLAN (R390). -/
def execReplan (media : Media) (s : State) : Result := s.act .core fun m => replanCmd m media

end Sys2Proof.Machine
end

