-- ==== Sys2Proof/Machine/MemoryCmds.lean ====
section
/-!
DEFINITION. Meanings of commands: memory, migration, stash and snapshots (10; 14).
-/
namespace Sys2Proof.Machine

/-- MEMORY_REQUEST (R343). -/
def execMemoryRequest (req : MemReq) (ecc : EccResult) (s : State) : Result := s.act .held fun m => memoryRequestCmd m req ecc

/-- MEMORY_RESPONSE (R343). -/
def execMemoryResponse (resp : MemResp) (s : State) : Result := s.act .held fun m => memoryResponseCmd m resp

/-- HBM_SCRUB (R345). -/
def execHbmScrub (addr : Nat) (result : EccResult) (s : State) : Result := s.act .core fun m => hbmScrubCmd m addr result

/-- SELF_REFRESH_ENTRY (R341). -/
def execSelfRefreshEntry (n : Nat) (s : State) : Result := s.act .held fun m => selfRefreshCmd m n

/-- HBM_TEMPERATURE (R341). -/
def execHbmTemperature (n : Nat) (temp : Nat) (s : State) : Result := s.act .held fun m => hbmTemperatureCmd m n temp

/-- MIGRATION_PAGE_MOVE (R349). -/
def execMigrationPageMove (s : State) : Result := s.act .core fun m => migrationPageMoveCmd m

/-- MIGRATION_DONE (R349); the channels of a failed stack retire one after the other (R350). -/
def execMigrationDone (s : State) : Result := s.act .core fun m => if bitOf (m.reg rMEM_MIG) 28 then (migrationDoneCmd m).retireNext else m

/-- CXL_DEVICE_DOWN (R353). -/
def execCxlDeviceDown (port : Nat) (s : State) : Result := s.act .core fun m => cxlDeviceDownCmd m port

/-- COW_COPY_DONE (R482). -/
def execCowCopyDone (addr : Nat) (s : State) : Result := s.act .core fun m => cowCopyCmd m addr

/-- SPILL_DONE (R361). -/
def execSpillDone (p : Nat) (s : State) : Result := s.actCore .core p fun m => spillDoneCmd m p

/-- PREFETCH_START (R364). -/
def execPrefetchStart (p : Nat) (s : State) : Result := s.actCore .core p fun m => prefetchStartCmd m p

/-- PREFETCH_DONE (R364). -/
def execPrefetchDone (p : Nat) (s : State) : Result := s.actCore .core p fun m => prefetchDoneCmd m p

/-- STASH_HOLD_TIMEOUT (R363). -/
def execStashHoldTimeout (p : Nat) (s : State) : Result := s.actCore .core p fun m => stashHoldTimeoutCmd (m.runOut (m.holdDue p)) p

/-- CHECKPOINT_ENTRY_ARRIVAL (R365). -/
def execCheckpointEntryArrival (p : Nat) (s : State) : Result := s.actCore .core p fun m => checkpointArrivalCmd m p

/-- CAPTURE_COMPLETE (R480). -/
def execCaptureComplete (layer : Nat) (s : State) : Result := s.act .core fun m => captureCompleteCmd m layer

/-- CAPTURE_COMMIT (R480). -/
def execCaptureCommit (layer : Nat) (s : State) : Result := s.act .core fun m => (captureCommitCmd m layer).afterCapture

/-- DESTINATION_FAIL (R483). -/
def execDestinationFail (layer : Nat) (s : State) : Result := s.act .core fun m => (destinationFailCmd m layer).afterCapture

/-- LAYER2_UPLOAD_DONE (R475). -/
def execLayer2UploadDone (s : State) : Result := s.act .core fun m => uploadDoneCmd m

end Sys2Proof.Machine
end

