-- ==== Sys2Proof/Machine/OperationCmds.lean ====
section
/-!
DEFINITION. Meanings of commands: core-level operations (08 R284-R291).
-/
namespace Sys2Proof.Machine

/-- CVT (R287). -/
def execCvt (p : Nat) (id : Nat) (s : State) : Result := s.actCore .core p fun m => cvtCmd m p id

/-- PDRN (R127). -/
def execPdrn (p : Nat) (id : Nat) (s : State) : Result := s.actCore .core p fun m => pdrnCmd m p id

/-- LDT (R284). -/
def execLdt (p : Nat) (id : Nat) (s : State) : Result := s.actCore .core p fun m => ldtCmd m p id

/-- RED (R285). -/
def execRed (p : Nat) (id : Nat) (s : State) : Result := s.actCore .core p fun m => redCmd m p id

/-- SEND (R313). -/
def execSend (p : Nat) (id : Nat) (s : State) : Result := s.actCore .core p fun m => sendCmd m p id

/-- RECV (R312). -/
def execRecv (p : Nat) (id : Nat) (s : State) : Result := s.actCore .core p fun m => recvCmd m p id

/-- STSH (R359). -/
def execStsh (p : Nat) (id : Nat) (s : State) : Result := s.actCore .core p fun m => stshCmd m p id

/-- USTH (R360). -/
def execUsth (p : Nat) (id : Nat) (s : State) : Result := s.actCore .core p fun m => usthCmd m p id

/-- IGTH (R291). -/
def execIgth (p : Nat) (id : Nat) (s : State) : Result := s.actCore .core p fun m => igthCmd m p id

/-- KCAP (R284). -/
def execKcap (p : Nat) (id : Nat) (s : State) : Result := s.actCore .core p fun m => kcapCmd m p id

/-- DACC (R168). -/
def execDacc (p : Nat) (id : Nat) (s : State) : Result := s.actCore .core p fun m => daccCmd m p id

/-- DACC_APPLY (R168). -/
def execDaccApply (p : Nat) (id : Nat) (s : State) : Result := s.actCore .core p fun m => daccApplyCmd m p id

/-- MOV (R289). -/
def execMov (p : Nat) (id : Nat) (s : State) : Result := s.actCore .core p fun m => movCmd m p id

/-- OPERATION_COMMIT (R236). -/
def execOperationCommit (p : Nat) (id : Option Nat) (s : State) : Result := s.actCore .core p fun m => operationCommitCmd m p id

end Sys2Proof.Machine
end

