-- ==== Sys2Proof/Machine/PinCmds.lean ====
section
/-!
DEFINITION. Meanings of commands: power, reset, boot, management ports (16 R516-R518; 17).
-/
namespace Sys2Proof.Machine

/-- POWER_GOOD (R548). -/
def execPowerGood (tj : Nat) (straps : Nat) (i3c : Nat) (s : State) : Result := s.act .always fun m => powerGoodCmd m tj straps i3c

/-- BOOT_STAGE_DONE (R516). -/
def execBootStageDone (found : BootFind) (s : State) : Result := s.act .always fun m => bootStageDoneCmd m found

/-- BOOT_STAGE_TIMEOUT (R516). -/
def execBootStageTimeout (found : BootFind) (s : State) : Result := s.act .always fun m => bootStageTimeoutCmd m found

/-- PWR_OK_FALL (R549). -/
def execPwrOkFall (s : State) : Result := s.act .always fun m => pwrOkFallCmd m

/-- VDD_AON_LOW (R549). -/
def execVddAonLow (s : State) : Result := s.act .always fun m => vddAonLowCmd m

/-- RAIL_OUT_OF_RANGE (R551). -/
def execRailOutOfRange (media : Media) (s : State) : Result := s.act .always fun m => railOutCmd m media

/-- RAILS_WITHIN_RANGE (R548). -/
def execRailsWithinRange (s : State) : Result := s.act .always fun m => railsWithinRangeCmd m

/-- SYS_RST_N (R552). -/
def execSysRstN (s : State) : Result := s.act .always fun m => sysRstCmd m

/-- SYS_RST_N_RELEASE (R552). -/
def execSysRstNRelease (s : State) : Result := s.act .always fun m => sysRstReleaseCmd m

/-- MEP_PERST_N (R552). -/
def execMepPerstN (s : State) : Result := s.act .always fun m => mepPerstCmd m

/-- FUNCTION_LEVEL_RESET (R569). -/
def execFunctionLevelReset (s : State) : Result := s.act .always fun m => flrCmd m

/-- TRST_N (R552). -/
def execTrstN (s : State) : Result := s.act .always fun m => trstCmd m

/-- TAP_IDCODE (R561). -/
def execTapIdcode (s : State) : Result := s.act .always fun m => tapIdcodeCmd m

/-- TAP_BYPASS (R561). -/
def execTapBypass (code : Nat) (s : State) : Result := s.act .always fun m => tapBypassCmd m code

/-- PCIE_SURPRISE_REMOVAL (R568). -/
def execPcieSurpriseRemoval (port : Nat) (s : State) : Result := s.act .core fun m => removalCmd m port

/-- D3HOT_TRANSITION (R569). -/
def execD3hotTransition (d3 : Bool) (s : State) : Result := s.act .always fun m => d3hotCmd m d3

/-- I3C_OFFSET_WRITE (R564). -/
def execI3cOffsetWrite (off : Nat) (s : State) : Result := s.act .held fun m => i3cOffsetCmd m off

/-- I3C_READ (R564). -/
def execI3cRead (n : Nat) (s : State) : Result := s.act .held fun m => i3cReadCmd m n

/-- SETDASA (R563). -/
def execSetdasa (addr : Nat) (s : State) : Result := s.act .held fun m => setdasaCmd m addr

/-- ENTDAA (R563). -/
def execEntdaa (addr : Nat) (s : State) : Result := s.act .held fun m => entdaaCmd m addr

/-- I2C_TRANSFER (R563). -/
def execI2cTransfer (wr : List Byte) (n : Nat) (s : State) : Result := s.act .held fun m => i2cCmd m wr n

/-- TELEMETRY_REFRESH (R564). -/
def execTelemetryRefresh (sensors : Sensors) (s : State) : Result := s.act .held fun m => telemetryRefreshCmd m sensors

/-- TRACE_STATUS_RECORD (R562). -/
def execTraceStatusRecord (s : State) : Result := s.act .aon fun m => traceStatusCmd m

/-- HALT_TRACE_RECORD (R562). -/
def execHaltTraceRecord (s : State) : Result := s.act .aon fun m => haltTraceCmd m

/-- TRACE_DROP_RECORD (R562). -/
def execTraceDropRecord (s : State) : Result := s.act .aon fun m => traceDropCmd m

end Sys2Proof.Machine
end

