-- ==== Sys2Proof/Machine/RegisterCmds.lean ====
section
/-!
DEFINITION. Meanings of commands: register writes and the window port (00 R13, R14; 08 R298).
-/
namespace Sys2Proof.Machine

/-- REGISTER_WRITE (R12). -/
def execRegisterWrite (who : Agent) (p : Nat) (addr : Nat) (width : Nat) (v : Nat) (s : State) : Result :=
  s.act .held fun m => if m.hold && !heldReg p addr then m else registerWriteCmd m who p addr width v

/-- WINDOW_PAIR_ACCESS (R298). -/
def execWindowPairAccess (p : Nat) (store : Bool) (addr : Nat) (v : Word) (s : State) : Result :=
  s.actCore .core p fun m => windowPairCmd m p store addr v.toNat

/-- SEQ_CTL_WRITE (R259). -/
def execSeqCtlWrite (who : Agent) (p : Nat) (v : Nat) (s : State) : Result := s.actCore .core p fun m => m.coreWrite who p rSEQ_CTL (v % 2 ^ 64)

/-- SRAM_ALIAS_WRITE (R259). -/
def execSramAliasWrite (who : Agent) (p : Nat) (off : Nat) (data : List Byte) (s : State) : Result :=
  s.actCore .core p fun m => sramAliasCmd m who p off data

/-- QE_CFG_WRITE (R282). -/
def execQeCfgWrite (who : Agent) (p : Nat) (n : Nat) (v : DWord) (s : State) : Result :=
  if n < 16 then s.actCore .core p fun m => m.coreWrite who p (rQE_CFG n) (v.toNat) else .fault .noSuchUnit

/-- QE_CFG_TAKE_EFFECT (R282). -/
def execQeCfgTakeEffect (p : Nat) (n : Nat) (s : State) : Result :=
  if n < 16 then s.actCore .core p fun m => m.onCore p (fun c => c.takeCfg n) else .fault .noSuchUnit

/-- RS_REG_WRITE (R97). -/
def execRsRegWrite (who : Agent) (p : Nat) (k : Nat) (v : DWord) (s : State) : Result :=
  if k < 8 then s.actCore .core p fun m => m.coreWrite who p (rsAddr k) (v.toNat) else .fault .noSuchUnit

/-- RS_WRITE_LAND (R97). -/
def execRsWriteLand (p : Nat) (k : Nat) (s : State) : Result :=
  if k < 8 then s.actCore .core p fun m => m.onCore p (fun c => c.landRs k) else .fault .noSuchUnit

/-- CLAMP_CLR (R104). -/
def execClampClr (who : Agent) (p : Nat) (v : Nat) (s : State) : Result := s.actCore .core p fun m => m.coreWrite who p rCLAMP_CLR (v % 2 ^ 64)

/-- SCT_CFG_WRITE (R112). -/
def execSctCfgWrite (who : Agent) (p : Nat) (n : Nat) (v : Nat) (s : State) : Result :=
  if n < 64 then s.actCore .core p fun m => m.coreWrite who p (rSCT_CFG n) (v % 2 ^ 64) else .fault .noSuchUnit

/-- SCT_SCALE_WRITE (R113). -/
def execSctScaleWrite (who : Agent) (p : Nat) (n : Nat) (v : Nat) (s : State) : Result :=
  if n < 64 then s.actCore .core p fun m => m.coreWrite who p (rSCT_SCALE n) (v % 2 ^ 64) else .fault .noSuchUnit

/-- SCT_HIST_WRITE (R113). -/
def execSctHistWrite (who : Agent) (p : Nat) (n : Nat) (b : Nat) (v : Nat) (s : State) : Result :=
  if n < 64 ∧ b < 16 then s.actCore .core p fun m => m.coreWrite who p (rSCT_HIST n b) (v % 2 ^ 64) else .fault .noSuchUnit

/-- SCT_LINK_WRITE (R573). -/
def execSctLinkWrite (who : Agent) (p : Nat) (n : Nat) (shlist : Bool) (v : Nat) (s : State) : Result :=
  if n < 64 then s.actCore .core p fun m => m.coreWrite who p (if shlist then rSCT_SHLIST n else rSCT_LINK n) (v % 2 ^ 64) else .fault .noSuchUnit

/-- FE_REPAIR_WRITE (R145). -/
def execFeRepairWrite (who : Agent) (p : Nat) (v : Nat) (s : State) : Result := s.actCore .core p fun m => m.coreWrite who p rFE_REPAIR (v % 2 ^ 64)

/-- FE_BIST_START (R146). -/
def execFeBistStart (who : Agent) (p : Nat) (v : Nat) (s : State) : Result := s.actCore .core p fun m => m.coreWrite who p rFE_BIST_CTL (v % 2 ^ 64)

/-- BE_REPAIR_WRITE (R183). -/
def execBeRepairWrite (who : Agent) (p : Nat) (v : Nat) (s : State) : Result := s.actCore .core p fun m => m.coreWrite who p rBE_REPAIR (v % 2 ^ 64)

/-- BE_BIST_START (R165). -/
def execBeBistStart (who : Agent) (p : Nat) (v : Nat) (s : State) : Result := s.actCore .core p fun m => m.coreWrite who p rBE_BIST_CTL (v % 2 ^ 64)

/-- VU_FCSR_WRITE (R294). -/
def execVuFcsrWrite (who : Agent) (p : Nat) (v : Nat) (s : State) : Result := s.actCore .core p fun m => m.coreWrite who p rVU_FCSR (v % 2 ^ 64)

/-- HZD_STAT_CLEAR (R252). -/
def execHzdStatClear (who : Agent) (p : Nat) (eng : Engine) (v : Nat) (s : State) : Result :=
  s.actCore .core p fun m => m.coreWrite who p (if eng == .be then rBE_HZD_STAT else rFE_HZD_STAT) (v % 2 ^ 64)

/-- ERR_STAT_CLEAR (R253). -/
def execErrStatClear (who : Agent) (p : Nat) (eng : Engine) (v : Nat) (s : State) : Result :=
  s.actCore .core p fun m => m.coreWrite who p (if eng == .be then rBE_ERR_STAT else rFE_ERR_STAT) (v % 2 ^ 64)

/-- DRW_ERR_CLEAR (R185). -/
def execDrwErrClear (who : Agent) (p : Nat) (v : Nat) (s : State) : Result := s.actCore .core p fun m => m.coreWrite who p rBE_DRW_ERR (v % 2 ^ 64)

/-- KRF_VR_RD_WRITE (R206). -/
def execKrfVrRdWrite (who : Agent) (p : Nat) (v : Nat) (s : State) : Result := s.actCore .core p fun m => m.coreWrite who p rKRF_VR_RD (v % 2 ^ 64)

/-- LT_CFG_WRITE (R207). -/
def execLtCfgWrite (who : Agent) (p : Nat) (l : Nat) (v : Nat) (s : State) : Result :=
  if l < 1024 then s.actCore .core p fun m => m.coreWrite who p (rLT_CFG l) (v % 2 ^ 64) else .fault .noSuchUnit

/-- MBX_DB_WRITE (R412). -/
def execMbxDbWrite (who : Agent) (m : Mbx) (cl : Nat) (v : Nat) (other : Nat) (s : State) : Result :=
  s.actMbx m fun k => mbxDbCmd k m false who cl v other

/-- MBX_DB_R_WRITE (R414). -/
def execMbxDbRWrite (who : Agent) (m : Mbx) (cl : Nat) (v : Nat) (other : Nat) (s : State) : Result :=
  s.actMbx m fun k => mbxDbCmd k m true who cl v other

/-- MBX_MASK_WRITE (R412). -/
def execMbxMaskWrite (who : Agent) (m : Mbx) (ret : Bool) (cl : Nat) (v : Nat) (s : State) : Result := s.actMbx m fun k => mbxMaskCmd k m ret who cl v

/-- MBX_ROLE_WRITE (R410). -/
def execMbxRoleWrite (who : Agent) (v : Nat) (s : State) : Result := s.act .held fun m => mbxRoleCmd m who v

/-- FAB_MAP_WRITE (R309). -/
def execFabMapWrite (who : Agent) (n : Nat) (v : Nat) (s : State) : Result := s.actUnit .core n 256 fun m => m.chipWrite who (rFAB_MAP n) (v % 2 ^ 64)

/-- FAB_BYP_WRITE (R336). -/
def execFabBypWrite (who : Agent) (k : Nat) (v : Nat) (s : State) : Result := s.actUnit .core k 5 fun m => m.chipWrite who (rFAB_BYP k) (v % 2 ^ 64)

/-- CTB_TRIM_WRITE (R323). -/
def execCtbTrimWrite (who : Agent) (v : Nat) (s : State) : Result := s.act .core fun m => m.chipWrite who rCTB_TRIM (v % 2 ^ 64)

/-- TL_LATE_CLR (R325). -/
def execTlLateClr (who : Agent) (p : Nat) (v : Nat) (s : State) : Result := s.actCore .core p fun m => m.coreWrite who p rTL_LATE_MAX (v % 2 ^ 64)

/-- SEQ_CTBCMP_WRITE (R261). -/
def execSeqCtbcmpWrite (who : Agent) (p : Nat) (v : Nat) (s : State) : Result := s.actCore .core p fun m => m.coreWrite who p rSEQ_CTBCMP (v % 2 ^ 64)

/-- BAR_CFG_WRITE (R335). -/
def execBarCfgWrite (who : Agent) (p : Nat) (b : Nat) (v : Nat) (s : State) : Result :=
  if b < 16 then s.actCore .core p fun m => m.coreWrite who p (rBAR_CFG b) (v % 2 ^ 64) else .fault .noSuchUnit

/-- MEM_RGN_CTL_WRITE (R356). -/
def execMemRgnCtlWrite (who : Agent) (n : Nat) (v : Nat) (s : State) : Result :=
  s.actUnit .core n 32 fun m => m.chipWrite who (rMEM_RGN_CTL n) (v % 2 ^ 64)

/-- MEM_RETIRE_GO (R349). -/
def execMemRetireGo (who : Agent) (v : Nat) (s : State) : Result := s.act .core fun m => m.chipWrite who rMEM_RETIRE (v % 2 ^ 64)

/-- MEM_JOBST_WRITE (R369). -/
def execMemJobstWrite (who : Agent) (v : Nat) (s : State) : Result := s.act .core fun m => m.chipWrite who rMEM_JOBST (v % 2 ^ 64)

/-- STH_CFG_WRITE (R367). -/
def execSthCfgWrite (who : Agent) (p : Nat) (off : Nat) (v : Nat) (s : State) : Result :=
  s.actCore .core p fun m => if isSteward who then sthWriteCmd m p off v m.running else m

/-- SL_CTL_EN_WRITE (R404). -/
def execSlCtlEnWrite (who : Agent) (l : Nat) (v : Nat) (s : State) : Result :=
  s.actUnit .core l nLinks fun m => if isSteward who then slCtlEnCmd m l v else m

/-- SL_CTL_RETIRE (R387). -/
def execSlCtlRetire (who : Agent) (l : Nat) (s : State) : Result := s.actUnit .core l nLinks fun m => if isSteward who then slRetireCmd m l else m

/-- SL_RT_WRITE (R406). -/
def execSlRtWrite (who : Agent) (n : Nat) (v : Nat) (s : State) : Result := s.actUnit .core n 4096 fun m => m.chipWrite who (rSL_RT n) (v % 2 ^ 64)

/-- TS_CFG_WRITE (R407). -/
def execTsCfgWrite (who : Agent) (v : Nat) (s : State) : Result := s.act .core fun m => m.chipWrite who rTS_CFG (v % 2 ^ 64)

/-- FLT_ACK_WRITE (R456). -/
def execFltAckWrite (who : Agent) (v : Nat) (s : State) : Result := s.act .core fun m => m.chipWrite who rFLT_ACK (v % 2 ^ 64)

/-- CFC_ACK_WRITE (R456). -/
def execCfcAckWrite (who : Agent) (p : Nat) (v : Nat) (s : State) : Result := s.actCore .core p fun m => m.coreWrite who p rCFC_ACK (v % 2 ^ 64)

/-- FLT_CFG_WRITE (R458). -/
def execFltCfgWrite (who : Agent) (n : Nat) (v : Nat) (s : State) : Result := s.actUnit .core n 2350 fun m => m.chipWrite who (rFLT_CFG n) (v % 2 ^ 64)

/-- FLT_FIRST_CLEAR (R454). -/
def execFltFirstClear (who : Agent) (v : Nat) (s : State) : Result := s.act .core fun m => m.chipWrite who rFLT_FIRST (v % 2 ^ 64)

/-- PROG_LIMIT_WRITE (R472). -/
def execProgLimitWrite (who : Agent) (p : Nat) (v : Nat) (s : State) : Result := s.actCore .core p fun m => m.coreWrite who p rPROG_LIMIT (v % 2 ^ 64)

/-- SNP_CTL_WRITE (R493). -/
def execSnpCtlWrite (who : Agent) (v : Nat) (s : State) : Result := s.act .core fun m => m.chipWrite who rSNP_CTL (v % 2 ^ 64)

end Sys2Proof.Machine
end

