-- ==== Sys2Proof/Machine/SequencerCmds.lean ====
section
/-!
DEFINITION. Meanings of commands: the sequencer and its queue-extension instructions (08 R254-R276).
-/
namespace Sys2Proof.Machine

/-- RV_INSTRUCTION (R254). -/
def execRvInstruction (p : Nat) (s : State) : Result := s.actCore .core p fun m => rvInstructionCmd m p

/-- LOCAL_INTERRUPT (R262). -/
def execLocalInterrupt (p : Nat) (s : State) : Result := s.actCore .core p fun m => localInterruptCmd m p

/-- QPUSH_V (R220). -/
def execQpushV (p : Nat) (rs1 : Nat) (s : State) : Result := s.actQx p 0 0 0 rs1 0

/-- QPUSH_K (R220). -/
def execQpushK (p : Nat) (rs1 : Nat) (s : State) : Result := s.actQx p 1 0 0 rs1 0

/-- QOP (R284). -/
def execQop (p : Nat) (rs1 : Nat) (s : State) : Result := s.actQx p 0 1 0 rs1 0

/-- BENQ_F (R173). -/
def execBenqF (p : Nat) (rs1 : Nat) (s : State) : Result := s.actQx p 0 2 0 rs1 0

/-- BENQ_B (R173). -/
def execBenqB (p : Nat) (rs1 : Nat) (s : State) : Result := s.actQx p 1 2 0 rs1 0

/-- QFENCE (R265). -/
def execQfence (p : Nat) (rs1 : Nat) (s : State) : Result := s.actQx p 0 3 0 rs1 0

/-- MFENCE (R266). -/
def execMfence (p : Nat) (s : State) : Result := s.actQx p 1 3 0 0 0

/-- QXRET (R262). -/
def execQxret (p : Nat) (s : State) : Result := s.actQx p 2 3 0 0 0

/-- CTBRL (R267). -/
def execCtbrl (p : Nat) (rd : Nat) (s : State) : Result := s.actQx p 0 4 rd 0 0

/-- CTBRH (R267). -/
def execCtbrh (p : Nat) (rd : Nat) (s : State) : Result := s.actQx p 1 4 rd 0 0

/-- TARM (R268). -/
def execTarm (p : Nat) (rs1 : Nat) (rs2 : Nat) (s : State) : Result := s.actQx p 2 4 0 rs1 rs2

/-- BARV (R269). -/
def execBarv (p : Nat) (rd : Nat) (rs1 : Nat) (s : State) : Result := s.actQx p 0 5 rd rs1 0

/-- BWAIT (R269). -/
def execBwait (p : Nat) (rs1 : Nat) (rs2 : Nat) (s : State) : Result := s.actQx p 1 5 0 rs1 rs2

/-- BPOLL (R269). -/
def execBpoll (p : Nat) (rd : Nat) (rs1 : Nat) (rs2 : Nat) (s : State) : Result := s.actQx p 2 5 rd rs1 rs2

/-- DBELL (R270). -/
def execDbell (p : Nat) (rs1 : Nat) (s : State) : Result := s.actQx p 0 6 0 rs1 0

/-- WRUNG (R271). -/
def execWrung (p : Nat) (rd : Nat) (rs1 : Nat) (rs2 : Nat) (s : State) : Result := s.actQx p 1 6 rd rs1 rs2

/-- GREQ (R272). -/
def execGreq (p : Nat) (rd : Nat) (rs1 : Nat) (s : State) : Result := s.actQx p 0 7 rd rs1 0

/-- GSTAT (R272). -/
def execGstat (p : Nat) (rd : Nat) (rs1 : Nat) (s : State) : Result := s.actQx p 1 7 rd rs1 0

/-- GREL (R272). -/
def execGrel (p : Nat) (rs1 : Nat) (s : State) : Result := s.actQx p 2 7 0 rs1 0

/-- SEQ_STALL_RETIRE (R276). -/
def execSeqStallRetire (p : Nat) (s : State) : Result := s.actCore .core p fun m => stallRetireCmd m p

end Sys2Proof.Machine
end

