-- ==== Sys2Proof/Machine/TimeCmds.lean ====
section
/-!
DEFINITION. Meanings of commands: the time base (09 R318-R325; 17 R567).
-/
namespace Sys2Proof.Machine

/-- CTBCMP_MATCH (R261). -/
def execCtbcmpMatch (p : Nat) (s : State) : Result := s.actCore .core p fun m => ctbcmpMatchCmd m p

/-- TIMED_START (R324). -/
def execTimedStart (p : Nat) (kind : TimedKind) (s : State) : Result := s.actCore .core p fun m => timedStartCmd m p kind

/-- TRIM_ADJUST (R318). -/
def execTrimAdjust (s : State) : Result := s.act .always fun m => trimAdjustCmd m

/-- REFCLK_LOSS (R322). -/
def execRefclkLoss (s : State) : Result := s.act .always fun m => refclkLossCmd m

/-- HOLDOVER_RELOCK (R322). -/
def execHoldoverRelock (s : State) : Result := s.act .always fun m => holdoverRelockCmd m

/-- HOLDOVER_TIMEOUT (R322). -/
def execHoldoverTimeout (s : State) : Result := s.act .always fun m => holdoverTimeoutCmd m

/-- IEEE_1588_MESSAGE (R567). -/
def execIeee1588Message (port : Nat) (time : Option DWord) (s : State) : Result := s.act .core fun m => ptpCmd m port time

end Sys2Proof.Machine
end

