-- ==== Sys2Proof/Machine/VcfCmds.lean ====
section
/-!
DEFINITION. Meanings of commands: steps, jobs, client commands and core messages (12; 14 R480).
-/
namespace Sys2Proof.Machine

/-- STEP_BOUNDARY (R34). -/
def execStepBoundary (meas : PlanMeas) (s : State) : Result := s.act .core fun m => stepBoundaryCmd m meas

/-- STEP_RELEASE (R480). -/
def execStepRelease (base : DWord) (s : State) : Result := s.act .core fun m => stepReleaseCmd m base

/-- STEWARD_MESSAGE (R434). -/
def execStewardMessage (msg : StewardMsg) (media : Media) (s : State) : Result := s.act .core fun m => stewardMessageCmd m msg media

/-- RANK_ANNOUNCE (R445). -/
def execRankAnnounce (rank : Nat) (chip : Nat) (s : State) : Result := s.act .core fun m => rankAnnounceCmd m rank chip

/-- PART_LOST_MSG (R491). -/
def execPartLostMsg (rank : Nat) (s : State) : Result := s.act .core fun m => partLostCmd m rank

/-- CHANNEL_NOTICE (R419). -/
def execChannelNotice (m : Mbx) (ch : Nat) (s : State) : Result := s.actMbx m fun k => if ch < 32 then channelNoticeCmd k m ch else k

/-- IF_QUERY (R435). -/
def execIfQuery (c : Nat) (ch : Nat) (s : State) : Result := s.actClient c ch fun m => vcfCmd m c ch 0x01 ifQueryRun

/-- CH_RESET (R433). -/
def execChReset (c : Nat) (ch : Nat) (s : State) : Result := s.actClient c ch fun m => vcfCmd m c ch 0x02 chResetRun

/-- JOB_LOAD (R445). -/
def execJobLoad (c : Nat) (ch : Nat) (ext : List Byte) (s : State) : Result :=
  s.actClient c ch fun m => vcfCmd m c ch 0x10 (fun s r => jobLoadRun s r ext)

/-- JOB_START (R433). -/
def execJobStart (c : Nat) (ch : Nat) (s : State) : Result := s.actClient c ch fun m => vcfCmd m c ch 0x11 jobStartRun

/-- JOB_UNLOAD (R433). -/
def execJobUnload (c : Nat) (ch : Nat) (s : State) : Result := s.actClient c ch fun m => vcfCmd m c ch 0x12 jobUnloadRun

/-- STEP_RUN (R436). -/
def execStepRun (c : Nat) (ch : Nat) (s : State) : Result := s.actClient c ch fun m => vcfCmd m c ch 0x20 stepRunRun

/-- STEP_PAUSE (R436). -/
def execStepPause (c : Nat) (ch : Nat) (s : State) : Result := s.actClient c ch fun m => vcfCmd m c ch 0x21 stepPauseRun

/-- SNAP_TAKE (R480). -/
def execSnapTake (c : Nat) (ch : Nat) (s : State) : Result := s.actClient c ch fun m => vcfCmd m c ch 0x30 snapTakeRun

/-- SNAP_RESTORE (R485). -/
def execSnapRestore (c : Nat) (ch : Nat) (media : Media) (s : State) : Result := s.actClient c ch fun m => vcfCmd m c ch 0x31 (snapRestoreRun media)

/-- CORE_FENCE (R435). -/
def execCoreFence (c : Nat) (ch : Nat) (media : Media) (s : State) : Result := s.actClient c ch fun m => coreFenceCmd m c ch media

/-- CORE_UNFENCE (R435). -/
def execCoreUnfence (c : Nat) (ch : Nat) (pass : Bool) (s : State) : Result := s.actClient c ch fun m => vcfCmd m c ch 0x41 (coreUnfenceRun pass)

/-- TEL_QUERY (R435). -/
def execTelQuery (c : Nat) (ch : Nat) (s : State) : Result := s.actClient c ch fun m => vcfCmd m c ch 0x50 telQueryRun

/-- FLT_ACK (R456). -/
def execFltAck (c : Nat) (ch : Nat) (s : State) : Result := s.actClient c ch fun m => vcfCmd m c ch 0x60 fltAckRun

/-- UPD_STAGE (R528). -/
def execUpdStage (c : Nat) (ch : Nat) (ext : List Byte) (s : State) : Result :=
  s.actClient c ch fun m => vcfCmd m c ch 0x70 (fun s r => s.updStage r ext)

/-- UPD_COMMIT (R530). -/
def execUpdCommit (c : Nat) (ch : Nat) (s : State) : Result := s.actClient c ch fun m => vcfCmd m c ch 0x71 Chip.updCommit

/-- UPD_ABORT (R529). -/
def execUpdAbort (c : Nat) (ch : Nat) (s : State) : Result := s.actClient c ch fun m => vcfCmd m c ch 0x72 Chip.updAbort

/-- POL_PROPOSE (R534). -/
def execPolPropose (c : Nat) (ch : Nat) (s : State) : Result := s.actClient c ch fun m => vcfCmd m c ch 0x80 Chip.polPropose

/-- POL_APPROVE (R536). -/
def execPolApprove (c : Nat) (ch : Nat) (s : State) : Result := s.actClient c ch fun m => vcfCmd m c ch 0x81 Chip.polApprove

/-- ENV_SET (R500). -/
def execEnvSet (c : Nat) (ch : Nat) (s : State) : Result := s.actClient c ch fun m => vcfCmd m c ch 0x90 envSetRun

/-- INPUT_FETCH (R448). -/
def execInputFetch (p : Nat) (data : List Byte) (s : State) : Result := s.actCore .core p fun m => inputFetchCmd m p data

/-- LOG (R448). -/
def execLog (p : Nat) (s : State) : Result := s.actCore .core p fun m => logCmd m p

/-- UPD_PHASE_DONE (R530). -/
def execUpdPhaseDone (result : PhaseResult) (s : State) : Result := s.act .core fun m => updPhaseDoneCmd m result

/-- PLANNED_SWITCHOVER (R532). -/
def execPlannedSwitchover (s : State) : Result := s.act .core fun m => plannedSwitchoverCmd (m.runOut m.switchDue)

/-- RDMA_CONNECT (R423). -/
def execRdmaConnect (port : Nat) (c : Nat) (key : Nat) (s : State) : Result := s.act .held fun m => rdmaConnectCmd m port c key

/-- CLIENT_WINDOW_READ (R421). -/
def execClientWindowRead (path : ClientPath) (off : Nat) (n : Nat) (s : State) : Result := s.act .held fun m => clientReadCmd m path off n

/-- CLIENT_WINDOW_WRITE (R425). -/
def execClientWindowWrite (path : ClientPath) (off : Nat) (data : List Byte) (s : State) : Result :=
  s.act .held fun m => clientWriteCmd m path off data

end Sys2Proof.Machine
end

