-- ==== Sys2Proof/Machine/VectorCmds.lean ====
section
/-!
DEFINITION. Meanings of commands: vector instructions: the next issue of the unit's head (07 R246).
-/
namespace Sys2Proof.Machine

/-- VADD (R246). -/
def execVadd (p : Nat) (s : State) : Result := s.actOn p fun c => vuStart c (s.chip.localTick p) (s.chip.cycleNow p) fun o => o == 0x20

/-- VSUB (R246). -/
def execVsub (p : Nat) (s : State) : Result := s.actOn p fun c => vuStart c (s.chip.localTick p) (s.chip.cycleNow p) fun o => o == 0x21

/-- VMUL (R246). -/
def execVmul (p : Nat) (s : State) : Result := s.actOn p fun c => vuStart c (s.chip.localTick p) (s.chip.cycleNow p) fun o => o == 0x22

/-- VFMA (R246). -/
def execVfma (p : Nat) (s : State) : Result := s.actOn p fun c => vuStart c (s.chip.localTick p) (s.chip.cycleNow p) fun o => o == 0x23

/-- VDIV (R246). -/
def execVdiv (p : Nat) (s : State) : Result := s.actOn p fun c => vuStart c (s.chip.localTick p) (s.chip.cycleNow p) fun o => o == 0x24

/-- VSQRT (R246). -/
def execVsqrt (p : Nat) (s : State) : Result := s.actOn p fun c => vuStart c (s.chip.localTick p) (s.chip.cycleNow p) fun o => o == 0x25

/-- VREM (R246). -/
def execVrem (p : Nat) (s : State) : Result := s.actOn p fun c => vuStart c (s.chip.localTick p) (s.chip.cycleNow p) fun o => o == 0x26

/-- VMIN (R246). -/
def execVmin (p : Nat) (s : State) : Result := s.actOn p fun c => vuStart c (s.chip.localTick p) (s.chip.cycleNow p) fun o => o == 0x27

/-- VMAX (R246). -/
def execVmax (p : Nat) (s : State) : Result := s.actOn p fun c => vuStart c (s.chip.localTick p) (s.chip.cycleNow p) fun o => o == 0x28

/-- VMINN (R246). -/
def execVminn (p : Nat) (s : State) : Result := s.actOn p fun c => vuStart c (s.chip.localTick p) (s.chip.cycleNow p) fun o => o == 0x29

/-- VMAXN (R246). -/
def execVmaxn (p : Nat) (s : State) : Result := s.actOn p fun c => vuStart c (s.chip.localTick p) (s.chip.cycleNow p) fun o => o == 0x2A

/-- VMINM (R246). -/
def execVminm (p : Nat) (s : State) : Result := s.actOn p fun c => vuStart c (s.chip.localTick p) (s.chip.cycleNow p) fun o => o == 0x2B

/-- VMAXM (R246). -/
def execVmaxm (p : Nat) (s : State) : Result := s.actOn p fun c => vuStart c (s.chip.localTick p) (s.chip.cycleNow p) fun o => o == 0x2C

/-- VMINMN (R246). -/
def execVminmn (p : Nat) (s : State) : Result := s.actOn p fun c => vuStart c (s.chip.localTick p) (s.chip.cycleNow p) fun o => o == 0x2D

/-- VMAXMN (R246). -/
def execVmaxmn (p : Nat) (s : State) : Result := s.actOn p fun c => vuStart c (s.chip.localTick p) (s.chip.cycleNow p) fun o => o == 0x2E

/-- VCMPQ (R246). -/
def execVcmpq (p : Nat) (s : State) : Result := s.actOn p fun c => vuStart c (s.chip.localTick p) (s.chip.cycleNow p) fun o => o == 0x2F

/-- VCMPS (R246). -/
def execVcmps (p : Nat) (s : State) : Result := s.actOn p fun c => vuStart c (s.chip.localTick p) (s.chip.cycleNow p) fun o => o == 0x30

/-- VCVT (R246). -/
def execVcvt (p : Nat) (s : State) : Result := s.actOn p fun c => vuStart c (s.chip.localTick p) (s.chip.cycleNow p) fun o => o == 0x31

/-- VCVTI (R574). -/
def execVcvti (p : Nat) (s : State) : Result := s.actOn p fun c => vuStart c (s.chip.localTick p) (s.chip.cycleNow p) fun o => o == 0x32

/-- VCVTF (R246). -/
def execVcvtf (p : Nat) (s : State) : Result := s.actOn p fun c => vuStart c (s.chip.localTick p) (s.chip.cycleNow p) fun o => o == 0x33

/-- VRINT (R246). -/
def execVrint (p : Nat) (s : State) : Result := s.actOn p fun c => vuStart c (s.chip.localTick p) (s.chip.cycleNow p) fun o => o == 0x34

/-- VSCALEB (R246). -/
def execVscaleb (p : Nat) (s : State) : Result := s.actOn p fun c => vuStart c (s.chip.localTick p) (s.chip.cycleNow p) fun o => o == 0x35

/-- VLOGB (R574). -/
def execVlogb (p : Nat) (s : State) : Result := s.actOn p fun c => vuStart c (s.chip.localTick p) (s.chip.cycleNow p) fun o => o == 0x36

/-- VNEXTUP (R246). -/
def execVnextup (p : Nat) (s : State) : Result := s.actOn p fun c => vuStart c (s.chip.localTick p) (s.chip.cycleNow p) fun o => o == 0x37

/-- VNEXTDN (R246). -/
def execVnextdn (p : Nat) (s : State) : Result := s.actOn p fun c => vuStart c (s.chip.localTick p) (s.chip.cycleNow p) fun o => o == 0x38

/-- VNEG (R69). -/
def execVneg (p : Nat) (s : State) : Result := s.actOn p fun c => vuStart c (s.chip.localTick p) (s.chip.cycleNow p) fun o => o == 0x39

/-- VABS (R69). -/
def execVabs (p : Nat) (s : State) : Result := s.actOn p fun c => vuStart c (s.chip.localTick p) (s.chip.cycleNow p) fun o => o == 0x3A

/-- VCPSGN (R69). -/
def execVcpsgn (p : Nat) (s : State) : Result := s.actOn p fun c => vuStart c (s.chip.localTick p) (s.chip.cycleNow p) fun o => o == 0x3B

/-- VCLASS (R246). -/
def execVclass (p : Nat) (s : State) : Result := s.actOn p fun c => vuStart c (s.chip.localTick p) (s.chip.cycleNow p) fun o => o == 0x3C

/-- VRFILL (R293). -/
def execVrfill (p : Nat) (s : State) : Result := s.actOn p fun c => vuStart c (s.chip.localTick p) (s.chip.cycleNow p) fun o => o == 0x3D

end Sys2Proof.Machine
end

