-- ==== Sys2Proof/Machine/Dispatch.lean ====
section
/-!
DEFINITION. The one dispatch of the commands: an arm for each row of the opcode table.
-/
namespace Sys2Proof.Machine

def exec (i : Instr) (s : State) : Host.Outcome State Fault Refusal :=
  match i with
  | .rvInstruction p => Sys2Proof.Machine.execRvInstruction p s
  | .localInterrupt p => Sys2Proof.Machine.execLocalInterrupt p s
  | .qpushV p rs1 => Sys2Proof.Machine.execQpushV p rs1 s
  | .qpushK p rs1 => Sys2Proof.Machine.execQpushK p rs1 s
  | .qop p rs1 => Sys2Proof.Machine.execQop p rs1 s
  | .benqF p rs1 => Sys2Proof.Machine.execBenqF p rs1 s
  | .benqB p rs1 => Sys2Proof.Machine.execBenqB p rs1 s
  | .qfence p rs1 => Sys2Proof.Machine.execQfence p rs1 s
  | .mfence p => Sys2Proof.Machine.execMfence p s
  | .qxret p => Sys2Proof.Machine.execQxret p s
  | .ctbrl p rd => Sys2Proof.Machine.execCtbrl p rd s
  | .ctbrh p rd => Sys2Proof.Machine.execCtbrh p rd s
  | .tarm p rs1 rs2 => Sys2Proof.Machine.execTarm p rs1 rs2 s
  | .barv p rd rs1 => Sys2Proof.Machine.execBarv p rd rs1 s
  | .bwait p rs1 rs2 => Sys2Proof.Machine.execBwait p rs1 rs2 s
  | .bpoll p rd rs1 rs2 => Sys2Proof.Machine.execBpoll p rd rs1 rs2 s
  | .dbell p rs1 => Sys2Proof.Machine.execDbell p rs1 s
  | .wrung p rd rs1 rs2 => Sys2Proof.Machine.execWrung p rd rs1 rs2 s
  | .greq p rd rs1 => Sys2Proof.Machine.execGreq p rd rs1 s
  | .gstat p rd rs1 => Sys2Proof.Machine.execGstat p rd rs1 s
  | .grel p rs1 => Sys2Proof.Machine.execGrel p rs1 s
  | .seqStallRetire p => Sys2Proof.Machine.execSeqStallRetire p s
  | .condBlockHead p => Sys2Proof.Machine.execCondBlockHead p s
  | .blockDispatch p => Sys2Proof.Machine.execBlockDispatch p s
  | .blockLaunch p eng => Sys2Proof.Machine.execBlockLaunch p eng s
  | .fnop p => Sys2Proof.Machine.execFnop p s
  | .fwld p => Sys2Proof.Machine.execFwld p s
  | .fmma p => Sys2Proof.Machine.execFmma p s
  | .bnop p => Sys2Proof.Machine.execBnop p s
  | .bwld p => Sys2Proof.Machine.execBwld p s
  | .bmma p => Sys2Proof.Machine.execBmma p s
  | .bcm p => Sys2Proof.Machine.execBcm p s
  | .cvt p id => Sys2Proof.Machine.execCvt p id s
  | .pdrn p id => Sys2Proof.Machine.execPdrn p id s
  | .ldt p id => Sys2Proof.Machine.execLdt p id s
  | .red p id => Sys2Proof.Machine.execRed p id s
  | .send p id => Sys2Proof.Machine.execSend p id s
  | .recv p id => Sys2Proof.Machine.execRecv p id s
  | .stsh p id => Sys2Proof.Machine.execStsh p id s
  | .usth p id => Sys2Proof.Machine.execUsth p id s
  | .igth p id => Sys2Proof.Machine.execIgth p id s
  | .kcap p id => Sys2Proof.Machine.execKcap p id s
  | .dacc p id => Sys2Proof.Machine.execDacc p id s
  | .daccApply p id => Sys2Proof.Machine.execDaccApply p id s
  | .mov p id => Sys2Proof.Machine.execMov p id s
  | .vadd p => Sys2Proof.Machine.execVadd p s
  | .vsub p => Sys2Proof.Machine.execVsub p s
  | .vmul p => Sys2Proof.Machine.execVmul p s
  | .vfma p => Sys2Proof.Machine.execVfma p s
  | .vdiv p => Sys2Proof.Machine.execVdiv p s
  | .vsqrt p => Sys2Proof.Machine.execVsqrt p s
  | .vrem p => Sys2Proof.Machine.execVrem p s
  | .vmin p => Sys2Proof.Machine.execVmin p s
  | .vmax p => Sys2Proof.Machine.execVmax p s
  | .vminn p => Sys2Proof.Machine.execVminn p s
  | .vmaxn p => Sys2Proof.Machine.execVmaxn p s
  | .vminm p => Sys2Proof.Machine.execVminm p s
  | .vmaxm p => Sys2Proof.Machine.execVmaxm p s
  | .vminmn p => Sys2Proof.Machine.execVminmn p s
  | .vmaxmn p => Sys2Proof.Machine.execVmaxmn p s
  | .vcmpq p => Sys2Proof.Machine.execVcmpq p s
  | .vcmps p => Sys2Proof.Machine.execVcmps p s
  | .vcvt p => Sys2Proof.Machine.execVcvt p s
  | .vcvti p => Sys2Proof.Machine.execVcvti p s
  | .vcvtf p => Sys2Proof.Machine.execVcvtf p s
  | .vrint p => Sys2Proof.Machine.execVrint p s
  | .vscaleb p => Sys2Proof.Machine.execVscaleb p s
  | .vlogb p => Sys2Proof.Machine.execVlogb p s
  | .vnextup p => Sys2Proof.Machine.execVnextup p s
  | .vnextdn p => Sys2Proof.Machine.execVnextdn p s
  | .vneg p => Sys2Proof.Machine.execVneg p s
  | .vabs p => Sys2Proof.Machine.execVabs p s
  | .vcpsgn p => Sys2Proof.Machine.execVcpsgn p s
  | .vclass p => Sys2Proof.Machine.execVclass p s
  | .vrfill p => Sys2Proof.Machine.execVrfill p s
  | .ksel p => Sys2Proof.Machine.execKsel p s
  | .kchk p => Sys2Proof.Machine.execKchk p s
  | .kchkDone p => Sys2Proof.Machine.execKchkDone p s
  | .coreVerdictMsg p v => Sys2Proof.Machine.execCoreVerdictMsg p v s
  | .layerVerdictMsg p v => Sys2Proof.Machine.execLayerVerdictMsg p v s
  | .stepBoundary meas => Sys2Proof.Machine.execStepBoundary meas s
  | .shardAmaxMsg p slot amax jit => Sys2Proof.Machine.execShardAmaxMsg p slot amax jit s
  | .tensorScaleMsg p slot scale jit => Sys2Proof.Machine.execTensorScaleMsg p slot scale jit s
  | .stepRelease base => Sys2Proof.Machine.execStepRelease base s
  | .packetForward r pkt chk => Sys2Proof.Machine.execPacketForward r pkt chk s
  | .dataMessage p pkt flitErr => Sys2Proof.Machine.execDataMessage p pkt flitErr s
  | .voidMessage p pkt => Sys2Proof.Machine.execVoidMessage p pkt s
  | .readyToken p pkt => Sys2Proof.Machine.execReadyToken p pkt s
  | .deliveryAck p pkt => Sys2Proof.Machine.execDeliveryAck p pkt s
  | .storeWrite p pkt => Sys2Proof.Machine.execStoreWrite p pkt s
  | .storeWriteAck p pkt => Sys2Proof.Machine.execStoreWriteAck p pkt s
  | .storeReadRequest p pkt => Sys2Proof.Machine.execStoreReadRequest p pkt s
  | .storeReadResponse p pkt => Sys2Proof.Machine.execStoreReadResponse p pkt s
  | .barrierArrival p pkt => Sys2Proof.Machine.execBarrierArrival p pkt s
  | .barrierCompletion p pkt => Sys2Proof.Machine.execBarrierCompletion p pkt s
  | .stewardMessage msg media => Sys2Proof.Machine.execStewardMessage msg media s
  | .rankAnnounce rank chip => Sys2Proof.Machine.execRankAnnounce rank chip s
  | .partLostMsg rank => Sys2Proof.Machine.execPartLostMsg rank s
  | .memoryRequest req ecc => Sys2Proof.Machine.execMemoryRequest req ecc s
  | .memoryResponse resp => Sys2Proof.Machine.execMemoryResponse resp s
  | .linkStopPacket l => Sys2Proof.Machine.execLinkStopPacket l s
  | .ctbcmpMatch p => Sys2Proof.Machine.execCtbcmpMatch p s
  | .timedStart p kind => Sys2Proof.Machine.execTimedStart p kind s
  | .hbmScrub addr result => Sys2Proof.Machine.execHbmScrub addr result s
  | .selfRefreshEntry n => Sys2Proof.Machine.execSelfRefreshEntry n s
  | .hbmTemperature n temp => Sys2Proof.Machine.execHbmTemperature n temp s
  | .cxlDeviceDown port => Sys2Proof.Machine.execCxlDeviceDown port s
  | .cowCopyDone addr => Sys2Proof.Machine.execCowCopyDone addr s
  | .spillDone p => Sys2Proof.Machine.execSpillDone p s
  | .prefetchStart p => Sys2Proof.Machine.execPrefetchStart p s
  | .prefetchDone p => Sys2Proof.Machine.execPrefetchDone p s
  | .stashHoldTimeout p => Sys2Proof.Machine.execStashHoldTimeout p s
  | .pmdTrainingDone l => Sys2Proof.Machine.execPmdTrainingDone l s
  | .fecLock l => Sys2Proof.Machine.execFecLock l s
  | .identFlit l h hw chip link major => Sys2Proof.Machine.execIdentFlit l h hw chip link major s
  | .trainingTimeout l => Sys2Proof.Machine.execTrainingTimeout l s
  | .dataFlit l h payload => Sys2Proof.Machine.execDataFlit l h payload s
  | .idleFlit l h => Sys2Proof.Machine.execIdleFlit l h s
  | .nakFlit l h => Sys2Proof.Machine.execNakFlit l h s
  | .timeFlit l h t ta td => Sys2Proof.Machine.execTimeFlit l h t ta td s
  | .lmFlit l h r => Sys2Proof.Machine.execLmFlit l h r s
  | .ackTimeout l => Sys2Proof.Machine.execAckTimeout l s
  | .nakRepeat l => Sys2Proof.Machine.execNakRepeat l s
  | .episodeTimeout l => Sys2Proof.Machine.execEpisodeTimeout l s
  | .laneSignalLoss l => Sys2Proof.Machine.execLaneSignalLoss l s
  | .fecFailure l n => Sys2Proof.Machine.execFecFailure l n s
  | .linkDegrade l n => Sys2Proof.Machine.execLinkDegrade l n s
  | .linkRetrain l => Sys2Proof.Machine.execLinkRetrain l s
  | .timeExchangeStart l t1 => Sys2Proof.Machine.execTimeExchangeStart l t1 s
  | .disciplineWindow pSync => Sys2Proof.Machine.execDisciplineWindow pSync s
  | .replan media => Sys2Proof.Machine.execReplan media s
  | .channelNotice m ch => Sys2Proof.Machine.execChannelNotice m ch s
  | .ifQuery c ch => Sys2Proof.Machine.execIfQuery c ch s
  | .chReset c ch => Sys2Proof.Machine.execChReset c ch s
  | .jobLoad c ch ext => Sys2Proof.Machine.execJobLoad c ch ext s
  | .jobStart c ch => Sys2Proof.Machine.execJobStart c ch s
  | .jobUnload c ch => Sys2Proof.Machine.execJobUnload c ch s
  | .stepRun c ch => Sys2Proof.Machine.execStepRun c ch s
  | .stepPause c ch => Sys2Proof.Machine.execStepPause c ch s
  | .snapTake c ch => Sys2Proof.Machine.execSnapTake c ch s
  | .snapRestore c ch media => Sys2Proof.Machine.execSnapRestore c ch media s
  | .coreFence c ch media => Sys2Proof.Machine.execCoreFence c ch media s
  | .coreUnfence c ch pass => Sys2Proof.Machine.execCoreUnfence c ch pass s
  | .telQuery c ch => Sys2Proof.Machine.execTelQuery c ch s
  | .fltAck c ch => Sys2Proof.Machine.execFltAck c ch s
  | .updStage c ch ext => Sys2Proof.Machine.execUpdStage c ch ext s
  | .updCommit c ch => Sys2Proof.Machine.execUpdCommit c ch s
  | .updAbort c ch => Sys2Proof.Machine.execUpdAbort c ch s
  | .polPropose c ch => Sys2Proof.Machine.execPolPropose c ch s
  | .polApprove c ch => Sys2Proof.Machine.execPolApprove c ch s
  | .envSet c ch => Sys2Proof.Machine.execEnvSet c ch s
  | .inputFetch p data => Sys2Proof.Machine.execInputFetch p data s
  | .log p => Sys2Proof.Machine.execLog p s
  | .updPhaseDone result => Sys2Proof.Machine.execUpdPhaseDone result s
  | .lockstepMismatch who => Sys2Proof.Machine.execLockstepMismatch who s
  | .rdmaConnect port c key => Sys2Proof.Machine.execRdmaConnect port c key s
  | .clientWindowRead path off n => Sys2Proof.Machine.execClientWindowRead path off n s
  | .clientWindowWrite path off data => Sys2Proof.Machine.execClientWindowWrite path off data s
  | .faultEvent ev inst detail media => Sys2Proof.Machine.execFaultEvent ev inst detail media s
  | .faultWindowEnd src => Sys2Proof.Machine.execFaultWindowEnd src s
  | .graceExpiry src media => Sys2Proof.Machine.execGraceExpiry src media s
  | .progressTimeout p => Sys2Proof.Machine.execProgressTimeout p s
  | .benchThermal b => Sys2Proof.Machine.execBenchThermal b s
  | .overCurrent media => Sys2Proof.Machine.execOverCurrent media s
  | .captureComplete layer => Sys2Proof.Machine.execCaptureComplete layer s
  | .captureCommit layer => Sys2Proof.Machine.execCaptureCommit layer s
  | .destinationFail layer => Sys2Proof.Machine.execDestinationFail layer s
  | .accountingPeriod pkg benches => Sys2Proof.Machine.execAccountingPeriod pkg benches s
  | .grantRequestMsg p handle => Sys2Proof.Machine.execGrantRequestMsg p handle s
  | .calibration measured counted => Sys2Proof.Machine.execCalibration measured counted s
  | .exceedCheck mw => Sys2Proof.Machine.execExceedCheck mw s
  | .pointChange b => Sys2Proof.Machine.execPointChange b s
  | .benchPark b => Sys2Proof.Machine.execBenchPark b s
  | .bistDone p eng arrays => Sys2Proof.Machine.execBistDone p eng arrays s
  | .powerGood tj straps i3c => Sys2Proof.Machine.execPowerGood tj straps i3c s
  | .bootStageDone found => Sys2Proof.Machine.execBootStageDone found s
  | .bootStageTimeout found => Sys2Proof.Machine.execBootStageTimeout found s
  | .railOutOfRange media => Sys2Proof.Machine.execRailOutOfRange media s
  | .tapBypass code => Sys2Proof.Machine.execTapBypass code s
  | .pcieSurpriseRemoval port => Sys2Proof.Machine.execPcieSurpriseRemoval port s
  | .i3cOffsetWrite off => Sys2Proof.Machine.execI3cOffsetWrite off s
  | .i3cRead n => Sys2Proof.Machine.execI3cRead n s
  | .setdasa addr => Sys2Proof.Machine.execSetdasa addr s
  | .entdaa addr => Sys2Proof.Machine.execEntdaa addr s
  | .i2cTransfer wr n => Sys2Proof.Machine.execI2cTransfer wr n s
  | .telemetryRefresh sensors => Sys2Proof.Machine.execTelemetryRefresh sensors s
  | .registerWrite who p addr width v => Sys2Proof.Machine.execRegisterWrite who p addr width v s
  | .windowPairAccess p store addr v => Sys2Proof.Machine.execWindowPairAccess p store addr v s
  | .seqCtlWrite who p v => Sys2Proof.Machine.execSeqCtlWrite who p v s
  | .sramAliasWrite who p off data => Sys2Proof.Machine.execSramAliasWrite who p off data s
  | .qeCfgWrite who p n v => Sys2Proof.Machine.execQeCfgWrite who p n v s
  | .qeCfgTakeEffect p n => Sys2Proof.Machine.execQeCfgTakeEffect p n s
  | .rsRegWrite who p k v => Sys2Proof.Machine.execRsRegWrite who p k v s
  | .rsWriteLand p k => Sys2Proof.Machine.execRsWriteLand p k s
  | .clampClr who p v => Sys2Proof.Machine.execClampClr who p v s
  | .sctCfgWrite who p n v => Sys2Proof.Machine.execSctCfgWrite who p n v s
  | .sctScaleWrite who p n v => Sys2Proof.Machine.execSctScaleWrite who p n v s
  | .sctHistWrite who p n b v => Sys2Proof.Machine.execSctHistWrite who p n b v s
  | .sctLinkWrite who p n shlist v => Sys2Proof.Machine.execSctLinkWrite who p n shlist v s
  | .feRepairWrite who p v => Sys2Proof.Machine.execFeRepairWrite who p v s
  | .feBistStart who p v => Sys2Proof.Machine.execFeBistStart who p v s
  | .beRepairWrite who p v => Sys2Proof.Machine.execBeRepairWrite who p v s
  | .beBistStart who p v => Sys2Proof.Machine.execBeBistStart who p v s
  | .vuFcsrWrite who p v => Sys2Proof.Machine.execVuFcsrWrite who p v s
  | .hzdStatClear who p eng v => Sys2Proof.Machine.execHzdStatClear who p eng v s
  | .errStatClear who p eng v => Sys2Proof.Machine.execErrStatClear who p eng v s
  | .drwErrClear who p v => Sys2Proof.Machine.execDrwErrClear who p v s
  | .krfVrRdWrite who p v => Sys2Proof.Machine.execKrfVrRdWrite who p v s
  | .ltCfgWrite who p l v => Sys2Proof.Machine.execLtCfgWrite who p l v s
  | .mbxDbWrite who m cl v other => Sys2Proof.Machine.execMbxDbWrite who m cl v other s
  | .mbxDbRWrite who m cl v other => Sys2Proof.Machine.execMbxDbRWrite who m cl v other s
  | .mbxMaskWrite who m ret cl v => Sys2Proof.Machine.execMbxMaskWrite who m ret cl v s
  | .mbxRoleWrite who v => Sys2Proof.Machine.execMbxRoleWrite who v s
  | .fabMapWrite who n v => Sys2Proof.Machine.execFabMapWrite who n v s
  | .fabBypWrite who k v => Sys2Proof.Machine.execFabBypWrite who k v s
  | .ctbTrimWrite who v => Sys2Proof.Machine.execCtbTrimWrite who v s
  | .tlLateClr who p v => Sys2Proof.Machine.execTlLateClr who p v s
  | .seqCtbcmpWrite who p v => Sys2Proof.Machine.execSeqCtbcmpWrite who p v s
  | .barCfgWrite who p b v => Sys2Proof.Machine.execBarCfgWrite who p b v s
  | .memRgnCtlWrite who n v => Sys2Proof.Machine.execMemRgnCtlWrite who n v s
  | .memRetireGo who v => Sys2Proof.Machine.execMemRetireGo who v s
  | .memJobstWrite who v => Sys2Proof.Machine.execMemJobstWrite who v s
  | .sthCfgWrite who p off v => Sys2Proof.Machine.execSthCfgWrite who p off v s
  | .slCtlEnWrite who l v => Sys2Proof.Machine.execSlCtlEnWrite who l v s
  | .slCtlRetire who l => Sys2Proof.Machine.execSlCtlRetire who l s
  | .slRtWrite who n v => Sys2Proof.Machine.execSlRtWrite who n v s
  | .tsCfgWrite who v => Sys2Proof.Machine.execTsCfgWrite who v s
  | .fltAckWrite who v => Sys2Proof.Machine.execFltAckWrite who v s
  | .cfcAckWrite who p v => Sys2Proof.Machine.execCfcAckWrite who p v s
  | .fltCfgWrite who n v => Sys2Proof.Machine.execFltCfgWrite who n v s
  | .fltFirstClear who v => Sys2Proof.Machine.execFltFirstClear who v s
  | .progLimitWrite who p v => Sys2Proof.Machine.execProgLimitWrite who p v s
  | .snpCtlWrite who v => Sys2Proof.Machine.execSnpCtlWrite who v s
  | .engineLatencyReached p eng => Sys2Proof.Machine.execEngineLatencyReached p eng s
  | .operationCommit p id => Sys2Proof.Machine.execOperationCommit p id s
  | .checkpointEntryArrival p => Sys2Proof.Machine.execCheckpointEntryArrival p s
  | .ieee1588Message port time => Sys2Proof.Machine.execIeee1588Message port time s
  | .d3hotTransition d3 => Sys2Proof.Machine.execD3hotTransition d3 s
  | .trimAdjust => Sys2Proof.Machine.execTrimAdjust s
  | .refclkLoss => Sys2Proof.Machine.execRefclkLoss s
  | .holdoverRelock => Sys2Proof.Machine.execHoldoverRelock s
  | .holdoverTimeout => Sys2Proof.Machine.execHoldoverTimeout s
  | .migrationPageMove => Sys2Proof.Machine.execMigrationPageMove s
  | .migrationDone => Sys2Proof.Machine.execMigrationDone s
  | .plannedSwitchover => Sys2Proof.Machine.execPlannedSwitchover s
  | .thermtrip => Sys2Proof.Machine.execThermtrip s
  | .layer2UploadDone => Sys2Proof.Machine.execLayer2UploadDone s
  | .grantIssue => Sys2Proof.Machine.execGrantIssue s
  | .pwrOkFall => Sys2Proof.Machine.execPwrOkFall s
  | .vddAonLow => Sys2Proof.Machine.execVddAonLow s
  | .sysRstN => Sys2Proof.Machine.execSysRstN s
  | .mepPerstN => Sys2Proof.Machine.execMepPerstN s
  | .functionLevelReset => Sys2Proof.Machine.execFunctionLevelReset s
  | .trstN => Sys2Proof.Machine.execTrstN s
  | .tapIdcode => Sys2Proof.Machine.execTapIdcode s
  | .traceStatusRecord => Sys2Proof.Machine.execTraceStatusRecord s
  | .haltTraceRecord => Sys2Proof.Machine.execHaltTraceRecord s
  | .traceDropRecord => Sys2Proof.Machine.execTraceDropRecord s
  | .sysRstNRelease => Sys2Proof.Machine.execSysRstNRelease s
  | .railsWithinRange => Sys2Proof.Machine.execRailsWithinRange s
  | .accountantRunning => Sys2Proof.Machine.execAccountantRunning s
  | .lockstepErrNRelease => Sys2Proof.Machine.execLockstepErrNRelease s

end Sys2Proof.Machine
end

