-- ==== Sys2Proof/WellFormed.lean ====
section
/-!
DEFINITION. Well-formed commands: every unit and register that a command names exists (01 R23; 08 R278; 09 R335, R336;
11 R371; 12 R411; 13 R471).
-/
namespace Sys2Proof

/-- Does the mailbox exist: one of 288 core mailboxes, or chip mailbox 0 to 15? -/
def Mbx.wf : Mbx → Bool
  | .core p => decide (p < 288)
  | .chip n => decide (n < 16)

def Instr.wf : Instr → Bool
  | .rvInstruction p => decide (p < 288)
  | .localInterrupt p => decide (p < 288)
  | .qpushV p rs1 => decide (p < 288) && decide (rs1 < 32)
  | .qpushK p rs1 => decide (p < 288) && decide (rs1 < 32)
  | .qop p rs1 => decide (p < 288) && decide (rs1 < 32)
  | .benqF p rs1 => decide (p < 288) && decide (rs1 < 32)
  | .benqB p rs1 => decide (p < 288) && decide (rs1 < 32)
  | .qfence p rs1 => decide (p < 288) && decide (rs1 < 32)
  | .mfence p => decide (p < 288)
  | .qxret p => decide (p < 288)
  | .ctbrl p rd => decide (p < 288) && decide (rd < 32)
  | .ctbrh p rd => decide (p < 288) && decide (rd < 32)
  | .tarm p rs1 rs2 => decide (p < 288) && decide (rs1 < 32) && decide (rs2 < 32)
  | .barv p rd rs1 => decide (p < 288) && decide (rd < 32) && decide (rs1 < 32)
  | .bwait p rs1 rs2 => decide (p < 288) && decide (rs1 < 32) && decide (rs2 < 32)
  | .bpoll p rd rs1 rs2 => decide (p < 288) && decide (rd < 32) && decide (rs1 < 32) && decide (rs2 < 32)
  | .dbell p rs1 => decide (p < 288) && decide (rs1 < 32)
  | .wrung p rd rs1 rs2 => decide (p < 288) && decide (rd < 32) && decide (rs1 < 32) && decide (rs2 < 32)
  | .greq p rd rs1 => decide (p < 288) && decide (rd < 32) && decide (rs1 < 32)
  | .gstat p rd rs1 => decide (p < 288) && decide (rd < 32) && decide (rs1 < 32)
  | .grel p rs1 => decide (p < 288) && decide (rs1 < 32)
  | .seqStallRetire p => decide (p < 288)
  | .condBlockHead p => decide (p < 288)
  | .blockDispatch p => decide (p < 288)
  | .blockLaunch p _ => decide (p < 288)
  | .fnop p => decide (p < 288)
  | .fwld p => decide (p < 288)
  | .fmma p => decide (p < 288)
  | .bnop p => decide (p < 288)
  | .bwld p => decide (p < 288)
  | .bmma p => decide (p < 288)
  | .bcm p => decide (p < 288)
  | .cvt p _ => decide (p < 288)
  | .pdrn p _ => decide (p < 288)
  | .ldt p _ => decide (p < 288)
  | .red p _ => decide (p < 288)
  | .send p _ => decide (p < 288)
  | .recv p _ => decide (p < 288)
  | .stsh p _ => decide (p < 288)
  | .usth p _ => decide (p < 288)
  | .igth p _ => decide (p < 288)
  | .kcap p _ => decide (p < 288)
  | .dacc p _ => decide (p < 288)
  | .daccApply p _ => decide (p < 288)
  | .mov p _ => decide (p < 288)
  | .vadd p => decide (p < 288)
  | .vsub p => decide (p < 288)
  | .vmul p => decide (p < 288)
  | .vfma p => decide (p < 288)
  | .vdiv p => decide (p < 288)
  | .vsqrt p => decide (p < 288)
  | .vrem p => decide (p < 288)
  | .vmin p => decide (p < 288)
  | .vmax p => decide (p < 288)
  | .vminn p => decide (p < 288)
  | .vmaxn p => decide (p < 288)
  | .vminm p => decide (p < 288)
  | .vmaxm p => decide (p < 288)
  | .vminmn p => decide (p < 288)
  | .vmaxmn p => decide (p < 288)
  | .vcmpq p => decide (p < 288)
  | .vcmps p => decide (p < 288)
  | .vcvt p => decide (p < 288)
  | .vcvti p => decide (p < 288)
  | .vcvtf p => decide (p < 288)
  | .vrint p => decide (p < 288)
  | .vscaleb p => decide (p < 288)
  | .vlogb p => decide (p < 288)
  | .vnextup p => decide (p < 288)
  | .vnextdn p => decide (p < 288)
  | .vneg p => decide (p < 288)
  | .vabs p => decide (p < 288)
  | .vcpsgn p => decide (p < 288)
  | .vclass p => decide (p < 288)
  | .vrfill p => decide (p < 288)
  | .ksel p => decide (p < 288)
  | .kchk p => decide (p < 288)
  | .kchkDone p => decide (p < 288)
  | .coreVerdictMsg p _ => decide (p < 288)
  | .layerVerdictMsg p _ => decide (p < 288)
  | .stepBoundary _ => true
  | .shardAmaxMsg p _ _ _ => decide (p < 288)
  | .tensorScaleMsg p _ _ _ => decide (p < 288)
  | .stepRelease _ => true
  | .packetForward r _ _ => decide (r < 288)
  | .dataMessage p _ _ => decide (p < 288)
  | .voidMessage p _ => decide (p < 288)
  | .readyToken p _ => decide (p < 288)
  | .deliveryAck p _ => decide (p < 288)
  | .storeWrite p _ => decide (p < 288)
  | .storeWriteAck p _ => decide (p < 288)
  | .storeReadRequest p _ => decide (p < 288)
  | .storeReadResponse p _ => decide (p < 288)
  | .barrierArrival p _ => decide (p < 288)
  | .barrierCompletion p _ => decide (p < 288)
  | .stewardMessage _ _ => true
  | .rankAnnounce _ _ => true
  | .partLostMsg _ => true
  | .memoryRequest _ _ => true
  | .memoryResponse _ => true
  | .linkStopPacket l => decide (l < 32)
  | .ctbcmpMatch p => decide (p < 288)
  | .timedStart p _ => decide (p < 288)
  | .hbmScrub _ _ => true
  | .selfRefreshEntry _ => true
  | .hbmTemperature _ _ => true
  | .cxlDeviceDown _ => true
  | .cowCopyDone _ => true
  | .spillDone p => decide (p < 288)
  | .prefetchStart p => decide (p < 288)
  | .prefetchDone p => decide (p < 288)
  | .stashHoldTimeout p => decide (p < 288)
  | .pmdTrainingDone l => decide (l < 32)
  | .fecLock l => decide (l < 32)
  | .identFlit l _ _ _ _ _ => decide (l < 32)
  | .trainingTimeout l => decide (l < 32)
  | .dataFlit l _ _ => decide (l < 32)
  | .idleFlit l _ => decide (l < 32)
  | .nakFlit l _ => decide (l < 32)
  | .timeFlit l _ _ _ _ => decide (l < 32)
  | .lmFlit l _ _ => decide (l < 32)
  | .ackTimeout l => decide (l < 32)
  | .nakRepeat l => decide (l < 32)
  | .episodeTimeout l => decide (l < 32)
  | .laneSignalLoss l => decide (l < 32)
  | .fecFailure l _ => decide (l < 32)
  | .linkDegrade l _ => decide (l < 32)
  | .linkRetrain l => decide (l < 32)
  | .timeExchangeStart l _ => decide (l < 32)
  | .disciplineWindow _ => true
  | .replan _ => true
  | .channelNotice m _ => m.wf
  | .ifQuery c ch => decide (c < 8) && decide (ch < 32)
  | .chReset c ch => decide (c < 8) && decide (ch < 32)
  | .jobLoad c ch _ => decide (c < 8) && decide (ch < 32)
  | .jobStart c ch => decide (c < 8) && decide (ch < 32)
  | .jobUnload c ch => decide (c < 8) && decide (ch < 32)
  | .stepRun c ch => decide (c < 8) && decide (ch < 32)
  | .stepPause c ch => decide (c < 8) && decide (ch < 32)
  | .snapTake c ch => decide (c < 8) && decide (ch < 32)
  | .snapRestore c ch _ => decide (c < 8) && decide (ch < 32)
  | .coreFence c ch _ => decide (c < 8) && decide (ch < 32)
  | .coreUnfence c ch _ => decide (c < 8) && decide (ch < 32)
  | .telQuery c ch => decide (c < 8) && decide (ch < 32)
  | .fltAck c ch => decide (c < 8) && decide (ch < 32)
  | .updStage c ch _ => decide (c < 8) && decide (ch < 32)
  | .updCommit c ch => decide (c < 8) && decide (ch < 32)
  | .updAbort c ch => decide (c < 8) && decide (ch < 32)
  | .polPropose c ch => decide (c < 8) && decide (ch < 32)
  | .polApprove c ch => decide (c < 8) && decide (ch < 32)
  | .envSet c ch => decide (c < 8) && decide (ch < 32)
  | .inputFetch p _ => decide (p < 288)
  | .log p => decide (p < 288)
  | .updPhaseDone _ => true
  | .lockstepMismatch _ => true
  | .rdmaConnect _ _ _ => true
  | .clientWindowRead _ _ _ => true
  | .clientWindowWrite _ _ _ => true
  | .faultEvent _ _ _ _ => true
  | .faultWindowEnd _ => true
  | .graceExpiry _ _ => true
  | .progressTimeout p => decide (p < 288)
  | .benchThermal b => decide (b < 72)
  | .overCurrent _ => true
  | .captureComplete _ => true
  | .captureCommit _ => true
  | .destinationFail _ => true
  | .accountingPeriod _ _ => true
  | .grantRequestMsg p _ => decide (p < 288)
  | .calibration _ _ => true
  | .exceedCheck _ => true
  | .pointChange b => decide (b < 72)
  | .benchPark b => decide (b < 72)
  | .bistDone p _ _ => decide (p < 288)
  | .powerGood _ _ _ => true
  | .bootStageDone _ => true
  | .bootStageTimeout _ => true
  | .railOutOfRange _ => true
  | .tapBypass _ => true
  | .pcieSurpriseRemoval _ => true
  | .i3cOffsetWrite _ => true
  | .i3cRead _ => true
  | .setdasa _ => true
  | .entdaa _ => true
  | .i2cTransfer _ _ => true
  | .telemetryRefresh _ => true
  | .registerWrite _ _ _ _ _ => true
  | .windowPairAccess p _ _ _ => decide (p < 288)
  | .seqCtlWrite _ p _ => decide (p < 288)
  | .sramAliasWrite _ p _ _ => decide (p < 288)
  | .qeCfgWrite _ p n _ => decide (p < 288) && decide (n < 16)
  | .qeCfgTakeEffect p n => decide (p < 288) && decide (n < 16)
  | .rsRegWrite _ p k _ => decide (p < 288) && decide (k < 8)
  | .rsWriteLand p k => decide (p < 288) && decide (k < 8)
  | .clampClr _ p _ => decide (p < 288)
  | .sctCfgWrite _ p n _ => decide (p < 288) && decide (n < 64)
  | .sctScaleWrite _ p n _ => decide (p < 288) && decide (n < 64)
  | .sctHistWrite _ p n b _ => decide (p < 288) && decide (n < 64) && decide (b < 16)
  | .sctLinkWrite _ p n _ _ => decide (p < 288) && decide (n < 64)
  | .feRepairWrite _ p _ => decide (p < 288)
  | .feBistStart _ p _ => decide (p < 288)
  | .beRepairWrite _ p _ => decide (p < 288)
  | .beBistStart _ p _ => decide (p < 288)
  | .vuFcsrWrite _ p _ => decide (p < 288)
  | .hzdStatClear _ p _ _ => decide (p < 288)
  | .errStatClear _ p _ _ => decide (p < 288)
  | .drwErrClear _ p _ => decide (p < 288)
  | .krfVrRdWrite _ p _ => decide (p < 288)
  | .ltCfgWrite _ p l _ => decide (p < 288) && decide (l < 1024)
  | .mbxDbWrite _ m _ _ _ => m.wf
  | .mbxDbRWrite _ m _ _ _ => m.wf
  | .mbxMaskWrite _ m _ _ _ => m.wf
  | .mbxRoleWrite _ _ => true
  | .fabMapWrite _ n _ => decide (n < 256)
  | .fabBypWrite _ k _ => decide (k < 5)
  | .ctbTrimWrite _ _ => true
  | .tlLateClr _ p _ => decide (p < 288)
  | .seqCtbcmpWrite _ p _ => decide (p < 288)
  | .barCfgWrite _ p b _ => decide (p < 288) && decide (b < 16)
  | .memRgnCtlWrite _ n _ => decide (n < 32)
  | .memRetireGo _ _ => true
  | .memJobstWrite _ _ => true
  | .sthCfgWrite _ p _ _ => decide (p < 288)
  | .slCtlEnWrite _ l _ => decide (l < 32)
  | .slCtlRetire _ l => decide (l < 32)
  | .slRtWrite _ n _ => decide (n < 4096)
  | .tsCfgWrite _ _ => true
  | .fltAckWrite _ _ => true
  | .cfcAckWrite _ p _ => decide (p < 288)
  | .fltCfgWrite _ n _ => decide (n < 2350)
  | .fltFirstClear _ _ => true
  | .progLimitWrite _ p _ => decide (p < 288)
  | .snpCtlWrite _ _ => true
  | .engineLatencyReached p _ => decide (p < 288)
  | .operationCommit p _ => decide (p < 288)
  | .checkpointEntryArrival p => decide (p < 288)
  | .ieee1588Message _ _ => true
  | .d3hotTransition _ => true
  | .trimAdjust => true
  | .refclkLoss => true
  | .holdoverRelock => true
  | .holdoverTimeout => true
  | .migrationPageMove => true
  | .migrationDone => true
  | .plannedSwitchover => true
  | .thermtrip => true
  | .layer2UploadDone => true
  | .grantIssue => true
  | .pwrOkFall => true
  | .vddAonLow => true
  | .sysRstN => true
  | .mepPerstN => true
  | .functionLevelReset => true
  | .trstN => true
  | .tapIdcode => true
  | .traceStatusRecord => true
  | .haltTraceRecord => true
  | .traceDropRecord => true
  | .sysRstNRelease => true
  | .railsWithinRange => true
  | .accountantRunning => true
  | .lockstepErrNRelease => true

end Sys2Proof
end

