-- ==== Sys2Proof/Safety.lean ====
section
/-!
DEFINITION. What claims about runs are stated in: answers of a step, the canonical form of memories, parts whose
islands run, and states that only a power cycle leaves.
-/
namespace Sys2Proof.Machine

/-- The part's islands run: it is booting or ready, and no reset input holds it (17 R549, R552). -/
def State.up (s : State) : Prop :=
  (s.chip.pins.power = .boot ∨ s.chip.pins.power = .ready) ∧ s.chip.pins.sysRst = false

/-- The islands run and hold mode is off (13 R464). -/
def State.awake (s : State) : Prop := s.up ∧ s.chip.hold = false

/-- The trim and the fractional register are within their ranges (09 R318, R323). -/
def Chip.trimOk (s : Chip) : Prop :=
  s.ctbFrac < 2 ^ 32 ∧ signedOf 32 (field (s.reg rCTB_TRIM) 0 32) ≤ 858993 ∧ -858993 ≤ signedOf 32 (field (s.reg rCTB_TRIM) 0 32)

/-- The HBM and CXL memories are in canonical form. -/
def State.memWf (s : State) : Prop := Memory.wf s.chip.hbm = true ∧ Memory.wf s.chip.cxl = true

/-- A boot halt, with no power cycle and no thermal shutdown among the commands that wait (16 R517). -/
def powerCommand : Instr → Bool
  | .pwrOkFall => true
  | .vddAonLow => true
  | .thermtrip => true
  | _ => false

def State.halted (s : State) : Prop := s.chip.pins.power = .halt ∧ s.pending.all (fun c => !powerCommand c) = true

/-- The command completes: it answers a next state, of which `post` holds. -/
def Completes (i : Instr) (s : State) (post : State → Prop) : Prop := ∃ t, exec i s = .next t ∧ post t

/-- The command answers the state in which the part is `m` and nothing else has changed. -/
def Answers (i : Instr) (s : State) (m : Chip) : Prop := exec i s = .next { s with chip := m }

/-- The two parts differ in core p and in records for the trace port only. -/
def Chip.sameBut (p : Nat) (s m : Chip) : Prop :=
  (∀ q, q ≠ p → m.core q = s.core q) ∧
  m = { s with cores := m.cores, pins := { s.pins with trace := m.pins.trace, traceLost := m.pins.traceLost } }

/-- Nothing changes but core p, which becomes `c`: what a command settles is settled (13 R467; 05 R176, R186), and the new
verdict records go to the trace port (17 R562). -/
def State.onlyCore (s : State) (p : Nat) (c : Core) (t : State) : Prop :=
  t.pending = s.pending ∧ s.chip.sameBut p t.chip ∧
  t.chip.core p = { Core.settled (s.chip.core p) c (max (s.chip.cycleNow p) c.cyc) with vrNew := [] }

/-- Nothing changes but core p. -/
def State.coreOnly (s : State) (p : Nat) (t : State) : Prop := t.pending = s.pending ∧ s.chip.sameBut p t.chip

/-- The registers of a core are kept; the count of waits on a backward copy runs on with time (05 R186). -/
def Core.regsKept (c d : Core) : Prop := ∀ a, a ≠ rDVT_PREF_CNT → d.reg a = c.reg a

/-- A packet or message has arrived at core p: of the other cores only their packets and messages on the way may change, and
nothing in memory or in the chip's registers does. -/
def State.arrival (s : State) (p : Nat) (t : State) : Prop :=
  t.pending = s.pending ∧ t.chip.hbm = s.chip.hbm ∧ t.chip.cxl = s.chip.cxl ∧ t.chip.regs = s.chip.regs ∧
  ∀ q, q ≠ p → t.chip.core q = { s.chip.core q with out := (t.chip.core q).out, sys := (t.chip.core q).sys }

/-- The command at the head of channel `ch` of client mailbox `c`, of index `i`, has opcode `op` and message `g`, and passes
every check of 12 R426-R433. -/
def State.clientHead (s : State) (c ch i op : Nat) (g : List Byte) : Prop :=
  s.awake ∧ s.chip.pins.power = .ready ∧ s.chip.vcf.draining = false ∧ c < 8 ∧ ch < 32 ∧
  (∃ d, let m := Mbx.chip (8 + c)
    let len := s.chip.chRd m (d + 4) 4
    let ptr := s.chip.chRd m (d + 8) 8
    s.chip.headCmd m ch = some (i, d) ∧ s.chip.chRd m d 4 = (i + 1) % 2 ^ 32 ∧ 16 ≤ len ∧ len ≤ 65536 ∧ ptr < 2 ^ 22 ∧
    inPayload ptr len = true ∧ s.chip.chRd m (d + 16) 16 = 0 ∧ g = Bytes.rdN (s.chip.ringMem m) ptr len) ∧
  listLe g 0 2 = op ∧ listLe g 2 1 = s.chip.vcfVer.1 ∧ listLe g 3 1 ≤ s.chip.vcfVer.2.1 ∧
  (∃ grp, opGroup op = some grp ∧ bitOf (s.chip.reg (rMBX_CL_CFG c)) (8 + grp) = true) ∧
  opReserved op g = none ∧ s.chip.stateBad op = false

/-- The part once VCF has taken the command at the head of the channel (12 R426). -/
def State.took (s : State) (c ch : Nat) : Chip := s.chip.takeCmd (.chip (8 + c)) ch

/-- A sequencer instruction of a core has retired: the pc moves to `pc` and minstret counts. -/
def Core.retired (c : Core) (pc : Word) : Core :=
  { c.count mSeq 1 with seq := { c.seq with pc := pc, instret := (c.seq.instret + 1) % 2 ^ 64 } }

/-- Core p once it is `c` and has just issued work: what has passed its tick is marked late (09 R325). -/
def State.marked (s : State) (p : Nat) (c : Core) : Core := ((s.chip.setCore p c).markNew p).core p

/-- The sequencer of core p executes: the islands run, RUN is set and no instruction stalls. -/
def State.sequencing (s : State) (p : Nat) : Prop := s.awake ∧ p < nCores ∧ s.chip.seqRuns p = true

/-- A run is safe as long as no command stops it. -/
def Safe (n : Nat) (s : State) : Prop := ∃ t, Host.Core.run Sys2Proof.core n s = .next t

end Sys2Proof.Machine
end

