-- ==== Sys2Proof/Certificates/Slice0/Obligations.lean ====
section
/-!
DEFINITION. The statements about the model, from the numbered rules of the specification.
-/
open Sys2Proof Sys2Proof.Machine

/-! ### The queue and the step -/

/-- A step of a queue with command `c` at its front is `exec c` on the state with the queue's rest. -/
def Obligations.StepRunsFront : Prop :=
  ∀ (c : Instr) (rest : List Instr) (s : State),
    step { s with pending := c :: rest } = exec c { s with pending := rest }

/-- Commands leave the queue first in, first out: no command adds to the queue or takes another from it. Every command whose
units and registers exist answers a next state, and one that names a unit the part does not have stops by name. -/
def Obligations.QueueFirstInFirstOut : Prop :=
  (∀ (c : Instr) (rest : List Instr) (s t : State),
    step { s with pending := c :: rest } = .next t → t.pending = rest) ∧
  (∀ (c : Instr) (s : State), c.wf = true → Completes c s fun t => t.pending = s.pending) ∧
  (∀ (c : Instr) (s : State), c.wf = false → exec c s = .fault .noSuchUnit)

/-- R318: on a cycle of TBCLK the counter advances by 0, 1 or 2 ticks (an idle step is such a cycle, log 1). -/
def Obligations.IdleStepCounts : Prop :=
  ∀ (s : State), s.up → s.pending = [] → s.chip.ctbFrac < 2 ^ 32 →
    signedOf 32 (field (s.chip.reg rCTB_TRIM) 0 32) ≤ 858993 → -858993 ≤ signedOf 32 (field (s.chip.reg rCTB_TRIM) 0 32) →
    ∃ t k, step s = .next t ∧ (k = 0 ∨ k = 1 ∨ k = 2) ∧ t.chip.now = (s.chip.now + k) % 2 ^ 64 ∧
      t.chip.ctbFrac < 2 ^ 32 ∧ t.chip.hbm = s.chip.hbm ∧ t.chip.cxl = s.chip.cxl

/-- R517: a power cycle is the only way out of a boot halt (thermal shutdown, which takes the supplies, apart). -/
def Obligations.HaltEndsWithPowerCycleOnly : Prop :=
  ∀ (s t : State), s.halted → step s = .next t → t.halted

/-- The canonical form of the part's HBM and CXL memory is kept by every step, from every state. -/
def Obligations.MemoryStaysCanonical : Prop :=
  ∀ (s t : State), s.memWf → step s = .next t → t.memWf

/-! ### The sequencer and its queue extension (08) -/

/-- 08 R267: CTBRL returns bits [31:0] of the local copy of the time base and latches bits [63:32], CTBRH returns the buffer,
which resets to 0 and is not changed by a trap. TARM arms a launch tick (R268, in part). A destination of x0 is discarded. -/
def Obligations.TimeBaseInstructions : Prop :=
  Core.reset.seq.tbBuf = 0 ∧ ∀ (s : State) (p rd rs1 rs2 : Nat), s.sequencing p → rd < 32 → rs1 < 32 → rs2 < 32 →
    let c := s.chip.core p
    let now := s.chip.localTick p
    let lo := c.setX rd (BitVec.ofNat 32 now)
    Completes (.ctbrl p rd) s (s.onlyCore p (Core.retired
      { lo with seq := { lo.seq with tbBuf := BitVec.ofNat 32 (now / 2 ^ 32) } } (c.seq.pc + 4))) ∧
    Completes (.ctbrh p rd) s (s.onlyCore p ((c.setX rd c.seq.tbBuf).retired (c.seq.pc + 4))) ∧
    Completes (.localInterrupt p) s (fun t => (t.chip.core p).seq.tbBuf = c.seq.tbBuf) ∧
    (∀ int cause tval, (c.trapM int cause tval).seq.tbBuf = c.seq.tbBuf) ∧
    Completes (.tarm p rs1 rs2) s (s.onlyCore p (Core.retired
      { c with seq := { c.seq with arm := some ((c.xr rs1).toNat + (c.xr rs2).toNat * 2 ^ 32) } } (c.seq.pc + 4)))

/-- 08 R265, R266, R262, R276 (in part): the fences retire when nothing they wait for is open, and a QFENCE whose kinds are open
stalls; it retires once nothing it waits for is open, and its cycles are counted. QXRET takes the pc from QXEPC and UIE from UPIE. -/
def Obligations.FencesAndReturn : Prop :=
  (∀ (s : State) (p rs1 : Nat), s.sequencing p → rs1 < 32 →
     let c := s.chip.core p
     ((c.xr rs1).toNat < 32 → c.fenceOpen (c.xr rs1).toNat = false →
       Completes (.qfence p rs1) s (s.onlyCore p (c.retired (c.seq.pc + 4)))) ∧
     ((c.xr rs1).toNat < 32 → c.fenceOpen (c.xr rs1).toNat = true →
       Completes (.qfence p rs1) s fun t => s.coreOnly p t ∧ (t.chip.core p).seq.pc = c.seq.pc ∧
         (t.chip.core p).seq.instret = c.seq.instret ∧ ((t.chip.core p).seq.stall.map Stall.cause) = some .qfence) ∧
     (c.mfenceOpen = false → Completes (.mfence p) s (s.onlyCore p (c.retired (c.seq.pc + 4)))) ∧
     (c.seq.uMode = true → Completes (.qxret p) s (s.onlyCore p
       ((c.setCsr csrQxstatus (setField (c.csr csrQxstatus) 0 1 (field (c.csr csrQxstatus) 1 1))).retired
         (BitVec.ofNat 32 (c.csr csrQxepc)))))) ∧
  (∀ (s : State) (p rs1 : Nat) (x : Stall), s.awake → p < nCores → rs1 < 32 →
     let c := s.chip.core p
     bitOf (c.reg rSEQ_CTL) 0 = true → c.seq.stall = some x → x.word = BitVec.ofNat 32 (qxWord 0 3 0 rs1 0) → x.len = 4 →
     (c.xr rs1).toNat < 32 → c.fenceOpen (c.xr rs1).toNat = false →
     Completes (.seqStallRetire p) s fun t => s.coreOnly p t ∧ (t.chip.core p).seq.stall = none ∧
       (t.chip.core p).seq.pc = c.seq.pc + 4 ∧
       (t.chip.core p).reg rSEQ_STALL_CNT = (c.reg rSEQ_STALL_CNT + (s.chip.cycleNow p - x.since)) % 2 ^ 64)

/-- 08 R269; 09 R332, R333 (in part): BWAIT passes a complete generation, BPOLL returns 0 for an open one and 1 for a
complete one, BARV returns the generation it joins, counts the arrival and sends it to the local home. -/
def Obligations.BarrierInstructions : Prop :=
  ∀ (s : State) (p rd rs1 rs2 : Nat), s.sequencing p → rd < 32 → rs1 < 32 → rs2 < 32 →
    let c := s.chip.core p
    let b := (c.xr rs1).toNat
    let g := (c.xr rs2).toNat
    b < 16 →
    (c.genAbove b g = false → g < barDone c b →
      Completes (.bwait p rs1 rs2) s (s.onlyCore p (c.retired (c.seq.pc + 4))) ∧
      Completes (.bpoll p rd rs1 rs2) s fun t => s.coreOnly p t ∧
        (∀ i, (t.chip.core p).xr i = if i = rd ∧ rd ≠ 0 then 1 else c.xr i) ∧ (t.chip.core p).seq.pc = c.seq.pc + 4) ∧
    (c.genAbove b g = false → barDone c b ≤ g →
      Completes (.bpoll p rd rs1 rs2) s (s.onlyCore p ((c.setX rd 0).retired (c.seq.pc + 4)))) ∧
    (barValid c b = true → barArr c b < barDone c b + 4 →
      Completes (.barv p rd rs1) s fun t => s.coreOnly p t ∧
        (∀ i, (t.chip.core p).xr i = if i = rd ∧ rd ≠ 0 then BitVec.ofNat 32 (barArr c b) else c.xr i) ∧
        barArr (t.chip.core p) b = (barArr c b + 1) % 2 ^ 32 ∧ ((t.chip.core p).barrier b).own = barArr c b + 1 ∧
        (t.chip.core p).out.length = c.out.length +
          (if (s.chip.physOf (field (barCfg c b) 0 4) (field (barCfg c b) 4 4)).isSome then 1 else 0) ∧
        (t.chip.core p).seq.pc = c.seq.pc + 4)

/-- 08 R220, R284; 05 R173 (in part): a word or descriptor that passes its checks is appended to its unit's queue, to the
transfer table or to its engine's ready list, and takes the next program-order number. -/
def Obligations.PushesEnterTheQueues : Prop :=
  ∀ (s : State) (p rs1 : Nat), s.sequencing p → rs1 < 32 →
    let c := s.chip.core p
    let a := (c.xr rs1).toNat
    let v := BitVec.ofNat 128 (leNat (c.localBytes a 16))
    let done := fun (i : Instr) (d : Core) => Completes i s (s.onlyCore p ((s.marked p d).retired (c.seq.pc + 4)))
    (c.structAddr a 16 = .good → vuWordOk v = true → c.endsOn (vQD v :: vuPops v) = true → c.vuWaiting < 32 →
      done (.qpushV p rs1) { c.issued.disarm with
        vuQ := c.vuQ ++ [{ seq := c.nseq, word := v, rm := field (c.reg rVU_FCSR) 0 3, arm := s.chip.armTick p }] }) ∧
    (c.structAddr a 16 = .good → kuWordOk v = true → (vu v 0 8 = 0x60 → c.endsOn [kQD v] = true) →
      (vu v 0 8 ≠ 0x60 → c.seq.uMode = false) → c.ku.length < 4 →
      done (.qpushK p rs1) { c.issued.disarm with
        ku := c.ku ++ [{ seq := c.nseq, word := v, epoch := (c.chain (kChain v)).epoch, arm := s.chip.armTick p }] }) ∧
    (c.structAddr a 64 = .good → c.opDescOk (c.localBytes a 64) = true →
      (c.seq.uMode && opNamesMonitor (fun x y => s.chip.physOf x y == some p) (c.localBytes a 64)) = false → c.ops.length < 64 →
      done (.qop p rs1) { c.issued.disarm.structRead a 64 with
        ops := c.ops ++ [{ id := c.freePlace, seq := c.nseq, desc := c.localBytes a 64, arm := s.chip.armTick p, addr := a
                           hurt := c.upsetIn a 64 }] }) ∧
    (∀ be : Bool, c.structAddr a 32 = .good → blockOk c (c.localBytes a 32) be = true → c.seq.uMode = false →
      c.queued be + (blockDescOf (c.localBytes a 32)).len ≤ 32 → (if be then c.bwd else c.fwd).length < 8 →
      (let b := blockDescOf (c.localBytes a 32)
       let b := if b.timed then { b with launch := max b.launch (s.chip.localTick p) } else b
       let d := (c.setGrant b.grant fun g => { g with state := 3 }).issued
       done (if be then .benqB p rs1 else .benqF p rs1)
         (if be then { d with bwd := c.bwd ++ [(c.nseq, b)] } else { d with fwd := c.fwd ++ [(c.nseq, b)] })))

/-- 08 R271: WRUNG returns POS + UP(c, L), as every verdict applied at issue leaves it, and retires at once: it never stalls.
A chain or layer register with other bits set is an illegal instruction (R263). -/
def Obligations.WrungReturnsTheRung : Prop :=
  ∀ (s : State) (p rd rs1 rs2 : Nat), s.sequencing p → rd < 32 → rs1 < 32 → rs2 < 32 →
    let c := s.chip.core p
    let ch := (c.xr rs1).toNat
    let l := (c.xr rs2).toNat
    (ch < 64 → l < 1024 →
      Completes (.wrung p rd rs1 rs2) s (s.onlyCore p ((c.setX rd (BitVec.ofNat 32 (ltPos c l + c.up ch l))).retired (c.seq.pc + 4)))) ∧
    (64 ≤ ch ∨ 1024 ≤ l → Completes (.wrung p rd rs1 rs2) s fun t => s.coreOnly p t ∧ (t.chip.core p).csr csrMcause = 2 ∧
      (t.chip.core p).csr csrMepc = c.seq.pc.toNat ∧ (t.chip.core p).seq.uMode = false ∧ (t.chip.core p).seq.x = c.seq.x)

/-- 08 R270, R272 (in part): GREQ returns a handle that no outstanding grant has and sends the request; GSTAT returns a handle's
state; GREL releases a handle in state 1 or 2, and of any other state is an illegal instruction. Once no write outside the core is
open, DBELL sets bit rs1 [4:0] of MBX_DB of the core's mailbox. -/
def Obligations.GrantAndDoorbellInstructions : Prop :=
  (∀ (s : State) (p rd rs1 : Nat), s.sequencing p → rd < 32 → rs1 < 32 →
     let c := s.chip.core p
     let v := (c.xr rs1).toNat
     (v ≠ 0 → c.grants.length < 64 → c.nextHandle < 65536 → c.nextHandle ≠ 0 →
       Completes (.greq p rd rs1) s fun t => ∃ h, 1 ≤ h ∧ h < 65536 ∧ (∀ g ∈ c.grants, g.handle ≠ h) ∧
         (t.chip.core p).grants = c.grants ++ [{ handle := h, state := 1, nj := v }] ∧
         (∀ i, (t.chip.core p).xr i = if i = rd ∧ rd ≠ 0 then BitVec.ofNat 32 h else c.xr i) ∧
         t.chip.en.sent = s.chip.en.sent ++ [{ p := p, handle := h, nj := v }] ∧
         (∀ q, q ≠ p → t.chip.core q = s.chip.core q) ∧ t.chip.regs = s.chip.regs ∧ t.chip.hbm = s.chip.hbm) ∧
     (v < 65536 → Completes (.gstat p rd rs1) s (s.onlyCore p
       ((c.setX rd (BitVec.ofNat 32 (c.grantState v))).retired (c.seq.pc + 4)))) ∧
     (v < 65536 → (c.grantState v = 1 ∨ c.grantState v = 2) →
       Completes (.grel p rs1) s fun t => (t.chip.core p).grantState v = 0 ∧ (t.chip.core p).seq.pc = c.seq.pc + 4 ∧
         (∀ q, q ≠ p → t.chip.core q = s.chip.core q) ∧ t.chip.hbm = s.chip.hbm) ∧
     (v < 65536 → (c.grantState v = 0 ∨ c.grantState v = 3) → c.seq.uMode = false →
       Completes (.grel p rs1) s (s.onlyCore p (c.trapM false 2 (qxWord 2 7 0 rs1 0))))) ∧
  (∀ (s : State) (p rs1 : Nat), s.sequencing p → rs1 < 32 →
     let c := s.chip.core p
     let ch := (c.xr rs1).toNat
     ch < 32 → (c.seq.uMode = true → ch < 16) → c.mfenceOpen = false → (c.reg 0x80000) < 2 ^ 32 →
     Completes (.dbell p rs1) s (s.onlyCore p ((c.setReg 0x80000 (c.reg 0x80000 ||| 2 ^ ch)).retired (c.seq.pc + 4))))

/-- 08 R254, R255 (in part): an ADDI at the pc writes its sum, a jump-free instruction moves the pc past its four bytes, and
x0 stays 0. -/
def Obligations.AddiExecutes : Prop :=
  ∀ (s : State) (p rd rs1 imm : Nat), s.sequencing p → rd < 32 → rs1 < 32 → imm < 4096 →
    let c := s.chip.core p
    c.fetch = .ok (imm * 2 ^ 20 + rs1 * 2 ^ 15 + rd * 2 ^ 7 + 0x13, 4) →
    Completes (.rvInstruction p) s (s.onlyCore p
      ((c.setX rd (c.xr rs1 + BitVec.ofInt 32 (signedOf 12 imm))).retired (c.seq.pc + 4)))

/-- 08 R254, R262, R577 (in part): an ECALL of the program traps into M-mode with cause 8: mepc, mcause, mtval and mstatus are
written, the pc comes from mtvec, and the program-exception event is raised; a QXRET in M-mode is an illegal instruction and
raises none. A delegated interrupt that U-mode takes saves the pc, the bit number and UIE, clears UIE, and goes to QXTVEC. -/
def Obligations.TrapsEnterTheMonitor : Prop :=
  (∀ (s : State) (p : Nat), s.sequencing p →
     let c := s.chip.core p
     c.seq.uMode = true → c.fetch = .ok (0x73, 4) →
     Completes (.rvInstruction p) s fun t => s.coreOnly p t ∧
       (t.chip.core p).csr csrMepc = c.seq.pc.toNat ∧ (t.chip.core p).csr csrMcause = 8 ∧ (t.chip.core p).csr csrMtval = 0 ∧
       field ((t.chip.core p).csr csrMstatus) 11 2 = 0 ∧ field ((t.chip.core p).csr csrMstatus) 3 1 = 0 ∧
       field ((t.chip.core p).csr csrMstatus) 7 1 = field (c.csr csrMstatus) 3 1 ∧
       (t.chip.core p).seq.uMode = false ∧ (t.chip.core p).seq.pc = BitVec.ofNat 32 (field (c.csr csrMtvec) 2 30 * 4) ∧
       (t.chip.core p).seq.x = c.seq.x ∧ (t.chip.core p).raised = c.raised ++ [(evProgram, 8 + c.seq.pc.toNat * 2 ^ 32)]) ∧
  (∀ (s : State) (p : Nat), s.sequencing p → (s.chip.core p).seq.uMode = false →
     Completes (.qxret p) s (s.onlyCore p ((s.chip.core p).trapM false 2 (qxWord 2 3 0 0 0)))) ∧
  (∀ (s : State) (p k : Nat), s.awake → p < nCores →
     let c := s.chip.core p
     bitOf (c.reg rSEQ_CTL) 0 = true → c.seq.stall = none → k < 4 → bitOf (s.chip.mip p) (16 + k) = true →
     c.intTarget (16 + k) = some true → (∀ j, j < k → (bitOf (s.chip.mip p) (16 + j) && (c.intTarget (16 + j)).isSome) = false) →
     Completes (.localInterrupt p) s fun t => s.coreOnly p t ∧
       (t.chip.core p).csr csrQxepc = c.seq.pc.toNat ∧ (t.chip.core p).csr csrQxcause = 16 + k ∧
       (t.chip.core p).csr csrQxstatus = field (c.csr csrQxstatus) 0 1 * 2 ∧
       (t.chip.core p).seq.pc = BitVec.ofNat 32 (c.csr csrQxtvec) ∧ (t.chip.core p).seq.uMode = c.seq.uMode ∧
       (t.chip.core p).seq.x = c.seq.x)

/-- 08 R254: x0 reads 0 and a write of it is discarded; every other register reads what was written. -/
def Obligations.RegisterWriteReads : Prop :=
  ∀ (c : Core) (i j : Nat) (v : Word), (c.setX i v).xr j = (if j = i ∧ i ≠ 0 then v else c.xr j) ∧ (c.setX i v).xr 0 = 0

/-! ### The forward and backward engines (04, 05, 07) -/

/-- 07 R218, R231, R232; 05 R175 (in part): an engine launches the next instruction of its running block on its counted
cycle. A load, a multiply or a mask load becomes an executing issue with its named destinations; FNOP and BNOP execute
nothing. No tile of the other engine, no byte of the store or of memory, no sequencer and no other core changes. -/
def Obligations.EngineLaunches : Prop :=
  ∀ (s : State) (p : Nat) (be : Bool) (h : QHalf) (hs : List QHalf) (b : Nat) (w : BitVec 128), s.awake → p < nCores →
    let c := s.chip.core p
    let e := c.eng be
    e.loops = [] → e.halves = h :: hs → h.base = some b → h.words[h.next]? = some w →
    encErr c be (decide (h.next = 0)) h.prevLoff w = 0 → wLnd w = 0 → e.exec.length < 4 →
    (∀ x ∈ [(0x01, Instr.fwld p), (0x02, .fmma p), (0x11, .bwld p), (0x12, .bmma p), (0x13, .bcm p)], wOp w = x.1 →
      Completes x.2 s fun t =>
        let e' := (t.chip.core p).eng be
        (∃ y, e'.exec.length = e.exec.length + 1 ∧ e'.exec.getLast? = some y ∧ y.op = x.1 ∧ y.launch = h.nextAt b ∧
          y.dests = namedDests e w ∧ y.blk = h.blk) ∧ e'.t = e.t ∧
        (t.chip.core p).eng (!be) = c.eng (!be) ∧ (t.chip.core p).store = c.store ∧ (t.chip.core p).seq = c.seq ∧
        (∀ q, q ≠ p → t.chip.core q = s.chip.core q) ∧ t.chip.hbm = s.chip.hbm) ∧
    (∀ x ∈ [(0x00, Instr.fnop p), (0x10, .bnop p)], wOp w = x.1 →
      Completes x.2 s fun t =>
        let e' := (t.chip.core p).eng be
        e'.exec = (e.advance (h.nextAt b)).exec ∧ e'.a = (e.advance (h.nextAt b)).a ∧ e'.t = e.t ∧ e'.bufs = e.bufs ∧
        (∀ q, q ≠ p → t.chip.core q = s.chip.core q) ∧ t.chip.hbm = s.chip.hbm)

/-- 05 R174, R176, R180 (in part): a free port dispatches the forward head when it was passed over twice or no backward head is
eligible, and otherwise the backward head; the instructions are copied at four a cycle into the engine's free half. A COND block
at the head of the forward list is decided once: with its target present it retires without dispatch and its grant is given back;
with its target dropped the controller starts bringing the checkpoint entry, and the head stays. -/
def Obligations.BlocksAreDispatched : Prop :=
  (∀ (s : State) (p seq t : Nat) (b : BlockDesc) (rest : List (Nat × BlockDesc)), s.awake → p < nCores →
     let c := s.chip.core p
     c.fwd = (seq, b) :: rest → b.cond = true → b.decided = false → b.stash0 = some t →
     (∀ e, c.stash.entry? t = some e → e.loc ≠ .dropped →
       Completes (.condBlockHead p) s fun u =>
         (u.chip.core p).fwd = rest ∧ (u.chip.core p).stash.entry? t = some { e with pinned := true } ∧
         (u.chip.core p).grantState b.grant = 0 ∧ (u.chip.core p).fe = c.fe ∧ (u.chip.core p).portUntil = c.portUntil ∧
         (∀ q, q ≠ p → u.chip.core q = s.chip.core q) ∧ u.chip.hbm = s.chip.hbm) ∧
     (c.resident t = false → (∀ e, c.stash.entry? t = some e → e.loc = .dropped) →
       Completes (.condBlockHead p) s (s.onlyCore p
         { c with fwd := (seq, { b with decided := true }) :: rest, stash := { c.stash with bringing := b.stash1 } }))) ∧
  (∀ (s : State) (p seq : Nat) (b : BlockDesc) (rest : List (Nat × BlockDesc)) (be : Bool), s.awake → p < nCores →
     let c := s.chip.core p
     field (s.chip.reg (rEN_B_PT (benchOf p))) 0 4 = field (s.chip.reg (rEN_B_PT (benchOf p))) 4 4 →
     c.portUntil ≤ s.chip.coreCycle p → c.eligible be = true → (if be then c.bwd else c.fwd) = (seq, b) :: rest →
     (be = (!(c.eligible false && (decide (c.fwdElig ≥ 2) || !c.eligible true)))) →
     Completes (.blockDispatch p) s fun t => s.coreOnly p t ∧
       (let d := t.chip.core p
        (∃ h, (d.eng be).halves = (c.eng be).halves ++ [h] ∧ h.desc = b ∧ h.blk = seq ∧ h.words.length = b.len ∧
          h.next = 0 ∧ h.base = none ∧ h.copyDone = s.chip.coreCycle p + (b.len + 3) / 4 ∧
          d.portUntil = h.copyDone) ∧
        (if be then d.bwd else d.fwd) = rest ∧ (if be then d.fwd else d.bwd) = (if be then c.fwd else c.bwd) ∧
        d.eng (!be) = c.eng (!be) ∧ d.store = c.store ∧ d.seq = c.seq ∧
        (be = false → d.fwdElig = 0) ∧ (be = true → c.eligible false = true → d.fwdElig = c.fwdElig + 1)))

/-- 05 R175; 07 R231 (in part): a dispatched block launches once its copy is complete and SEAM cycles have passed since the previous
block's last launch, and, when it is timed, once the local time base is at or past LAUNCH; before that it does not launch. -/
def Obligations.BlockLaunches : Prop :=
  (∀ (s : State) (p : Nat) (k : Engine) (h : QHalf) (hs : List QHalf), s.awake → p < nCores →
     let be := k == .be
     let c := s.chip.core p
     (c.eng be).halves = h :: hs → h.base = none → (h.desc.timed = true → h.desc.launch ≤ s.chip.localTick p) →
     Completes (.blockLaunch p k) s fun t => s.coreOnly p t ∧
       (let d := t.chip.core p
        (∃ at_, (d.eng be).halves = { h with base := some at_, prevAt := at_ } :: hs ∧ h.copyDone ≤ at_ ∧
          (c.eng be).lastAt + h.desc.seam ≤ at_ ∧ s.chip.cycleNow p ≤ at_ ∧ d.cyc = at_) ∧
        (d.eng be).exec = (c.eng be).exec ∧ d.eng (!be) = c.eng (!be) ∧ d.store = c.store ∧ d.seq = c.seq ∧ d.ops = c.ops)) ∧
  (∀ (s : State) (p : Nat) (k : Engine) (h : QHalf) (hs : List QHalf), s.awake → p < nCores →
     ((s.chip.core p).eng (k == .be)).halves = h :: hs → h.base = none → h.desc.timed = true →
     s.chip.localTick p < h.desc.launch →
     Completes (.blockLaunch p k) s fun t => s.coreOnly p t ∧
       (t.chip.core p).eng (k == .be) = (s.chip.core p).eng (k == .be))

/-- 04 R133; 05 R162; 07 R218, R237 (in part): the engine runs on to the cycle on which its first issue completes, and that issue
leaves it; its column mask commits, and nothing else of the core's engines changes. While a launch is due before that cycle, the
engine does not run past it. -/
def Obligations.IssueCompletesAtItsLatency : Prop :=
  ∀ (s : State) (p : Nat) (k : Engine) (x : Issue), s.awake → p < nCores →
    let be := k == .be
    let e := (s.chip.core p).eng be
    e.firstDone = some x →
    (e.launchBefore x.finAt = false → Completes (.engineLatencyReached p k) s fun t =>
      let d := (t.chip.core p).eng be
      let r := e.advance x.finAt
      (∃ y, y ∈ r.exec ∧ y.finAt = x.finAt ∧ (∀ z ∈ e.exec, x.finAt ≤ z.finAt) ∧ d.exec = r.exec.erase y ∧ d.a = r.a ∧
        (y.mask = none → d.cm = e.cm) ∧ (∀ m v z, y.mask = some (m, v, z) → d.cm = e.cm.set m (BitVec.ofNat 128 v))) ∧
      d.t = e.t ∧ d.bufs = e.bufs ∧ d.halves = e.halves ∧
      (t.chip.core p).eng (!be) = (s.chip.core p).eng (!be) ∧ (t.chip.core p).store = (s.chip.core p).store ∧
      (∀ q, q ≠ p → t.chip.core q = s.chip.core q) ∧ t.chip.hbm = s.chip.hbm) ∧
    (e.launchBefore x.finAt = true → Completes (.engineLatencyReached p k) s fun t =>
      (t.chip.core p).eng be = e ∧ (∀ q, q ≠ p → t.chip.core q = s.chip.core q) ∧ t.chip.hbm = s.chip.hbm)

/-- 04 R141, R142, R143, R145, R146; 05 R165, R183 (in part): a Steward starts a self-test of a fenced core unless one
runs. It completes with BIST_DONE; T and A stay, and an array that cannot be repaired fences the core. FE_REPAIR and
BE_REPAIR bypass the row that the field of an unrepaired array names, and add it to the repair map. -/
def Obligations.SelfTestAndRepair : Prop :=
  ∀ (s : State) (p : Nat) (be : Bool), s.awake → p < nCores →
    let c := s.chip.core p
    (∀ (who : Agent) (v : Nat), isSteward who = true → c.fenced = true → v % 2 = 1 → bitOf (c.reg (rEngStat be)) 10 = false →
      Completes (if be then .beBistStart who p v else .feBistStart who p v) s
        (s.onlyCore p (c.setField (rEngStat be) 10 1 1))) ∧
    (∀ (who : Agent) (row a : Nat), isSteward who = true → c.fenced = true → a < 4 → row < 32 → c.bypassRow be a = 63 →
      c.spareBad be a = false → s.chip.sec.repairs.contains (p, b2n be, a, row) = false → s.chip.sec.repairs.length < 2304 →
      Completes (if be then .beRepairWrite who p (0x3F3F3F3F - (63 - row) * 2 ^ (8 * a)) else
          .feRepairWrite who p (0x3F3F3F3F - (63 - row) * 2 ^ (8 * a))) s fun t =>
        (t.chip.core p).bypassRow be a = row ∧ (∀ b, b < 4 → b ≠ a → (t.chip.core p).bypassRow be b = c.bypassRow be b) ∧
        t.chip.sec.repairs = s.chip.sec.repairs ++ [(p, b2n be, a, row)] ∧
        (t.chip.core p).fe = c.fe ∧ (t.chip.core p).be = c.be ∧ (∀ q, q ≠ p → t.chip.core q = s.chip.core q)) ∧
    (∀ (k : Engine) (arrays : List BistArray), be = (k == .be) → bitOf (c.reg (rEngStat be)) 10 = true →
      Completes (.bistDone p k arrays) s fun t => s.coreOnly p t ∧
        bitOf ((t.chip.core p).reg (rEngStat be)) 10 = false ∧ bitOf ((t.chip.core p).reg (rEngStat be)) 11 = true ∧
        ((t.chip.core p).eng be).t = (c.eng be).t ∧ (∀ r, (((t.chip.core p).eng be).acc r).el = ((c.eng be).acc r).el) ∧
        (t.chip.core p).eng (!be) = c.eng (!be) ∧
        ((∃ a x, a < 4 ∧ arrays[a]? = some x ∧ c.unrepairable be a x = true) → (t.chip.core p).fenced = true) ∧
        (arrays.length = 4 → (∀ a x, a < 4 → arrays[a]? = some x → c.unrepairable be a x = false) →
          (t.chip.core p).fenced = c.fenced))

/-! ### Operations (03, 08, 09, 10) -/

/-- 08 R280, R284, R287, R291, R297; 06 R198, R200; 09 R316 (in part): a conversion, drain, load or sum that starts keeps its
place with its results waiting, one item for each queue end it pushes; no other operation and no byte of the store changes. An
inlay gather does so too, or asks for the lines that lie in other cores' stores. A KCAP whose kerf core has room starts, and its
record enters that core's buffer. -/
def Obligations.OperationStarts : Prop :=
  (∀ (s : State) (p : Nat) (t : TOp), s.awake → p < nCores →
     let c := s.chip.core p
     let kept := fun (d : Core) => (∀ j, j ≠ t.id → d.op? j = c.op? j) ∧ d.store = c.store ∧ d.seq = c.seq ∧ d.vuQ = c.vuQ ∧ d.ku = c.ku
     c.op? t.id = some t → s.chip.opStarts p t = true →
     (wantsCapture t.desc = false →
       ∀ x ∈ [(opCVT, Instr.cvt p t.id), (opPDRN, .pdrn p t.id), (opLDT, .ldt p t.id), (opRED, .red p t.id)],
         dOp t.desc = x.1 → Completes x.2 s fun u => s.coreOnly p u ∧ kept (u.chip.core p) ∧
           ∃ r, (u.chip.core p).op? t.id = some { t with phase := .started, res := r } ∧ r.items.map (·.q) = opPushes t.desc) ∧
     (dOp t.desc = opIGTH → Completes (.igth p t.id) s fun u => kept (u.chip.core p) ∧ (∀ q, q ≠ p → u.chip.core q = s.chip.core q) ∧
       u.chip.hbm = s.chip.hbm ∧ ∃ i r f, (u.chip.core p).op? t.id = some { t with phase := f, input := i, res := r } ∧
         r.items.map (·.q) = opPushes t.desc ∧
         (f = .started ∨ remotePlan t.desc ≠ [] ∧ f = .remote (List.range (remotePlan t.desc).length)))) ∧
  (∀ (s : State) (p q : Nat) (t : TOp), s.awake → p < nCores →
     let c := s.chip.core p
     c.op? t.id = some t → dOp t.desc = opKCAP → s.chip.physOf (dKX t.desc) (dKY t.desc) = some q → s.chip.opStarts p t = true →
     Completes (.kcap p t.id) s fun u =>
       (∃ r, (u.chip.core p).op? t.id = some { t with phase := .started, res := r } ∧ r.items.map (·.q) = opPushes t.desc) ∧
       (∃ k, (u.chip.core q).kerf = ((s.chip.core q).addKerf k).kerf ∧ k.input = true ∧ k.chain = dChain t.desc) ∧
       (∀ n, (u.chip.core n).store = (s.chip.core n).store) ∧ (∀ n, n ≠ p → n ≠ q → u.chip.core n = s.chip.core n))

/-- 08 R285 (in part): RED sums two FP32 items of one length element by element, each sum rounded once to nearest with ties to
even, and sets no flag; another format or length is a format error. The result waits for its queue end. -/
def Obligations.RedAddsElementwise : Prop :=
  ∀ (c : Core) (t : TOp) (a b : OutItem) (ha hb : Bool) (c1 : Core), dOp t.desc = opRED → c.op? t.id = some t →
    c.takeItems [dQA t.desc, dQB t.desc] = ([(a, ha), (b, hb)], c1) →
    let good := ha = false ∧ hb = false ∧ a.fmt = 0x0C ∧ b.fmt = 0x0C ∧ a.nelem = b.nelem
    let d := redStart c t
    let hurt := if t.hurt then poisonR else 0
    ∃ r o, d.op? t.id = some { t with phase := .started, res := r } ∧ r.items = [o] ∧ o.q = dQD t.desc ∧ o.fmt = 0x0C ∧
      d.reg rVU_FCSR = c.reg rVU_FCSR ∧
      (good → d.raised = c1.raised ∧ o.nelem = a.nelem ∧ o.poison = a.poison ||| b.poison ||| hurt ∧
        o.payload = wideBytes 4 ((a.elems.zip b.elems).map fun x => engAdd fp32 (fp32.decode x.1) (fp32.decode x.2))) ∧
      (¬ good → d.raised = c1.raised ++ [(evFormat, 0)] ∧ o.nelem = (if 4 * a.nelem ≤ c1.qbytes (dQD t.desc) then a.nelem else 0) ∧
        o.poison = a.poison ||| b.poison ||| poisonR ||| hurt ∧ ∀ x ∈ o.payload, x = 0)

/-- 09 R311, R312, R313 (in part): a RECV with room reserves its slot and sends a ready token; a SEND that holds the ready
token of its sequence number uses it, starts and hands packets to the router port. Each takes the next number of its pair. -/
def Obligations.MessagesFollowReadyTokens : Prop :=
  ∀ (s : State) (p : Nat) (t : TOp), s.awake → p < nCores →
    let c := s.chip.core p
    c.op? t.id = some t → t.waits = true → armMet t.arm (s.chip.localTick p) = true → c.earlierOnPair t = false →
    s.chip.reachable (dPChip t.desc) (dPX t.desc) (dPY t.desc) = true →
    (∀ q, dOp t.desc = opSEND → c.queuesReady t.seq (opPops t.desc) [] = true →
      c.pair true (dPChip t.desc) (dPX t.desc) (dPY t.desc) (dPChan t.desc) = some q → q.tokens.contains q.count = true →
      (dPChip t.desc = s.chip.id ∨ tagInv (c.peek (dQA t.desc)).1.tag = true ∨ c.confirmed (c.peek (dQA t.desc)).1.tag = true) →
      Completes (.send p t.id) s fun u => s.coreOnly p u ∧
        (let d := u.chip.core p
         (∃ i, d.op? t.id = some { t with phase := .started, num := q.count, input := i }) ∧
         d.pair true (dPChip t.desc) (dPX t.desc) (dPY t.desc) (dPChan t.desc) =
           some { q with count := q.count + 1, tokens := q.tokens.erase q.count } ∧
         (d.qend (dQA t.desc)).sending = (c.qend (dQA t.desc)).sending + 1 ∧
         c.out.length < d.out.length ∧ d.store = c.store ∧ d.seq = c.seq)) ∧
    (dOp t.desc = opRECV → c.queuesReady t.seq [] (opPushes t.desc) = true → c.pairs.length < 256 →
      Completes (.recv p t.id) s fun u => s.coreOnly p u ∧
        (let d := u.chip.core p
         let q := (c.pair false (dPChip t.desc) (dPX t.desc) (dPY t.desc) (dPChan t.desc)).getD
           { send := false, chip := dPChip t.desc, x := dPX t.desc, y := dPY t.desc, chan := dPChan t.desc }
         (∃ r, d.op? t.id = some { t with phase := .tokened, num := q.count, res := r } ∧ r.items.map (·.q) = [dQD t.desc]) ∧
         d.pair false (dPChip t.desc) (dPX t.desc) (dPY t.desc) (dPChan t.desc) = some { q with count := q.count + 1 } ∧
         (∃ k, d.out = c.out ++ [k] ∧ k.ty = 2 ∧ k.seq = q.count ∧ k.chan = dPChan t.desc) ∧
         (d.qend (dQD t.desc)).slots = (c.qend (dQD t.desc)).slots ++ [.reserved t.seq] ∧ d.store = c.store))

/-- 10 R361, R363, R364, R365, R366, R370; 08 R291 (in part): STSH of a new entry for which the ring has room takes its item and keeps
it under its identifier; USTH of a ring entry for its own unstash queue reserves a slot, starts and removes the entry from the
ring. A spilled entry leaves its ring frames and lies in the spill area; a prefetch takes ring frames for a spilled entry
of the window; a hold past its bound raises one event; a checkpoint entry that is brought takes a slot of its unstash queue. -/
def Obligations.StashKeepsAndReturnsEntries : Prop :=
  (∀ (s : State) (p : Nat) (t : TOp), s.awake → p < nCores →
     let c := s.chip.core p
     let x := c.stash
     c.op? t.id = some t → s.chip.opStarts p t = true → sthEn s.chip p = true →
     (∀ fs x' o, dOp t.desc = opSTSH → x.entry? (dEntry t.desc) = none → x.entries.length < 65536 → o = (c.readChecked (dQA t.desc)).2 →
       x.alloc (sthRing s.chip p) (ceilDiv o.payload.length 4096) = some (fs, x') →
       Completes (.stsh p t.id) s fun u =>
         (∃ e, (u.chip.core p).stash.entry? (dEntry t.desc) = some e ∧ e.uq = dUQ t.desc ∧ e.use = dUse t.desc ∧
           e.tag = o.tag ∧ e.len = o.payload.length) ∧
         (∃ r, (u.chip.core p).op? t.id = some { t with phase := .started, res := r }) ∧
         (∀ q, q ≠ p → u.chip.core q = s.chip.core q)) ∧
     (∀ e, dOp t.desc = opUSTH → x.entry? (dEntry t.desc) = some e → e.uq = dQD t.desc → e.loc = .ring →
       Completes (.usth p t.id) s fun u =>
         (u.chip.core p).stash.entry? (dEntry t.desc) = none ∧ (u.chip.core p).stash.cursor = e.use ∧
         (∃ r o, (u.chip.core p).op? t.id = some { t with phase := .started, res := r } ∧ r.items = [o] ∧ o.q = dQD t.desc ∧ o.tag = e.tag) ∧
         (∀ q, q ≠ p → u.chip.core q = s.chip.core q))) ∧
  (∀ (s : State) (p : Nat) (e : StashEntry), s.awake → p < nCores →
     let c := s.chip.core p
     let x := c.stash
     let others := fun (t : State) => ∀ q, q ≠ p → t.chip.core q = s.chip.core q
     (x.entries = [e] → e.loc = .spilling → s.chip.cxlFenced = false → x.holding = none →
       Completes (.spillDone p) s fun t => others t ∧ (t.chip.core p).stash.entries = [{ e with loc := .spilled, frames := [] }] ∧
         (t.chip.core p).store = c.store ∧ (t.chip.core p).ops = c.ops) ∧
     (∀ fs x', x.entries = [e] → e.loc = .spilled → e.use ≤ x.cursor + sthWin s.chip p → x.occ + e.spill.length ≤ sthHwm s.chip p →
       x.alloc (sthRing s.chip p) e.spill.length = some (fs, x') → Completes (.prefetchStart p) s fun t => s.coreOnly p t ∧
         (t.chip.core p).stash.entries = [{ e with loc := .prefetching, frames := fs }] ∧ (t.chip.core p).store = c.store) ∧
     (x.entries = [e] → e.loc = .prefetching → Completes (.prefetchDone p) s fun t => others t ∧
         (t.chip.core p).stash.entries = [{ e with loc := .ring, spill := [] }] ∧ (t.chip.core p).store = c.store) ∧
     (∀ m, m = s.chip.runOut (s.chip.holdDue p) → (m.core p).stash.holding.isSome = true → (m.core p).stash.holdRaised = false →
       m.now - (m.core p).stash.holdSince > field (m.sth p rSTH_HOLDMAX) 0 20 * 1000 → Completes (.stashHoldTimeout p) s fun t =>
         (t.chip.core p).raised = (m.core p).raised ++ [(evStashHold, 0)] ∧ (t.chip.core p).stash.holdRaised = true ∧ (t.chip.core p).store = c.store) ∧
     (x.bringing = some e.id → x.entry? e.id = some e → c.room e.uq ≠ 0 → e.loc ≠ .dropped → Completes (.checkpointEntryArrival p) s fun t =>
         s.coreOnly p t ∧ (t.chip.core p).stash.bringing = none ∧ (t.chip.core p).stash.entries = x.entries ∧
         ((t.chip.core p).qend e.uq).slots.length = (c.qend e.uq).slots.length + 1))

/-- 08 R288, R289; 02 R62 (in part): a MOV between places of the core's own store, in copy mode and of one run, starts with the
bytes it read, its NaNs canonical, waiting for its destination. -/
def Obligations.MoveWithinTheStore : Prop :=
  ∀ (s : State) (p o o' : Nat) (t : TOp), s.awake → p < nCores →
    let c := s.chip.core p
    let d := t.desc
    c.op? t.id = some t → s.chip.opStarts p t = true → dOp d = opMOV → dMode d = 0 →
    movSrcQ d = false → movDstQ d = false → addrSpace (dSrc d) = .own o → addrSpace (dDst d) = .own o' →
    dCnt1 d = 1 → dCnt2 d = 1 → o + dLen0 d ≤ 2 ^ 22 → o' + dLen0 d ≤ 2 ^ 22 → movBad c d = false →
    Completes (.mov p t.id) s fun u => s.coreOnly p u ∧
      (let k := u.chip.core p
       (∃ i r, k.op? t.id = some { t with phase := .started, input := i, res := r } ∧ r.items = [] ∧ r.mem = [] ∧ r.tile = none ∧
         r.dram = [] ∧ r.store = [(o', ((movConvert d (Bytes.rdN c.store o (dLen0 d)) []).codes).take (dLen0 d))] ∧
         (dSFmt d ≤ 7 → r.store = [(o', Bytes.rdN c.store o (dLen0 d))])) ∧
       (∀ j, j ≠ t.id → k.op? j = c.op? j) ∧ k.store = c.store ∧ k.seq.pc = c.seq.pc ∧ k.seq.x = c.seq.x)

/-- 08 R280, R284; 07 R236, R249 (in part): a commit removes the operation from its place and its results take effect: its
bytes are written and its tile commits; without a place number the oldest executing vector issue leaves its unit. -/
def Obligations.ResultsCommit : Prop :=
  ∀ (s : State) (p : Nat), s.awake → p < nCores →
    let c := s.chip.core p
    (∀ t : TOp, c.op? t.id = some t → t.phase = .started → t.res.mem = [] → t.res.items = [] → t.res.dram = [] →
      (dOp t.desc = opSEND → c.sendOut t = false) →
      Completes (.operationCommit p (some t.id)) s fun u => s.coreOnly p u ∧
        (let d := u.chip.core p
         d.op? t.id = none ∧ (∀ j, j ≠ t.id → d.op? j = c.op? j) ∧
         (∀ a bs, t.res.store = [(a, bs)] → (∀ i, i < bs.length → Bytes.rd d.store (a + i) = bs.getD i 0) ∧
           (∀ x, x < a ∨ a + bs.length ≤ x → Bytes.rd d.store x = Bytes.rd c.store x)) ∧
         (t.res.store = [] → d.store = c.store) ∧
         (∀ be, (∀ x, t.res.tile = some x → x.1 ≠ be) → d.eng be = c.eng be) ∧
         (∀ be n x h, t.res.tile = some (be, n, x, h) → (d.eng be).tile n = ((c.eng be).commitTile c.confirmed n x h).tile n ∧
           (∀ m, m ≠ n → (d.eng be).tile m = (c.eng be).tile m) ∧ (d.eng be).a = (c.eng be).a ∧ (d.eng be).cm = (c.eng be).cm))) ∧
    (∀ (t : TOp) (o : OutItem), c.op? t.id = some t → t.phase = .started → t.res.mem = [] → t.res.items = [o] → t.res.store = [] →
      dOp t.desc ≠ opSEND → o.payload.length ≤ c.qbytes o.q →
      Completes (.operationCommit p (some t.id)) s fun u => s.coreOnly p u ∧
        (let d := u.chip.core p
         d.op? t.id = none ∧ d.store = Bytes.wrN c.store (c.slotAddr o.q o.slot) o.bytes ∧
         (d.qend o.q).slots = (c.qend o.q).slots.set (c.slotPos o.q o.slot) .committed ∧
         ∀ n, n ≠ o.q → (d.qend n).slots = (c.qend n).slots)) ∧
    (∀ t : TOp, c.op? t.id = some t → t.phase = .started → dOp t.desc = opSEND → c.sendOut t = true → t.res.mem = [] →
      Completes (.operationCommit p (some t.id)) s (s.onlyCore p c)) ∧
    (∀ x rest, c.vuX = x :: rest →
      Completes (.operationCommit p none) s fun u => s.coreOnly p u ∧ (u.chip.core p).vuX = rest ∧
        (u.chip.core p).ops = c.ops ∧ (u.chip.core p).seq.pc = c.seq.pc ∧ (u.chip.core p).seq.x = c.seq.x ∧
        (u.chip.core p).vuQ = c.vuQ)

/-- 05 R168, R169 (in part): DACC with a confirmed item, of the drawer's owner and with no cause of refusal passes its
checks and waits for its turn; at its turn its elements are added to the drawer's, or written with INIT, and ACC_NEXT advances; a
poisoned or faulty item only sets POISON and advances ACC_NEXT. -/
def Obligations.DrawerChecksAndTurns : Prop :=
  ∀ (s : State) (p : Nat) (t : TOp) (a : Nat) (h : List Byte), s.awake → p < nCores →
    let c := s.chip.core p
    let d := t.desc
    c.op? t.id = some t → a = dHdr d → h = (s.chip.memRd a 64).1 → s.chip.protTouch a 64 = false →
    (∀ o hb, s.chip.opStarts p t = true → dOp d = opDACC → c.peek (dQA d) = (o, hb) → tagInv o.tag = false →
      s.chip.inConfirmed a 64 = true → s.chip.inConfirmed (hdBase h) (max 1 (4 * hdRows h * hdCols h)) = true →
      s.chip.logOf p = some (hdOwner h % 256, hdOwner h / 256) → hdClaimStep h = c.step →
      daccCause h c.step (dWUse d) (dSeqNo d) = 0 →
      Completes (.dacc p t.id) s fun u =>
        (u.chip.core p).op? t.id = some { t with phase := .checked (daccItemBad o hb d h), input := [o] } ∧
        (u.chip.core p).store = c.store ∧ (∀ q, q ≠ p → u.chip.core q = s.chip.core q)) ∧
    (∀ bad o, t.phase = .checked bad → t.input = [o] → (bad = true ∨ o.poison ≠ 0) → (bad = true ∨ bitOf (hdFlags h) 2 = false) →
      hdNext h = dSeqNo d → s.chip.protTouch (hdBase h) (4 * hdRows h * hdCols h) = false →
      s.chip.wrRefused a 64 = false → a + 64 ≤ 0x10000000000 →
      Completes (.daccApply p t.id) s fun u =>
        (u.chip.core p).op? t.id = none ∧ hdNext (u.chip.memRd a 64).1 = (hdNext h + 1) % 2 ^ 32 ∧
        bitOf (hdFlags (u.chip.memRd a 64).1) 0 = true ∧
        (∀ x, x < a ∨ a + 64 ≤ x → Bytes.rd u.chip.hbm x = Bytes.rd s.chip.hbm x) ∧
        (∀ q, q ≠ p → u.chip.core q = s.chip.core q)) ∧
    (∀ o, t.phase = .checked false → t.input = [o] → o.poison = 0 → daccItemBad o false d h = false → bitOf (hdFlags h) 2 = false →
      hdNext h = dSeqNo d → s.chip.protTouch (hdBase h) (4 * hdRows h * hdCols h) = false → s.chip.wrRefused a 64 = false →
      a + 64 ≤ 0x10000000000 → hdBase h + 4 * hdRows h * hdCols h ≤ 0x10000000000 →
      (hdBase h + 4 * hdRows h * hdCols h ≤ a ∨ a + 64 ≤ hdBase h) →
      (s.chip.memRd (hdBase h) (4 * hdRows h * hdCols h)).2 = false →
      Completes (.daccApply p t.id) s fun u =>
        (u.chip.core p).op? t.id = none ∧ hdNext (u.chip.memRd a 64).1 = (hdNext h + 1) % 2 ^ 32 ∧
        (∀ m, m < o.nelem →
          let x := hdBase h + 4 * (hdCols h * (dRow0 d + m / dNCol d) + (dCol0 d + m % dNCol d))
          let v := listLe o.payload (4 * m) 4
          Bytes.rdLe u.chip.hbm x 4 % 2 ^ 32 =
            (if dInit d then canonElem 0x0C v else engAdd fp32 (fp32.decode (Bytes.rdLe s.chip.hbm x 4)) (fp32.decode v)) % 2 ^ 32) ∧
        (∀ q, q ≠ p → u.chip.core q = s.chip.core q))

/-- 07 R246, R247; 08 R292 (in part): the next issue of the instruction at the head of the vector unit starts: its
one result item is for its queue end; the instruction leaves the queue with its last issue, and stays with the next index before. -/
def Obligations.VectorIssues : Prop :=
  ∀ (s : State) (p : Nat) (v : VuInstr) (rest : List VuInstr) (l : UnitLoop) (bad : Bool), s.awake → p < nCores →
    let c := s.chip.core p
    let w := v.word
    let pops := vuPops w
    let now := s.chip.cycleNow p
    let more := !bad && l.more
    c.vuQ = v :: rest → armMet v.arm (s.chip.localTick p) = true → c.vuX.length < 16 → unitDue now v.loop = true →
    unitNext c 0x30000 (vu w 8 4) now v.loop = some (l, bad) → c.queuesReady v.seq pops [vQD w] = true →
    mixedTags c.confirmed (c.popTags pops) = false → (vu w 0 8 = 0x3D → c.rsHeldBefore v.seq 3 = false) →
    ∀ x ∈ [(0x20, Instr.vadd p), (0x21, .vsub p), (0x22, .vmul p), (0x23, .vfma p), (0x24, .vdiv p), (0x25, .vsqrt p),
        (0x26, .vrem p), (0x27, .vmin p), (0x28, .vmax p), (0x29, .vminn p), (0x2A, .vmaxn p), (0x2B, .vminm p),
        (0x2C, .vmaxm p), (0x2D, .vminmn p), (0x2E, .vmaxmn p), (0x2F, .vcmpq p), (0x30, .vcmps p), (0x31, .vcvt p),
        (0x32, .vcvti p), (0x33, .vcvtf p), (0x34, .vrint p), (0x35, .vscaleb p), (0x36, .vlogb p), (0x37, .vnextup p),
        (0x38, .vnextdn p), (0x39, .vneg p), (0x3A, .vabs p), (0x3B, .vcpsgn p), (0x3C, .vclass p), (0x3D, .vrfill p)],
      vu w 0 8 = x.1 → Completes x.2 s fun t => s.coreOnly p t ∧
        (let d := t.chip.core p
         (∃ y o, d.vuX = c.vuX ++ [y] ∧ y.seq = v.seq ∧ y.last = !more ∧ y.res.items = [o] ∧ o.q = vQD w ∧ o.fmt = vuDstByte w) ∧
         d.vuQ = (if more then { v with loop := some l } :: rest else rest) ∧
         d.store = c.store ∧ d.seq = c.seq ∧ d.ops = c.ops ∧ d.fe = c.fe ∧ d.be = c.be)

/-- 02 R65, R66 (in part): negate changes the sign bit, abs clears it and copySign takes it from B, whatever the operand,
and none of them sets a flag. -/
def Obligations.SignOperations : Prop :=
  ∀ (fmt f2 pred a b c : Nat) (rm : RoundMode) (ex : Bool),
    let n := (vuFmt fmt).ebits + (vuFmt fmt).fbits
    a < 2 ^ (n + 1) → b < 2 ^ (n + 1) →
    (vuLane 0x39 fmt f2 rm pred ex a b c).1 = a ^^^ 2 ^ n ∧ (vuLane 0x3A fmt f2 rm pred ex a b c).1 = a % 2 ^ n ∧
    (vuLane 0x3B fmt f2 rm pred ex a b c).1 = a % 2 ^ n + b / 2 ^ n * 2 ^ n ∧
    ∀ op ∈ [0x39, 0x3A, 0x3B], (vuLane op fmt f2 rm pred ex a b c).2 = {}

/-- 02 R56, R65, R66 (in part): a finite value of a format rounds to its own code, in every rounding direction and with no
flag: no code is lost between the meaning of an operand and the encoding of a result. -/
def Obligations.FiniteValuesRoundToThemselves : Prop :=
  ∀ (f : FpFmt) (rm : RoundMode) (x : Nat) (neg : Bool) (m : Rat), f ∈ [fp32, fp64, bf16, fp16, af24, ab19, g8fmt] →
    x < 2 ^ f.width → f.decode x = .fin neg m → f.round rm neg m = (x, {})

/-! ### Register writes (00, 03, 05-13, 15) -/

/-- 07 R252, R253; 05 R185; 09 R325; 03 R104 (in part): VALID, or CLR, written as 1 by an agent that reaches the window clears
its record and nothing else; written as 0 it changes nothing. CLAMP_CLR, by a Steward, clears the counters whose bits are 1. -/
def Obligations.RecordsClear : Prop :=
  ∀ (s : State) (p v : Nat) (who : Agent), s.awake → p < nCores → reaches who p = true → v < 2 ^ 64 →
    let c := s.chip.core p
    (∀ x ∈ [(Instr.hzdStatClear who p .fe v, [rFE_HZD_STAT, rFE_HZD_STAT + 8]), (.hzdStatClear who p .be v, [rBE_HZD_STAT, rBE_HZD_STAT + 8]),
        (.errStatClear who p .fe v, [rFE_ERR_STAT]), (.errStatClear who p .be v, [rBE_ERR_STAT]), (.drwErrClear who p v, [rBE_DRW_ERR]),
        (.tlLateClr who p v, [rTL_LATE_MAX])],
      Completes x.1 s (s.onlyCore p (if bitOf v 63 then x.2.foldl (fun c a => c.setReg a 0) c else c))) ∧
    (isSteward who = true → Completes (.clampClr who p v) s fun t => s.coreOnly p t ∧ ∀ a, a ≠ rDVT_PREF_CNT →
      (t.chip.core p).reg a = (if (a = rCLAMP_UF ∧ bitOf v 0) ∨ (a = rCLAMP_SAT ∧ bitOf v 1) ∨ (a = rCLAMP_IOVF ∧ bitOf v 2) then 0 else c.reg a))

/-- 08 R261, R294; 03 R113, R573; 06 R206, R207; 09 R335; 10 R367; 13 R472 (in part): a write of a plain register of a core's window
changes that register alone, and in it the fields it may write; the tracker's history and links, the barrier registers and the
stash registers only while the job does not run, and only by a Steward. A layer's configuration is taken only if its rungs up to
TOP are N codes that do not fall in width and POS is one of them, and from no core program; a rounding mode that is
reserved or dynamic leaves RM; the verdict ring's read index moves, and an empty ring drops its
interrupt. A write of a flag of VU_FCSR as 1 clears it. -/
def Obligations.CoreRegistersHoldWhatIsWritten : Prop :=
  (∀ (s : State) (p v n b : Nat) (who : Agent), s.awake → p < nCores → v < 2 ^ 64 → reaches who p = true →
     let c := s.chip.core p
     let job := s.chip.job.st = .running
     let only := fun (i : Instr) (a : Nat) (post : Nat → Prop) => Completes i s fun t => ∃ x, post x ∧ s.onlyCore p (c.setReg a x) t
     only (.vuFcsrWrite who p v) rVU_FCSR (fun x => field x 0 3 = (if field v 0 3 ≤ 4 then field v 0 3 else field (c.reg rVU_FCSR) 0 3) ∧
       ∀ k, 3 ≤ k → k < 8 → bitOf x k = (bitOf (c.reg rVU_FCSR) k && !bitOf v k)) ∧
     only (.seqCtbcmpWrite who p v) rSEQ_CTBCMP (fun x => x = v) ∧
     (isSteward who = true → ¬ job →
       (n < 64 → b < 16 → only (.sctHistWrite who p n b v) (rSCT_HIST n b) fun x => x = field v 0 32) ∧
       (n < 64 → only (.sctLinkWrite who p n true v) (rSCT_SHLIST n) fun x => field x 0 22 = field v 0 22 ∧ field x 32 13 = field v 32 13) ∧
       (n < 64 → only (.sctLinkWrite who p n false v) (rSCT_LINK n) fun x => field x 0 26 = field v 0 26 ∧ bitOf x 31 = bitOf v 31) ∧
       (b < 16 → field v 8 9 ≠ 0 → field v 8 9 ≤ 256 → field v 32 13 ≠ 0 → field v 32 13 ≤ 4096 →
         only (.barCfgWrite who p b v) (rBAR_CFG b) fun x => field x 0 30 = field v 0 30 ∧ field x 32 13 = field v 32 13)) ∧
     (isSteward who = true → (field v 0 26 = 0 ∨ 1000 ≤ field v 0 26 ∧ field v 0 26 ≤ 60000000) →
         only (.progLimitWrite who p v) rPROG_LIMIT fun x => x = field v 0 26) ∧
     (isSteward who = false ∨ job → n < 64 → b < 16 →
       ∀ i ∈ [Instr.sctHistWrite who p n b v, .sctLinkWrite who p n true v, .sctLinkWrite who p n false v, .barCfgWrite who p b v],
         Completes i s (s.onlyCore p c))) ∧
  (∀ (s : State) (p l v : Nat) (who : Agent), s.awake → p < nCores → l < 1024 → v < 2 ^ 64 → reaches who p = true →
     let c := s.chip.core p
     (Completes (.krfVrRdWrite who p v) s fun t => s.coreOnly p t ∧ (t.chip.core p).reg rKRF_VR_RD = v % 64 ∧
       (c.vrHeld = [] → (t.chip.core p).reg rKRF_VR_WR = c.reg rKRF_VR_WR ∧
         (t.chip.core p).kverd = (c.kverd && decide (v % 64 ≠ c.reg rKRF_VR_WR)))) ∧
     (isSteward who = true → rungsOk (c.reg (rLT_RUNGS l)) (field v 2 2) = true → field v 4 2 ≤ field v 2 2 → Completes (.ltCfgWrite who p l v) s fun t =>
       ∃ x, s.onlyCore p (c.setReg (rLT_CFG l) x) t ∧ field x 2 2 = field v 2 2 ∧ field x 4 2 = field v 4 2 ∧ bitOf x 0 = bitOf v 0) ∧
     (isSteward who = false ∨ rungsOk (c.reg (rLT_RUNGS l)) (field v 2 2) = false ∨ field v 2 2 < field v 4 2 → Completes (.ltCfgWrite who p l v) s (s.onlyCore p c)) ∧
     (isSteward who = true → s.chip.running = false →
       (field v 20 20 < field v 0 20 → field v 0 20 ≤ sthRing s.chip p → Completes (.sthCfgWrite who p 0x18 v) s fun t => t.pending = s.pending ∧
         sthHwm t.chip p = field v 0 20 ∧ sthLwm t.chip p = field v 20 20 ∧ sthRing t.chip p = sthRing s.chip p ∧ t.chip.hbm = s.chip.hbm) ∧
       (field v 0 20 ≤ field v 20 20 → Completes (.sthCfgWrite who p 0x18 v) s fun t => t.pending = s.pending ∧
         sthHwm t.chip p = sthHwm s.chip p ∧ sthLwm t.chip p = sthLwm s.chip p ∧ bitOf (t.chip.sth p rSTH_ERR) 63 = true) ∧
       Completes (.sthCfgWrite who p 0x20 v) s (fun t => t.pending = s.pending ∧ t.chip.sth p rSTH_CFG = v % 2 ^ 21 ∧ t.chip.hbm = s.chip.hbm)) ∧
     (isSteward who = false ∨ s.chip.running = true → Completes (.sthCfgWrite who p 0x18 v) s fun t => t.pending = s.pending ∧ t.chip.regs = s.chip.regs ∧
       s.coreOnly p t))

/-- 03 R97, R112, R113; 08 R282 (in part): a write that waits: SCT_CFG and SCT_SCALE (a value R43 allows) until the step
boundary, a stream register or a queue-end configuration until the work issued before it is done. The waiting write lands when
that work is done, the first of its stream or queue end first. -/
def Obligations.WritesWaitForEarlierWork : Prop :=
  ∀ (s : State) (p n k v : Nat) (w : DWord) (who : Agent), s.awake → p < nCores → reaches who p = true → v < 2 ^ 64 →
    let c := s.chip.core p
    (n < 64 → Completes (.sctCfgWrite who p n v) s fun t => s.coreOnly p t ∧ sctPending (t.chip.core p).sctCfg n = some v ∧
      (t.chip.core p).reg (rSCT_CFG n) = c.reg (rSCT_CFG n) ∧ bitOf ((t.chip.core p).reg (rSCT_STAT n)) 2 = true) ∧
    (n < 64 → scaleOk v = true → Completes (.sctScaleWrite who p n v) s fun t => s.coreOnly p t ∧
      sctPending (t.chip.core p).sctScale n = some v ∧ (t.chip.core p).reg (rSCT_SCALE n) = c.reg (rSCT_SCALE n)) ∧
    (k < 8 → Completes (.rsRegWrite who p k w) s (s.onlyCore p
      (if (c.rsHeld.any fun h => h.2.1 / 2 == k / 2) || c.streamUsed c.nseq (k / 2)
        then { c with rsHeld := c.rsHeld ++ [(c.nseq, k, w)], nseq := c.nseq + 1 }
        else { c.setReg (rsAddr k) w.toNat with nseq := c.nseq + 1 }))) ∧
    (∀ j k' y, k < 8 → (c.rsHeld.find? fun h => h.2.1 / 2 == k / 2) = some (j, k', y) → c.streamUsed j (k / 2) = false →
      Completes (.rsWriteLand p k) s (s.onlyCore p { c.setReg (rsAddr k') y.toNat with rsHeld := c.rsHeld.erase (j, k', y) })) ∧
    (n < 16 → (w.toNat % 2 ^ 22) % 64 = 0 → field w.toNat 22 10 = 0 → field w.toNat 52 12 = 0 →
      Completes (.qeCfgWrite who p n w) s fun t => s.coreOnly p t ∧ (∀ m, m ≠ n → (t.chip.core p).qend m = c.qend m) ∧
        (let q := (t.chip.core p).qend n
         if qeCfgOk (who == .seqU p) w.toNat = false then q = { c.qend n with cfgErr := true } ∧ (t.chip.core p).nseq = c.nseq
         else if (c.qend n).held ≠ [] ∨ c.namesBefore c.nseq n = true
           then q = { c.qend n with held := (c.qend n).held ++ [(c.nseq, w)] } ∧ (t.chip.core p).nseq = c.nseq + 1
           else q = { c.qend n with head := 0, slots := [], sending := 0 } ∧ (t.chip.core p).reg (rQE_CFG n) = w.toNat)) ∧
    (∀ j y x, n < 16 → (c.qend n).held = (j, y) :: x → c.namesBefore j n = false → Completes (.qeCfgTakeEffect p n) s fun t =>
      s.coreOnly p t ∧ (t.chip.core p).reg (rQE_CFG n) = y.toNat ∧ ((t.chip.core p).qend n).slots = [] ∧
      ((t.chip.core p).qend n).held = x ∧ (∀ m, m ≠ n → (t.chip.core p).qend m = c.qend m))

/-- 08 R259, R299, R298; 00 R14 (in part): RUN rising starts the monitor at E000h in M-mode, and falling stops fetch; a Steward
fills the SRAMs of a stopped core through its aliases; the two halves of a 64-bit register move through the port's latches, its
high word last on a store and its low word first on a load; REGISTER_WRITE writes a register in its own width and reports an
access of another width or alignment, which changes no register. -/
def Obligations.WindowAccess : Prop :=
  ∀ (s : State) (p v off : Nat) (w : Word) (who : Agent) (data : List Byte), s.awake → p < nCores → v < 2 ^ 64 →
    let c := s.chip.core p
    (isSteward who = true → Completes (.seqCtlWrite who p v) s fun t => s.coreOnly p t ∧
      (t.chip.core p).reg rSEQ_CTL = field v 0 1 ∧ (t.chip.core p).store = c.store ∧
      (if bitOf v 0 = true ∧ bitOf (c.reg rSEQ_CTL) 0 = false then (t.chip.core p).seq.pc = 0xE000#32 ∧ (t.chip.core p).seq.uMode = false ∧
          (t.chip.core p).seq.stall = none else (t.chip.core p).seq = c.seq)) ∧
    (isSteward who = true → (c.fenced = true ∨ bitOf (c.reg rSEQ_CTL) 0 = false) →
      (off + data.length ≤ 0x10000 → Completes (.sramAliasWrite who p off data) s
        (s.onlyCore p { c with seq := { c.seq with iram := Bytes.wrN c.seq.iram off data } })) ∧
      (0x10000 ≤ off → off + data.length ≤ 0x20000 → Completes (.sramAliasWrite who p off data) s
        (s.onlyCore p { c with seq := { c.seq with dram := Bytes.wrN c.seq.dram off data } }))) ∧
    (Completes (.windowPairAccess p true rSEQ_CTBCMP w) s
        (s.onlyCore p { c with seq := { c.seq with held := some (rSEQ_CTBCMP, w) } })) ∧
    (∀ lo, c.seq.held = some (rSEQ_CTBCMP, lo) → Completes (.windowPairAccess p true (rSEQ_CTBCMP + 4) w) s fun t => s.coreOnly p t ∧
        (t.chip.core p).reg rSEQ_CTBCMP = lo.toNat + w.toNat * 2 ^ 32 ∧ (t.chip.core p).seq.held = none) ∧
    (Completes (.windowPairAccess p false rSEQ_CTBCMP w) s fun t => t.pending = s.pending ∧
        t.chip.outs = .value (c.reg rSEQ_CTBCMP % 2 ^ 32) :: s.chip.outs ∧
        (t.chip.core p).seq.latch = BitVec.ofNat 32 (c.reg rSEQ_CTBCMP / 2 ^ 32) ∧
        c.regsKept (t.chip.core p) ∧ (∀ q, q ≠ p → t.chip.core q = s.chip.core q)) ∧
    (reaches who p = true →
      (∀ x ∈ [(16, 0), (32, 0), (64, 4), (32, 4)], Completes (.registerWrite who p (rSEQ_CTBCMP + x.2) x.1 v) s fun t => t.pending = s.pending ∧
        c.regsKept (t.chip.core p) ∧
        (if isSteward who then t.chip.raised = s.chip.raised ++ [(evControl, 0, 0)] else (t.chip.core p).raised = c.raised ++ [(evAccess, 0)])) ∧
      Completes (.registerWrite who p rSEQ_CTBCMP 64 v) s fun t => t.pending = s.pending ∧
        t.chip = s.chip.onCore p fun c => c.setReg rSEQ_CTBCMP v)

/-! ### Chip-level registers and mailboxes -/

/-- 12 R413: a set wins over a clear in the same cycle. Beside it (R409, R411, R412, in part): a doorbell write by the sender sets bits
and by the receiver clears bits; a mask is its receiver's; no other mailbox register changes. ACTIVE of MBX_ROLE moves by the
active Steward or the always-on island alone, STBY_OK by the standby Steward alone, and nothing else moves with them. -/
def Obligations.MailboxRules : Prop :=
  (∀ (s : State) (m : Mbx) (who : Agent) (cl v other : Nat) (side : Bool), s.up → s.chip.mbxSide m who cl = some side →
     (match m with | .core p => p < nCores | .chip n => n < 16) → v < 2 ^ 32 → other < 2 ^ 32 →
     let keeps := fun (w : Nat) (t : State) => t.pending = s.pending ∧ t.chip.hbm = s.chip.hbm ∧ t.chip.cxl = s.chip.cxl ∧
       ∀ k j, (match k with | .core _ => True | .chip n => n < 16) → (k, j) ≠ (m, w) → j ∈ [0, 1, 4, 5] → t.chip.mbxRd k j = s.chip.mbxRd k j
     (∀ x ∈ [(Instr.mbxDbWrite who m cl v other, false, 0), (.mbxDbRWrite who m cl v other, true, 4)],
       Completes x.1 s fun t => keeps x.2.2 t ∧ ∀ i, i < 32 →
         (let mine := bitOf (userBits m who v) i
          let set := if side == x.2.1 then mine else bitOf other i
          let clr := if side == x.2.1 then bitOf other i else mine
          bitOf (t.chip.mbxRd m x.2.2) i = (set || (bitOf (s.chip.mbxRd m x.2.2) i && !clr)))) ∧
     (∀ x ∈ [(Instr.mbxMaskWrite who m false cl v, false, 1), (.mbxMaskWrite who m true cl v, true, 5)],
       Completes x.1 s fun t => keeps x.2.2 t ∧
         (side = x.2.1 → t.chip.mbxRd m x.2.2 = s.chip.mbxRd m x.2.2) ∧
         (side ≠ x.2.1 → ∀ i, i < 32 →
           ((16 ≤ i ∧ ∃ p q, m = .core p ∧ who = .seqU q) → bitOf (t.chip.mbxRd m x.2.2) i = bitOf (s.chip.mbxRd m x.2.2) i) ∧
           (¬ (16 ≤ i ∧ ∃ p q, m = .core p ∧ who = .seqU q) → bitOf (t.chip.mbxRd m x.2.2) i = bitOf v i)))) ∧
  (∀ (s : State) (v : Nat), s.up →
     let act := if s.chip.activeB then Agent.stewardB else .stewardA
     let stb := if s.chip.activeB then Agent.stewardA else .stewardB
     Answers (.mbxRoleWrite act v) s (s.chip.setField rMBX_ROLE 0 1 (field v 0 1)) ∧
     Answers (.mbxRoleWrite stb v) s (s.chip.setField rMBX_ROLE 1 1 (field v 1 1)) ∧
     Answers (.mbxRoleWrite .alwaysOn v) s (s.chip.setField rMBX_ROLE 0 1 (field v 0 1)) ∧
     (∀ who, isSteward who = false → who ≠ .alwaysOn → Answers (.mbxRoleWrite who v) s s.chip))

/-- 09 R309, R323, R336; 11 R406, R407; 10 R369 (in part): a Steward's write of a map entry whose cores are stopped, of the
trim within its bounds, of a route while a plan is installed, and of the job phase; other writes are ignored. TS_CFG and a
link's ACKTO and EN write their fields. -/
def Obligations.FabricAndLinkSettings : Prop :=
  ∀ (s : State) (who : Agent) (n l v : Nat), s.awake → isSteward who = true → v < 2 ^ 64 →
    let c := s.chip
    let core := fun m => 16 * field m 4 5 + field m 0 4
    (n < 256 → Answers (.fabMapWrite who n v) s
      (if (bitOf (c.reg (rFAB_MAP n)) 9 = true → c.stopped (core (c.reg (rFAB_MAP n))) = true) ∧ (bitOf v 9 = true → c.stopped (core v) = true)
        then c.setReg (rFAB_MAP n) (field v 0 10) else c)) ∧
    (n < 5 → Completes (.fabBypWrite who n v) s fun t => (∀ a, a ≠ rFAB_BYP n → t.chip.reg a = c.reg a) ∧ t.chip.cores = c.cores ∧
      ∀ b, b < (if n = 4 then 32 else 64) → bitOf (t.chip.reg (rFAB_BYP n)) b =
        (if bitOf v b && !bitOf (c.reg (rFAB_BYP n)) b then (c.core (64 * n + b)).fenced
         else bitOf (c.reg (rFAB_BYP n)) b && (bitOf v b || c.running))) ∧
    Answers (.ctbTrimWrite who v) s (if -858993 ≤ signedOf 32 v ∧ signedOf 32 v ≤ 858993 then c.setReg rCTB_TRIM (field v 0 32) else c) ∧
    (n < 4096 → Answers (.slRtWrite who n v) s (if c.flood.stale ∨ c.pins.power = .boot then c.setReg (rSL_RT n) (field v 0 11) else c)) ∧
    (Completes (.tsCfgWrite who v) s fun t => t.chip.reg rTS_CFG = field v 0 9 ∧ t.chip.cores = c.cores ∧ t.chip.flood.stale = true ∧
      t.chip.flood.version = c.flood.version + 1) ∧
    (l < nLinks → Completes (.slCtlEnWrite who l v) s fun t => bitOf (t.chip.reg (slg rSL_CTL l)) 0 = bitOf v 0 ∧
      field (t.chip.reg (slg rSL_CTL l)) 8 5 = (if 1 ≤ field v 8 5 ∧ field v 8 5 ≤ 20 then field v 8 5 else field (c.reg (slg rSL_CTL l)) 8 5) ∧
      t.chip.cores = c.cores ∧
      ((c.link l).st ≠ .retired → bitOf v 0 = true → bitOf (c.reg (slg rSL_CTL l)) 0 = false → (t.chip.link l).st = .pmd) ∧
      ((c.link l).st ≠ .retired → bitOf v 0 = false → bitOf (c.reg (slg rSL_CTL l)) 0 = true → (t.chip.link l).st = .disabled)) ∧
    (l < nLinks → (c.link l).st ≠ .retired → Completes (.slCtlRetire who l) s fun t => (t.chip.link l).st = .retired ∧ t.chip.cores = c.cores ∧
      bitOf (t.chip.reg (slg rSL_CTL l)) 1 = true)

/-- 10 R349, R356, R369; 13 R454, R456, R458; 15 R493 (in part): a region entry comes into force where R356 allows it and is refused,
with RGNERR set, where it does not; GO starts a channel's retirement or, with no reserve left in a loaded job, fences the channel;
PHASE 00b takes the confirmed-only and stash entries out of force. The active Steward acknowledges a severe source, clears the
first-fault record and sets a configurable source; a core's monitor acknowledges its own sources; a Steward enables snapshot
layers while no job runs. A source that no chain ends in a chip reset or in hold returns to quiet. -/
def Obligations.MemoryAndFaultSettings : Prop :=
  (∀ (s : State) (who : Agent) (n v : Nat), s.awake → isSteward who = true → v < 2 ^ 64 →
     let c := s.chip
     (n < 32 → Completes (.memRgnCtlWrite who n v) s fun t => t.chip.hbm = c.hbm ∧ t.chip.cxl = c.cxl ∧ t.chip.cores = c.cores ∧
       (t.chip = c.setReg (rMEM_RGN_CTL n) (field v 0 28) ∨ t.chip = c.setField rMEM_STAT 8 1 1) ∧
       (c.reg (rMEM_RGN_LIMIT n) / 4096 < c.reg (rMEM_RGN_BASE n) / 4096 ∨ (bitOf v 3 = true ∧ field v 0 3 = 1 ∧ c.reg rMEM_JOBST ≠ 1) →
         t.chip = c.setField rMEM_STAT 8 1 1) ∧
       (c.reg (rMEM_RGN_BASE n) / 4096 ≤ c.reg (rMEM_RGN_LIMIT n) / 4096 → bitOf v 3 = false → bitOf (c.reg (rMEM_RGN_CTL n)) 3 = false →
         t.chip = c.setReg (rMEM_RGN_CTL n) (field v 0 28)) ∧
       (c.reg (rMEM_RGN_BASE n) / 4096 ≤ c.reg (rMEM_RGN_LIMIT n) / 4096 → c.reg (rMEM_RGN_LIMIT n) / 4096 < 2 ^ 28 →
         bitOf v 3 = true → field v 0 3 = 3 → (∀ k, k < 32 → bitOf (c.reg (rMEM_RGN_CTL k)) 3 = false) →
         t.chip = c.setReg (rMEM_RGN_CTL n) (field v 0 28))) ∧
     (bitOf v 9 = true → bitOf (c.reg rMEM_MIG) 28 = false → c.retired.contains (field v 0 9) = false →
       Completes (.memRetireGo who v) s fun t => t.chip.hbm = c.hbm ∧ t.chip.cxl = c.cxl ∧ t.chip.cores = c.cores ∧
         (if c.retCount ≥ 64 ∨ (c.reg rMEM_JOBST ≠ 0 ∧ field (c.reg rMEM_STAT) 9 6 = 0) then t.chip.fencedCh.contains (field v 0 9) = true
          else t.chip.reg rMEM_MIG = field v 0 9 + 2 ^ 28 ∧ t.chip.reg rMEM_TOP = c.reg rMEM_TOP - windowGroups c.retCount * 2 ^ 21)) ∧
     (Completes (.memJobstWrite who v) s fun t => t.chip.hbm = c.hbm ∧ t.chip.cores = c.cores ∧
       (field v 0 2 = 3 → t.chip = c) ∧ (field v 0 2 ≠ 3 → t.chip.reg rMEM_JOBST = field v 0 2) ∧
       (field v 0 2 = 0 → ∀ k, k < 32 → field (c.reg (rMEM_RGN_CTL k)) 0 3 = 1 ∨ field (c.reg (rMEM_RGN_CTL k)) 0 3 = 4 →
         bitOf (t.chip.reg (rMEM_RGN_CTL k)) 3 = false))) ∧
  (∀ (s : State) (who : Agent) (p n v : Nat), s.awake → v < 2 ^ 64 →
     let c := s.chip
     (isSteward who = true → c.isActive who = true →
       (field v 0 16 < 2350 → subCount (field v 0 16) = 0 → field v 16 9 = 0 → srcSevere (c.reg (rFLT_SRC (field v 0 16))) = true →
         c.terminal (field v 0 16) = false → Completes (.fltAckWrite who v) s fun t =>
           field (t.chip.reg (rFLT_SRC (field v 0 16))) 0 32 = 0 ∧ t.chip.cores = c.cores ∧ t.chip.hbm = c.hbm) ∧
       Answers (.fltFirstClear who v) s (if bitOf v 63 then (c.setReg rFLT_FIRST 0).setReg rFLT_FIRST_TIME 0 else c) ∧
       (n < 2350 → Completes (.fltCfgWrite who n v) s fun t =>
         (bitOf (c.reg (rFLT_CFG n)) 63 = true → t.chip = c) ∧
         (bitOf (c.reg (rFLT_CFG n)) 63 = false → field v 24 3 = 0 → field v 27 3 = 7 → field v 30 3 = 7 → 1 ≤ field v 0 16 → field v 16 6 ≤ 39 →
           1 ≤ field v 33 20 → field v 33 20 ≤ 1000000 → t.chip = c.setReg (rFLT_CFG n) (field v 0 22 + field v 24 29 * 2 ^ 24)) ∧
         (bitOf (c.reg (rFLT_CFG n)) 63 = false → field v 24 3 = 4 ∨ field v 24 3 = 6 ∨ field v 24 3 = 7 → t.chip = c.setField rFLT_CTL 2 1 1))) ∧
     (p < nCores → Completes (.cfcAckWrite (.seqM p) p v) s fun t => t.pending = s.pending ∧ t.chip.hbm = c.hbm ∧
       ∀ b, b < 7 → bitOf v b = true → c.terminal (32 * benchOf p + 7 * (p % 4) + b) = false →
         srcSevere (t.chip.reg (rFLT_SRC (32 * benchOf p + 7 * (p % 4) + b))) = false) ∧
     (isSteward who = true → Answers (.snpCtlWrite who v) s
       (if c.job.st = .running ∨ (bitOf v 2 = true ∧ bitOf v 1 = false) ∨ (bitOf v 0 = true ∧ c.job.st ≠ .idle ∧ c.job.parts = 1) then c
         else c.setReg rSNP_CTL (field v 0 3))))

/-! ### Kerf checks and tracker messages (03, 06) -/

/-- 06 R197, R198, R201, R202, R204, R250 (in part): a KSEL that is ready, for an attempt with no selection and room in the table,
records its selection of T tiles with the windows it drew and moves the counter of stream RS2 past them. A KCHK whose captures are
present takes them and runs; when it is done its tile's verdict is counted, and the first verdict of an attempt is kept as its
worst; a reject, or the last selected tile, sends the core's verdict home. -/
def Obligations.SelectionAndCheck : Prop :=
  (∀ (s : State) (p : Nat) (k : KuInstr) (rest : List KuInstr), s.awake → p < nCores →
     let c := s.chip.core p
     let ch := kChain k.word
     let l := kLayer k.word
     let sel : Sel := { chain := ch, layer := l, ctr := BitVec.ofNat 64 (c.reg (rRS_CTR 2)), windows := kerfWindows (ltRate c l) (kTiles k.word),
                        tiles := kTiles k.word }
     c.ku = k :: rest → vu k.word 0 8 = 0x60 → vu k.word 8 4 = 0 → k.loop = none → armMet k.arm (s.chip.localTick p) = true →
     c.queuesReady k.seq [] [kQD k.word] = true → c.rsHeldBefore k.seq 2 = false → c.selOf ch l = none → kTiles k.word ≠ 0 → c.sel.length < 4096 →
     Completes (.ksel p) s fun u => s.coreOnly p u ∧ (let d := u.chip.core p
       d.sel = c.sel ++ [sel] ∧ d.ku = rest ∧ d.reg (rRS_CTR 2) = (c.reg (rRS_CTR 2) + sel.windows) % 2 ^ 64 ∧ d.ops = c.ops ∧ d.vuQ = c.vuQ ∧
       d.kerf = c.kerf ∧ d.attempts = c.attempts)) ∧
  (∀ (s : State) (p : Nat) (k : KuInstr) (rest : List KuInstr), s.awake → p < nCores →
     let c := s.chip.core p
     let ch := kChain k.word
     let l := kLayer k.word
     let d := c.kchkDesc k.word
     c.ku = k :: rest →
     (∀ o a b, vu k.word 0 8 = 0x61 → k.run = false → k.loop = none → vu k.word 8 4 = 0 → armMet k.arm (s.chip.localTick p) = true →
       c.deadAttempt ch l k.epoch = false → kchkTakes c k.word = true → c.kchkCaps k.word = some (o, a, b) →
       o.bad = false → tagInv o.tag = false → tagInv a.tag = false → a.covers (kdK0 d) (kdKN d) = true →
       let col := fun j => kdWbase d + (32 * (kTile k.word % kdCgrp d) + j) * kdStride d + 4 * kdK0 d
       (match b with
         | some b => tagInv b.tag = false ∧ b.covers (kdK0 d) (kdKN d) = true
         | none => s.chip.inConfirmed (col 0) (31 * kdStride d + 4 * kdKN d) = true) →
       Completes (.kchk p) s fun u => u.chip.hbm = s.chip.hbm ∧ (∀ q, q ≠ p → u.chip.core q = s.chip.core q) ∧
         (u.chip.core p).store = c.store ∧ (u.chip.core p).kerf = c.kerf ∧
         ∃ k', (u.chip.core p).ku = k' :: rest ∧ k'.run = true ∧ k'.word = k.word ∧ k'.x = o.data ∧ k'.a = a.rows (kdK0 d) (kdKN d) ∧
           (∀ x, b = some x → k'.b = x.rows (kdK0 d) (kdKN d) ∧
             (k'.poisoned = true ↔ o.poison ≠ 0 ∨ a.poison ≠ 0 ∨ x.poison ≠ 0 ∨ c.upsetIn (0x400000 + kDesc k.word) 32 = true)) ∧
           (b = none → k'.b = (List.range 32).flatMap fun j => (List.range (kdKN d)).map fun m =>
             listLe (s.chip.memRd (col j) (4 * kdKN d)).1 (4 * m) 4)) ∧
     (k.run = true → c.deadAttempt ch l k.epoch = false → c.unchk.contains (ch, l) = false →
       (c.attempts.find? fun a => decide (a.tag = mkTag l ch k.epoch false)) = none →
       let v := if k.poisoned then (Verdict.reject, fp32Inf)
         else kerfMetric k.x (kerfRefs k.a k.b k.kn) (c.reg (rLT_TWARN l)) (c.reg (rLT_TREJ l)) (c.reg (rLT_FLOOR l))
       Completes (.kchkDone p) s fun u => s.coreOnly p u ∧ (let e := u.chip.core p
         e.reg rKRF_MAC_CNT = (c.reg rKRF_MAC_CNT + 1024 * k.kn) % 2 ^ 64 ∧ e.reg rKRF_TILE_CNT = (c.reg rKRF_TILE_CNT + 1) % 2 ^ 64 ∧
         (∃ a, a ∈ e.attempts ∧ a.tag = mkTag l ch k.epoch false ∧ a.worst = worseVerdict .pass v.1 ∧ a.ratio = max 0 v.2 ∧ a.tiles = [kTile k.word] ∧
           (v.1 = .reject → a.sent = true) ∧ (a.sent = true → ∃ dst, e.sys = c.sys ++ [(dst, .coreVerdict
             { tag := mkTag l ch k.epoch false, verdict := worseVerdict .pass v.1, ratio := BitVec.ofNat 32 (max 0 v.2), tiles := 1 })])) ∧
         e.store = c.store ∧ e.ops = c.ops ∧ e.seq = c.seq)))

/-- 03 R108, R111; 06 R189, R205, R206, R208 (in part): a core verdict joins its attempt's tally at the verdict home; the verdict of
the layer at a chain's frontier takes effect: a pass, warn or forced verdict moves the frontier past the layer, and a reject that
is no fall-back raises the chain's epoch, moves the layer one rung up and leaves the frontier where it is. A shard's amax is
kept by maximum, and the last one ends the wait of a home slot at its boundary; a tensor scale becomes the slot's scale, or a replay
scale, and the slot waits no more unless something else is due. -/
def Obligations.VerdictsAndScalesArrive : Prop :=
  (∀ (s : State) (p : Nat) (v : LayerVerdict) (w : CoreVerdict), s.awake → p < nCores →
     let c := s.chip.core p
     let ch := tagChain v.tag
     let x := c.chain ch
     (c.deadAttempt (tagChain w.tag) (tagLayer w.tag) (tagEpoch w.tag) = false → (c.chain (tagChain w.tag)).early = [] →
       Completes (.coreVerdictMsg p w) s fun u => s.arrival p u ∧ ∃ y ∈ (u.chip.core p).tallies,
         y.tag = mkTag (tagLayer w.tag) (tagChain w.tag) (tagEpoch w.tag) false ∧ w ∈ y.got) ∧
     (x.early = [] → tagLayer v.tag = x.frontier → tagEpoch v.tag = x.epoch → c.nextChecked x.frontier = x.frontier → x.frontier < 1024 →
       Completes (.layerVerdictMsg p v) s fun u => s.arrival p u ∧ (let d := u.chip.core p
         (v.verdict ≠ .reject → x.frontier < (d.chain ch).frontier ∧ (d.chain ch).epoch = x.epoch ∧ (x.frontier, v.verdict) ∈ (d.chain ch).finals) ∧
         (v.verdict = .reject → isFallback c ch = false → (d.chain ch).frontier = x.frontier ∧ (d.chain ch).epoch = (x.epoch + 1) % 4096 ∧
           d.up ch x.frontier = c.up ch x.frontier + 1 ∧ (d.chain ch).rejects = x.rejects + 1) ∧
         (∀ k, k ≠ ch → d.chain k = c.chain k)))) ∧
  (∀ (s : State) (p n m ch : Nat), s.awake → p < nCores → n < 64 → m < 2 ^ 32 →
     let c := s.chip.core p
     ((c.bndWait.any fun w => w.slot == n) = false → Completes (.shardAmaxMsg p n m none) s fun u => s.arrival p u ∧
       NatMap.rd (u.chip.core p).shardMax n = max (NatMap.rd c.shardMax n) m ∧ NatMap.rd (u.chip.core p).shardGot n = NatMap.rd c.shardGot n + 1 ∧
       (u.chip.core p).store = c.store ∧ (u.chip.core p).reg (rSCT_AMAX n) = c.reg (rSCT_AMAX n)) ∧
     (∀ w, c.bndWait.find? (·.slot == n) = some w → slotNsh c n ≤ NatMap.rd c.shardGot n + 1 → Completes (.shardAmaxMsg p n m none) s fun u => s.arrival p u ∧
       ((u.chip.core p).bndWait.any fun w => w.slot == n) = false ∧ (u.chip.core p).reg (rSCT_AMAX n) = NatMap.rd c.lateMax n ∧
       (u.chip.core p).store = c.store) ∧
     (let waits := fun (x : Option Nat) => (c.bndWait.any (·.slot == n)) = true ∨ (c.scaleDue.any fun e => e.1 == n && e.2 != x) = true ∨
        (c.jitWait.any (·.1 == n)) = true
      (Completes (.tensorScaleMsg p n m none) s fun u => s.arrival p u ∧ (u.chip.core p).reg (rSCT_SCALE n) = m ∧
        (slotWait (u.chip.core p) n = true ↔ waits none) ∧ ∀ a, a ∉ [rSCT_SCALE n, rSCT_STAT n, rDVT_PREF_CNT] → (u.chip.core p).reg a = c.reg a) ∧
      (Completes (.tensorScaleMsg p n m (some ch)) s fun u => s.arrival p u ∧ (n, ch, m) ∈ (u.chip.core p).jit ∧
        (slotWait (u.chip.core p) n = true ↔ waits (some ch)) ∧ ∀ a, a ∉ [rSCT_STAT n, rDVT_PREF_CNT] → (u.chip.core p).reg a = c.reg a)))

/-! ### Packets that arrive (09) -/

/-- 09 R309, R311, R312, R313, R314, R332, R333 (in part): a data or void message commits the RECV that holds its number, whose slot
takes the item, and its delivery is acknowledged; one for a position that the core no longer holds is discarded. A ready token is
kept with its pair, or beside the table; an acknowledgement settles what its SEND owed. A barrier arrival is counted at its home; the
last one of the part tells every member, and so does a completion from the global home; a member's completion advances DONE and
fires a notice that waits for it, and none comes before that of an earlier generation. -/
def Obligations.MessagesArrive : Prop :=
  (∀ (s : State) (p : Nat) (k : Packet), s.awake → p < nCores → s.chip.physOf k.dx k.dy = some p →
     let c := s.chip.core p
     let src := BitVec.ofNat 32 (k.sx + k.sy * 2 ^ 4 + k.schip * 2 ^ 8 + k.chan * 2 ^ 20)
     let dead := fun (g : Word) => !tagConf g && c.deadAttempt (tagChain g) (tagLayer g) (tagEpoch g)
     (∀ t r, c.inOrder k = true → c.recvOf k = some t → t.res.items = [r] → (k.schip = s.chip.id → (s.chip.physOf k.sx k.sy).isSome = true) →
       ∀ x ∈ [(Instr.dataMessage p k false, { itemOfBytes k.payload with tag := k.tag, poison := k.poison }),
         (.voidMessage p k, { q := 0, slot := 0, tag := setInv k.tag, poison := k.poison, fmt := 0x0C, nelem := 0, payload := [] })],
       x.2.payload.length ≤ c.qbytes (dQD t.desc) →
       Completes x.1 s fun u => s.arrival p u ∧ (let d := u.chip.core p
         (∀ o ∈ d.ops, o.id ≠ t.id) ∧ (∀ o ∈ c.ops, o.id ≠ t.id → o ∈ d.ops) ∧ d.reg rMSG_RECV_CNT = (c.reg rMSG_RECV_CNT + 1) % 2 ^ 64 ∧
         d.store = Bytes.wrN c.store (c.slotAddr (dQD t.desc) r.slot) { x.2 with
           q := dQD t.desc, slot := r.slot, tag := (if dead x.2.tag then setInv x.2.tag else x.2.tag), src := src }.bytes ∧
         (∃ l a, d.out = l ++ [a] ∧ a.ty = 12 ∧ a.seq = k.seq ∧ a.chan = k.chan ∧ a.dx = k.sx ∧ a.dy = k.sy ∧ a.dchip = k.schip))) ∧
     (Completes (.readyToken p k) s fun u => s.arrival p u ∧ (u.chip.core p).store = c.store ∧
       (∀ q, c.pair true k.schip k.sx k.sy k.chan = some q →
         (u.chip.core p).pair true k.schip k.sx k.sy k.chan = some { q with tokens := q.tokens ++ [k.seq] }) ∧
       (c.pair true k.schip k.sx k.sy k.chan = none → (u.chip.core p).pairs = c.pairs ∧
         (u.chip.core p).loose = c.loose ++ [msgKey k.schip k.sx k.sy k.chan (k.seq % 2 ^ 32)])) ∧
     (Completes (.deliveryAck p k) s fun u => s.arrival p u ∧
       (u.chip.core p).owed = c.owed.filter fun o => o.2 ≠ msgKey k.schip k.sx k.sy k.chan k.seq)) ∧
  (∀ (s : State) (p : Nat) (k : Packet), s.awake → p < nCores → s.chip.physOf k.dx k.dy ≠ some p →
     ∀ i ∈ [Instr.dataMessage p k false, .voidMessage p k, .readyToken p k, .deliveryAck p k, .barrierArrival p k, .barrierCompletion p k,
         .storeWrite p k, .storeReadRequest p k, .storeReadResponse p k, .storeWriteAck p k],
       Completes i s fun u => s.arrival p u ∧ (u.chip.core p).store = (s.chip.core p).store ∧ (u.chip.core p).ops = (s.chip.core p).ops ∧
         (s.chip.core p).regsKept (u.chip.core p)) ∧
  (∀ (s : State) (p : Nat) (k : Packet), s.awake → p < nCores → s.chip.physOf k.dx k.dy = some p → k.seq + 1 < 2 ^ 32 →
     let c := s.chip.core p
     let b := k.chan % 16
     let n := NatMap.rd (c.barrier b).local_ k.seq + 1
     let told := fun (u : State) => ∀ m ∈ barMembers c b, (s.chip.physOf (m % 16) (m / 16)).isSome = true → ∃ a ∈ (u.chip.core p).out,
       a.ty = 8 ∧ a.seq = k.seq ∧ a.chan = b ∧ a.dx = m % 16 ∧ a.dy = m / 16 ∧ a.dchip = s.chip.id
     (Completes (.barrierArrival p k) s fun u => s.arrival p u ∧ (u.chip.core p).store = c.store ∧ c.regsKept (u.chip.core p) ∧
       (k.tag ≠ 1 → NatMap.rd ((u.chip.core p).barrier b).local_ k.seq = (if n ≥ field (barCfg c b) 8 9 then 0 else n) ∧
         (n ≥ field (barCfg c b) 8 9 → field (barCfg c b) 32 13 = 1 → told u)) ∧
       (k.tag = 1 → NatMap.rd ((u.chip.core p).barrier b).parts k.seq =
         (let m := NatMap.rd (c.barrier b).parts k.seq + 1; if m ≥ field (barCfg c b) 32 13 then 0 else m))) ∧
     (k.tag ≠ 1 → barDone c b < k.seq → Completes (.barrierCompletion p k) s fun u => s.arrival p u ∧ (u.chip.core p).store = c.store ∧
       c.regsKept (u.chip.core p) ∧ (u.chip.core p).barrier b = c.barrier b) ∧
     (k.tag = 1 ∨ k.seq ≤ barDone c b → Completes (.barrierCompletion p k) s fun u => s.arrival p u ∧ (u.chip.core p).store = c.store ∧
       (k.tag = 1 → told u ∧ c.regsKept (u.chip.core p)) ∧
       (k.tag ≠ 1 → barDone (u.chip.core p) b = k.seq + 1 ∧ barArr (u.chip.core p) b = barArr c b ∧
         ((c.barrier b).notice.any (fun g => decide (g ≤ k.seq)) = true → ((u.chip.core p).barrier b).fired = true))))

/-- 09 R303, R304, R307, R308, R316 (in part): a store write lands and is acknowledged; a store read is answered with the lines it
asks for; each response or acknowledgement takes its line off what its operation waits for, and the last one lets it go on. A
router forwards the oldest packet of a virtual channel to the next router of its route, once it has a credit, one correction
counted; a bypassed router checks nothing, and forwards what goes straight on; a packet whose header has a double-bit error is
discarded and counted. -/
def Obligations.StoreTransfersAndRouting : Prop :=
  (∀ (s : State) (p : Nat) (k : Packet), s.awake → p < nCores → s.chip.physOf k.dx k.dy = some p →
     let c := s.chip.core p
     ((k.schip = s.chip.id → (s.chip.physOf k.sx k.sy).isSome = true) →
       (Completes (.storeWrite p k) s fun u => s.arrival p u ∧ (u.chip.core p).store = Bytes.wrN c.store (k.addr % 2 ^ 22) k.payload ∧
         (u.chip.core p).ops = c.ops ∧ ∃ l a, (u.chip.core p).out = l ++ [a] ∧ a.ty = 4 ∧ a.seq = k.seq ∧ a.dx = k.sx ∧ a.dy = k.sy) ∧
       (Completes (.storeReadRequest p k) s fun u => s.arrival p u ∧ (u.chip.core p).store = c.store ∧ (u.chip.core p).ops = c.ops ∧
         ∃ l a, (u.chip.core p).out = l ++ [a] ∧ a.ty = 6 ∧ a.seq = k.seq ∧ a.payload = Bytes.rdN c.store (k.addr % 2 ^ 22) (64 * k.lenf))) ∧
     (∀ t l, c.op? (k.seq % 64) = some t → t.phase = .acks l → Completes (.storeWriteAck p k) s fun u => s.arrival p u ∧
       (u.chip.core p).op? (k.seq % 64) = some { t with phase := if (l.erase (k.seq / 64)).isEmpty then .started else .acks (l.erase (k.seq / 64)) } ∧
       (u.chip.core p).store = c.store) ∧
     (∀ t l, c.op? (k.seq % 64) = some t → t.phase = .remote l → l.contains (k.seq / 64) = true →
       let g := (remotePlan t.desc).getD (k.seq / 64) { x := 0, y := 0, o := 0, n := 0, at_ := 0 }
       let t' := { t with buf := Bytes.wrN t.buf g.at_ ((k.payload.drop (g.o % 64)).take g.n), bufBad := t.bufBad || decide (k.poison ≠ 0) }
       (l.erase (k.seq / 64) ≠ [] → Completes (.storeReadResponse p k) s fun u => s.arrival p u ∧ (u.chip.core p).store = c.store ∧
         (u.chip.core p).op? (k.seq % 64) = some { t' with phase := .remote (l.erase (k.seq / 64)) }) ∧
       (∀ i, l.erase (k.seq / 64) = [] → t.res.items = [i] → (dOp t.desc = opIGTH ∨ movDstQ t.desc = true) →
         Completes (.storeReadResponse p k) s fun u => s.arrival p u ∧
         (u.chip.core p).store = c.store ∧ ∃ r o, (u.chip.core p).op? (k.seq % 64) = some { t' with phase := .started, res := r } ∧
           r.items = [o] ∧ o.q = i.q ∧ o.slot = i.slot))) ∧
  (∀ (s : State) (r n : Nat) (k : Packet), s.awake → r < nCores → n < nCores → s.chip.oldestAt r k = true →
     (∀ f ∈ s.chip.flying, f.1 = atPort → f.2.dstop < 17 ∨ 24 < f.2.dstop) →
     let kept := fun (u : State) => u.chip.hbm = s.chip.hbm ∧
       ∀ q, (u.chip.core q).store = (s.chip.core q).store ∧ (u.chip.core q).regs = (s.chip.core q).regs
     (nextRouter r k = some n → s.chip.credit n k = true →
       (s.chip.bypassed r = false → typeClass k.ty = some k.cls → ∀ e ∈ [FlitCheck.clean, .corrected], Completes (.packetForward r k e) s fun u =>
         kept u ∧ (n, k) ∈ u.chip.flying ∧
         (e = .corrected → field (u.chip.reg rFAB_ERR_CNT) 0 32 = min (field (s.chip.reg rFAB_ERR_CNT) 0 32 + 1) (2 ^ 32 - 1))) ∧
       (s.chip.bypassed r = true → turnsAt r k = false → ∀ e, Completes (.packetForward r k e) s fun u =>
         kept u ∧ (n, k) ∈ u.chip.flying ∧ u.chip.regs = s.chip.regs)) ∧
     (s.chip.bypassed r = false → Completes (.packetForward r k .headerDouble) s fun u => kept u ∧ bitOf (u.chip.reg rFAB_ERR) 63 = true ∧
       field (u.chip.reg rFAB_ERR_CNT) 32 32 = min (field (s.chip.reg rFAB_ERR_CNT) 32 32 + 1) (2 ^ 32 - 1)))

/-! ### Time base (09 R318-R325; 17 R567) -/

/-- 08 R261; 09 R318, R322; 17 R567 (in part): loss of the reference enters holdover; a relock within 10 ms leaves it, a time-out raises
the time base failure; a trim adjustment adds one tick, or drops one, and counts; a core's compare interrupt is pending once its
local copy reaches SEQ_CTBCMP. An IEEE 1588 message sets a ready master's trim within its bounds, and no other part's. That the row
of a timer lets time run on to its tick, and that the trim itself is free, are the model's choices (logs 15 and 13). -/
def Obligations.TimeBaseEvents : Prop :=
  (∀ (s : State) (p : Nat), s.up → s.chip.trimOk → s.chip.now < 2 ^ 63 →
     let c := s.chip
     let r := signedOf 32 (field (c.reg rCTB_TRIM) 0 32)
     (bitOf (c.reg rCTB_STAT) 1 = false → Completes .refclkLoss s fun t => field (t.chip.reg rCTB_STAT) 0 3 = 2 ∧ t.chip.holdAt = c.now ∧
       t.chip.raised = c.raised ++ [(evHoldover, 0, 0)] ∧ t.chip.cores = c.cores ∧ t.chip.hbm = c.hbm) ∧
     (bitOf (c.reg rCTB_STAT) 1 = true → c.now ≤ c.holdAt + holdoverTicks → Completes .holdoverRelock s fun t =>
       field (t.chip.reg rCTB_STAT) 0 2 = 1 ∧ field (t.chip.reg rCTB_STAT) 16 16 = min (field (c.reg rCTB_STAT) 16 16 + 1) (2 ^ 16 - 1) ∧
       bitOf (t.chip.reg rCTB_STAT) 2 = bitOf (c.reg rCTB_STAT) 3 ∧ t.chip.cores = c.cores) ∧
     (bitOf (c.reg rCTB_STAT) 1 = true → c.holdAt < 2 ^ 62 → Completes .holdoverTimeout s fun t =>
       (evTbFail, 0, 0) ∈ t.chip.raised ∧ c.holdAt + holdoverTicks ≤ t.chip.now ∧ t.chip.hbm = c.hbm) ∧
     (r ≠ 0 → Completes .trimAdjust s fun t => t.chip.reg rCTB_ADJ_CNT = (c.reg rCTB_ADJ_CNT + 1) % 2 ^ 64 ∧ t.chip.hbm = c.hbm) ∧
     (p < nCores → s.chip.hold = false → (c.core p).reg rSEQ_CTBCMP < 2 ^ 62 → Completes (.ctbcmpMatch p) s fun t =>
       bitOf (t.chip.mip p) 19 = true ∧ t.chip.hbm = c.hbm ∧ ∀ q, (t.chip.core q).store = (c.core q).store)) ∧
  (∀ (s : State) (port : Nat) (time : DWord), s.awake → port < 2 → Completes (.ieee1588Message port (some time)) s fun t =>
     t.chip.cores = s.chip.cores ∧ t.chip.hbm = s.chip.hbm ∧ (∀ a, a ≠ rCTB_TRIM → t.chip.reg a = s.chip.reg a) ∧
     (s.chip.pins.power = .ready → bitOf (s.chip.reg rCTB_STAT) 3 = true →
       -858993 ≤ signedOf 32 (t.chip.reg rCTB_TRIM) ∧ signedOf 32 (t.chip.reg rCTB_TRIM) ≤ 858993) ∧
     (¬ (s.chip.pins.power = .ready ∧ bitOf (s.chip.reg rCTB_STAT) 3 = true) → t.chip.reg rCTB_TRIM = s.chip.reg rCTB_TRIM))

/-- 09 R324 (in part): a timed start is the start of the unit's own work at its tick: the command of that work, once time has
run on to the tick (log 15). -/
def Obligations.TimedStartIsTheUnitsStart : Prop :=
  ∀ (s : State) (p id a : Nat) (t : TOp), s.awake → p < nCores →
    let at_ := { s with chip := s.chip.runTo (Chip.dueLocal p a) }
    ((s.chip.core p).op? id = some t → t.waits = true → t.arm = some a →
      ∀ x ∈ [(opCVT, Instr.cvt p id), (opPDRN, .pdrn p id), (opLDT, .ldt p id), (opRED, .red p id), (opSEND, .send p id), (opRECV, .recv p id),
          (opSTSH, .stsh p id), (opUSTH, .usth p id), (opIGTH, .igth p id), (opKCAP, .kcap p id), (opDACC, .dacc p id), (opMOV, .mov p id)],
        dOp t.desc = x.1 → Completes (.timedStart p (.operation id)) s fun u => exec x.2 at_ = .next u) ∧
    (∀ v rest, (s.chip.core p).vuQ = v :: rest → v.loop = none → v.arm = some a →
      exec (.timedStart p .vector) s = at_.actOn p fun c => vuStart c (at_.chip.localTick p) (at_.chip.cycleNow p) fun _ => true) ∧
    (∀ k rest, (s.chip.core p).ku = k :: rest → k.loop = none → k.run = false → k.arm = some a →
      exec (.timedStart p .kerf) s = exec (if vu k.word 0 8 = 0x60 then .ksel p else .kchk p) at_) ∧
    (∀ e h rest, ((s.chip.core p).eng (e == .be)).halves = h :: rest → h.desc.timed = true → h.base.isNone = true → h.desc.launch = a →
      Completes (.timedStart p (.block e)) s fun u => exec (.blockLaunch p e) at_ = .next u)

/-! ### Spline links (11) -/

/-- 11 R372, R373, R374, R388 (in part): a link trains through its stages; two equal identity flits of one fabric bring it
up, and of another hold it as a mismatch; a stage past its bound, a lost lane or too many lost codewords take it down; a down
link that is enabled trains again. -/
def Obligations.LinksTrain : Prop :=
  ∀ (s : State) (l n hw chip link major : Nat) (h : FlitHdr), s.awake → l < nLinks → h.crcOk = true →
    let c := s.chip
    let L := c.link l
    (L.st = .pmd → Completes (.pmdTrainingDone l) s fun t => (t.chip.link l).st = .fec ∧ ∀ k, k ≠ l → t.chip.link k = c.link k) ∧
    (L.st = .fec → Completes (.fecLock l) s fun t => (t.chip.link l).st = .ident ∧ ∀ k, k ≠ l → t.chip.link k = c.link k) ∧
    (L.st = .ident → Completes (.identFlit l h hw chip link major) s fun t => t.chip.cores = c.cores ∧ t.chip.hbm = c.hbm ∧
      (L.ident ≠ some (hw, chip, link, major) → (t.chip.link l).ident = some (hw, chip, link, major) ∧ (t.chip.link l).st = .ident) ∧
      (L.ident = some (hw, chip, link, major) → bitOf (c.reg rSL_ID) 12 = true →
        (hw = hwType ∧ chip ≠ c.id ∧ max c.vcfVer.1 major - min c.vcfVer.1 major ≤ 1 → (t.chip.link l).st = .up ∧ (t.chip.link l).peerChip = chip ∧
          (t.chip.link l).peerLink = link) ∧
        (hw ≠ hwType ∨ chip = c.id → (t.chip.link l).st = .mismatch))) ∧
    (∀ b, let m := c.runOut (c.trainingDue l)
      stageBound (m.link l).st = some b → m.now > (m.link l).since + b → Completes (.trainingTimeout l) s fun t =>
        (t.chip.link l).st = .down ∧ (evLinkDown, l, 3) ∈ t.chip.raised) ∧
    ((let m := c.runOut (c.retrainDue l)
      (m.link l).st = .down → bitOf (m.reg (slg rSL_CTL l)) 0 = true → m.now ≥ (m.link l).since + 1000000000 → Completes (.linkRetrain l) s fun t =>
        (t.chip.link l).st = .pmd)) ∧
    (L.isUp = true ∨ training L = true →
      (Completes (.laneSignalLoss l) s fun t => (t.chip.link l).st = .down ∧ (c.snp.doneL = [] → t.chip.hbm = c.hbm)) ∧
      (Completes (.fecFailure l n) s fun t => (n > 1000 → (t.chip.link l).st = .down) ∧ (n ≤ 1000 → (t.chip.link l).st = L.st ∧ t.chip.cores = c.cores))) ∧
    (L.isUp = true → Completes (.linkDegrade l n) s fun t => t.chip.link l = L ∧ t.chip.raised = c.raised ++ [(evLinkDegrade, l, 0)] ∧
      field (t.chip.reg (slg rSL_FEC_CNT l)) 0 32 = min (field (c.reg (slg rSL_FEC_CNT l)) 0 32 + n) 0xFFFFFFFF ∧ t.chip.cores = c.cores)

/-- 11 R378, R379, R380, R381 (in part): a sequenced flit with the expected number is taken once and counted; a later one, and any
flit whose CRC fails, opens a gap and asks for a replay; a header's RTRY and RNB are kept; a NAK and an acknowledgement timeout start or go on with a replay
episode and keep what is not acknowledged; an episode of 100 µs takes the link down. -/
def Obligations.FlitsAreSequenced : Prop :=
  ∀ (s : State) (l : Nat) (h : FlitHdr) (body : List Byte), s.awake → l < nLinks → (s.chip.link l).isUp = true → h.crcOk = true →
    let c := s.chip
    let L := c.link l
    (Completes (.dataFlit l h body) s fun t => t.chip.cores = c.cores ∧ t.chip.hbm = c.hbm ∧
      (h.fseq = L.exp → (t.chip.link l).exp = (L.exp + 1) % 4096 ∧ (t.chip.link l).gap = none ∧
        t.chip.reg (slg rSL_RXF_CNT l) = (c.reg (slg rSL_RXF_CNT l) + 1) % 2 ^ 64) ∧
      (h.fseq ≠ L.exp → (t.chip.link l).exp = L.exp ∧ (t.chip.link l).rxq = L.rxq ∧
        ((h.fseq + 4096 - L.exp) % 4096 < 2048 → (t.chip.link l).gap.isSome = true))) ∧
    (Completes (.idleFlit l h) s fun t => t.chip.cores = c.cores ∧ t.chip.hbm = c.hbm ∧ (t.chip.link l).exp = L.exp ∧
      (t.chip.link l).rtryRx = h.rtry ∧ (t.chip.link l).rnbRx = h.rnb ∧ (t.chip.link l).rxq = L.rxq) ∧
    (∀ h' : FlitHdr, h'.crcOk = false → ∀ i ∈ [Instr.dataFlit l h' body, .idleFlit l h', .nakFlit l h'], Completes i s fun t =>
      t.chip.cores = c.cores ∧ t.chip.hbm = c.hbm ∧ (t.chip.link l).gap.isSome = true ∧ (t.chip.link l).exp = L.exp ∧
      (t.chip.link l).acked = L.acked ∧ (t.chip.link l).buf = L.buf ∧ (t.chip.link l).rxq = L.rxq) ∧
    (let L' := L.header h c.now
      let e := L'.epis.getD { start := c.now, count := 0, mark := 0 }
      L'.buf ≠ [] → h.fack ≠ L.acked → e.count < 64 → c.now < e.start + 100000 → Completes (.nakFlit l h) s fun t =>
        (t.chip.link l).epis = some { e with count := e.count + 1, mark := (L.next + 4095) % 4096 } ∧ (t.chip.link l).buf = L'.buf ∧ t.chip.cores = c.cores) ∧
    (∀ m e, m = c.runOut (c.episodeDue l) → (m.link l).isUp = true → (m.link l).epis = some e → m.now ≥ e.start + 100000 →
      Completes (.episodeTimeout l) s fun t => (t.chip.link l).st = .down) ∧
    (∀ m, m = c.runOut (c.ackDue l) → (m.link l).isUp = true → (m.link l).buf ≠ [] → (m.link l).epis = none → m.now ≥ (m.link l).ackAt + ackTo m l →
      Completes (.ackTimeout l) s fun t => (t.chip.link l).buf = (m.link l).buf ∧ (t.chip.link l).ackAt = m.now ∧ (t.chip.link l).epis.isSome = true) ∧
    (∀ m g, m = c.runOut (c.nakDue l) → (m.link l).isUp = true → (m.link l).gap = some g → m.now ≥ g + 2000 →
      Completes (.nakRepeat l) s fun t => (t.chip.link l).gap = some m.now ∧ ∃ hd o, t.chip.outs = .flit l 2 hd [] :: o)

/-- 11 R389, R390, R391, R392, R395, R396, R397 (in part): a newer link-state record replaces the one held and waits for a re-plan; the
re-plan comes 200 µs after the last change; a transit packet is counted as forwarded, and one for no reachable
part is discarded and counted. A time exchange sends a request and keeps its departure; a response to it closes it and sets the
link's delay. A window of eight good exchanges with the parent leaves the trim within its bounds; a window of fewer
takes XSYNC away and leaves the trim. -/
def Obligations.RoutesAndTimeFollowThePlan : Prop :=
  (∀ (s : State) (l : Nat) (h : FlitHdr) (r : LsRecord) (k : Packet) (rest : List Packet) (media : Media), s.awake → l < nLinks →
     let c := s.chip
     let L := c.link l
     (L.isUp = true → h.crcOk = true → h.fseq = L.exp → r.chip ≠ c.id →
       (∀ q ∈ c.flood.recs, q.chip = r.chip → q.version.toNat < r.version.toNat) → Completes (.lmFlit l h r) s fun t =>
         recOf t.chip.flood.recs r.chip = some r ∧ t.chip.flood.stale = true ∧ t.chip.flood.changedAt = c.now ∧ (c.snp.doneL = [] → t.chip.hbm = c.hbm)) ∧
     (c.flood.stale = true → ¬ (c.job.relink = true ∧ c.coordinator = true) → c.flood.changedAt + 200000 ≤ c.now → Completes (.replan media) s fun t =>
       t.chip.flood.stale = false ∧ t.chip.cores = c.cores ∧ t.chip.hbm = c.hbm ∧ t.chip.flood.recs = c.flood.recs) ∧
     (L.rxq = k :: rest → k.dchip ≠ c.id → Completes (.linkStopPacket l) s fun t => t.chip.cores = c.cores ∧ t.chip.hbm = c.hbm ∧
       (bitOf (rtEntry c k.dchip) 10 = false → t.chip.reg rSL_DISC_CNT = (c.reg rSL_DISC_CNT + 1) % 2 ^ 64 ∧ (t.chip.link l).rxq = rest) ∧
       (bitOf (rtEntry c k.dchip) 10 = true → t.chip.reg rSL_FWD_CNT = (c.reg rSL_FWD_CNT + 1) % 2 ^ 64))) ∧
  (∀ (s : State) (l : Nat) (h : FlitHdr) (t1 ta td : Int) (x : Nat) (t2 t3 : Int) (pSync : Bool), s.awake → l < nLinks → h.crcOk = true →
     let c := s.chip
     let L := c.link l
     (L.isUp = true → Completes (.timeExchangeStart l t1) s fun t => (t.chip.link l).exch = some (L.xid, t1) ∧
       (t.chip.link l).xid = (L.xid + 1) % 256 ∧ t.chip.cores = c.cores ∧ ∃ hd o, t.chip.outs = .flit l 3 hd (timeBytes (.request L.xid)) :: o) ∧
     (L.isUp = true → Completes (.timeFlit l h (.request x) ta td) s fun t => t.chip.cores = c.cores ∧
       ∃ hd o, t.chip.outs = .flit l 3 hd (timeBytes (.response x ta td)) :: o) ∧
     (L.isUp = true → L.exch = some (x, t1) → Completes (.timeFlit l h (.response x t2 t3) ta td) s fun t => t.chip.cores = c.cores ∧
       (t.chip.link l).exch = none ∧ t.chip.reg (slg rSL_LAT l) = wrapInt 24 (((ta - t1) - (t3 - t2)).tdiv 2)) ∧
     (c.parentLink.isSome = true → Completes (.disciplineWindow pSync) s fun t => t.chip.cores = c.cores ∧ t.chip.hbm = c.hbm ∧ t.chip.ts.win = [] ∧
       ((c.ts.win.filter fun y => decide (∀ z ∈ c.ts.win, y.2 ≤ z.2 + 32)).length < 8 → bitOf (t.chip.reg rCTB_STAT) 2 = false ∧
         t.chip.reg rCTB_TRIM = c.reg rCTB_TRIM) ∧
       (8 ≤ (c.ts.win.filter fun y => decide (∀ z ∈ c.ts.win, y.2 ≤ z.2 + 32)).length →
         -858993 ≤ signedOf 32 (t.chip.reg rCTB_TRIM) ∧ signedOf 32 (t.chip.reg rCTB_TRIM) ≤ 858993)))

/-! ### Memory, stash and snapshots (10, 14) -/

/-- 10 R339, R343, R346, R355 (in part): a request within one page that its agent may make is served: a write lands in exactly its
bytes and a read returns them, with a mark if any line is lost; one to the store window of
a core is served from its core store for a Steward or the snapshot engine; one that its agent may not make is answered with status 1
and changes no memory; a response reaches its requester. Canonical form of the memories is kept. -/
def Obligations.MemoryIsServed : Prop :=
  ∀ (s : State) (q : MemReq) (e : EccResult) (r : MemResp), s.up →
    let c := s.chip
    let a := if q.write then q.addr else q.addr / 64 * 64
    let n := if q.write then q.data.length else 64 * q.lines
    1 ≤ q.lines → q.lines ≤ 64 → a / 4096 = (a / 64 + q.lines - 1) / 64 → a % 64 + n ≤ 64 * q.lines → n ≠ 0 →
    (c.runOk q.agent q.write q.confirmed a n = true → q.write = true → c.wrRefused a n = false → c.snp.prot = [] →
      Completes (.memoryRequest q e) s fun t => t.chip.memResp = c.memResp ++ [MemResp.mk q.agent q.xid true [] false] ∧
        (s.memWf → t.memWf) ∧ t.chip.cores = c.cores ∧ t.chip.regs = c.regs ∧
        t.chip.hbm = (if a < 2 ^ 40 then Bytes.wrN c.hbm a q.data else c.hbm) ∧
        t.chip.cxl = (if a < 2 ^ 40 then c.cxl else Bytes.wrN c.cxl a q.data) ∧
        t.chip.bytesAt a n = q.data ∧
        ∀ x, (x < a ∨ a + n ≤ x) → t.chip.byteAt x = c.byteAt x) ∧
    (c.runOk q.agent q.write q.confirmed a n = true → q.write = false → Completes (.memoryRequest q e) s fun t =>
        t.chip.hbm = c.hbm ∧ t.chip.cxl = c.cxl ∧ t.chip.cores = c.cores ∧
        t.chip.memResp = c.memResp ++ [MemResp.mk q.agent q.xid true (c.bytesAt a n) ((c.memRd a n).2 || e == .uncorrectable)]) ∧
    (∀ p, c.windowCore q.agent a n = some p → Completes (.memoryRequest q e) s fun t =>
        t.chip.hbm = c.hbm ∧ t.chip.cxl = c.cxl ∧ (∀ x, x ≠ p → t.chip.core x = c.core x) ∧
        t.chip.memResp = c.memResp ++ [MemResp.mk q.agent q.xid true (if q.write then [] else Bytes.rdN (c.core p).store (a % 0x1000000) n)
          (!q.write && (c.core p).upsetIn (0x400000 + a % 0x1000000) n)] ∧
        (t.chip.core p).store = if q.write then Bytes.wrN (c.core p).store (a % 0x1000000) q.data else (c.core p).store) ∧
    (c.runOk q.agent q.write q.confirmed a n = false → c.windowCore q.agent a n = none → c.snp.prot = [] → Completes (.memoryRequest q e) s fun t =>
        t.chip.hbm = c.hbm ∧ t.chip.cxl = c.cxl ∧ t.chip.cores = c.cores ∧
        t.chip.memResp = c.memResp ++ [MemResp.mk q.agent q.xid false [] false]) ∧
    (Completes (.memoryResponse r) s fun t => t.chip.memResp = c.memResp.erase r ∧ r ∈ t.chip.memGot ∧ t.chip.hbm = c.hbm ∧ t.chip.cxl = c.cxl ∧
        (r.ok = true → t.chip.cores = c.cores ∧ t.chip.raised = c.raised))

/-- 10 R341, R345, R346, R349, R353, R370 (in part): a scrub counts what it finds and marks lost data; a stack enters self-refresh and
reports its temperature; a lost device of the CXL interleave set fences the set; no byte of memory changes. While a migration runs
its pages move one by one in ascending group order; after the last one its channel is retired, and the migration ends unless a fenced channel is to retire next. -/
def Obligations.MemoryIsWatched : Prop :=
  (∀ (s : State) (a n v : Nat), s.awake → a < 2 ^ 40 → n < 16 → v < 256 →
     let c := s.chip
     let same := fun (t : State) => t.chip.hbm = c.hbm ∧ t.chip.cxl = c.cxl ∧ t.chip.cores = c.cores
     (Completes (.hbmScrub a .uncorrectable) s fun t => same t ∧ t.chip.linePoison (a / 64) = true ∧
       t.chip.raised = c.raised ++ [(evMemUncorr, hbmChannel a, 0)]) ∧
     (Completes (.hbmScrub a .corrected) s fun t => same t ∧ t.chip.poison = c.poison ∧
       field (t.chip.reg (rECC (hbmChannel a))) 0 32 = min (field (c.reg (rECC (hbmChannel a))) 0 32 + 1) (2 ^ 32 - 1) ∧
       t.chip.raised = c.raised ++ [(evMemCorr, hbmChannel a, 0)]) ∧
     (Completes (.hbmScrub a .good) s fun t => same t ∧ t.chip.poison = c.poison ∧ t.chip.raised = c.raised) ∧
     (Completes (.selfRefreshEntry n) s fun t => same t ∧ n ∈ t.chip.selfRef ∧ t.chip.regs = c.regs) ∧
     (Completes (.hbmTemperature n v) s fun t => same t ∧ field (t.chip.reg (rMC_STAT n)) 32 8 = v ∧
       (bitOf (t.chip.reg (rMC_STAT n)) 40 = true ↔ 85 < v)) ∧
     (∀ port, port < 4 → Completes (.cxlDeviceDown port) s fun t => same t ∧ bitOf (t.chip.reg rCXL_STAT) port = false ∧
       t.chip.raised = c.raised ++ [(evCxlDown, port, 0)] ∧ (bitOf (c.reg rCXL_CFG) (2 + port) = true → t.chip.cxlFenced = true))) ∧
  (∀ (s : State), s.awake → bitOf (s.chip.reg rMEM_MIG) 28 = true →
     let c := s.chip
     let ch := field (c.reg rMEM_MIG) 0 9
     let moved := fun (t : State) => t.chip.hbm = c.hbm ∧ t.chip.cores = c.cores ∧
       NatMap.rd t.chip.redir (channelPage ch (c.moveGroup c.moveIndex)) = c.hostPage c.moveIndex + 1
     (c.moveIndex + 1 < c.moveCount → Completes .migrationPageMove s fun t => moved t ∧ bitOf (t.chip.reg rMEM_MIG) 28 = true ∧
       field (t.chip.reg rMEM_MIG) 0 9 = ch ∧ field (t.chip.reg rMEM_MIG) 9 19 = c.moveGroup (c.moveIndex + 1) % 2 ^ 19) ∧
     (c.moveIndex + 1 = c.moveCount → Completes .migrationDone s fun t => moved t ∧
       ((∀ x ∈ c.fencedCh, x ∈ c.retired) → bitOf (t.chip.reg rMEM_MIG) 28 = false) ∧
       bitOf (t.chip.reg (rECC ch)) 48 = true ∧ t.chip.vlog = .channelRetired ch :: c.vlog))

/-- 14 R475, R480, R482, R483 (in part): a page that is copied on first touch goes to the staging pool and is no longer protected; a
layer whose image is complete is due no more; a layer or an upload whose destination fails is abandoned and
counted, and the job's state stays; a commit that every rank has reported names its step; an upload that is done ends. -/
def Obligations.SnapshotsAreCaptured : Prop :=
  ∀ (s : State) (a l k step : Nat), s.awake →
    let c := s.chip
    (c.snp.prot.contains (a / 4096) = true → c.stagedPages < field (c.reg rSNP_STAGE_SIZE) 0 20 → Completes (.cowCopyDone a) s fun t =>
      t.chip.snp.prot.contains (a / 4096) = false ∧ t.chip.snp.staged = c.snp.staged ++ [(a / 4096, c.bytesAt (4096 * (a / 4096)) 4096)] ∧
      t.chip.reg rSNP_COW_CNT = (c.reg rSNP_COW_CNT + 1) % 2 ^ 64 ∧ t.chip.hbm = c.hbm ∧ t.chip.cores = c.cores) ∧
    (c.snp.due.contains l = true → Completes (.captureComplete l) s fun t =>
      t.chip.snp.due.contains l = false ∧ l ∈ t.chip.snp.doneL ∧ (l ≠ 0 → t.chip.hbm = c.hbm) ∧ t.chip.cores = c.cores) ∧
    (c.snp.due.contains l = true → l ≠ 2 → bitOf (c.reg rSNP_STAT) 1 = false → Completes (.destinationFail l) s fun t =>
      t.chip.snp.due.contains l = false ∧ t.chip.reg rSNP_ABORT_CNT = (c.reg rSNP_ABORT_CNT + 1) % 2 ^ 64 ∧
      t.chip.hbm = c.hbm ∧ t.chip.cores = c.cores ∧ t.chip.job.st = c.job.st) ∧
    (c.snp.upload = some (step, k) → bitOf (c.reg rSNP_STAT) 1 = false → Completes (.destinationFail 2) s fun t =>
      t.chip.snp.upload = none ∧ t.chip.reg rSNP_ABORT_CNT = (c.reg rSNP_ABORT_CNT + 1) % 2 ^ 64 ∧ t.chip.hbm = c.hbm ∧ t.chip.job.st = c.job.st) ∧
    (c.coordinator = true → c.snp.doneL.contains l = true → allReported c l c.snp.step = true → bitOf (c.reg rSNP_STAT) 1 = false → l < 3 →
      Completes (.captureCommit l) s fun t => t.chip.reg (rSNP_LAST l) = c.snp.step % 2 ^ 48 + 2 ^ 63) ∧
    (c.snp.upload = some (step, k) → Completes .layer2UploadDone s fun t => t.chip.snp.upload = none ∧
      bitOf (t.chip.reg rSNP_STAT) 3 = false ∧ t.chip.hbm = c.hbm ∧
      (c.coordinator = true → allReported c 2 step = true → t.chip.reg (rSNP_LAST 2) = step % 2 ^ 48 + 2 ^ 63))

/-! ### Client commands, jobs and channels (12, 16) -/

/-- 12 R427, R428; 12 R431, R435; 13 R456 (in part): each query, and each command on cores, faults and energy, that passes its
checks takes effect and completes with the status and the result that its page gives; a parameter out of range completes with
status 4 and the byte offset of the field. -/
def Obligations.ClientCommandsComplete : Prop :=
  ∀ (s : State) (c ch i op : Nat) (g : List Byte) (media : Media), s.clientHead c ch i op g →
    let m := s.took c ch
    let r : RunCmd := { c := c, ch := ch, idx := i, op := op, msg := g }
    let p := listLe g 16 1 + 16 * listLe g 17 1
    (op = 1 → Answers (.ifQuery c ch) s (m.finish r 0 0 (leBytes 1 m.vcfVer.1 ++ leBytes 1 m.vcfVer.2.1 ++ leBytes 2 0 ++ leBytes 4 m.vcfVer.2.2 ++
      leBytes 4 hwType ++ leBytes 4 m.id ++ leBytes 4 (m.reg rSEC_BOOTCNT) ++ leBytes 4 (field (m.reg (rMBX_CL_CFG c)) 8 5) ++ leBytes 8 Config.jobLimit))) ∧
    (op = 2 → ch = 0 → Completes (.chReset c ch) s fun t => ∃ x, t.chip = Chip.finish x r 0 0 [] ∧
      (∀ q ∈ x.vcf.running, q.c = c → q.ch = 0) ∧ (∀ k, 1 ≤ k → k < 32 → x.view (.chip (8 + c)) k = ChanView.reset) ∧ x.cores = m.cores ∧ x.hbm = m.hbm) ∧
    (op = 0x50 → (let n := listLe g 16 4
      let list := listLe g 20 4
      let dst := listLe g 24 4
      let vals := (List.range n).map fun k => m.telRead (listLe (m.payloadAt r list (8 * n)) (8 * k) 8)
      1 ≤ n → n ≤ 1024 → list + 8 * n ≤ 0x40000 → dst + 8 * n ≤ 0x40000 → vals.all (·.isSome) = true →
        Answers (.telQuery c ch) s ((m.chWrN (.chip (8 + c)) (0x40000 + dst) (vals.flatMap fun v => leBytes 8 (v.getD 0))).finish r 0 0 (leBytes 4 n)))) ∧
    (op = 0x90 → (let w := listLe g 16 4
      (w < 900 ∨ 1500 < w → Answers (.envSet c ch) s (m.finish r 4 16 [])) ∧
      (900 ≤ w → w ≤ 1500 → Completes (.envSet c ch) s fun t => ∃ x k, t.chip = Chip.finish x r 0 0 (leBytes 8 k) ∧ x.cores = m.cores ∧
        (m.job.st ≠ .running → x.envelope = w ∧ k = m.job.step) ∧
        (m.job.st = .running → x.envelope = m.envelope ∧ bitOf (x.reg rEN_ENV) 11 = true ∧ field (x.reg rEN_ENV) 12 11 = w ∧ k = m.job.step + 1)))) ∧
    (op = 0x60 → (2350 ≤ listLe g 16 2 → Answers (.fltAck c ch) s (m.finish r 4 16 [])) ∧
      (listLe g 16 2 < 2350 → Answers (.fltAck c ch) s ((m.ackAll (listLe g 16 2)).finish r 0 0 []))) ∧
    (listLe g 16 1 ≤ 15 → listLe g 17 1 ≤ 17 →
      (op = 0x41 → Answers (.coreUnfence c ch false) s (m.finish r 6 (jobStCode m.job.st) [])) ∧
      (op = 0x41 → Completes (.coreUnfence c ch true) s fun t => (t.chip.core p).fenced = false ∧ (t.chip.core p).good = true ∧
        (∀ q, q ≠ p → t.chip.core q = m.core q)) ∧
      (op = 0x40 → m.job.st = .idle → (m.vcf.running.any fun q => decide (q.c = c) && decide (q.ch = ch)) = false →
        Completes (.coreFence c ch media) s fun t => (t.chip.core p).fenced = true ∧ bitOf ((t.chip.core p).reg rSEQ_CTL) 0 = false ∧
          (∀ q, q ≠ p → t.chip.core q = m.core q)))

/-- 12 R433, R434, R436, R445; 14 R480, R484 (in part): a job is loaded and then PAUSED at boundary 0, runs the steps a STEP_RUN
asks for, pauses at the boundary a STEP_PAUSE asks for, keeps a snapshot that a SNAP_TAKE asks for for its next boundary, is
restored, and is unloaded; a command that has to wait is kept. The job here has one part. -/
def Obligations.JobCommandsRunTheJob : Prop :=
  ∀ (s : State) (c ch i op : Nat) (g ext : List Byte) (media : Media), s.clientHead c ch i op g →
    let m := s.took c ch
    let r : RunCmd := { c := c, ch := ch, idx := i, op := op, msg := g }
    let rank := listLe g 104 4
    let l := listLe g 16 1
    (op = 0x10 → (m.vcf.running.any fun q => q.op == 0x10) = false →
      (∀ img dig, m.imageSource r l 16 ext = .ok img → dig = leNat ((g.drop 56).take 48) → 1 ≤ listLe g 108 4 → listLe g 108 4 ≤ 4096 →
        1000 ≤ listLe g 112 4 → listLe g 112 4 ≤ 60000000 →
        (∀ st det, loadCheck img dig rank (listLe g 108 4) m.vcfVer.1 m.verWord = some (st, det) →
          Answers (.jobLoad c ch ext) s (m.finish r st det [])) ∧
        (∀ y z, loadCheck img dig rank (listLe g 108 4) m.vcfVer.1 m.verWord = none → m.fencedCh = [] →
          loadRegions (memJobstWrite m 1) img rank = (y, none) → (namedRanks img rank).dedup.filter (· ≠ rank) = [] →
          loadFinish { y with
              job := { y.job with id := y.vcf.jobSeq + 1, rank := rank, parts := listLe g 108 4, image := img, digest := dig, progUs := listLe g 112 4, step := 0
                                  chips := y.job.chips.filter fun x => x.1 ≠ rank }
              vcf := { y.vcf with jobSeq := y.vcf.jobSeq + 1 } } = (z, none) →
          Answers (.jobLoad c ch ext) s (z.finish r 0 0 (leBytes 4 z.job.id ++ leBytes 2 z.jobCores.length ++ leBytes 2 z.spareCount)) ∧ z.job.st = .loaded))) ∧
    (m.job.parts = 1 → m.job.rank = 0 →
      (op = 0x11 → (m.vcf.running.any fun q => q.op == 0x11) = false → Completes (.jobStart c ch) s fun t => t.chip.job.st = .paused ∧ t.chip.job.step = 0) ∧
      (op = 0x12 → Completes (.jobUnload c ch) s fun t => t.chip.job.st = .idle ∧ t.chip.reg rMEM_JOBST = 0 ∧ t.chip.hbm = m.hbm) ∧
      (op = 0x20 → Completes (.stepRun c ch) s fun t => t.chip.job.st = .running ∧ t.chip.job.released = false ∧ t.chip.job.step = m.job.step ∧
        t.chip.job.left = (if listLe g 16 4 = 0 then none else some (listLe g 16 4)) ∧ r ∈ t.chip.vcf.running ∧ t.chip.cores = m.cores) ∧
      (op = 0x21 → m.job.st = .paused → Answers (.stepPause c ch) s (m.finish r 0 0 (leBytes 8 m.job.step))) ∧
      (op = 0x21 → m.job.st = .running → m.job.pause = none → Completes (.stepPause c ch) s fun t => t.chip.job.pause = some (8, 0) ∧
        t.chip.job.st = .running ∧ r ∈ t.chip.vcf.running ∧ t.chip.cores = m.cores) ∧
      (op = 0x30 → l = 1 ∨ l = 2 → Completes (.snapTake c ch) s fun t => l ∈ t.chip.snp.asked ∧ r ∈ t.chip.vcf.running ∧ t.chip.cores = m.cores) ∧
      (op = 0x31 → l ≤ 2 → restoreStep m l (listLe g 24 8) media.images media.others = none →
        Answers (.snapRestore c ch media) s (m.finish r 0xA 0 [])) ∧
      (∀ k x, op = 0x31 → l ≤ 2 → restoreStep m l (listLe g 24 8) media.images media.others = some k → restoreTo m l k media.images = some x →
        x.vcf.running = [] → x.job.parts = 1 → x.job.rank = 0 → Completes (.snapRestore c ch media) s fun t => t.chip.job.restoring = none ∧
          t.chip.vcf.running = [] ∧ t.chip.hbm = x.hbm ∧ t.chip.job.st = x.job.st))

/-- 09 R326; 12 R434, R436, R445; 14 R480 (in part): a step is released once, with a base at least 50 µs ahead; at its boundary, which
comes once nothing of the step is open, the step count moves on and the release ends; other parts' Stewards announce their ranks, and ask for the start of a step; a job
that loses a part waits. -/
def Obligations.StepsAreReleased : Prop :=
  ∀ (s : State) (base : DWord) (meas : PlanMeas) (media : Media) (rank chip : Nat), s.awake →
    let c := s.chip
    (c.job.st = .running → c.job.released = false → c.coordinator = true → c.allReady = true → bitOf (c.reg rSNP_STAT) 1 = false →
      c.now + 50000 ≤ base.toNat → Completes (.stepRelease base) s fun t => t.chip.job.released = true ∧ t.chip.job.base = base.toNat ∧
        t.chip.job.step = c.job.step ∧ t.chip.hbm = c.hbm ∧
        (∀ x y p, (x, y, p) ∈ c.jobCores → (t.chip.core p).step = c.job.step + 1)) ∧
    (base.toNat < c.now + 50000 → Answers (.stepRelease base) s c) ∧
    (c.boundaryReady = false → Answers (.stepBoundary meas) s c) ∧
    (c.job.st = .running → c.job.released = true → c.job.pause = none → c.job.left ≠ some 0 → c.job.left ≠ some 1 → c.flt.retire = [] →
      c.boundaryReady = true → Completes (.stepBoundary meas) s fun t =>
      t.chip.job.step = c.job.step + 1 ∧ t.chip.job.released = false ∧ t.chip.job.ran = c.job.ran + 1 ∧ t.chip.job.st = .running) ∧
    (c.job.st = .idle → (c.vcf.running.any fun r => r.op == 0x10) = false → Completes (.rankAnnounce rank chip) s fun t =>
      t.chip.job.chips.find? (fun x => x.1 == rank) = some (rank, chip) ∧ t.chip.cores = c.cores ∧ t.chip.hbm = c.hbm) ∧
    (c.job.st = .running → c.job.pause = none → Completes (.stewardMessage .stepPause media) s fun t => t.chip.job.pause = some (8, 0) ∧
      t.chip.job.st = .running ∧ t.chip.cores = c.cores) ∧
    (c.job.st = .loaded → c.coordinator = false → Completes (.stewardMessage .jobStart media) s fun t => t.chip.job.st = .paused ∧ t.chip.job.step = 0) ∧
    (c.coordinator = true → c.job.st ≠ .idle → Completes (.partLostMsg rank) s fun t => t.chip.job.st = .waiting ∧ (c.snp.doneL = [] → t.chip.hbm = c.hbm))

/-- 16 R528, R529, R530, R532, R534, R536 (in part): a staged image that verifies opens a closed set, and one that does not completes with
000Ah; the commit of a set with a Steward image starts in phase 1, and its last phase ends in phase 7; an abort closes the set; a planned switchover gives the other pair the role and completes
what runs with 000Bh; a change takes a proposal and an approval by another role, both signed. -/
def Obligations.UpdatesAndPolicy : Prop :=
  ∀ (s : State) (c ch i op : Nat) (g ext : List Byte), s.clientHead c ch i op g →
    let m := s.took c ch
    let r : RunCmd := { c := c, ch := ch, idx := i, op := op, msg := g }
    (∀ b k, op = 0x70 → k = listLe g 16 1 → k ≤ 3 → m.imageSource r (listLe g 17 1) 17 ext = .ok b → m.commitRuns = false →
      (∀ cause, imageCheck m.sec b k = some cause → Answers (.updStage c ch ext) s ((m.setField rSEC_UPD 8 4 cause).finish r 0xA 0 [])) ∧
      (imageCheck m.sec b k = none → m.setOpen = false → listLe b 16 1 = m.vcfVer.1 → bitOf m.sec.permitted k = true →
        Completes (.updStage c ch ext) s fun t => t.chip.setOpen = true ∧ t.chip.staged = 2 ^ k ∧ t.chip.sec.stageSeq = m.sec.stageSeq + 1 ∧
          t.chip.sec.slot k (m.inactive k) = slotImgOf b ∧ t.chip.cores = m.cores ∧ t.chip.hbm = m.hbm)) ∧
    (op = 0x71 → m.namesSet r = true → m.commitRuns = false → bitOf m.staged 1 = true → Completes (.updCommit c ch) s fun t =>
      field (t.chip.reg rSEC_UPD) 0 3 = 1 ∧ r ∈ t.chip.vcf.running ∧ bitOf (t.chip.reg rEN_STAT) 0 = false ∧ t.chip.cores = m.cores) ∧
    (op = 0x71 → m.namesSet r = false → Answers (.updCommit c ch) s (m.finish r 0xC 0 [])) ∧
    (op = 0x72 → m.namesSet r = true → Completes (.updAbort c ch) s fun t => t.chip.setOpen = false ∧ t.chip.staged = 0 ∧ t.chip.sec.todo = [] ∧
      t.chip.cores = m.cores) ∧
    (op = 0x80 → listLe g 16 4 = 1 → listLe g 24 4 = 32 → listLe g 32 4 = 4723 → listLe g 36 1 < 2 → listLe g 20 4 + 32 ≤ 0x40000 →
      listLe g 28 4 + 4723 ≤ 0x40000 → (let body := m.payloadAt r (listLe g 20 4) 32;
        listLe body 16 1 < 32 → nz body 17 15 = false →
        (m.sec.signed (listLe g 36 1) (propMsg 1 body) (m.payloadAt r (listLe g 28 4) 4723) = false → Answers (.polPropose c ch) s (m.finish r 0xA 0 [])) ∧
        (m.sec.signed (listLe g 36 1) (propMsg 1 body) (m.payloadAt r (listLe g 28 4) 4723) = true → Completes (.polPropose c ch) s fun t =>
          (∃ q ∈ t.chip.sec.proposals, q.id = m.sec.nextProp ∧ q.ptype = 1 ∧ q.body = body ∧ q.role = listLe g 36 1 ∧
            q.expiry = m.now + 600000000000) ∧ t.chip.sec.minSvn = m.sec.minSvn ∧ t.chip.sec.permitted = m.sec.permitted))) ∧
    (∀ q, op = 0x81 → m.sec.proposals.find? (fun q => q.id == listLe g 16 8) = some q → m.now < q.expiry → listLe g 28 4 = 4723 →
      listLe g 24 4 + 4723 ≤ 0x40000 → listLe g 32 1 < 2 → listLe g 32 1 ≠ q.role →
      (let ok := m.sec.signed (listLe g 32 1) (leBytes 48 (Config.sha384 (q.msg ++ leBytes 8 (listLe g 16 8)))) (m.payloadAt r (listLe g 24 4) 4723);
        (ok = false → Answers (.polApprove c ch) s (m.finish r 0xA 0 [])) ∧
        (ok = true → q.ptype = 0 → Completes (.polApprove c ch) s fun t => t.chip.sec.table = some q.body ∧
          (∀ x ∈ t.chip.sec.proposals, x.id ≠ listLe g 16 8) ∧ t.chip.cores = m.cores))) ∧
    (field (s.chip.reg rSEC_UPD) 0 3 = 1 → s.chip.sec.todo = [] → Completes (.updPhaseDone .ok) s fun t => field (t.chip.reg rSEC_UPD) 0 3 = 7 ∧
      bitOf (t.chip.reg rEN_STAT) 0 = true) ∧
    (field (s.chip.reg rSEC_UPD) 0 3 = 4 → s.chip.vcf.running = [] → Completes .plannedSwitchover s fun t => field (t.chip.reg rSEC_UPD) 0 3 = 5 ∧
      t.chip.activeB = !s.chip.activeB ∧ t.chip.cores = s.chip.cores)

/-- 12 R419, R421-R425, R427, R428, R448 (in part): a notice takes the indices of its channel; a completion is a record whose
VALID word carries the sequence number, then the index and the return doorbell; a client reaches its own page and buffer and
no other's; a core's message is served and completed. -/
def Obligations.ChannelsAndWindow : Prop :=
  ∀ (s : State) (c ch off n : Nat) (data : List Byte), s.awake → c < 8 → ch < 32 →
    let m := Mbx.chip (8 + c)
    let k := s.chip
    (bitOf (k.mbxPend m false) ch = true → k.chRd m (0x40 * ch + 32) 1 = 0 → k.chRd m (0x40 * ch + 2) 2 = 64 →
      idxSub (k.chRd m (0x40 * ch + 8) 4) (k.chRd m (0x40 * ch + 12) 4) ≤ 64 → idxSub (k.chRd m (0x40 * ch + 16) 4) (k.chRd m (0x40 * ch + 20) 4) ≤ 64 →
      Completes (.channelNotice m ch) s fun t => (t.chip.view m ch).prod = k.chRd m (0x40 * ch + 8) 4 ∧
        (t.chip.view m ch).ack = k.chRd m (0x40 * ch + 20) 4 ∧ bitOf (t.chip.mbxPend m false) ch = false ∧ t.chip.cores = k.cores ∧ t.chip.hbm = k.hbm) ∧
    (∀ r st det res, r.c = c → r.ch = ch → k.chRd m (0x40 * ch + 28) 4 = 0x10800 + 0x1800 * ch → k.chanE m ch = 64 →
      (let t := k.finish r st det res
       let a := 0x10800 + 0x1800 * ch + 64 * (r.idx % 64)
       t.chRd m a 4 = st % 2 ^ 32 ∧ t.chRd m (a + 4) 4 = det % 2 ^ 32 ∧ t.chRd m (a + 8) 8 = k.now % 2 ^ 64 ∧
       t.chRd m (a + 56) 8 = (r.idx + 1) % 2 ^ 32 + 2 ^ 63 ∧ t.chRd m (0x40 * ch + 16) 4 = (r.idx + 1) % 2 ^ 32 ∧
       bitOf (t.mbxRd m 4) ch = true ∧ t.cores = k.cores ∧ t.hbm = k.hbm)) ∧
    (k.ethPath c 0 = true → k.vcf.conns.contains (0, c) = false → Completes (.rdmaConnect 0 c (k.accessKey c 0)) s fun t =>
      t.chip.vcf.conns = k.vcf.conns ++ [(0, c)] ∧ t.chip.cores = k.cores) ∧
    (∀ key, key ≠ k.accessKey c 0 → Answers (.rdmaConnect 0 c key) s k) ∧
    (k.pins.d3 = false → k.clEp c = true → 0 < n → off + n ≤ 0x80000 →
      Answers (.clientWindowRead .ep (0x400000 + 0x80000 * c + off) n) s (k.emit (.bytes 2 (Bytes.rdN (k.buf c) off n)))) ∧
    (k.pins.d3 = false → k.clEp c = true → 0x40000 ≤ off → data ≠ [] → off + data.length ≤ 0x80000 →
      Completes (.clientWindowWrite .ep (0x400000 + 0x80000 * c + off) data) s fun t => t.chip.buf c = Bytes.wrN (k.buf c) off data ∧
        t.chip.cores = k.cores ∧ t.chip.hbm = k.hbm ∧ ∀ q, q ≠ c → t.chip.buf q = k.buf q) ∧
    (k.pins.d3 = false → k.clEp c = false → data ≠ [] → off + data.length ≤ 0x80000 →
      Answers (.clientWindowWrite .ep (0x400000 + 0x80000 * c + off) data) s k) ∧
    (∀ p i d q a len, p < nCores → k.pins.power = .ready → k.vcf.draining = false → k.inJob p = true → q = Mbx.core p →
      a = k.chRd q (d + 8) 8 → len = k.chRd q (d + 4) 4 → a + len ≤ 0x3F0000 → 16 ≤ len → k.chRd q d 4 = (i + 1) % 2 ^ 32 →
      (k.headCmd q 2 = some (i, d) → len ≤ 4096 → Completes (.log p) s fun t => ∃ x y g, t.chip.vlog = .text x y (k.core p).step g :: k.vlog ∧
        t.chip.hbm = k.hbm) ∧
      (k.headCmd q 1 = some (i, d) → len ≤ 65536 →
        (let g := Bytes.rdN (k.ringMem q) a len
         Completes (.inputFetch p data) s fun t => t.chip.hbm = k.hbm ∧ t.chip.vlog = k.vlog ∧ (∀ o, o ≠ p → t.chip.core o = k.core o) ∧
           (listLe g 0 2 = 0x100 → listLe g 12 4 + listLe g 8 4 ≤ 0x3F0000 → (t.chip.core p).store =
             ((((k.takeCmd q 1).chWrN q (listLe g 12 4) (fitBytes (listLe g 8 4) data)).complete q 1 i (i + 1) 0 0 []).core p).store))))

/-! ### Energy (15) -/

/-- 15 R495, R496, R497, R499, R501-R503, R505, R506 (in part): an event counts its energy in its core; a period's energy moves the pool,
up to CAP, and its repeated accesses count in their benches (the operand is the model's choice, log 97); a request is queued and granted in order, its charge taken from the pool; the calibration factor stays within 0.75 to 1.25
and leaves what is counted; power above 1.02 × E sets EXCEED and is logged. A bench takes the point of its plan, its counted energy
unchanged, waits with the change while a core of it holds a dispatched block, and parks at point 0 only with no core of a RUNNING job
and no block in flight. -/
def Obligations.AccountantRules : Prop :=
  (∀ (c : Core) (k n : Nat), k < 13 → (c.count k n).evEnergy = c.evEnergy + evWeight k * n) ∧
  (∀ (s : State) (pkg h measured counted mw : Nat) (benches : List Repeats) (g : GrantReq) (rest : List GrantReq), s.awake →
     let c := s.chip
     let kept := fun (t : State) => t.pending = s.pending ∧ t.chip.hbm = c.hbm ∧ t.chip.job = c.job
     let quiet := fun (t : State) => kept t ∧ t.chip.cores = c.cores
     let tallied := fun (t : State) => kept t ∧ (∀ p, t.chip.core p = { c.core p with ev := (t.chip.core p).ev }) ∧
       ∀ b, b < 72 → t.chip.benchLeak b = c.benchLeak b ∧ t.chip.benchDyn b = c.benchDyn b +
         (let r := benches.getD b {}
          (evWeight mRead * r.reads + evWeight mWrite * r.writes + evWeight mTile * r.regs) * pointMv (c.pointOf b) ^ 2 * c.kd)
     (bitOf (c.reg rEN_STAT) 0 = true → Completes (.accountingPeriod pkg benches) s fun t => tallied t ∧
       t.chip.reg rEN_POOL = wrapInt 64 (min c.poolCap (c.pool + ((c.envelope * 10 : Nat) : Int) - ((pkg : Int) - (c.en.doneCharge : Int)))) ∧
       t.chip.reg rEN_PKG_E = (c.reg rEN_PKG_E + pkg) % 2 ^ 64 ∧ t.chip.en.doneCharge = 0) ∧
     (bitOf (c.reg rEN_STAT) 0 = false → (Completes (.accountingPeriod pkg benches) s fun t => tallied t ∧ t.chip.regs = c.regs ∧ t.chip.en = c.en) ∧
       Completes .accountantRunning s fun t => quiet t ∧ bitOf (t.chip.reg rEN_STAT) 0 = true ∧ t.chip.pool = 0) ∧
     (g.p < nCores → (c.en.sent.find? fun x => decide (x.p = g.p) && decide (x.handle = h)) = some g → Completes (.grantRequestMsg g.p h) s fun t =>
       t.chip.en.queue = c.en.queue ++ [{ g with at_ := c.now, deferred := !c.en.queue.isEmpty || !c.grantable g }] ∧
       t.chip.en.sent = c.en.sent.erase g ∧ t.chip.pool = c.pool ∧ t.chip.hbm = c.hbm ∧ s.coreOnly g.p { t with chip := { t.chip with en := c.en, regs := c.regs } }) ∧
     (c.en.queue = g :: rest → c.grantable g = false → g.p < nCores → Completes .grantIssue s fun t => t.chip.en = c.en ∧ t.chip.regs = c.regs ∧
       s.coreOnly g.p t ∧ (t.chip.core g.p).grants = (c.core g.p).grants) ∧
     (c.en.queue = g :: rest → c.grantable g = true → Completes .grantIssue s fun t => t.chip.en.queue = rest ∧
       (let ch := chargeOf g.nj (field (c.reg (rEN_B_PT (benchOf g.p))) 0 4) (field (c.reg rEN_CAL) 0 16)
        t.chip.reg rEN_POOL = wrapInt 64 (c.pool - (ch : Int)) ∧
        (t.chip.core g.p).grants = (c.core g.p).grants.map fun x => if x.handle = g.handle
          then { x with held := true, charge := ch, state := if x.state = 1 then 2 else x.state } else x) ∧
       t.chip.reg rEN_GRANT_CNT = (c.reg rEN_GRANT_CNT + 1) % 2 ^ 64 ∧ (∀ q, q ≠ g.p → t.chip.core q = c.core q) ∧ t.chip.hbm = c.hbm) ∧
     Completes (.calibration measured counted) s (fun t => kept t ∧ (∀ p, t.chip.core p = { c.core p with ev := (t.chip.core p).ev }) ∧
       (∀ b, b < 72 → t.chip.benchDyn b = c.benchDyn b) ∧ t.chip.hbmDyn = c.hbmDyn ∧ t.chip.en.calMark = c.dynAll ∧
       t.chip.en.leakMark = c.leakAll ∧
       0x3000 ≤ t.chip.reg rEN_CAL ∧ t.chip.reg rEN_CAL ≤ 0x5000 ∧
       (let dyn := c.dynAll - c.en.calMark
        let net : Int := ((measured : Int) - (counted : Int)) * (energyUnit : Int) - ((c.leakAll - c.en.leakMark : Nat) : Int)
        let n := ((c.kd : Int) * (3 * (dyn : Int) + net)).toNat
        0 < dyn → n % (4 * dyn) = 0 → t.chip.reg rEN_CAL = min 0x5000 (max 0x3000 (n / (4 * dyn)))) ∧
       (t.chip.reg rEN_CAL = 0x3000 ∨ t.chip.reg rEN_CAL = 0x5000 → bitOf (t.chip.reg rEN_STAT) 1 = true ∧ t.chip.vlog = .calClamp :: c.vlog)) ∧
     Completes (.exceedCheck mw) s (fun t => quiet t ∧ t.chip.reg rEN_PKG_P = min (mw / 1000) 0xFFFF ∧
       (if c.envelope * 1020 < mw then bitOf (t.chip.reg rEN_STAT) 2 = true ∧ t.chip.vlog = .exceed :: c.vlog ∧
           field (t.chip.reg rEN_EXCEED_CNT) 0 32 = min (field (c.reg rEN_EXCEED_CNT) 0 32 + 1) (2 ^ 32 - 1)
         else t.chip.reg rEN_STAT = c.reg rEN_STAT ∧ t.chip.vlog = c.vlog ∧ t.chip.reg rEN_EXCEED_CNT = c.reg rEN_EXCEED_CNT))) ∧
  (∀ (s : State) (b : Nat), s.awake → b < 72 →
     let c := s.chip
     let v := c.reg (rEN_B_PT b)
     let only := fun (i : Instr) (post : Nat → Prop) => Completes i s fun t => post (t.chip.reg (rEN_B_PT b)) ∧ t.pending = s.pending ∧
       (∀ a, a ≠ rEN_B_PT b → t.chip.reg a = c.reg a) ∧ (∀ p, t.chip.core p = { c.core p with ev := (t.chip.core p).ev }) ∧
       t.chip.hbm = c.hbm ∧ t.chip.job = c.job ∧ (∀ k, k ≠ b → t.chip.bench k = c.bench k) ∧ ∀ k, k < 72 → t.chip.benchE k = c.benchE k
     (field v 4 4 ≤ 12 → field v 4 4 ≠ field v 0 4 →
       (c.benchBusy b = false → only (.pointChange b) fun x => field x 0 4 = field v 4 4 ∧ field x 4 4 = field v 4 4 ∧ bitOf x 8 = false) ∧
       (c.benchBusy b = true → only (.pointChange b) fun x => field x 0 4 = field v 0 4 ∧ bitOf x 8 = true)) ∧
     (field v 4 4 = field v 0 4 ∨ 12 < field v 4 4 → Answers (.pointChange b) s c) ∧
     (c.benchInJob b = false → c.benchBusy b = false → only (.benchPark b) fun x => field x 0 4 = 0 ∧ field x 4 4 = 0 ∧ bitOf x 10 = true) ∧
     (c.benchInJob b = true ∨ c.benchBusy b = true → Answers (.benchPark b) s c))

/-! ### Faults (13) -/

/-- 13 R449-R451, R454, R455, R457; 08 R258, R299 (in part): an event below its source's threshold is latched, counted and recorded
as the first, and its source is active until its window ends; one that makes its source severe starts the first reaction of the
chain. A corrected error of a core's memory counts in SEQ_ECC and is no event, and an upset of a word is met by a read of it: the
form of DETAIL that says so is the model's (log 96). -/
def Obligations.EventsAreCollected : Prop :=
  (∀ (s : State) (ev inst detail src : Nat) (sub : Option Nat) (media : Media), s.up → s.chip.hold = false →
     evSource ev inst = some (src, sub) → ev ≠ evFallback → ev ≠ evLinkUp → ev ≠ evBridgeIso → ev ≠ evLockstep →
     (ev = evCoreMemory → detail < 2 ^ 32) →
     let c := s.chip
     let key := srcReg src sub
     let v := c.reg key
     let latched := fun (t : State) => (if src < 2304 then bitOf (t.chip.reg (rFLT_BENCH_STAT (src / 32))) (src % 32)
       else bitOf (t.chip.reg rFLT_CHIP_STAT1) (src - 2304 + 8)) = true ∧ bitOf (t.chip.reg rFLT_FIRST) 63 = true ∧
       (bitOf (c.reg rFLT_FIRST) 63 = false → field (t.chip.reg rFLT_FIRST) 0 16 = src ∧ t.chip.reg rFLT_FIRST_TIME = c.now) ∧
       field (t.chip.reg key) 32 32 = min (field v 32 32 + 1) (2 ^ 32 - 1)
     (srcSevere v = true → Completes (.faultEvent ev inst detail media) s fun t => latched t ∧ bitOf (t.chip.reg key) 20 = true ∧
       srcState (t.chip.reg key) = srcState v ∧ t.chip.job = c.job ∧ t.chip.hold = false) ∧
     (srcState v = 0 → c.suppressed src = true → Completes (.faultEvent ev inst detail media) s fun t => latched t ∧
       srcState (t.chip.reg key) = 0 ∧ t.chip.job = c.job ∧ t.chip.hold = false) ∧
     (srcState v = 0 → c.suppressed src = false → evImm ev = false → 1 < field (c.reg (rFLT_CFG src)) 0 16 →
       Completes (.faultEvent ev inst detail media) s fun t => latched t ∧ srcState (t.chip.reg key) = 1 ∧ field (t.chip.reg key) 0 16 = 1 ∧
         NatMap.rd t.chip.flt.winEnd key = c.now + 2 ^ field (c.reg (rFLT_CFG src)) 16 6 * 1000 ∧ t.chip.job = c.job ∧ t.chip.hold = false) ∧
     (srcState v = 0 → c.suppressed src = false → (evImm ev = true ∨ field (c.reg (rFLT_CFG src)) 0 16 ≤ 1) → c.chain src 0 = 5 →
       Completes (.faultEvent ev inst detail media) s fun t => latched t ∧ srcState (t.chip.reg key) = 2 ∧ srcStage (t.chip.reg key) = 0 ∧
         NatMap.rd t.chip.flt.graceEnd key = c.now + c.grace src ∧ t.chip.errN = true ∧ t.chip.job = c.job ∧ t.chip.hold = false)) ∧
  (∀ (s : State) (p d : Nat) (media : Media), s.up → p < nCores → d < 2 ^ 32 →
     let c := s.chip.core p
     let found := fun (k : Nat) (post : Core → Prop) => (evCoreMemory, d + k * 2 ^ 32) ∉ c.raised →
       Completes (.faultEvent evCoreMemory p (d + k * 2 ^ 32) media) s fun t => post (t.chip.core p) ∧ (t.chip.core p).store = c.store ∧
         t.chip.regs = s.chip.regs ∧ t.chip.flt = s.chip.flt ∧ t.chip.hbm = s.chip.hbm ∧ ∀ q, q ≠ p → t.chip.core q = s.chip.core q
     found 1 (fun x => field (x.reg rSEQ_ECC) 0 16 = min (field (c.reg rSEQ_ECC) 0 16 + 1) 0xFFFF ∧ x.upset = c.upset) ∧
     found 2 (fun x => x.upsetIn d 1 = true ∧ x.regs = c.regs))

/-- 13 R455, R460, R464, R465, R467; 15 R508, R511; 17 R551 (in part): windows end, grace timers move a chain on or end it, a core
without progress raises its event, over-current and a rail out of range enter hold mode, and a mismatch of a Steward pair drives
ERR_N low for 100 ms and takes the pair out of use. A timer's end runs time on to its due tick (log 15). -/
def Obligations.TimersAndReactions : Prop :=
  ∀ (s : State) (code b p : Nat) (media : Media), s.awake → b < 72 → p < nCores →
    let c := s.chip
    let src := (srcOf code).1
    let key := srcReg src (srcOf code).2
    let v := c.reg key
    (src < 2350 → srcState v = 1 → NatMap.rd c.flt.winEnd key ≤ c.now →
      Answers (.faultWindowEnd code) s ((c.setField key 0 16 0).setField key 16 2 0)) ∧
    (src < 2350 → srcState v = 1 → c.trimOk → c.now < NatMap.rd c.flt.winEnd key → NatMap.rd c.flt.winEnd key + 1 < 2 ^ 64 →
      Completes (.faultWindowEnd code) s fun t => srcState (t.chip.reg key) = 0 ∧ NatMap.rd c.flt.winEnd key ≤ t.chip.now ∧
        t.chip.now ≤ NatMap.rd c.flt.winEnd key + 1) ∧
    (src < 2350 → srcState v = 2 → NatMap.rd c.flt.graceEnd key ≤ c.now → c.chain src (srcStage v + 1) = 7 →
      Answers (.graceExpiry code media) s (c.setField key 16 2 3)) ∧
    (src < 2350 → srcState v = 2 → NatMap.rd c.flt.graceEnd key ≤ c.now → srcStage v < 2 → c.chain src (srcStage v + 1) = 5 →
      Completes (.graceExpiry code media) s fun t => srcState (t.chip.reg key) = 2 ∧ srcStage (t.chip.reg key) = srcStage v + 1 ∧
        NatMap.rd t.chip.flt.graceEnd key = c.now + c.grace src ∧ t.chip.job = c.job ∧ t.chip.cores = c.cores) ∧
    (c.progRuns p = true → 1000 * (c.core p).reg rPROG_LIMIT ≤ (c.core p).progAt → Completes (.progressTimeout p) s
      (s.onlyCore p { c.core p with progAt := 0, raised := (c.core p).raised ++ [(evProgress, p)] })) ∧
    (srcState (c.reg (rFLT_SRC (32 * b + 31))) = 0 → 1 < field (c.reg (rFLT_CFG (32 * b + 31))) 0 16 → Completes (.benchThermal b) s fun t =>
      bitOf (t.chip.reg (rFLT_BENCH_STAT b)) 31 = true ∧ srcState (t.chip.reg (rFLT_SRC (32 * b + 31))) = 1 ∧ t.chip.cores = c.cores) ∧
    (∀ i ∈ [(Instr.overCurrent media, srcOVC), (.railOutOfRange media, srcRAIL)], srcState (c.reg (rFLT_SRC i.2)) = 0 → c.chain i.2 0 = 6 →
      Completes i.1 s fun t => t.chip.hold = true ∧ srcState (t.chip.reg (rFLT_SRC i.2)) = 2 ∧ t.chip.errN = true ∧ t.chip.cores = c.cores ∧
        t.chip.pins.railsOk = (c.pins.railsOk && i.2 == srcOVC)) ∧
    (∀ who, isSteward who = true → c.isActive who = false → (let q := srcSTWA + b2n (who == .stewardB)
      srcState (c.reg (rFLT_SRC q)) = 0 → c.chain q 0 = 2 → field (c.reg rSEC_UPD) 0 3 = 0 → Completes (.lockstepMismatch who) s fun t =>
        t.chip.flt.lockErr = some (c.now + 100000000) ∧ t.chip.activeB = c.activeB ∧ t.chip.stbyOk = false ∧ t.chip.errN = true ∧
        t.chip.cores = c.cores ∧ t.chip.vcf = c.vcf)) ∧
    (∀ who, isSteward who = true → c.isActive who = true → c.stbyOk = true → (let q := srcSTWA + b2n (who == .stewardB)
      srcState (c.reg (rFLT_SRC q)) = 0 → c.chain q 0 = 2 → field (c.reg rSEC_UPD) 0 3 = 0 → Completes (.lockstepMismatch who) s fun t =>
        t.chip.flt.lockErr = some (c.now + 100000000) ∧ t.chip.activeB = !c.activeB ∧ t.chip.stbyOk = false ∧ t.chip.vcf.running = [] ∧
        t.chip.cores = c.cores)) ∧
    (∀ k, c.flt.lockErr = some k → k ≤ c.now → Answers .lockstepErrNRelease s { c with flt := { c.flt with lockErr := none } })

/-! ### Power, boot, ports (16, 17) -/

/-- 17 R548, R549, R552; 13 R466 (in part): power comes and goes: a power cycle resets the part and its memory, a chip reset all
islands but the always-on island, a thermal trip turns the part off; a power cycle clears the memory and a chip reset keeps
the CXL contents (log 5). -/
def Obligations.PowerAndReset : Prop :=
  ∀ (s : State) (tj straps i3c : Nat),
    let c := s.chip
    let p := c.pins
    (p.power = .off → p.pwrOk = false → p.railsOk = true → p.thermtrip = false → Answers (.powerGood tj straps i3c) s
      { c with pins := { p with pwrOk := true, peBif := straps % 4, i3cAddr := i3c % 4, power := .boot, thermtrip := false } }) ∧
    (p.power = .off → p.pwrOk = false → p.thermtrip = true → 110 ≤ tj → Answers (.powerGood tj straps i3c) s
      { c with pins := { p with pwrOk := true, peBif := straps % 4, i3cAddr := i3c % 4 } }) ∧
    (p.power = .off → p.pwrOk = true → p.thermtrip = false → Answers .railsWithinRange s
      { c with pins := { p with railsOk := true, power := .boot, thermtrip := false } }) ∧
    (∀ x ∈ [(Instr.pwrOkFall, false), (.vddAonLow, true)], Completes x.1 s fun t => t.chip.pins.power = .off ∧ t.chip.regs = [] ∧ t.chip.cores = [] ∧
      t.chip.hbm = [] ∧ t.chip.hold = false ∧ t.chip.pins.sysRst = false ∧ t.chip.pins.thermtrip = (p.thermtrip && !x.2) ∧
      t.chip.pins.pwrOk = (p.pwrOk && x.2) ∧ t.chip.sec.bootCnt = c.sec.bootCnt ∧ t.chip.sec.retires = c.sec.retires ∧ t.chip.job.st = .idle) ∧
    (p.power ≠ .off → Completes .thermtrip s fun t => t.chip.pins.power = .thermalOff ∧ t.chip.pins.thermtrip = true ∧ t.chip.cores = [] ∧
      t.chip.errN = true) ∧
    (c.resettable = true → p.resetting = false → Completes .sysRstN s fun t => t.chip.pins.power = .boot ∧ t.chip.pins.sysRst = true ∧
      t.chip.cores = [] ∧ t.chip.errN = true ∧ t.chip.job.st = .idle ∧ t.chip.cxl = c.cxl ∧ t.chip.stage = 1 ∧
      t.chip.reg rFLT_FIRST = c.reg rFLT_FIRST ∧ t.chip.reg rFLT_RST_CAUSE = 0 ∧ t.chip.reg rFLT_RST_TIME = c.now) ∧
    Answers .sysRstNRelease s { c with pins := { p with sysRst := false } } ∧
    (∀ i ∈ [Instr.mepPerstN, .functionLevelReset], Answers i s { c with pins := { p with d3 := false } })

/-- 16 R516, R517, R518; 17 R551 (in part): a stage that ends is followed by the next; a stage that finds no valid table, key store or
flash halts the boot with its cause; the last stage opens the client mailboxes and locks the boot registers. -/
def Obligations.BootStages : Prop :=
  ∀ (s : State) (f : BootFind), s.chip.pins.power = .boot → s.chip.pins.sysRst = false → s.chip.hold = false → ∀ i ∈ [Instr.bootStageDone f, .bootStageTimeout f],
    let c := s.chip
    (c.stage = 1 → Completes i s fun t => t.chip.stage = 2 ∧ t.chip.pins.power = .boot ∧ t.chip.hbm = c.hbm ∧
      ∀ p, p < nCores → (t.chip.core p).store = (c.core p).store) ∧
    (c.stage = 2 → f.flash = [] → (f.sfdpBad = true → Answers i s (c.bootHalt 5)) ∧
      (f.sfdpBad = false → f.tableBad = true → Answers i s (c.bootHalt 6)) ∧
      (f.sfdpBad = false → f.tableBad = false → f.keyStoreBad = true → Answers i s (c.bootHalt 7))) ∧
    (c.stage = 3 → c.sec.choose f.badSlots 1 = none → Answers i s (c.bootHalt 3)) ∧
    (c.stage = 4 → c.sec.choose f.badSlots 3 = none → Answers i s (c.bootHalt 4)) ∧
    (c.stage = 8 → Completes i s fun t => t.chip.pins.power = .ready ∧ t.chip.locked = true ∧ t.chip.pins.resetting = false ∧ t.chip.stage = 9 ∧
      t.chip.reg rSEC_BOOT_MS = f.ms % 2 ^ 17 ∧ t.chip.cores = c.cores ∧ t.chip.hbm = c.hbm ∧
      ∀ q ch, q < 8 → ch < 32 → t.chip.chRd (.chip (8 + q)) (0x40 * ch + 2) 2 = 64 ∧ t.chip.chRd (.chip (8 + q)) (0x40 * ch + 28) 4 = 0x10800 + 0x1800 * ch)

/-- 17 R561-R565, R568, R569; 16 R540 (in part): the TAP shifts out the part's IDCODE and selects bypass for every other code; the
telemetry target reads its registers from an offset that advances; a removed device is reported once; the trace port sends its
status, halt and drop records. -/
def Obligations.PortsAndTrace : Prop :=
  ∀ (s : State) (code off n addr port : Nat) (x : Sensors) (d3 : Bool),
    let c := s.chip
    let p := c.pins
    Answers .tapIdcode s { c with pins := { p with tapId := true }, outs := .value 0x1416C3A7 :: c.outs } ∧
    Answers (.tapBypass code) s { c with pins := { p with tapId := decide (code % 16 = 1) } } ∧
    Answers .trstN s { c with pins := { p with tapId := true } } ∧
    Answers (.d3hotTransition d3) s { c with pins := { p with d3 := d3 } } ∧
    (s.awake → p.devices.getD port .none ≠ .none → port ∉ p.removed → Completes (.pcieSurpriseRemoval port) s fun t =>
      t.chip.pins.devices.getD port .none = .none ∧ port ∈ t.chip.pins.removed ∧ t.chip.raised = c.raised ++ [(evRootPort, port, port)] ∧
      t.chip.cores = c.cores ∧ t.chip.hbm = c.hbm) ∧
    (s.up → c.tlmAcks = true →
      (p.dynAddr.isSome = true → Answers (.i3cOffsetWrite off) s { c with pins := { p with i3cOff := off % 256 / 4 * 4 } } ∧
        Answers (.i3cRead 4) s { c with pins := { p with i3cOff := (p.i3cOff + 4) % 256 }, outs := .bytes 3 (leBytes 4 (c.tlm (p.i3cOff % 256))) :: c.outs } ∧
        (0 < n → Completes (.i3cRead n) s fun t => t.chip.pins.i3cOff = (p.i3cOff + 4 * ceilDiv n 4) % 256 ∧
          ∃ bs, bs.length = n ∧ t.chip.outs = .bytes 3 bs :: c.outs)) ∧
      (p.dynAddr = none → (∀ i ∈ [Instr.setdasa addr, .entdaa addr], Answers i s { c with pins := { p with dynAddr := some (addr % 128) } }) ∧
        Answers (.i2cTransfer [BitVec.ofNat 8 off] 4) s { c with pins := { p with i3cOff := (off % 256 / 4 * 4 + 4) % 256 }, outs := .bytes 3 (leBytes 4 (c.tlm (off % 256 / 4 * 4))) :: c.outs }) ∧
      (Completes (.telemetryRefresh x) s fun t => t.chip.tlm 0 = 0x46420416 ∧
        t.chip.tlm 4 = c.tlmState + field (c.reg rSEC_STAT) 0 4 * 2 ^ 3 + b2n c.errN * 2 ^ 7 ∧
        t.chip.tlm 8 = field (c.reg rEN_PKG_P) 0 16 + field (c.reg rEN_ENV) 0 16 * 2 ^ 16 ∧
        t.chip.tlm 0x0C = x.tjMax % 2 ^ 8 + x.hbmMax % 2 ^ 8 * 2 ^ 8 + x.hot % 2 ^ 8 * 2 ^ 16 ∧
        t.chip.regs = c.regs ∧ t.chip.cores = c.cores ∧ t.chip.hbm = c.hbm)) ∧
    (let used := p.trace.foldl (fun k b => k + b.length) 0
     (c.forming = true → used ≤ 65510 → Answers .traceStatusRecord s { c with pins := { p with trace := p.trace ++ [[3#8, 24#8] ++ leBytes 8 c.now ++ leBytes 8 (c.reg rEN_PKG_E) ++ leBytes 8 (c.reg rEN_GRANT_CNT)] } }) ∧
     (p.power = .halt → used ≤ 65522 → Answers .haltTraceRecord s { c with pins := { p with trace := p.trace ++ [[4#8, 12#8] ++ leBytes 8 c.now ++ leBytes 4 (c.reg rSEC_STAT)] } }) ∧
     (p.power = .halt → 65522 < used → Answers .haltTraceRecord s { c with pins := { p with traceLost := min (p.traceLost + 1) 0xFFFFFFFF } }) ∧
     (p.power ≠ .off → p.power ≠ .thermalOff → p.traceLost ≠ 0 → used ≤ 65530 → Answers .traceDropRecord s { c with pins := { p with trace := p.trace ++ [[5#8, 4#8] ++ leBytes 4 p.traceLost], traceLost := 0 } }))

/-! ### Reset and the remaining registers -/

/-- 17 R548, R549; 00 R14; 13 R463, R471; 15 R500 (in part): right after power-good the part is in boot stage 1 with no job, no fault,
no command in its channels, an envelope of 1,500 W and every place unmapped, one row up; its memories are in canonical form. The values
of unwritten memory and of registers without a reset value are the model's (logs 3 and 5). -/
def Obligations.ResetState : Prop :=
  let c := State.reset.chip
  State.reset.memWf ∧ State.reset.up ∧ State.reset.pending = [] ∧ c.stage = 1 ∧ c.job.st = .idle ∧ c.errN = false ∧ c.hold = false ∧
  c.envelope = 1500 ∧ field (c.reg rEN_CAL) 0 16 = 0x4000 ∧ c.reg rCTB_NOW = 0 ∧ c.locked = false ∧ c.reg rFLT_FIRST = 0 ∧
  (∀ x y, x < 16 → y < 16 → field (c.reg (rFAB_MAP (16 * y + x))) 0 4 = x ∧ field (c.reg (rFAB_MAP (16 * y + x))) 4 5 = y + 1 ∧ c.physOf x y = none) ∧
  (∀ p, p < nCores → bitOf ((c.core p).reg rSEQ_CTL) 0 = false ∧ (c.core p).reg rTL_LATE_MAX = 0 ∧ (c.core p).ops = [] ∧ Memory.wf (c.core p).store = true) ∧
  field (c.reg (rFLT_CFG srcSTWA)) 24 3 = 2 ∧ field (c.reg (rFLT_CFG srcRAIL)) 24 3 = 6 ∧ ∀ m ch, c.chRd m (0x40 * ch + 8) 4 = 0
end

