-- ==== Sys2Proof/Laws/Store.lean ====
section
/-!
SUPPORT. Sparse maps: a read after a write, and every operation keeps the canonical form.
-/
namespace Sys2Proof.Machine

variable {α : Type} {d : Nat → α}

theorem Map.get_insert_self (k : Nat) (v : α) (m : Map α) (h : ∀ e ∈ m, e.1 ≠ k) : Map.get d (Map.insert k v m) k = v := by
  induction m with
  | nil => simp [Map.insert, Map.get]
  | cons e m ih =>
    have hk : k ≠ e.1 := fun x => h e (by simp) x.symm
    simp only [Map.insert]
    split
    · simp [Map.get]
    · simp [Map.get, hk, ih fun e he => h e (by simp [he])]

theorem Map.get_insert_ne {k j : Nat} (hj : j ≠ k) (v : α) (m : Map α) : Map.get d (Map.insert k v m) j = Map.get d m j := by
  induction m with
  | nil => simp [Map.insert, Map.get, hj]
  | cons e m ih =>
    simp only [Map.insert]
    split
    · simp [Map.get, hj]
    · simp [Map.get, ih]

theorem Map.get_filter_self (k : Nat) (m : Map α) : Map.get d (m.filter fun e => decide (e.1 ≠ k)) k = d k := by
  induction m with
  | nil => rfl
  | cons e m ih =>
    by_cases he : e.1 = k
    · simpa [List.filter, he] using ih
    · have : k ≠ e.1 := fun x => he x.symm
      simp only [List.filter, he, ne_eq, not_false_eq_true, decide_true, Map.get, this, if_false]
      exact ih

theorem Map.get_filter_ne {k j : Nat} (hj : j ≠ k) (m : Map α) :
    Map.get d (m.filter fun e => decide (e.1 ≠ k)) j = Map.get d m j := by
  induction m with
  | nil => rfl
  | cons e m ih =>
    by_cases he : e.1 = k
    · have : j ≠ e.1 := by omega
      simp only [List.filter, he, ne_eq, not_true_eq_false, decide_false, Map.get]
      rw [ih, ← he]
      simp [this]
    · simp only [List.filter, he, ne_eq, not_false_eq_true, decide_true, Map.get]
      rw [ih]

variable [DecidableEq α]

/-- A write reads back, and leaves every other key alone. -/
theorem Map.get_put (m : Map α) (k : Nat) (v : α) (j : Nat) : Map.get d (Map.put d m k v) j = if j = k then v else Map.get d m j := by
  unfold Map.put
  by_cases hj : j = k
  · subst hj
    by_cases hv : v = d j
    · simp only [hv, if_true]
      exact Map.get_filter_self j m
    · simp only [hv, if_false, if_true]
      exact Map.get_insert_self _ _ _ fun e he => by simpa using (List.mem_filter.1 he).2
  · by_cases hv : v = d k
    · simp only [hv, if_true, hj, if_false]
      exact Map.get_filter_ne hj m
    · simp only [hv, if_false, hj]
      rw [Map.get_insert_ne hj]
      exact Map.get_filter_ne hj m

@[simp] theorem Map.get_put_self (m : Map α) (k : Nat) (v : α) : Map.get d (Map.put d m k v) k = v := by
  simp [Map.get_put]

/-! ### Canonical form -/

theorem Map.wfFrom_mono {m : Map α} {a b : Nat} (hab : a ≤ b) (h : Map.wfFrom d b m = true) : Map.wfFrom d a m = true := by
  cases m with
  | nil => rfl
  | cons e m =>
    simp only [Map.wfFrom, Bool.and_eq_true, decide_eq_true_eq] at h ⊢
    exact ⟨⟨by omega, h.1.2⟩, h.2⟩

theorem Map.wfFrom_filter {m : Map α} {b : Nat} (h : Map.wfFrom d b m = true) (f : Nat × α → Bool) :
    Map.wfFrom d b (m.filter f) = true := by
  induction m generalizing b with
  | nil => rfl
  | cons e m ih =>
    simp only [Map.wfFrom, Bool.and_eq_true, decide_eq_true_eq] at h
    simp only [List.filter]
    split
    · simp only [Map.wfFrom, Bool.and_eq_true, decide_eq_true_eq]
      exact ⟨h.1, ih h.2⟩
    · exact Map.wfFrom_mono (by omega) (ih h.2)

theorem Map.wfFrom_insert {m : Map α} {b k : Nat} {v : α} (h : Map.wfFrom d b m = true) (hk : ∀ e ∈ m, e.1 ≠ k) (hv : v ≠ d k) :
    Map.wfFrom d (min b k) (Map.insert k v m) = true := by
  induction m generalizing b with
  | nil => simp [Map.insert, Map.wfFrom, hv]
  | cons e m ih =>
    have hne : e.1 ≠ k := hk e (by simp)
    simp only [Map.wfFrom, Bool.and_eq_true, decide_eq_true_eq] at h
    simp only [Map.insert]
    split
    · simp only [Map.wfFrom, Bool.and_eq_true, decide_eq_true_eq]
      exact ⟨⟨by omega, hv⟩, ⟨by omega, h.1.2⟩, h.2⟩
    · simp only [Map.wfFrom, Bool.and_eq_true, decide_eq_true_eq]
      have := ih h.2 fun e he => hk e (by simp [he])
      rw [Nat.min_eq_left (by omega : e.1 + 1 ≤ k)] at this
      exact ⟨⟨by omega, h.1.2⟩, this⟩

/-- A write keeps the canonical form. -/
theorem Map.wf_put {m : Map α} (h : Map.wf d m = true) (k : Nat) (v : α) : Map.wf d (Map.put d m k v) = true := by
  unfold Map.put Map.wf
  have hf := Map.wfFrom_filter (f := fun e => decide (e.1 ≠ k)) h
  by_cases hv : v = d k
  · simpa [hv] using hf
  · have := Map.wfFrom_insert (k := k) (v := v) hf (fun e he => by simpa using (List.mem_filter.1 he).2) hv
    simpa [hv] using this

/-! ### Memories -/

/-- A byte reads back after its write, and no other byte changes. -/
theorem Bytes.rd_wr (m : Bytes) (a : Nat) (b : Byte) (x : Nat) :
    Bytes.rd (Bytes.wr m a b) x = if x = a then b else Bytes.rd m x := Map.get_put m a b x

theorem Bytes.wf_wr {m : Bytes} (h : Memory.wf m = true) (a : Nat) (b : Byte) : Memory.wf (Bytes.wr m a b) = true :=
  Map.wf_put h a b

theorem Bytes.wf_wrN {m : Bytes} (h : Memory.wf m = true) (a : Nat) (bs : List Byte) : Memory.wf (Bytes.wrN m a bs) = true := by
  induction bs generalizing m a with
  | nil => exact h
  | cons b bs ih => exact ih (Bytes.wf_wr h a b) (a + 1)

/-- A run of bytes changes no byte outside it. -/
theorem Bytes.rd_wrN_outside (m : Bytes) (a : Nat) (bs : List Byte) (x : Nat) (hx : x < a ∨ a + bs.length ≤ x) :
    Bytes.rd (Bytes.wrN m a bs) x = Bytes.rd m x := by
  induction bs generalizing m a with
  | nil => rfl
  | cons b bs ih =>
    simp only [List.length_cons] at hx
    simp only [Bytes.wrN]
    rw [ih _ (a + 1) (by omega), Bytes.rd_wr]
    have : x ≠ a := by omega
    simp [this]

/-- A run of bytes reads back. -/
theorem Bytes.rd_wrN_inside (m : Bytes) (a : Nat) (bs : List Byte) (i : Nat) (hi : i < bs.length) :
    Bytes.rd (Bytes.wrN m a bs) (a + i) = bs.getD i 0 := by
  induction bs generalizing m a i with
  | nil => simp at hi
  | cons b bs ih =>
    simp only [Bytes.wrN]
    cases i with
    | zero =>
      rw [Bytes.rd_wrN_outside _ (a + 1) bs (a + 0) (by omega), Bytes.rd_wr]
      simp
    | succ i =>
      have := ih (Bytes.wr m a b) (a + 1) i (by simpa using hi)
      rw [show a + (i + 1) = a + 1 + i by omega, this]
      simp

theorem Bytes.length_rdN (m : Bytes) (a n : Nat) : (Bytes.rdN m a n).length = n := by
  induction n generalizing a with
  | zero => rfl
  | succ n ih => show (Bytes.rdN m (a + 1) n).length + 1 = n + 1; rw [ih]

/-- A run of bytes outside a written run reads as before. -/
theorem Bytes.rdN_wrN_outside (m : Bytes) (a : Nat) (bs : List Byte) (x n : Nat) (h : x + n ≤ a ∨ a + bs.length ≤ x) :
    Bytes.rdN (Bytes.wrN m a bs) x n = Bytes.rdN m x n := by
  induction n generalizing x with
  | zero => rfl
  | succ n ih =>
    show Bytes.rd _ x :: Bytes.rdN _ (x + 1) n = Bytes.rd m x :: Bytes.rdN m (x + 1) n
    rw [ih (x + 1) (by omega), Bytes.rd_wrN_outside m a bs x (by omega)]

/-- A written run reads back whole. -/
theorem Bytes.rdN_wrN (m : Bytes) (a : Nat) (bs : List Byte) : Bytes.rdN (Bytes.wrN m a bs) a bs.length = bs := by
  induction bs generalizing m a with
  | nil => rfl
  | cons b bs ih =>
    show Bytes.rd (Bytes.wrN (Bytes.wr m a b) (a + 1) bs) a :: Bytes.rdN (Bytes.wrN (Bytes.wr m a b) (a + 1) bs) (a + 1) bs.length = b :: bs
    rw [ih, Bytes.rd_wrN_outside _ _ _ _ (by omega), Bytes.rd_wr, if_pos rfl]

end Sys2Proof.Machine
end

