-- ==== Sys2Proof/Laws/State.lean ====
section
/-!
SUPPORT. What each update of the state leaves alone, field by field, and what it sets.
-/
namespace Sys2Proof.Machine

@[simp] theorem Chip.setReg_cores (s : Chip) (a v : Nat) : (s.setReg a v).cores = s.cores := rfl
@[simp] theorem Chip.setReg_hbm (s : Chip) (a v : Nat) : (s.setReg a v).hbm = s.hbm := rfl
@[simp] theorem Chip.setReg_cxl (s : Chip) (a v : Nat) : (s.setReg a v).cxl = s.cxl := rfl
@[simp] theorem Chip.setReg_poison (s : Chip) (a v : Nat) : (s.setReg a v).poison = s.poison := rfl
@[simp] theorem Chip.setReg_redir (s : Chip) (a v : Nat) : (s.setReg a v).redir = s.redir := rfl
@[simp] theorem Chip.setReg_fencedCh (s : Chip) (a v : Nat) : (s.setReg a v).fencedCh = s.fencedCh := rfl
@[simp] theorem Chip.setReg_migLost (s : Chip) (a v : Nat) : (s.setReg a v).migLost = s.migLost := rfl
@[simp] theorem Chip.setReg_flying (s : Chip) (a v : Nat) : (s.setReg a v).flying = s.flying := rfl
@[simp] theorem Chip.setReg_ctbFrac (s : Chip) (a v : Nat) : (s.setReg a v).ctbFrac = s.ctbFrac := rfl
@[simp] theorem Chip.setReg_holdAt (s : Chip) (a v : Nat) : (s.setReg a v).holdAt = s.holdAt := rfl
@[simp] theorem Chip.setReg_benches (s : Chip) (a v : Nat) : (s.setReg a v).benches = s.benches := rfl
@[simp] theorem Chip.setReg_selfRef (s : Chip) (a v : Nat) : (s.setReg a v).selfRef = s.selfRef := rfl
@[simp] theorem Chip.setReg_memResp (s : Chip) (a v : Nat) : (s.setReg a v).memResp = s.memResp := rfl
@[simp] theorem Chip.setReg_memGot (s : Chip) (a v : Nat) : (s.setReg a v).memGot = s.memGot := rfl
@[simp] theorem Chip.setReg_hold (s : Chip) (a v : Nat) : (s.setReg a v).hold = s.hold := rfl
@[simp] theorem Chip.setReg_vlog (s : Chip) (a v : Nat) : (s.setReg a v).vlog = s.vlog := rfl
@[simp] theorem Chip.setReg_raised (s : Chip) (a v : Nat) : (s.setReg a v).raised = s.raised := rfl
@[simp] theorem Chip.setReg_links (s : Chip) (a v : Nat) : (s.setReg a v).links = s.links := rfl
@[simp] theorem Chip.setReg_ts (s : Chip) (a v : Nat) : (s.setReg a v).ts = s.ts := rfl
@[simp] theorem Chip.setReg_flood (s : Chip) (a v : Nat) : (s.setReg a v).flood = s.flood := rfl
@[simp] theorem Chip.setReg_en (s : Chip) (a v : Nat) : (s.setReg a v).en = s.en := rfl
@[simp] theorem Chip.setReg_flt (s : Chip) (a v : Nat) : (s.setReg a v).flt = s.flt := rfl
@[simp] theorem Chip.setReg_snp (s : Chip) (a v : Nat) : (s.setReg a v).snp = s.snp := rfl
@[simp] theorem Chip.setReg_job (s : Chip) (a v : Nat) : (s.setReg a v).job = s.job := rfl
@[simp] theorem Chip.setReg_vcf (s : Chip) (a v : Nat) : (s.setReg a v).vcf = s.vcf := rfl
@[simp] theorem Chip.setReg_sec (s : Chip) (a v : Nat) : (s.setReg a v).sec = s.sec := rfl
@[simp] theorem Chip.setReg_pins (s : Chip) (a v : Nat) : (s.setReg a v).pins = s.pins := rfl
@[simp] theorem Chip.setReg_outs (s : Chip) (a v : Nat) : (s.setReg a v).outs = s.outs := rfl
@[simp] theorem Chip.setField_cores (s : Chip) (a lo n v : Nat) : (s.setField a lo n v).cores = s.cores := rfl
@[simp] theorem Chip.setField_hbm (s : Chip) (a lo n v : Nat) : (s.setField a lo n v).hbm = s.hbm := rfl
@[simp] theorem Chip.setField_cxl (s : Chip) (a lo n v : Nat) : (s.setField a lo n v).cxl = s.cxl := rfl
@[simp] theorem Chip.setField_poison (s : Chip) (a lo n v : Nat) : (s.setField a lo n v).poison = s.poison := rfl
@[simp] theorem Chip.setField_redir (s : Chip) (a lo n v : Nat) : (s.setField a lo n v).redir = s.redir := rfl
@[simp] theorem Chip.setField_fencedCh (s : Chip) (a lo n v : Nat) : (s.setField a lo n v).fencedCh = s.fencedCh := rfl
@[simp] theorem Chip.setField_migLost (s : Chip) (a lo n v : Nat) : (s.setField a lo n v).migLost = s.migLost := rfl
@[simp] theorem Chip.setField_flying (s : Chip) (a lo n v : Nat) : (s.setField a lo n v).flying = s.flying := rfl
@[simp] theorem Chip.setField_ctbFrac (s : Chip) (a lo n v : Nat) : (s.setField a lo n v).ctbFrac = s.ctbFrac := rfl
@[simp] theorem Chip.setField_holdAt (s : Chip) (a lo n v : Nat) : (s.setField a lo n v).holdAt = s.holdAt := rfl
@[simp] theorem Chip.setField_benches (s : Chip) (a lo n v : Nat) : (s.setField a lo n v).benches = s.benches := rfl
@[simp] theorem Chip.setField_selfRef (s : Chip) (a lo n v : Nat) : (s.setField a lo n v).selfRef = s.selfRef := rfl
@[simp] theorem Chip.setField_memResp (s : Chip) (a lo n v : Nat) : (s.setField a lo n v).memResp = s.memResp := rfl
@[simp] theorem Chip.setField_memGot (s : Chip) (a lo n v : Nat) : (s.setField a lo n v).memGot = s.memGot := rfl
@[simp] theorem Chip.setField_hold (s : Chip) (a lo n v : Nat) : (s.setField a lo n v).hold = s.hold := rfl
@[simp] theorem Chip.setField_vlog (s : Chip) (a lo n v : Nat) : (s.setField a lo n v).vlog = s.vlog := rfl
@[simp] theorem Chip.setField_raised (s : Chip) (a lo n v : Nat) : (s.setField a lo n v).raised = s.raised := rfl
@[simp] theorem Chip.setField_links (s : Chip) (a lo n v : Nat) : (s.setField a lo n v).links = s.links := rfl
@[simp] theorem Chip.setField_ts (s : Chip) (a lo n v : Nat) : (s.setField a lo n v).ts = s.ts := rfl
@[simp] theorem Chip.setField_flood (s : Chip) (a lo n v : Nat) : (s.setField a lo n v).flood = s.flood := rfl
@[simp] theorem Chip.setField_en (s : Chip) (a lo n v : Nat) : (s.setField a lo n v).en = s.en := rfl
@[simp] theorem Chip.setField_flt (s : Chip) (a lo n v : Nat) : (s.setField a lo n v).flt = s.flt := rfl
@[simp] theorem Chip.setField_snp (s : Chip) (a lo n v : Nat) : (s.setField a lo n v).snp = s.snp := rfl
@[simp] theorem Chip.setField_job (s : Chip) (a lo n v : Nat) : (s.setField a lo n v).job = s.job := rfl
@[simp] theorem Chip.setField_vcf (s : Chip) (a lo n v : Nat) : (s.setField a lo n v).vcf = s.vcf := rfl
@[simp] theorem Chip.setField_sec (s : Chip) (a lo n v : Nat) : (s.setField a lo n v).sec = s.sec := rfl
@[simp] theorem Chip.setField_pins (s : Chip) (a lo n v : Nat) : (s.setField a lo n v).pins = s.pins := rfl
@[simp] theorem Chip.setField_outs (s : Chip) (a lo n v : Nat) : (s.setField a lo n v).outs = s.outs := rfl
@[simp] theorem Chip.bump_cores (s : Chip) (a n : Nat) : (s.bump a n).cores = s.cores := rfl
@[simp] theorem Chip.bump_hbm (s : Chip) (a n : Nat) : (s.bump a n).hbm = s.hbm := rfl
@[simp] theorem Chip.bump_cxl (s : Chip) (a n : Nat) : (s.bump a n).cxl = s.cxl := rfl
@[simp] theorem Chip.bump_poison (s : Chip) (a n : Nat) : (s.bump a n).poison = s.poison := rfl
@[simp] theorem Chip.bump_redir (s : Chip) (a n : Nat) : (s.bump a n).redir = s.redir := rfl
@[simp] theorem Chip.bump_fencedCh (s : Chip) (a n : Nat) : (s.bump a n).fencedCh = s.fencedCh := rfl
@[simp] theorem Chip.bump_migLost (s : Chip) (a n : Nat) : (s.bump a n).migLost = s.migLost := rfl
@[simp] theorem Chip.bump_flying (s : Chip) (a n : Nat) : (s.bump a n).flying = s.flying := rfl
@[simp] theorem Chip.bump_ctbFrac (s : Chip) (a n : Nat) : (s.bump a n).ctbFrac = s.ctbFrac := rfl
@[simp] theorem Chip.bump_holdAt (s : Chip) (a n : Nat) : (s.bump a n).holdAt = s.holdAt := rfl
@[simp] theorem Chip.bump_benches (s : Chip) (a n : Nat) : (s.bump a n).benches = s.benches := rfl
@[simp] theorem Chip.bump_selfRef (s : Chip) (a n : Nat) : (s.bump a n).selfRef = s.selfRef := rfl
@[simp] theorem Chip.bump_memResp (s : Chip) (a n : Nat) : (s.bump a n).memResp = s.memResp := rfl
@[simp] theorem Chip.bump_memGot (s : Chip) (a n : Nat) : (s.bump a n).memGot = s.memGot := rfl
@[simp] theorem Chip.bump_hold (s : Chip) (a n : Nat) : (s.bump a n).hold = s.hold := rfl
@[simp] theorem Chip.bump_vlog (s : Chip) (a n : Nat) : (s.bump a n).vlog = s.vlog := rfl
@[simp] theorem Chip.bump_raised (s : Chip) (a n : Nat) : (s.bump a n).raised = s.raised := rfl
@[simp] theorem Chip.bump_links (s : Chip) (a n : Nat) : (s.bump a n).links = s.links := rfl
@[simp] theorem Chip.bump_ts (s : Chip) (a n : Nat) : (s.bump a n).ts = s.ts := rfl
@[simp] theorem Chip.bump_flood (s : Chip) (a n : Nat) : (s.bump a n).flood = s.flood := rfl
@[simp] theorem Chip.bump_en (s : Chip) (a n : Nat) : (s.bump a n).en = s.en := rfl
@[simp] theorem Chip.bump_flt (s : Chip) (a n : Nat) : (s.bump a n).flt = s.flt := rfl
@[simp] theorem Chip.bump_snp (s : Chip) (a n : Nat) : (s.bump a n).snp = s.snp := rfl
@[simp] theorem Chip.bump_job (s : Chip) (a n : Nat) : (s.bump a n).job = s.job := rfl
@[simp] theorem Chip.bump_vcf (s : Chip) (a n : Nat) : (s.bump a n).vcf = s.vcf := rfl
@[simp] theorem Chip.bump_sec (s : Chip) (a n : Nat) : (s.bump a n).sec = s.sec := rfl
@[simp] theorem Chip.bump_pins (s : Chip) (a n : Nat) : (s.bump a n).pins = s.pins := rfl
@[simp] theorem Chip.bump_outs (s : Chip) (a n : Nat) : (s.bump a n).outs = s.outs := rfl
@[simp] theorem Chip.countTo_cores (s : Chip) (a lo n : Nat) : (s.countTo a lo n).cores = s.cores := rfl
@[simp] theorem Chip.countTo_hbm (s : Chip) (a lo n : Nat) : (s.countTo a lo n).hbm = s.hbm := rfl
@[simp] theorem Chip.countTo_cxl (s : Chip) (a lo n : Nat) : (s.countTo a lo n).cxl = s.cxl := rfl
@[simp] theorem Chip.countTo_poison (s : Chip) (a lo n : Nat) : (s.countTo a lo n).poison = s.poison := rfl
@[simp] theorem Chip.countTo_redir (s : Chip) (a lo n : Nat) : (s.countTo a lo n).redir = s.redir := rfl
@[simp] theorem Chip.countTo_fencedCh (s : Chip) (a lo n : Nat) : (s.countTo a lo n).fencedCh = s.fencedCh := rfl
@[simp] theorem Chip.countTo_migLost (s : Chip) (a lo n : Nat) : (s.countTo a lo n).migLost = s.migLost := rfl
@[simp] theorem Chip.countTo_flying (s : Chip) (a lo n : Nat) : (s.countTo a lo n).flying = s.flying := rfl
@[simp] theorem Chip.countTo_ctbFrac (s : Chip) (a lo n : Nat) : (s.countTo a lo n).ctbFrac = s.ctbFrac := rfl
@[simp] theorem Chip.countTo_holdAt (s : Chip) (a lo n : Nat) : (s.countTo a lo n).holdAt = s.holdAt := rfl
@[simp] theorem Chip.countTo_benches (s : Chip) (a lo n : Nat) : (s.countTo a lo n).benches = s.benches := rfl
@[simp] theorem Chip.countTo_selfRef (s : Chip) (a lo n : Nat) : (s.countTo a lo n).selfRef = s.selfRef := rfl
@[simp] theorem Chip.countTo_memResp (s : Chip) (a lo n : Nat) : (s.countTo a lo n).memResp = s.memResp := rfl
@[simp] theorem Chip.countTo_memGot (s : Chip) (a lo n : Nat) : (s.countTo a lo n).memGot = s.memGot := rfl
@[simp] theorem Chip.countTo_hold (s : Chip) (a lo n : Nat) : (s.countTo a lo n).hold = s.hold := rfl
@[simp] theorem Chip.countTo_vlog (s : Chip) (a lo n : Nat) : (s.countTo a lo n).vlog = s.vlog := rfl
@[simp] theorem Chip.countTo_raised (s : Chip) (a lo n : Nat) : (s.countTo a lo n).raised = s.raised := rfl
@[simp] theorem Chip.countTo_links (s : Chip) (a lo n : Nat) : (s.countTo a lo n).links = s.links := rfl
@[simp] theorem Chip.countTo_ts (s : Chip) (a lo n : Nat) : (s.countTo a lo n).ts = s.ts := rfl
@[simp] theorem Chip.countTo_flood (s : Chip) (a lo n : Nat) : (s.countTo a lo n).flood = s.flood := rfl
@[simp] theorem Chip.countTo_en (s : Chip) (a lo n : Nat) : (s.countTo a lo n).en = s.en := rfl
@[simp] theorem Chip.countTo_flt (s : Chip) (a lo n : Nat) : (s.countTo a lo n).flt = s.flt := rfl
@[simp] theorem Chip.countTo_snp (s : Chip) (a lo n : Nat) : (s.countTo a lo n).snp = s.snp := rfl
@[simp] theorem Chip.countTo_job (s : Chip) (a lo n : Nat) : (s.countTo a lo n).job = s.job := rfl
@[simp] theorem Chip.countTo_vcf (s : Chip) (a lo n : Nat) : (s.countTo a lo n).vcf = s.vcf := rfl
@[simp] theorem Chip.countTo_sec (s : Chip) (a lo n : Nat) : (s.countTo a lo n).sec = s.sec := rfl
@[simp] theorem Chip.countTo_pins (s : Chip) (a lo n : Nat) : (s.countTo a lo n).pins = s.pins := rfl
@[simp] theorem Chip.countTo_outs (s : Chip) (a lo n : Nat) : (s.countTo a lo n).outs = s.outs := rfl
@[simp] theorem Chip.setCore_regs (s : Chip) (p : Nat) (c : Core) : (s.setCore p c).regs = s.regs := rfl
@[simp] theorem Chip.setCore_hbm (s : Chip) (p : Nat) (c : Core) : (s.setCore p c).hbm = s.hbm := rfl
@[simp] theorem Chip.setCore_cxl (s : Chip) (p : Nat) (c : Core) : (s.setCore p c).cxl = s.cxl := rfl
@[simp] theorem Chip.setCore_poison (s : Chip) (p : Nat) (c : Core) : (s.setCore p c).poison = s.poison := rfl
@[simp] theorem Chip.setCore_redir (s : Chip) (p : Nat) (c : Core) : (s.setCore p c).redir = s.redir := rfl
@[simp] theorem Chip.setCore_fencedCh (s : Chip) (p : Nat) (c : Core) : (s.setCore p c).fencedCh = s.fencedCh := rfl
@[simp] theorem Chip.setCore_migLost (s : Chip) (p : Nat) (c : Core) : (s.setCore p c).migLost = s.migLost := rfl
@[simp] theorem Chip.setCore_flying (s : Chip) (p : Nat) (c : Core) : (s.setCore p c).flying = s.flying := rfl
@[simp] theorem Chip.setCore_ctbFrac (s : Chip) (p : Nat) (c : Core) : (s.setCore p c).ctbFrac = s.ctbFrac := rfl
@[simp] theorem Chip.setCore_holdAt (s : Chip) (p : Nat) (c : Core) : (s.setCore p c).holdAt = s.holdAt := rfl
@[simp] theorem Chip.setCore_benches (s : Chip) (p : Nat) (c : Core) : (s.setCore p c).benches = s.benches := rfl
@[simp] theorem Chip.setCore_selfRef (s : Chip) (p : Nat) (c : Core) : (s.setCore p c).selfRef = s.selfRef := rfl
@[simp] theorem Chip.setCore_memResp (s : Chip) (p : Nat) (c : Core) : (s.setCore p c).memResp = s.memResp := rfl
@[simp] theorem Chip.setCore_memGot (s : Chip) (p : Nat) (c : Core) : (s.setCore p c).memGot = s.memGot := rfl
@[simp] theorem Chip.setCore_hold (s : Chip) (p : Nat) (c : Core) : (s.setCore p c).hold = s.hold := rfl
@[simp] theorem Chip.setCore_vlog (s : Chip) (p : Nat) (c : Core) : (s.setCore p c).vlog = s.vlog := rfl
@[simp] theorem Chip.setCore_raised (s : Chip) (p : Nat) (c : Core) : (s.setCore p c).raised = s.raised := rfl
@[simp] theorem Chip.setCore_links (s : Chip) (p : Nat) (c : Core) : (s.setCore p c).links = s.links := rfl
@[simp] theorem Chip.setCore_ts (s : Chip) (p : Nat) (c : Core) : (s.setCore p c).ts = s.ts := rfl
@[simp] theorem Chip.setCore_flood (s : Chip) (p : Nat) (c : Core) : (s.setCore p c).flood = s.flood := rfl
@[simp] theorem Chip.setCore_en (s : Chip) (p : Nat) (c : Core) : (s.setCore p c).en = s.en := rfl
@[simp] theorem Chip.setCore_flt (s : Chip) (p : Nat) (c : Core) : (s.setCore p c).flt = s.flt := rfl
@[simp] theorem Chip.setCore_snp (s : Chip) (p : Nat) (c : Core) : (s.setCore p c).snp = s.snp := rfl
@[simp] theorem Chip.setCore_job (s : Chip) (p : Nat) (c : Core) : (s.setCore p c).job = s.job := rfl
@[simp] theorem Chip.setCore_vcf (s : Chip) (p : Nat) (c : Core) : (s.setCore p c).vcf = s.vcf := rfl
@[simp] theorem Chip.setCore_sec (s : Chip) (p : Nat) (c : Core) : (s.setCore p c).sec = s.sec := rfl
@[simp] theorem Chip.setCore_pins (s : Chip) (p : Nat) (c : Core) : (s.setCore p c).pins = s.pins := rfl
@[simp] theorem Chip.setCore_outs (s : Chip) (p : Nat) (c : Core) : (s.setCore p c).outs = s.outs := rfl
@[simp] theorem Chip.onCore_regs (s : Chip) (p : Nat) (f : Core → Core) : (s.onCore p f).regs = s.regs := rfl
@[simp] theorem Chip.onCore_hbm (s : Chip) (p : Nat) (f : Core → Core) : (s.onCore p f).hbm = s.hbm := rfl
@[simp] theorem Chip.onCore_cxl (s : Chip) (p : Nat) (f : Core → Core) : (s.onCore p f).cxl = s.cxl := rfl
@[simp] theorem Chip.onCore_poison (s : Chip) (p : Nat) (f : Core → Core) : (s.onCore p f).poison = s.poison := rfl
@[simp] theorem Chip.onCore_redir (s : Chip) (p : Nat) (f : Core → Core) : (s.onCore p f).redir = s.redir := rfl
@[simp] theorem Chip.onCore_fencedCh (s : Chip) (p : Nat) (f : Core → Core) : (s.onCore p f).fencedCh = s.fencedCh := rfl
@[simp] theorem Chip.onCore_migLost (s : Chip) (p : Nat) (f : Core → Core) : (s.onCore p f).migLost = s.migLost := rfl
@[simp] theorem Chip.onCore_flying (s : Chip) (p : Nat) (f : Core → Core) : (s.onCore p f).flying = s.flying := rfl
@[simp] theorem Chip.onCore_ctbFrac (s : Chip) (p : Nat) (f : Core → Core) : (s.onCore p f).ctbFrac = s.ctbFrac := rfl
@[simp] theorem Chip.onCore_holdAt (s : Chip) (p : Nat) (f : Core → Core) : (s.onCore p f).holdAt = s.holdAt := rfl
@[simp] theorem Chip.onCore_benches (s : Chip) (p : Nat) (f : Core → Core) : (s.onCore p f).benches = s.benches := rfl
@[simp] theorem Chip.onCore_selfRef (s : Chip) (p : Nat) (f : Core → Core) : (s.onCore p f).selfRef = s.selfRef := rfl
@[simp] theorem Chip.onCore_memResp (s : Chip) (p : Nat) (f : Core → Core) : (s.onCore p f).memResp = s.memResp := rfl
@[simp] theorem Chip.onCore_memGot (s : Chip) (p : Nat) (f : Core → Core) : (s.onCore p f).memGot = s.memGot := rfl
@[simp] theorem Chip.onCore_hold (s : Chip) (p : Nat) (f : Core → Core) : (s.onCore p f).hold = s.hold := rfl
@[simp] theorem Chip.onCore_vlog (s : Chip) (p : Nat) (f : Core → Core) : (s.onCore p f).vlog = s.vlog := rfl
@[simp] theorem Chip.onCore_raised (s : Chip) (p : Nat) (f : Core → Core) : (s.onCore p f).raised = s.raised := rfl
@[simp] theorem Chip.onCore_links (s : Chip) (p : Nat) (f : Core → Core) : (s.onCore p f).links = s.links := rfl
@[simp] theorem Chip.onCore_ts (s : Chip) (p : Nat) (f : Core → Core) : (s.onCore p f).ts = s.ts := rfl
@[simp] theorem Chip.onCore_flood (s : Chip) (p : Nat) (f : Core → Core) : (s.onCore p f).flood = s.flood := rfl
@[simp] theorem Chip.onCore_en (s : Chip) (p : Nat) (f : Core → Core) : (s.onCore p f).en = s.en := rfl
@[simp] theorem Chip.onCore_flt (s : Chip) (p : Nat) (f : Core → Core) : (s.onCore p f).flt = s.flt := rfl
@[simp] theorem Chip.onCore_snp (s : Chip) (p : Nat) (f : Core → Core) : (s.onCore p f).snp = s.snp := rfl
@[simp] theorem Chip.onCore_job (s : Chip) (p : Nat) (f : Core → Core) : (s.onCore p f).job = s.job := rfl
@[simp] theorem Chip.onCore_vcf (s : Chip) (p : Nat) (f : Core → Core) : (s.onCore p f).vcf = s.vcf := rfl
@[simp] theorem Chip.onCore_sec (s : Chip) (p : Nat) (f : Core → Core) : (s.onCore p f).sec = s.sec := rfl
@[simp] theorem Chip.onCore_pins (s : Chip) (p : Nat) (f : Core → Core) : (s.onCore p f).pins = s.pins := rfl
@[simp] theorem Chip.onCore_outs (s : Chip) (p : Nat) (f : Core → Core) : (s.onCore p f).outs = s.outs := rfl
@[simp] theorem Chip.setBench_regs (s : Chip) (b : Nat) (x : Bench) : (s.setBench b x).regs = s.regs := rfl
@[simp] theorem Chip.setBench_cores (s : Chip) (b : Nat) (x : Bench) : (s.setBench b x).cores = s.cores := rfl
@[simp] theorem Chip.setBench_hbm (s : Chip) (b : Nat) (x : Bench) : (s.setBench b x).hbm = s.hbm := rfl
@[simp] theorem Chip.setBench_cxl (s : Chip) (b : Nat) (x : Bench) : (s.setBench b x).cxl = s.cxl := rfl
@[simp] theorem Chip.setBench_poison (s : Chip) (b : Nat) (x : Bench) : (s.setBench b x).poison = s.poison := rfl
@[simp] theorem Chip.setBench_redir (s : Chip) (b : Nat) (x : Bench) : (s.setBench b x).redir = s.redir := rfl
@[simp] theorem Chip.setBench_fencedCh (s : Chip) (b : Nat) (x : Bench) : (s.setBench b x).fencedCh = s.fencedCh := rfl
@[simp] theorem Chip.setBench_migLost (s : Chip) (b : Nat) (x : Bench) : (s.setBench b x).migLost = s.migLost := rfl
@[simp] theorem Chip.setBench_flying (s : Chip) (b : Nat) (x : Bench) : (s.setBench b x).flying = s.flying := rfl
@[simp] theorem Chip.setBench_ctbFrac (s : Chip) (b : Nat) (x : Bench) : (s.setBench b x).ctbFrac = s.ctbFrac := rfl
@[simp] theorem Chip.setBench_holdAt (s : Chip) (b : Nat) (x : Bench) : (s.setBench b x).holdAt = s.holdAt := rfl
@[simp] theorem Chip.setBench_selfRef (s : Chip) (b : Nat) (x : Bench) : (s.setBench b x).selfRef = s.selfRef := rfl
@[simp] theorem Chip.setBench_memResp (s : Chip) (b : Nat) (x : Bench) : (s.setBench b x).memResp = s.memResp := rfl
@[simp] theorem Chip.setBench_memGot (s : Chip) (b : Nat) (x : Bench) : (s.setBench b x).memGot = s.memGot := rfl
@[simp] theorem Chip.setBench_hold (s : Chip) (b : Nat) (x : Bench) : (s.setBench b x).hold = s.hold := rfl
@[simp] theorem Chip.setBench_vlog (s : Chip) (b : Nat) (x : Bench) : (s.setBench b x).vlog = s.vlog := rfl
@[simp] theorem Chip.setBench_raised (s : Chip) (b : Nat) (x : Bench) : (s.setBench b x).raised = s.raised := rfl
@[simp] theorem Chip.setBench_links (s : Chip) (b : Nat) (x : Bench) : (s.setBench b x).links = s.links := rfl
@[simp] theorem Chip.setBench_ts (s : Chip) (b : Nat) (x : Bench) : (s.setBench b x).ts = s.ts := rfl
@[simp] theorem Chip.setBench_flood (s : Chip) (b : Nat) (x : Bench) : (s.setBench b x).flood = s.flood := rfl
@[simp] theorem Chip.setBench_en (s : Chip) (b : Nat) (x : Bench) : (s.setBench b x).en = s.en := rfl
@[simp] theorem Chip.setBench_flt (s : Chip) (b : Nat) (x : Bench) : (s.setBench b x).flt = s.flt := rfl
@[simp] theorem Chip.setBench_snp (s : Chip) (b : Nat) (x : Bench) : (s.setBench b x).snp = s.snp := rfl
@[simp] theorem Chip.setBench_job (s : Chip) (b : Nat) (x : Bench) : (s.setBench b x).job = s.job := rfl
@[simp] theorem Chip.setBench_vcf (s : Chip) (b : Nat) (x : Bench) : (s.setBench b x).vcf = s.vcf := rfl
@[simp] theorem Chip.setBench_sec (s : Chip) (b : Nat) (x : Bench) : (s.setBench b x).sec = s.sec := rfl
@[simp] theorem Chip.setBench_pins (s : Chip) (b : Nat) (x : Bench) : (s.setBench b x).pins = s.pins := rfl
@[simp] theorem Chip.setBench_outs (s : Chip) (b : Nat) (x : Bench) : (s.setBench b x).outs = s.outs := rfl
@[simp] theorem Chip.setLink_regs (s : Chip) (l : Nat) (x : Link) : (s.setLink l x).regs = s.regs := rfl
@[simp] theorem Chip.setLink_cores (s : Chip) (l : Nat) (x : Link) : (s.setLink l x).cores = s.cores := rfl
@[simp] theorem Chip.setLink_hbm (s : Chip) (l : Nat) (x : Link) : (s.setLink l x).hbm = s.hbm := rfl
@[simp] theorem Chip.setLink_cxl (s : Chip) (l : Nat) (x : Link) : (s.setLink l x).cxl = s.cxl := rfl
@[simp] theorem Chip.setLink_poison (s : Chip) (l : Nat) (x : Link) : (s.setLink l x).poison = s.poison := rfl
@[simp] theorem Chip.setLink_redir (s : Chip) (l : Nat) (x : Link) : (s.setLink l x).redir = s.redir := rfl
@[simp] theorem Chip.setLink_fencedCh (s : Chip) (l : Nat) (x : Link) : (s.setLink l x).fencedCh = s.fencedCh := rfl
@[simp] theorem Chip.setLink_migLost (s : Chip) (l : Nat) (x : Link) : (s.setLink l x).migLost = s.migLost := rfl
@[simp] theorem Chip.setLink_flying (s : Chip) (l : Nat) (x : Link) : (s.setLink l x).flying = s.flying := rfl
@[simp] theorem Chip.setLink_ctbFrac (s : Chip) (l : Nat) (x : Link) : (s.setLink l x).ctbFrac = s.ctbFrac := rfl
@[simp] theorem Chip.setLink_holdAt (s : Chip) (l : Nat) (x : Link) : (s.setLink l x).holdAt = s.holdAt := rfl
@[simp] theorem Chip.setLink_benches (s : Chip) (l : Nat) (x : Link) : (s.setLink l x).benches = s.benches := rfl
@[simp] theorem Chip.setLink_selfRef (s : Chip) (l : Nat) (x : Link) : (s.setLink l x).selfRef = s.selfRef := rfl
@[simp] theorem Chip.setLink_memResp (s : Chip) (l : Nat) (x : Link) : (s.setLink l x).memResp = s.memResp := rfl
@[simp] theorem Chip.setLink_memGot (s : Chip) (l : Nat) (x : Link) : (s.setLink l x).memGot = s.memGot := rfl
@[simp] theorem Chip.setLink_hold (s : Chip) (l : Nat) (x : Link) : (s.setLink l x).hold = s.hold := rfl
@[simp] theorem Chip.setLink_vlog (s : Chip) (l : Nat) (x : Link) : (s.setLink l x).vlog = s.vlog := rfl
@[simp] theorem Chip.setLink_raised (s : Chip) (l : Nat) (x : Link) : (s.setLink l x).raised = s.raised := rfl
@[simp] theorem Chip.setLink_ts (s : Chip) (l : Nat) (x : Link) : (s.setLink l x).ts = s.ts := rfl
@[simp] theorem Chip.setLink_flood (s : Chip) (l : Nat) (x : Link) : (s.setLink l x).flood = s.flood := rfl
@[simp] theorem Chip.setLink_en (s : Chip) (l : Nat) (x : Link) : (s.setLink l x).en = s.en := rfl
@[simp] theorem Chip.setLink_flt (s : Chip) (l : Nat) (x : Link) : (s.setLink l x).flt = s.flt := rfl
@[simp] theorem Chip.setLink_snp (s : Chip) (l : Nat) (x : Link) : (s.setLink l x).snp = s.snp := rfl
@[simp] theorem Chip.setLink_job (s : Chip) (l : Nat) (x : Link) : (s.setLink l x).job = s.job := rfl
@[simp] theorem Chip.setLink_vcf (s : Chip) (l : Nat) (x : Link) : (s.setLink l x).vcf = s.vcf := rfl
@[simp] theorem Chip.setLink_sec (s : Chip) (l : Nat) (x : Link) : (s.setLink l x).sec = s.sec := rfl
@[simp] theorem Chip.setLink_pins (s : Chip) (l : Nat) (x : Link) : (s.setLink l x).pins = s.pins := rfl
@[simp] theorem Chip.setLink_outs (s : Chip) (l : Nat) (x : Link) : (s.setLink l x).outs = s.outs := rfl
@[simp] theorem Chip.emit_regs (s : Chip) (o : Out) : (s.emit o).regs = s.regs := rfl
@[simp] theorem Chip.emit_cores (s : Chip) (o : Out) : (s.emit o).cores = s.cores := rfl
@[simp] theorem Chip.emit_hbm (s : Chip) (o : Out) : (s.emit o).hbm = s.hbm := rfl
@[simp] theorem Chip.emit_cxl (s : Chip) (o : Out) : (s.emit o).cxl = s.cxl := rfl
@[simp] theorem Chip.emit_poison (s : Chip) (o : Out) : (s.emit o).poison = s.poison := rfl
@[simp] theorem Chip.emit_redir (s : Chip) (o : Out) : (s.emit o).redir = s.redir := rfl
@[simp] theorem Chip.emit_fencedCh (s : Chip) (o : Out) : (s.emit o).fencedCh = s.fencedCh := rfl
@[simp] theorem Chip.emit_migLost (s : Chip) (o : Out) : (s.emit o).migLost = s.migLost := rfl
@[simp] theorem Chip.emit_flying (s : Chip) (o : Out) : (s.emit o).flying = s.flying := rfl
@[simp] theorem Chip.emit_ctbFrac (s : Chip) (o : Out) : (s.emit o).ctbFrac = s.ctbFrac := rfl
@[simp] theorem Chip.emit_holdAt (s : Chip) (o : Out) : (s.emit o).holdAt = s.holdAt := rfl
@[simp] theorem Chip.emit_benches (s : Chip) (o : Out) : (s.emit o).benches = s.benches := rfl
@[simp] theorem Chip.emit_selfRef (s : Chip) (o : Out) : (s.emit o).selfRef = s.selfRef := rfl
@[simp] theorem Chip.emit_memResp (s : Chip) (o : Out) : (s.emit o).memResp = s.memResp := rfl
@[simp] theorem Chip.emit_memGot (s : Chip) (o : Out) : (s.emit o).memGot = s.memGot := rfl
@[simp] theorem Chip.emit_hold (s : Chip) (o : Out) : (s.emit o).hold = s.hold := rfl
@[simp] theorem Chip.emit_vlog (s : Chip) (o : Out) : (s.emit o).vlog = s.vlog := rfl
@[simp] theorem Chip.emit_raised (s : Chip) (o : Out) : (s.emit o).raised = s.raised := rfl
@[simp] theorem Chip.emit_links (s : Chip) (o : Out) : (s.emit o).links = s.links := rfl
@[simp] theorem Chip.emit_ts (s : Chip) (o : Out) : (s.emit o).ts = s.ts := rfl
@[simp] theorem Chip.emit_flood (s : Chip) (o : Out) : (s.emit o).flood = s.flood := rfl
@[simp] theorem Chip.emit_en (s : Chip) (o : Out) : (s.emit o).en = s.en := rfl
@[simp] theorem Chip.emit_flt (s : Chip) (o : Out) : (s.emit o).flt = s.flt := rfl
@[simp] theorem Chip.emit_snp (s : Chip) (o : Out) : (s.emit o).snp = s.snp := rfl
@[simp] theorem Chip.emit_job (s : Chip) (o : Out) : (s.emit o).job = s.job := rfl
@[simp] theorem Chip.emit_vcf (s : Chip) (o : Out) : (s.emit o).vcf = s.vcf := rfl
@[simp] theorem Chip.emit_sec (s : Chip) (o : Out) : (s.emit o).sec = s.sec := rfl
@[simp] theorem Chip.emit_pins (s : Chip) (o : Out) : (s.emit o).pins = s.pins := rfl
@[simp] theorem Chip.log_regs (s : Chip) (e : LogEntry) : (s.log e).regs = s.regs := rfl
@[simp] theorem Chip.log_cores (s : Chip) (e : LogEntry) : (s.log e).cores = s.cores := rfl
@[simp] theorem Chip.log_hbm (s : Chip) (e : LogEntry) : (s.log e).hbm = s.hbm := rfl
@[simp] theorem Chip.log_cxl (s : Chip) (e : LogEntry) : (s.log e).cxl = s.cxl := rfl
@[simp] theorem Chip.log_poison (s : Chip) (e : LogEntry) : (s.log e).poison = s.poison := rfl
@[simp] theorem Chip.log_redir (s : Chip) (e : LogEntry) : (s.log e).redir = s.redir := rfl
@[simp] theorem Chip.log_fencedCh (s : Chip) (e : LogEntry) : (s.log e).fencedCh = s.fencedCh := rfl
@[simp] theorem Chip.log_migLost (s : Chip) (e : LogEntry) : (s.log e).migLost = s.migLost := rfl
@[simp] theorem Chip.log_flying (s : Chip) (e : LogEntry) : (s.log e).flying = s.flying := rfl
@[simp] theorem Chip.log_ctbFrac (s : Chip) (e : LogEntry) : (s.log e).ctbFrac = s.ctbFrac := rfl
@[simp] theorem Chip.log_holdAt (s : Chip) (e : LogEntry) : (s.log e).holdAt = s.holdAt := rfl
@[simp] theorem Chip.log_benches (s : Chip) (e : LogEntry) : (s.log e).benches = s.benches := rfl
@[simp] theorem Chip.log_selfRef (s : Chip) (e : LogEntry) : (s.log e).selfRef = s.selfRef := rfl
@[simp] theorem Chip.log_memResp (s : Chip) (e : LogEntry) : (s.log e).memResp = s.memResp := rfl
@[simp] theorem Chip.log_memGot (s : Chip) (e : LogEntry) : (s.log e).memGot = s.memGot := rfl
@[simp] theorem Chip.log_hold (s : Chip) (e : LogEntry) : (s.log e).hold = s.hold := rfl
@[simp] theorem Chip.log_raised (s : Chip) (e : LogEntry) : (s.log e).raised = s.raised := rfl
@[simp] theorem Chip.log_links (s : Chip) (e : LogEntry) : (s.log e).links = s.links := rfl
@[simp] theorem Chip.log_ts (s : Chip) (e : LogEntry) : (s.log e).ts = s.ts := rfl
@[simp] theorem Chip.log_flood (s : Chip) (e : LogEntry) : (s.log e).flood = s.flood := rfl
@[simp] theorem Chip.log_en (s : Chip) (e : LogEntry) : (s.log e).en = s.en := rfl
@[simp] theorem Chip.log_flt (s : Chip) (e : LogEntry) : (s.log e).flt = s.flt := rfl
@[simp] theorem Chip.log_snp (s : Chip) (e : LogEntry) : (s.log e).snp = s.snp := rfl
@[simp] theorem Chip.log_job (s : Chip) (e : LogEntry) : (s.log e).job = s.job := rfl
@[simp] theorem Chip.log_vcf (s : Chip) (e : LogEntry) : (s.log e).vcf = s.vcf := rfl
@[simp] theorem Chip.log_sec (s : Chip) (e : LogEntry) : (s.log e).sec = s.sec := rfl
@[simp] theorem Chip.log_pins (s : Chip) (e : LogEntry) : (s.log e).pins = s.pins := rfl
@[simp] theorem Chip.log_outs (s : Chip) (e : LogEntry) : (s.log e).outs = s.outs := rfl
@[simp] theorem Chip.raise_regs (s : Chip) (ev inst detail : Nat) : (s.raise ev inst detail).regs = s.regs := rfl
@[simp] theorem Chip.raise_cores (s : Chip) (ev inst detail : Nat) : (s.raise ev inst detail).cores = s.cores := rfl
@[simp] theorem Chip.raise_hbm (s : Chip) (ev inst detail : Nat) : (s.raise ev inst detail).hbm = s.hbm := rfl
@[simp] theorem Chip.raise_cxl (s : Chip) (ev inst detail : Nat) : (s.raise ev inst detail).cxl = s.cxl := rfl
@[simp] theorem Chip.raise_poison (s : Chip) (ev inst detail : Nat) : (s.raise ev inst detail).poison = s.poison := rfl
@[simp] theorem Chip.raise_redir (s : Chip) (ev inst detail : Nat) : (s.raise ev inst detail).redir = s.redir := rfl
@[simp] theorem Chip.raise_fencedCh (s : Chip) (ev inst detail : Nat) : (s.raise ev inst detail).fencedCh = s.fencedCh := rfl
@[simp] theorem Chip.raise_migLost (s : Chip) (ev inst detail : Nat) : (s.raise ev inst detail).migLost = s.migLost := rfl
@[simp] theorem Chip.raise_flying (s : Chip) (ev inst detail : Nat) : (s.raise ev inst detail).flying = s.flying := rfl
@[simp] theorem Chip.raise_ctbFrac (s : Chip) (ev inst detail : Nat) : (s.raise ev inst detail).ctbFrac = s.ctbFrac := rfl
@[simp] theorem Chip.raise_holdAt (s : Chip) (ev inst detail : Nat) : (s.raise ev inst detail).holdAt = s.holdAt := rfl
@[simp] theorem Chip.raise_benches (s : Chip) (ev inst detail : Nat) : (s.raise ev inst detail).benches = s.benches := rfl
@[simp] theorem Chip.raise_selfRef (s : Chip) (ev inst detail : Nat) : (s.raise ev inst detail).selfRef = s.selfRef := rfl
@[simp] theorem Chip.raise_memResp (s : Chip) (ev inst detail : Nat) : (s.raise ev inst detail).memResp = s.memResp := rfl
@[simp] theorem Chip.raise_memGot (s : Chip) (ev inst detail : Nat) : (s.raise ev inst detail).memGot = s.memGot := rfl
@[simp] theorem Chip.raise_hold (s : Chip) (ev inst detail : Nat) : (s.raise ev inst detail).hold = s.hold := rfl
@[simp] theorem Chip.raise_vlog (s : Chip) (ev inst detail : Nat) : (s.raise ev inst detail).vlog = s.vlog := rfl
@[simp] theorem Chip.raise_links (s : Chip) (ev inst detail : Nat) : (s.raise ev inst detail).links = s.links := rfl
@[simp] theorem Chip.raise_ts (s : Chip) (ev inst detail : Nat) : (s.raise ev inst detail).ts = s.ts := rfl
@[simp] theorem Chip.raise_flood (s : Chip) (ev inst detail : Nat) : (s.raise ev inst detail).flood = s.flood := rfl
@[simp] theorem Chip.raise_en (s : Chip) (ev inst detail : Nat) : (s.raise ev inst detail).en = s.en := rfl
@[simp] theorem Chip.raise_flt (s : Chip) (ev inst detail : Nat) : (s.raise ev inst detail).flt = s.flt := rfl
@[simp] theorem Chip.raise_snp (s : Chip) (ev inst detail : Nat) : (s.raise ev inst detail).snp = s.snp := rfl
@[simp] theorem Chip.raise_job (s : Chip) (ev inst detail : Nat) : (s.raise ev inst detail).job = s.job := rfl
@[simp] theorem Chip.raise_vcf (s : Chip) (ev inst detail : Nat) : (s.raise ev inst detail).vcf = s.vcf := rfl
@[simp] theorem Chip.raise_sec (s : Chip) (ev inst detail : Nat) : (s.raise ev inst detail).sec = s.sec := rfl
@[simp] theorem Chip.raise_pins (s : Chip) (ev inst detail : Nat) : (s.raise ev inst detail).pins = s.pins := rfl
@[simp] theorem Chip.raise_outs (s : Chip) (ev inst detail : Nat) : (s.raise ev inst detail).outs = s.outs := rfl

@[simp] theorem Chip.onFlt_regs (s : Chip) (f : FaultSt → FaultSt) : (s.onFlt f).regs = s.regs := rfl
@[simp] theorem Chip.onFlt_cores (s : Chip) (f : FaultSt → FaultSt) : (s.onFlt f).cores = s.cores := rfl
@[simp] theorem Chip.onFlt_hbm (s : Chip) (f : FaultSt → FaultSt) : (s.onFlt f).hbm = s.hbm := rfl
@[simp] theorem Chip.onFlt_cxl (s : Chip) (f : FaultSt → FaultSt) : (s.onFlt f).cxl = s.cxl := rfl
@[simp] theorem Chip.onFlt_poison (s : Chip) (f : FaultSt → FaultSt) : (s.onFlt f).poison = s.poison := rfl
@[simp] theorem Chip.onFlt_redir (s : Chip) (f : FaultSt → FaultSt) : (s.onFlt f).redir = s.redir := rfl
@[simp] theorem Chip.onFlt_fencedCh (s : Chip) (f : FaultSt → FaultSt) : (s.onFlt f).fencedCh = s.fencedCh := rfl
@[simp] theorem Chip.onFlt_migLost (s : Chip) (f : FaultSt → FaultSt) : (s.onFlt f).migLost = s.migLost := rfl
@[simp] theorem Chip.onFlt_flying (s : Chip) (f : FaultSt → FaultSt) : (s.onFlt f).flying = s.flying := rfl
@[simp] theorem Chip.onFlt_ctbFrac (s : Chip) (f : FaultSt → FaultSt) : (s.onFlt f).ctbFrac = s.ctbFrac := rfl
@[simp] theorem Chip.onFlt_holdAt (s : Chip) (f : FaultSt → FaultSt) : (s.onFlt f).holdAt = s.holdAt := rfl
@[simp] theorem Chip.onFlt_benches (s : Chip) (f : FaultSt → FaultSt) : (s.onFlt f).benches = s.benches := rfl
@[simp] theorem Chip.onFlt_selfRef (s : Chip) (f : FaultSt → FaultSt) : (s.onFlt f).selfRef = s.selfRef := rfl
@[simp] theorem Chip.onFlt_memResp (s : Chip) (f : FaultSt → FaultSt) : (s.onFlt f).memResp = s.memResp := rfl
@[simp] theorem Chip.onFlt_memGot (s : Chip) (f : FaultSt → FaultSt) : (s.onFlt f).memGot = s.memGot := rfl
@[simp] theorem Chip.onFlt_hold (s : Chip) (f : FaultSt → FaultSt) : (s.onFlt f).hold = s.hold := rfl
@[simp] theorem Chip.onFlt_vlog (s : Chip) (f : FaultSt → FaultSt) : (s.onFlt f).vlog = s.vlog := rfl
@[simp] theorem Chip.onFlt_raised (s : Chip) (f : FaultSt → FaultSt) : (s.onFlt f).raised = s.raised := rfl
@[simp] theorem Chip.onFlt_links (s : Chip) (f : FaultSt → FaultSt) : (s.onFlt f).links = s.links := rfl
@[simp] theorem Chip.onFlt_ts (s : Chip) (f : FaultSt → FaultSt) : (s.onFlt f).ts = s.ts := rfl
@[simp] theorem Chip.onFlt_flood (s : Chip) (f : FaultSt → FaultSt) : (s.onFlt f).flood = s.flood := rfl
@[simp] theorem Chip.onFlt_en (s : Chip) (f : FaultSt → FaultSt) : (s.onFlt f).en = s.en := rfl
@[simp] theorem Chip.onFlt_snp (s : Chip) (f : FaultSt → FaultSt) : (s.onFlt f).snp = s.snp := rfl
@[simp] theorem Chip.onFlt_job (s : Chip) (f : FaultSt → FaultSt) : (s.onFlt f).job = s.job := rfl
@[simp] theorem Chip.onFlt_vcf (s : Chip) (f : FaultSt → FaultSt) : (s.onFlt f).vcf = s.vcf := rfl
@[simp] theorem Chip.onFlt_sec (s : Chip) (f : FaultSt → FaultSt) : (s.onFlt f).sec = s.sec := rfl
@[simp] theorem Chip.onFlt_pins (s : Chip) (f : FaultSt → FaultSt) : (s.onFlt f).pins = s.pins := rfl
@[simp] theorem Chip.onFlt_outs (s : Chip) (f : FaultSt → FaultSt) : (s.onFlt f).outs = s.outs := rfl

@[simp] theorem Chip.trace_regs (s : Chip) (ty : Nat) (b : List Byte) : (s.trace ty b).regs = s.regs := by
  unfold Chip.trace; simp only; split <;> rfl
@[simp] theorem Chip.trace_cores (s : Chip) (ty : Nat) (b : List Byte) : (s.trace ty b).cores = s.cores := by
  unfold Chip.trace; simp only; split <;> rfl
@[simp] theorem Chip.trace_hbm (s : Chip) (ty : Nat) (b : List Byte) : (s.trace ty b).hbm = s.hbm := by
  unfold Chip.trace; simp only; split <;> rfl
@[simp] theorem Chip.trace_cxl (s : Chip) (ty : Nat) (b : List Byte) : (s.trace ty b).cxl = s.cxl := by
  unfold Chip.trace; simp only; split <;> rfl
@[simp] theorem Chip.trace_poison (s : Chip) (ty : Nat) (b : List Byte) : (s.trace ty b).poison = s.poison := by
  unfold Chip.trace; simp only; split <;> rfl
@[simp] theorem Chip.trace_redir (s : Chip) (ty : Nat) (b : List Byte) : (s.trace ty b).redir = s.redir := by
  unfold Chip.trace; simp only; split <;> rfl
@[simp] theorem Chip.trace_fencedCh (s : Chip) (ty : Nat) (b : List Byte) : (s.trace ty b).fencedCh = s.fencedCh := by
  unfold Chip.trace; simp only; split <;> rfl
@[simp] theorem Chip.trace_migLost (s : Chip) (ty : Nat) (b : List Byte) : (s.trace ty b).migLost = s.migLost := by
  unfold Chip.trace; simp only; split <;> rfl
@[simp] theorem Chip.trace_flying (s : Chip) (ty : Nat) (b : List Byte) : (s.trace ty b).flying = s.flying := by
  unfold Chip.trace; simp only; split <;> rfl
@[simp] theorem Chip.trace_ctbFrac (s : Chip) (ty : Nat) (b : List Byte) : (s.trace ty b).ctbFrac = s.ctbFrac := by
  unfold Chip.trace; simp only; split <;> rfl
@[simp] theorem Chip.trace_holdAt (s : Chip) (ty : Nat) (b : List Byte) : (s.trace ty b).holdAt = s.holdAt := by
  unfold Chip.trace; simp only; split <;> rfl
@[simp] theorem Chip.trace_benches (s : Chip) (ty : Nat) (b : List Byte) : (s.trace ty b).benches = s.benches := by
  unfold Chip.trace; simp only; split <;> rfl
@[simp] theorem Chip.trace_selfRef (s : Chip) (ty : Nat) (b : List Byte) : (s.trace ty b).selfRef = s.selfRef := by
  unfold Chip.trace; simp only; split <;> rfl
@[simp] theorem Chip.trace_memResp (s : Chip) (ty : Nat) (b : List Byte) : (s.trace ty b).memResp = s.memResp := by
  unfold Chip.trace; simp only; split <;> rfl
@[simp] theorem Chip.trace_memGot (s : Chip) (ty : Nat) (b : List Byte) : (s.trace ty b).memGot = s.memGot := by
  unfold Chip.trace; simp only; split <;> rfl
@[simp] theorem Chip.trace_hold (s : Chip) (ty : Nat) (b : List Byte) : (s.trace ty b).hold = s.hold := by
  unfold Chip.trace; simp only; split <;> rfl
@[simp] theorem Chip.trace_vlog (s : Chip) (ty : Nat) (b : List Byte) : (s.trace ty b).vlog = s.vlog := by
  unfold Chip.trace; simp only; split <;> rfl
@[simp] theorem Chip.trace_raised (s : Chip) (ty : Nat) (b : List Byte) : (s.trace ty b).raised = s.raised := by
  unfold Chip.trace; simp only; split <;> rfl
@[simp] theorem Chip.trace_links (s : Chip) (ty : Nat) (b : List Byte) : (s.trace ty b).links = s.links := by
  unfold Chip.trace; simp only; split <;> rfl
@[simp] theorem Chip.trace_ts (s : Chip) (ty : Nat) (b : List Byte) : (s.trace ty b).ts = s.ts := by
  unfold Chip.trace; simp only; split <;> rfl
@[simp] theorem Chip.trace_flood (s : Chip) (ty : Nat) (b : List Byte) : (s.trace ty b).flood = s.flood := by
  unfold Chip.trace; simp only; split <;> rfl
@[simp] theorem Chip.trace_en (s : Chip) (ty : Nat) (b : List Byte) : (s.trace ty b).en = s.en := by
  unfold Chip.trace; simp only; split <;> rfl
@[simp] theorem Chip.trace_flt (s : Chip) (ty : Nat) (b : List Byte) : (s.trace ty b).flt = s.flt := by
  unfold Chip.trace; simp only; split <;> rfl
@[simp] theorem Chip.trace_snp (s : Chip) (ty : Nat) (b : List Byte) : (s.trace ty b).snp = s.snp := by
  unfold Chip.trace; simp only; split <;> rfl
@[simp] theorem Chip.trace_job (s : Chip) (ty : Nat) (b : List Byte) : (s.trace ty b).job = s.job := by
  unfold Chip.trace; simp only; split <;> rfl
@[simp] theorem Chip.trace_vcf (s : Chip) (ty : Nat) (b : List Byte) : (s.trace ty b).vcf = s.vcf := by
  unfold Chip.trace; simp only; split <;> rfl
@[simp] theorem Chip.trace_sec (s : Chip) (ty : Nat) (b : List Byte) : (s.trace ty b).sec = s.sec := by
  unfold Chip.trace; simp only; split <;> rfl
@[simp] theorem Chip.trace_outs (s : Chip) (ty : Nat) (b : List Byte) : (s.trace ty b).outs = s.outs := by
  unfold Chip.trace; simp only; split <;> rfl
@[simp] theorem Chip.trace_power (s : Chip) (ty : Nat) (b : List Byte) : (s.trace ty b).pins.power = s.pins.power := by
  unfold Chip.trace; simp only; split <;> rfl

@[simp] theorem Core.setReg_store (c : Core) (a v : Nat) : (c.setReg a v).store = c.store := rfl
@[simp] theorem Core.setReg_seq (c : Core) (a v : Nat) : (c.setReg a v).seq = c.seq := rfl
@[simp] theorem Core.setReg_fe (c : Core) (a v : Nat) : (c.setReg a v).fe = c.fe := rfl
@[simp] theorem Core.setReg_be (c : Core) (a v : Nat) : (c.setReg a v).be = c.be := rfl
@[simp] theorem Core.setReg_q (c : Core) (a v : Nat) : (c.setReg a v).q = c.q := rfl
@[simp] theorem Core.setReg_ops (c : Core) (a v : Nat) : (c.setReg a v).ops = c.ops := rfl
@[simp] theorem Core.setReg_vuQ (c : Core) (a v : Nat) : (c.setReg a v).vuQ = c.vuQ := rfl
@[simp] theorem Core.setReg_vuX (c : Core) (a v : Nat) : (c.setReg a v).vuX = c.vuX := rfl
@[simp] theorem Core.setReg_ku (c : Core) (a v : Nat) : (c.setReg a v).ku = c.ku := rfl
@[simp] theorem Core.setReg_sel (c : Core) (a v : Nat) : (c.setReg a v).sel = c.sel := rfl
@[simp] theorem Core.setReg_kerf (c : Core) (a v : Nat) : (c.setReg a v).kerf = c.kerf := rfl
@[simp] theorem Core.setReg_chains (c : Core) (a v : Nat) : (c.setReg a v).chains = c.chains := rfl
@[simp] theorem Core.setReg_attempts (c : Core) (a v : Nat) : (c.setReg a v).attempts = c.attempts := rfl
@[simp] theorem Core.setReg_tallies (c : Core) (a v : Nat) : (c.setReg a v).tallies = c.tallies := rfl
@[simp] theorem Core.setReg_unchk (c : Core) (a v : Nat) : (c.setReg a v).unchk = c.unchk := rfl
@[simp] theorem Core.setReg_forcedAt (c : Core) (a v : Nat) : (c.setReg a v).forcedAt = c.forcedAt := rfl
@[simp] theorem Core.setReg_vrHeld (c : Core) (a v : Nat) : (c.setReg a v).vrHeld = c.vrHeld := rfl
@[simp] theorem Core.setReg_vrNew (c : Core) (a v : Nat) : (c.setReg a v).vrNew = c.vrNew := rfl
@[simp] theorem Core.setReg_kverd (c : Core) (a v : Nat) : (c.setReg a v).kverd = c.kverd := rfl
@[simp] theorem Core.setReg_fwd (c : Core) (a v : Nat) : (c.setReg a v).fwd = c.fwd := rfl
@[simp] theorem Core.setReg_bwd (c : Core) (a v : Nat) : (c.setReg a v).bwd = c.bwd := rfl
@[simp] theorem Core.setReg_blocks (c : Core) (a v : Nat) : (c.setReg a v).blocks = c.blocks := rfl
@[simp] theorem Core.setReg_portUntil (c : Core) (a v : Nat) : (c.setReg a v).portUntil = c.portUntil := rfl
@[simp] theorem Core.setReg_portBwd (c : Core) (a v : Nat) : (c.setReg a v).portBwd = c.portBwd := rfl
@[simp] theorem Core.setReg_fwdElig (c : Core) (a v : Nat) : (c.setReg a v).fwdElig = c.fwdElig := rfl
@[simp] theorem Core.setReg_sctCfg (c : Core) (a v : Nat) : (c.setReg a v).sctCfg = c.sctCfg := rfl
@[simp] theorem Core.setReg_sctScale (c : Core) (a v : Nat) : (c.setReg a v).sctScale = c.sctScale := rfl
@[simp] theorem Core.setReg_jit (c : Core) (a v : Nat) : (c.setReg a v).jit = c.jit := rfl
@[simp] theorem Core.setReg_shardGot (c : Core) (a v : Nat) : (c.setReg a v).shardGot = c.shardGot := rfl
@[simp] theorem Core.setReg_jitWait (c : Core) (a v : Nat) : (c.setReg a v).jitWait = c.jitWait := rfl
@[simp] theorem Core.setReg_bndWait (c : Core) (a v : Nat) : (c.setReg a v).bndWait = c.bndWait := rfl
@[simp] theorem Core.setReg_sctSeen (c : Core) (a v : Nat) : (c.setReg a v).sctSeen = c.sctSeen := rfl
@[simp] theorem Core.setReg_rsHeld (c : Core) (a v : Nat) : (c.setReg a v).rsHeld = c.rsHeld := rfl
@[simp] theorem Core.setReg_grants (c : Core) (a v : Nat) : (c.setReg a v).grants = c.grants := rfl
@[simp] theorem Core.setReg_nextHandle (c : Core) (a v : Nat) : (c.setReg a v).nextHandle = c.nextHandle := rfl
@[simp] theorem Core.setReg_pairs (c : Core) (a v : Nat) : (c.setReg a v).pairs = c.pairs := rfl
@[simp] theorem Core.setReg_owed (c : Core) (a v : Nat) : (c.setReg a v).owed = c.owed := rfl
@[simp] theorem Core.setReg_bar (c : Core) (a v : Nat) : (c.setReg a v).bar = c.bar := rfl
@[simp] theorem Core.setReg_stash (c : Core) (a v : Nat) : (c.setReg a v).stash = c.stash := rfl
@[simp] theorem Core.setReg_nseq (c : Core) (a v : Nat) : (c.setReg a v).nseq = c.nseq := rfl
@[simp] theorem Core.setReg_step (c : Core) (a v : Nat) : (c.setReg a v).step = c.step := rfl
@[simp] theorem Core.setReg_good (c : Core) (a v : Nat) : (c.setReg a v).good = c.good := rfl
@[simp] theorem Core.setReg_fenced (c : Core) (a v : Nat) : (c.setReg a v).fenced = c.fenced := rfl
@[simp] theorem Core.setReg_cyc (c : Core) (a v : Nat) : (c.setReg a v).cyc = c.cyc := rfl
@[simp] theorem Core.setReg_progAt (c : Core) (a v : Nat) : (c.setReg a v).progAt = c.progAt := rfl
@[simp] theorem Core.setReg_progStopped (c : Core) (a v : Nat) : (c.setReg a v).progStopped = c.progStopped := rfl
@[simp] theorem Core.setReg_raised (c : Core) (a v : Nat) : (c.setReg a v).raised = c.raised := rfl
@[simp] theorem Core.setReg_out (c : Core) (a v : Nat) : (c.setReg a v).out = c.out := rfl
@[simp] theorem Core.setReg_sys (c : Core) (a v : Nat) : (c.setReg a v).sys = c.sys := rfl
@[simp] theorem Core.setReg_kerfAt (c : Core) (a v : Nat) : (c.setReg a v).kerfAt = c.kerfAt := rfl
@[simp] theorem Core.setReg_bufWait (c : Core) (a v : Nat) : (c.setReg a v).bufWait = c.bufWait := rfl
@[simp] theorem Core.setReg_prefAt (c : Core) (a v : Nat) : (c.setReg a v).prefAt = c.prefAt := rfl
@[simp] theorem Core.setReg_shardMax (c : Core) (a v : Nat) : (c.setReg a v).shardMax = c.shardMax := rfl
@[simp] theorem Core.setReg_scaleDue (c : Core) (a v : Nat) : (c.setReg a v).scaleDue = c.scaleDue := rfl
@[simp] theorem Core.setReg_lateMax (c : Core) (a v : Nat) : (c.setReg a v).lateMax = c.lateMax := rfl
@[simp] theorem Core.setReg_amaxRep (c : Core) (a v : Nat) : (c.setReg a v).amaxRep = c.amaxRep := rfl
@[simp] theorem Core.setReg_loose (c : Core) (a v : Nat) : (c.setReg a v).loose = c.loose := rfl
@[simp] theorem Core.setReg_ev (c : Core) (a v : Nat) : (c.setReg a v).ev = c.ev := rfl
@[simp] theorem Core.setReg_upset (c : Core) (a v : Nat) : (c.setReg a v).upset = c.upset := rfl
@[simp] theorem Core.setField_store (c : Core) (a lo n v : Nat) : (c.setField a lo n v).store = c.store := rfl
@[simp] theorem Core.setField_seq (c : Core) (a lo n v : Nat) : (c.setField a lo n v).seq = c.seq := rfl
@[simp] theorem Core.setField_fe (c : Core) (a lo n v : Nat) : (c.setField a lo n v).fe = c.fe := rfl
@[simp] theorem Core.setField_be (c : Core) (a lo n v : Nat) : (c.setField a lo n v).be = c.be := rfl
@[simp] theorem Core.setField_q (c : Core) (a lo n v : Nat) : (c.setField a lo n v).q = c.q := rfl
@[simp] theorem Core.setField_ops (c : Core) (a lo n v : Nat) : (c.setField a lo n v).ops = c.ops := rfl
@[simp] theorem Core.setField_vuQ (c : Core) (a lo n v : Nat) : (c.setField a lo n v).vuQ = c.vuQ := rfl
@[simp] theorem Core.setField_vuX (c : Core) (a lo n v : Nat) : (c.setField a lo n v).vuX = c.vuX := rfl
@[simp] theorem Core.setField_ku (c : Core) (a lo n v : Nat) : (c.setField a lo n v).ku = c.ku := rfl
@[simp] theorem Core.setField_sel (c : Core) (a lo n v : Nat) : (c.setField a lo n v).sel = c.sel := rfl
@[simp] theorem Core.setField_kerf (c : Core) (a lo n v : Nat) : (c.setField a lo n v).kerf = c.kerf := rfl
@[simp] theorem Core.setField_chains (c : Core) (a lo n v : Nat) : (c.setField a lo n v).chains = c.chains := rfl
@[simp] theorem Core.setField_attempts (c : Core) (a lo n v : Nat) : (c.setField a lo n v).attempts = c.attempts := rfl
@[simp] theorem Core.setField_tallies (c : Core) (a lo n v : Nat) : (c.setField a lo n v).tallies = c.tallies := rfl
@[simp] theorem Core.setField_unchk (c : Core) (a lo n v : Nat) : (c.setField a lo n v).unchk = c.unchk := rfl
@[simp] theorem Core.setField_forcedAt (c : Core) (a lo n v : Nat) : (c.setField a lo n v).forcedAt = c.forcedAt := rfl
@[simp] theorem Core.setField_vrHeld (c : Core) (a lo n v : Nat) : (c.setField a lo n v).vrHeld = c.vrHeld := rfl
@[simp] theorem Core.setField_vrNew (c : Core) (a lo n v : Nat) : (c.setField a lo n v).vrNew = c.vrNew := rfl
@[simp] theorem Core.setField_kverd (c : Core) (a lo n v : Nat) : (c.setField a lo n v).kverd = c.kverd := rfl
@[simp] theorem Core.setField_fwd (c : Core) (a lo n v : Nat) : (c.setField a lo n v).fwd = c.fwd := rfl
@[simp] theorem Core.setField_bwd (c : Core) (a lo n v : Nat) : (c.setField a lo n v).bwd = c.bwd := rfl
@[simp] theorem Core.setField_blocks (c : Core) (a lo n v : Nat) : (c.setField a lo n v).blocks = c.blocks := rfl
@[simp] theorem Core.setField_portUntil (c : Core) (a lo n v : Nat) : (c.setField a lo n v).portUntil = c.portUntil := rfl
@[simp] theorem Core.setField_portBwd (c : Core) (a lo n v : Nat) : (c.setField a lo n v).portBwd = c.portBwd := rfl
@[simp] theorem Core.setField_fwdElig (c : Core) (a lo n v : Nat) : (c.setField a lo n v).fwdElig = c.fwdElig := rfl
@[simp] theorem Core.setField_sctCfg (c : Core) (a lo n v : Nat) : (c.setField a lo n v).sctCfg = c.sctCfg := rfl
@[simp] theorem Core.setField_sctScale (c : Core) (a lo n v : Nat) : (c.setField a lo n v).sctScale = c.sctScale := rfl
@[simp] theorem Core.setField_jit (c : Core) (a lo n v : Nat) : (c.setField a lo n v).jit = c.jit := rfl
@[simp] theorem Core.setField_shardGot (c : Core) (a lo n v : Nat) : (c.setField a lo n v).shardGot = c.shardGot := rfl
@[simp] theorem Core.setField_jitWait (c : Core) (a lo n v : Nat) : (c.setField a lo n v).jitWait = c.jitWait := rfl
@[simp] theorem Core.setField_bndWait (c : Core) (a lo n v : Nat) : (c.setField a lo n v).bndWait = c.bndWait := rfl
@[simp] theorem Core.setField_sctSeen (c : Core) (a lo n v : Nat) : (c.setField a lo n v).sctSeen = c.sctSeen := rfl
@[simp] theorem Core.setField_rsHeld (c : Core) (a lo n v : Nat) : (c.setField a lo n v).rsHeld = c.rsHeld := rfl
@[simp] theorem Core.setField_grants (c : Core) (a lo n v : Nat) : (c.setField a lo n v).grants = c.grants := rfl
@[simp] theorem Core.setField_nextHandle (c : Core) (a lo n v : Nat) : (c.setField a lo n v).nextHandle = c.nextHandle := rfl
@[simp] theorem Core.setField_pairs (c : Core) (a lo n v : Nat) : (c.setField a lo n v).pairs = c.pairs := rfl
@[simp] theorem Core.setField_owed (c : Core) (a lo n v : Nat) : (c.setField a lo n v).owed = c.owed := rfl
@[simp] theorem Core.setField_bar (c : Core) (a lo n v : Nat) : (c.setField a lo n v).bar = c.bar := rfl
@[simp] theorem Core.setField_stash (c : Core) (a lo n v : Nat) : (c.setField a lo n v).stash = c.stash := rfl
@[simp] theorem Core.setField_nseq (c : Core) (a lo n v : Nat) : (c.setField a lo n v).nseq = c.nseq := rfl
@[simp] theorem Core.setField_step (c : Core) (a lo n v : Nat) : (c.setField a lo n v).step = c.step := rfl
@[simp] theorem Core.setField_good (c : Core) (a lo n v : Nat) : (c.setField a lo n v).good = c.good := rfl
@[simp] theorem Core.setField_fenced (c : Core) (a lo n v : Nat) : (c.setField a lo n v).fenced = c.fenced := rfl
@[simp] theorem Core.setField_cyc (c : Core) (a lo n v : Nat) : (c.setField a lo n v).cyc = c.cyc := rfl
@[simp] theorem Core.setField_progAt (c : Core) (a lo n v : Nat) : (c.setField a lo n v).progAt = c.progAt := rfl
@[simp] theorem Core.setField_progStopped (c : Core) (a lo n v : Nat) : (c.setField a lo n v).progStopped = c.progStopped := rfl
@[simp] theorem Core.setField_raised (c : Core) (a lo n v : Nat) : (c.setField a lo n v).raised = c.raised := rfl
@[simp] theorem Core.setField_out (c : Core) (a lo n v : Nat) : (c.setField a lo n v).out = c.out := rfl
@[simp] theorem Core.setField_sys (c : Core) (a lo n v : Nat) : (c.setField a lo n v).sys = c.sys := rfl
@[simp] theorem Core.setField_kerfAt (c : Core) (a lo n v : Nat) : (c.setField a lo n v).kerfAt = c.kerfAt := rfl
@[simp] theorem Core.setField_bufWait (c : Core) (a lo n v : Nat) : (c.setField a lo n v).bufWait = c.bufWait := rfl
@[simp] theorem Core.setField_prefAt (c : Core) (a lo n v : Nat) : (c.setField a lo n v).prefAt = c.prefAt := rfl
@[simp] theorem Core.setField_shardMax (c : Core) (a lo n v : Nat) : (c.setField a lo n v).shardMax = c.shardMax := rfl
@[simp] theorem Core.setField_scaleDue (c : Core) (a lo n v : Nat) : (c.setField a lo n v).scaleDue = c.scaleDue := rfl
@[simp] theorem Core.setField_lateMax (c : Core) (a lo n v : Nat) : (c.setField a lo n v).lateMax = c.lateMax := rfl
@[simp] theorem Core.setField_amaxRep (c : Core) (a lo n v : Nat) : (c.setField a lo n v).amaxRep = c.amaxRep := rfl
@[simp] theorem Core.setField_loose (c : Core) (a lo n v : Nat) : (c.setField a lo n v).loose = c.loose := rfl
@[simp] theorem Core.setField_ev (c : Core) (a lo n v : Nat) : (c.setField a lo n v).ev = c.ev := rfl
@[simp] theorem Core.setField_upset (c : Core) (a lo n v : Nat) : (c.setField a lo n v).upset = c.upset := rfl
@[simp] theorem Core.bump_store (c : Core) (a n : Nat) : (c.bump a n).store = c.store := rfl
@[simp] theorem Core.bump_seq (c : Core) (a n : Nat) : (c.bump a n).seq = c.seq := rfl
@[simp] theorem Core.bump_fe (c : Core) (a n : Nat) : (c.bump a n).fe = c.fe := rfl
@[simp] theorem Core.bump_be (c : Core) (a n : Nat) : (c.bump a n).be = c.be := rfl
@[simp] theorem Core.bump_q (c : Core) (a n : Nat) : (c.bump a n).q = c.q := rfl
@[simp] theorem Core.bump_ops (c : Core) (a n : Nat) : (c.bump a n).ops = c.ops := rfl
@[simp] theorem Core.bump_vuQ (c : Core) (a n : Nat) : (c.bump a n).vuQ = c.vuQ := rfl
@[simp] theorem Core.bump_vuX (c : Core) (a n : Nat) : (c.bump a n).vuX = c.vuX := rfl
@[simp] theorem Core.bump_ku (c : Core) (a n : Nat) : (c.bump a n).ku = c.ku := rfl
@[simp] theorem Core.bump_sel (c : Core) (a n : Nat) : (c.bump a n).sel = c.sel := rfl
@[simp] theorem Core.bump_kerf (c : Core) (a n : Nat) : (c.bump a n).kerf = c.kerf := rfl
@[simp] theorem Core.bump_chains (c : Core) (a n : Nat) : (c.bump a n).chains = c.chains := rfl
@[simp] theorem Core.bump_attempts (c : Core) (a n : Nat) : (c.bump a n).attempts = c.attempts := rfl
@[simp] theorem Core.bump_tallies (c : Core) (a n : Nat) : (c.bump a n).tallies = c.tallies := rfl
@[simp] theorem Core.bump_unchk (c : Core) (a n : Nat) : (c.bump a n).unchk = c.unchk := rfl
@[simp] theorem Core.bump_forcedAt (c : Core) (a n : Nat) : (c.bump a n).forcedAt = c.forcedAt := rfl
@[simp] theorem Core.bump_vrHeld (c : Core) (a n : Nat) : (c.bump a n).vrHeld = c.vrHeld := rfl
@[simp] theorem Core.bump_vrNew (c : Core) (a n : Nat) : (c.bump a n).vrNew = c.vrNew := rfl
@[simp] theorem Core.bump_kverd (c : Core) (a n : Nat) : (c.bump a n).kverd = c.kverd := rfl
@[simp] theorem Core.bump_fwd (c : Core) (a n : Nat) : (c.bump a n).fwd = c.fwd := rfl
@[simp] theorem Core.bump_bwd (c : Core) (a n : Nat) : (c.bump a n).bwd = c.bwd := rfl
@[simp] theorem Core.bump_blocks (c : Core) (a n : Nat) : (c.bump a n).blocks = c.blocks := rfl
@[simp] theorem Core.bump_portUntil (c : Core) (a n : Nat) : (c.bump a n).portUntil = c.portUntil := rfl
@[simp] theorem Core.bump_portBwd (c : Core) (a n : Nat) : (c.bump a n).portBwd = c.portBwd := rfl
@[simp] theorem Core.bump_fwdElig (c : Core) (a n : Nat) : (c.bump a n).fwdElig = c.fwdElig := rfl
@[simp] theorem Core.bump_sctCfg (c : Core) (a n : Nat) : (c.bump a n).sctCfg = c.sctCfg := rfl
@[simp] theorem Core.bump_sctScale (c : Core) (a n : Nat) : (c.bump a n).sctScale = c.sctScale := rfl
@[simp] theorem Core.bump_jit (c : Core) (a n : Nat) : (c.bump a n).jit = c.jit := rfl
@[simp] theorem Core.bump_shardGot (c : Core) (a n : Nat) : (c.bump a n).shardGot = c.shardGot := rfl
@[simp] theorem Core.bump_jitWait (c : Core) (a n : Nat) : (c.bump a n).jitWait = c.jitWait := rfl
@[simp] theorem Core.bump_bndWait (c : Core) (a n : Nat) : (c.bump a n).bndWait = c.bndWait := rfl
@[simp] theorem Core.bump_sctSeen (c : Core) (a n : Nat) : (c.bump a n).sctSeen = c.sctSeen := rfl
@[simp] theorem Core.bump_rsHeld (c : Core) (a n : Nat) : (c.bump a n).rsHeld = c.rsHeld := rfl
@[simp] theorem Core.bump_grants (c : Core) (a n : Nat) : (c.bump a n).grants = c.grants := rfl
@[simp] theorem Core.bump_nextHandle (c : Core) (a n : Nat) : (c.bump a n).nextHandle = c.nextHandle := rfl
@[simp] theorem Core.bump_pairs (c : Core) (a n : Nat) : (c.bump a n).pairs = c.pairs := rfl
@[simp] theorem Core.bump_owed (c : Core) (a n : Nat) : (c.bump a n).owed = c.owed := rfl
@[simp] theorem Core.bump_bar (c : Core) (a n : Nat) : (c.bump a n).bar = c.bar := rfl
@[simp] theorem Core.bump_stash (c : Core) (a n : Nat) : (c.bump a n).stash = c.stash := rfl
@[simp] theorem Core.bump_nseq (c : Core) (a n : Nat) : (c.bump a n).nseq = c.nseq := rfl
@[simp] theorem Core.bump_step (c : Core) (a n : Nat) : (c.bump a n).step = c.step := rfl
@[simp] theorem Core.bump_good (c : Core) (a n : Nat) : (c.bump a n).good = c.good := rfl
@[simp] theorem Core.bump_fenced (c : Core) (a n : Nat) : (c.bump a n).fenced = c.fenced := rfl
@[simp] theorem Core.bump_cyc (c : Core) (a n : Nat) : (c.bump a n).cyc = c.cyc := rfl
@[simp] theorem Core.bump_progAt (c : Core) (a n : Nat) : (c.bump a n).progAt = c.progAt := rfl
@[simp] theorem Core.bump_progStopped (c : Core) (a n : Nat) : (c.bump a n).progStopped = c.progStopped := rfl
@[simp] theorem Core.bump_raised (c : Core) (a n : Nat) : (c.bump a n).raised = c.raised := rfl
@[simp] theorem Core.bump_out (c : Core) (a n : Nat) : (c.bump a n).out = c.out := rfl
@[simp] theorem Core.bump_sys (c : Core) (a n : Nat) : (c.bump a n).sys = c.sys := rfl
@[simp] theorem Core.bump_kerfAt (c : Core) (a n : Nat) : (c.bump a n).kerfAt = c.kerfAt := rfl
@[simp] theorem Core.bump_bufWait (c : Core) (a n : Nat) : (c.bump a n).bufWait = c.bufWait := rfl
@[simp] theorem Core.bump_prefAt (c : Core) (a n : Nat) : (c.bump a n).prefAt = c.prefAt := rfl
@[simp] theorem Core.bump_shardMax (c : Core) (a n : Nat) : (c.bump a n).shardMax = c.shardMax := rfl
@[simp] theorem Core.bump_scaleDue (c : Core) (a n : Nat) : (c.bump a n).scaleDue = c.scaleDue := rfl
@[simp] theorem Core.bump_lateMax (c : Core) (a n : Nat) : (c.bump a n).lateMax = c.lateMax := rfl
@[simp] theorem Core.bump_amaxRep (c : Core) (a n : Nat) : (c.bump a n).amaxRep = c.amaxRep := rfl
@[simp] theorem Core.bump_loose (c : Core) (a n : Nat) : (c.bump a n).loose = c.loose := rfl
@[simp] theorem Core.bump_ev (c : Core) (a n : Nat) : (c.bump a n).ev = c.ev := rfl
@[simp] theorem Core.bump_upset (c : Core) (a n : Nat) : (c.bump a n).upset = c.upset := rfl
@[simp] theorem Core.setQend_regs (c : Core) (n : Nat) (x : QEnd) : (c.setQend n x).regs = c.regs := rfl
@[simp] theorem Core.setQend_store (c : Core) (n : Nat) (x : QEnd) : (c.setQend n x).store = c.store := rfl
@[simp] theorem Core.setQend_seq (c : Core) (n : Nat) (x : QEnd) : (c.setQend n x).seq = c.seq := rfl
@[simp] theorem Core.setQend_fe (c : Core) (n : Nat) (x : QEnd) : (c.setQend n x).fe = c.fe := rfl
@[simp] theorem Core.setQend_be (c : Core) (n : Nat) (x : QEnd) : (c.setQend n x).be = c.be := rfl
@[simp] theorem Core.setQend_ops (c : Core) (n : Nat) (x : QEnd) : (c.setQend n x).ops = c.ops := rfl
@[simp] theorem Core.setQend_vuQ (c : Core) (n : Nat) (x : QEnd) : (c.setQend n x).vuQ = c.vuQ := rfl
@[simp] theorem Core.setQend_vuX (c : Core) (n : Nat) (x : QEnd) : (c.setQend n x).vuX = c.vuX := rfl
@[simp] theorem Core.setQend_ku (c : Core) (n : Nat) (x : QEnd) : (c.setQend n x).ku = c.ku := rfl
@[simp] theorem Core.setQend_sel (c : Core) (n : Nat) (x : QEnd) : (c.setQend n x).sel = c.sel := rfl
@[simp] theorem Core.setQend_kerf (c : Core) (n : Nat) (x : QEnd) : (c.setQend n x).kerf = c.kerf := rfl
@[simp] theorem Core.setQend_chains (c : Core) (n : Nat) (x : QEnd) : (c.setQend n x).chains = c.chains := rfl
@[simp] theorem Core.setQend_attempts (c : Core) (n : Nat) (x : QEnd) : (c.setQend n x).attempts = c.attempts := rfl
@[simp] theorem Core.setQend_tallies (c : Core) (n : Nat) (x : QEnd) : (c.setQend n x).tallies = c.tallies := rfl
@[simp] theorem Core.setQend_unchk (c : Core) (n : Nat) (x : QEnd) : (c.setQend n x).unchk = c.unchk := rfl
@[simp] theorem Core.setQend_forcedAt (c : Core) (n : Nat) (x : QEnd) : (c.setQend n x).forcedAt = c.forcedAt := rfl
@[simp] theorem Core.setQend_vrHeld (c : Core) (n : Nat) (x : QEnd) : (c.setQend n x).vrHeld = c.vrHeld := rfl
@[simp] theorem Core.setQend_vrNew (c : Core) (n : Nat) (x : QEnd) : (c.setQend n x).vrNew = c.vrNew := rfl
@[simp] theorem Core.setQend_kverd (c : Core) (n : Nat) (x : QEnd) : (c.setQend n x).kverd = c.kverd := rfl
@[simp] theorem Core.setQend_fwd (c : Core) (n : Nat) (x : QEnd) : (c.setQend n x).fwd = c.fwd := rfl
@[simp] theorem Core.setQend_bwd (c : Core) (n : Nat) (x : QEnd) : (c.setQend n x).bwd = c.bwd := rfl
@[simp] theorem Core.setQend_blocks (c : Core) (n : Nat) (x : QEnd) : (c.setQend n x).blocks = c.blocks := rfl
@[simp] theorem Core.setQend_portUntil (c : Core) (n : Nat) (x : QEnd) : (c.setQend n x).portUntil = c.portUntil := rfl
@[simp] theorem Core.setQend_portBwd (c : Core) (n : Nat) (x : QEnd) : (c.setQend n x).portBwd = c.portBwd := rfl
@[simp] theorem Core.setQend_fwdElig (c : Core) (n : Nat) (x : QEnd) : (c.setQend n x).fwdElig = c.fwdElig := rfl
@[simp] theorem Core.setQend_sctCfg (c : Core) (n : Nat) (x : QEnd) : (c.setQend n x).sctCfg = c.sctCfg := rfl
@[simp] theorem Core.setQend_sctScale (c : Core) (n : Nat) (x : QEnd) : (c.setQend n x).sctScale = c.sctScale := rfl
@[simp] theorem Core.setQend_jit (c : Core) (n : Nat) (x : QEnd) : (c.setQend n x).jit = c.jit := rfl
@[simp] theorem Core.setQend_shardGot (c : Core) (n : Nat) (x : QEnd) : (c.setQend n x).shardGot = c.shardGot := rfl
@[simp] theorem Core.setQend_jitWait (c : Core) (n : Nat) (x : QEnd) : (c.setQend n x).jitWait = c.jitWait := rfl
@[simp] theorem Core.setQend_bndWait (c : Core) (n : Nat) (x : QEnd) : (c.setQend n x).bndWait = c.bndWait := rfl
@[simp] theorem Core.setQend_sctSeen (c : Core) (n : Nat) (x : QEnd) : (c.setQend n x).sctSeen = c.sctSeen := rfl
@[simp] theorem Core.setQend_rsHeld (c : Core) (n : Nat) (x : QEnd) : (c.setQend n x).rsHeld = c.rsHeld := rfl
@[simp] theorem Core.setQend_grants (c : Core) (n : Nat) (x : QEnd) : (c.setQend n x).grants = c.grants := rfl
@[simp] theorem Core.setQend_nextHandle (c : Core) (n : Nat) (x : QEnd) : (c.setQend n x).nextHandle = c.nextHandle := rfl
@[simp] theorem Core.setQend_pairs (c : Core) (n : Nat) (x : QEnd) : (c.setQend n x).pairs = c.pairs := rfl
@[simp] theorem Core.setQend_owed (c : Core) (n : Nat) (x : QEnd) : (c.setQend n x).owed = c.owed := rfl
@[simp] theorem Core.setQend_bar (c : Core) (n : Nat) (x : QEnd) : (c.setQend n x).bar = c.bar := rfl
@[simp] theorem Core.setQend_stash (c : Core) (n : Nat) (x : QEnd) : (c.setQend n x).stash = c.stash := rfl
@[simp] theorem Core.setQend_nseq (c : Core) (n : Nat) (x : QEnd) : (c.setQend n x).nseq = c.nseq := rfl
@[simp] theorem Core.setQend_step (c : Core) (n : Nat) (x : QEnd) : (c.setQend n x).step = c.step := rfl
@[simp] theorem Core.setQend_good (c : Core) (n : Nat) (x : QEnd) : (c.setQend n x).good = c.good := rfl
@[simp] theorem Core.setQend_fenced (c : Core) (n : Nat) (x : QEnd) : (c.setQend n x).fenced = c.fenced := rfl
@[simp] theorem Core.setQend_cyc (c : Core) (n : Nat) (x : QEnd) : (c.setQend n x).cyc = c.cyc := rfl
@[simp] theorem Core.setQend_progAt (c : Core) (n : Nat) (x : QEnd) : (c.setQend n x).progAt = c.progAt := rfl
@[simp] theorem Core.setQend_progStopped (c : Core) (n : Nat) (x : QEnd) : (c.setQend n x).progStopped = c.progStopped := rfl
@[simp] theorem Core.setQend_raised (c : Core) (n : Nat) (x : QEnd) : (c.setQend n x).raised = c.raised := rfl
@[simp] theorem Core.setQend_out (c : Core) (n : Nat) (x : QEnd) : (c.setQend n x).out = c.out := rfl
@[simp] theorem Core.setQend_sys (c : Core) (n : Nat) (x : QEnd) : (c.setQend n x).sys = c.sys := rfl
@[simp] theorem Core.setQend_kerfAt (c : Core) (n : Nat) (x : QEnd) : (c.setQend n x).kerfAt = c.kerfAt := rfl
@[simp] theorem Core.setQend_bufWait (c : Core) (n : Nat) (x : QEnd) : (c.setQend n x).bufWait = c.bufWait := rfl
@[simp] theorem Core.setQend_prefAt (c : Core) (n : Nat) (x : QEnd) : (c.setQend n x).prefAt = c.prefAt := rfl
@[simp] theorem Core.setQend_shardMax (c : Core) (n : Nat) (x : QEnd) : (c.setQend n x).shardMax = c.shardMax := rfl
@[simp] theorem Core.setQend_scaleDue (c : Core) (n : Nat) (x : QEnd) : (c.setQend n x).scaleDue = c.scaleDue := rfl
@[simp] theorem Core.setQend_lateMax (c : Core) (n : Nat) (x : QEnd) : (c.setQend n x).lateMax = c.lateMax := rfl
@[simp] theorem Core.setQend_amaxRep (c : Core) (n : Nat) (x : QEnd) : (c.setQend n x).amaxRep = c.amaxRep := rfl
@[simp] theorem Core.setQend_loose (c : Core) (n : Nat) (x : QEnd) : (c.setQend n x).loose = c.loose := rfl
@[simp] theorem Core.setQend_ev (c : Core) (n : Nat) (x : QEnd) : (c.setQend n x).ev = c.ev := rfl
@[simp] theorem Core.setQend_upset (c : Core) (n : Nat) (x : QEnd) : (c.setQend n x).upset = c.upset := rfl
@[simp] theorem Core.setChain_regs (c : Core) (n : Nat) (x : Chain) : (c.setChain n x).regs = c.regs := rfl
@[simp] theorem Core.setChain_store (c : Core) (n : Nat) (x : Chain) : (c.setChain n x).store = c.store := rfl
@[simp] theorem Core.setChain_seq (c : Core) (n : Nat) (x : Chain) : (c.setChain n x).seq = c.seq := rfl
@[simp] theorem Core.setChain_fe (c : Core) (n : Nat) (x : Chain) : (c.setChain n x).fe = c.fe := rfl
@[simp] theorem Core.setChain_be (c : Core) (n : Nat) (x : Chain) : (c.setChain n x).be = c.be := rfl
@[simp] theorem Core.setChain_q (c : Core) (n : Nat) (x : Chain) : (c.setChain n x).q = c.q := rfl
@[simp] theorem Core.setChain_ops (c : Core) (n : Nat) (x : Chain) : (c.setChain n x).ops = c.ops := rfl
@[simp] theorem Core.setChain_vuQ (c : Core) (n : Nat) (x : Chain) : (c.setChain n x).vuQ = c.vuQ := rfl
@[simp] theorem Core.setChain_vuX (c : Core) (n : Nat) (x : Chain) : (c.setChain n x).vuX = c.vuX := rfl
@[simp] theorem Core.setChain_ku (c : Core) (n : Nat) (x : Chain) : (c.setChain n x).ku = c.ku := rfl
@[simp] theorem Core.setChain_sel (c : Core) (n : Nat) (x : Chain) : (c.setChain n x).sel = c.sel := rfl
@[simp] theorem Core.setChain_kerf (c : Core) (n : Nat) (x : Chain) : (c.setChain n x).kerf = c.kerf := rfl
@[simp] theorem Core.setChain_attempts (c : Core) (n : Nat) (x : Chain) : (c.setChain n x).attempts = c.attempts := rfl
@[simp] theorem Core.setChain_tallies (c : Core) (n : Nat) (x : Chain) : (c.setChain n x).tallies = c.tallies := rfl
@[simp] theorem Core.setChain_unchk (c : Core) (n : Nat) (x : Chain) : (c.setChain n x).unchk = c.unchk := rfl
@[simp] theorem Core.setChain_forcedAt (c : Core) (n : Nat) (x : Chain) : (c.setChain n x).forcedAt = c.forcedAt := rfl
@[simp] theorem Core.setChain_vrHeld (c : Core) (n : Nat) (x : Chain) : (c.setChain n x).vrHeld = c.vrHeld := rfl
@[simp] theorem Core.setChain_vrNew (c : Core) (n : Nat) (x : Chain) : (c.setChain n x).vrNew = c.vrNew := rfl
@[simp] theorem Core.setChain_kverd (c : Core) (n : Nat) (x : Chain) : (c.setChain n x).kverd = c.kverd := rfl
@[simp] theorem Core.setChain_fwd (c : Core) (n : Nat) (x : Chain) : (c.setChain n x).fwd = c.fwd := rfl
@[simp] theorem Core.setChain_bwd (c : Core) (n : Nat) (x : Chain) : (c.setChain n x).bwd = c.bwd := rfl
@[simp] theorem Core.setChain_blocks (c : Core) (n : Nat) (x : Chain) : (c.setChain n x).blocks = c.blocks := rfl
@[simp] theorem Core.setChain_portUntil (c : Core) (n : Nat) (x : Chain) : (c.setChain n x).portUntil = c.portUntil := rfl
@[simp] theorem Core.setChain_portBwd (c : Core) (n : Nat) (x : Chain) : (c.setChain n x).portBwd = c.portBwd := rfl
@[simp] theorem Core.setChain_fwdElig (c : Core) (n : Nat) (x : Chain) : (c.setChain n x).fwdElig = c.fwdElig := rfl
@[simp] theorem Core.setChain_sctCfg (c : Core) (n : Nat) (x : Chain) : (c.setChain n x).sctCfg = c.sctCfg := rfl
@[simp] theorem Core.setChain_sctScale (c : Core) (n : Nat) (x : Chain) : (c.setChain n x).sctScale = c.sctScale := rfl
@[simp] theorem Core.setChain_jit (c : Core) (n : Nat) (x : Chain) : (c.setChain n x).jit = c.jit := rfl
@[simp] theorem Core.setChain_shardGot (c : Core) (n : Nat) (x : Chain) : (c.setChain n x).shardGot = c.shardGot := rfl
@[simp] theorem Core.setChain_jitWait (c : Core) (n : Nat) (x : Chain) : (c.setChain n x).jitWait = c.jitWait := rfl
@[simp] theorem Core.setChain_bndWait (c : Core) (n : Nat) (x : Chain) : (c.setChain n x).bndWait = c.bndWait := rfl
@[simp] theorem Core.setChain_sctSeen (c : Core) (n : Nat) (x : Chain) : (c.setChain n x).sctSeen = c.sctSeen := rfl
@[simp] theorem Core.setChain_rsHeld (c : Core) (n : Nat) (x : Chain) : (c.setChain n x).rsHeld = c.rsHeld := rfl
@[simp] theorem Core.setChain_grants (c : Core) (n : Nat) (x : Chain) : (c.setChain n x).grants = c.grants := rfl
@[simp] theorem Core.setChain_nextHandle (c : Core) (n : Nat) (x : Chain) : (c.setChain n x).nextHandle = c.nextHandle := rfl
@[simp] theorem Core.setChain_pairs (c : Core) (n : Nat) (x : Chain) : (c.setChain n x).pairs = c.pairs := rfl
@[simp] theorem Core.setChain_owed (c : Core) (n : Nat) (x : Chain) : (c.setChain n x).owed = c.owed := rfl
@[simp] theorem Core.setChain_bar (c : Core) (n : Nat) (x : Chain) : (c.setChain n x).bar = c.bar := rfl
@[simp] theorem Core.setChain_stash (c : Core) (n : Nat) (x : Chain) : (c.setChain n x).stash = c.stash := rfl
@[simp] theorem Core.setChain_nseq (c : Core) (n : Nat) (x : Chain) : (c.setChain n x).nseq = c.nseq := rfl
@[simp] theorem Core.setChain_step (c : Core) (n : Nat) (x : Chain) : (c.setChain n x).step = c.step := rfl
@[simp] theorem Core.setChain_good (c : Core) (n : Nat) (x : Chain) : (c.setChain n x).good = c.good := rfl
@[simp] theorem Core.setChain_fenced (c : Core) (n : Nat) (x : Chain) : (c.setChain n x).fenced = c.fenced := rfl
@[simp] theorem Core.setChain_cyc (c : Core) (n : Nat) (x : Chain) : (c.setChain n x).cyc = c.cyc := rfl
@[simp] theorem Core.setChain_progAt (c : Core) (n : Nat) (x : Chain) : (c.setChain n x).progAt = c.progAt := rfl
@[simp] theorem Core.setChain_progStopped (c : Core) (n : Nat) (x : Chain) : (c.setChain n x).progStopped = c.progStopped := rfl
@[simp] theorem Core.setChain_raised (c : Core) (n : Nat) (x : Chain) : (c.setChain n x).raised = c.raised := rfl
@[simp] theorem Core.setChain_out (c : Core) (n : Nat) (x : Chain) : (c.setChain n x).out = c.out := rfl
@[simp] theorem Core.setChain_sys (c : Core) (n : Nat) (x : Chain) : (c.setChain n x).sys = c.sys := rfl
@[simp] theorem Core.setChain_kerfAt (c : Core) (n : Nat) (x : Chain) : (c.setChain n x).kerfAt = c.kerfAt := rfl
@[simp] theorem Core.setChain_bufWait (c : Core) (n : Nat) (x : Chain) : (c.setChain n x).bufWait = c.bufWait := rfl
@[simp] theorem Core.setChain_prefAt (c : Core) (n : Nat) (x : Chain) : (c.setChain n x).prefAt = c.prefAt := rfl
@[simp] theorem Core.setChain_shardMax (c : Core) (n : Nat) (x : Chain) : (c.setChain n x).shardMax = c.shardMax := rfl
@[simp] theorem Core.setChain_scaleDue (c : Core) (n : Nat) (x : Chain) : (c.setChain n x).scaleDue = c.scaleDue := rfl
@[simp] theorem Core.setChain_lateMax (c : Core) (n : Nat) (x : Chain) : (c.setChain n x).lateMax = c.lateMax := rfl
@[simp] theorem Core.setChain_amaxRep (c : Core) (n : Nat) (x : Chain) : (c.setChain n x).amaxRep = c.amaxRep := rfl
@[simp] theorem Core.setChain_loose (c : Core) (n : Nat) (x : Chain) : (c.setChain n x).loose = c.loose := rfl
@[simp] theorem Core.setChain_ev (c : Core) (n : Nat) (x : Chain) : (c.setChain n x).ev = c.ev := rfl
@[simp] theorem Core.setChain_upset (c : Core) (n : Nat) (x : Chain) : (c.setChain n x).upset = c.upset := rfl
@[simp] theorem Core.setBarrier_regs (c : Core) (n : Nat) (x : Barrier) : (c.setBarrier n x).regs = c.regs := rfl
@[simp] theorem Core.setBarrier_store (c : Core) (n : Nat) (x : Barrier) : (c.setBarrier n x).store = c.store := rfl
@[simp] theorem Core.setBarrier_seq (c : Core) (n : Nat) (x : Barrier) : (c.setBarrier n x).seq = c.seq := rfl
@[simp] theorem Core.setBarrier_fe (c : Core) (n : Nat) (x : Barrier) : (c.setBarrier n x).fe = c.fe := rfl
@[simp] theorem Core.setBarrier_be (c : Core) (n : Nat) (x : Barrier) : (c.setBarrier n x).be = c.be := rfl
@[simp] theorem Core.setBarrier_q (c : Core) (n : Nat) (x : Barrier) : (c.setBarrier n x).q = c.q := rfl
@[simp] theorem Core.setBarrier_ops (c : Core) (n : Nat) (x : Barrier) : (c.setBarrier n x).ops = c.ops := rfl
@[simp] theorem Core.setBarrier_vuQ (c : Core) (n : Nat) (x : Barrier) : (c.setBarrier n x).vuQ = c.vuQ := rfl
@[simp] theorem Core.setBarrier_vuX (c : Core) (n : Nat) (x : Barrier) : (c.setBarrier n x).vuX = c.vuX := rfl
@[simp] theorem Core.setBarrier_ku (c : Core) (n : Nat) (x : Barrier) : (c.setBarrier n x).ku = c.ku := rfl
@[simp] theorem Core.setBarrier_sel (c : Core) (n : Nat) (x : Barrier) : (c.setBarrier n x).sel = c.sel := rfl
@[simp] theorem Core.setBarrier_kerf (c : Core) (n : Nat) (x : Barrier) : (c.setBarrier n x).kerf = c.kerf := rfl
@[simp] theorem Core.setBarrier_chains (c : Core) (n : Nat) (x : Barrier) : (c.setBarrier n x).chains = c.chains := rfl
@[simp] theorem Core.setBarrier_attempts (c : Core) (n : Nat) (x : Barrier) : (c.setBarrier n x).attempts = c.attempts := rfl
@[simp] theorem Core.setBarrier_tallies (c : Core) (n : Nat) (x : Barrier) : (c.setBarrier n x).tallies = c.tallies := rfl
@[simp] theorem Core.setBarrier_unchk (c : Core) (n : Nat) (x : Barrier) : (c.setBarrier n x).unchk = c.unchk := rfl
@[simp] theorem Core.setBarrier_forcedAt (c : Core) (n : Nat) (x : Barrier) : (c.setBarrier n x).forcedAt = c.forcedAt := rfl
@[simp] theorem Core.setBarrier_vrHeld (c : Core) (n : Nat) (x : Barrier) : (c.setBarrier n x).vrHeld = c.vrHeld := rfl
@[simp] theorem Core.setBarrier_vrNew (c : Core) (n : Nat) (x : Barrier) : (c.setBarrier n x).vrNew = c.vrNew := rfl
@[simp] theorem Core.setBarrier_kverd (c : Core) (n : Nat) (x : Barrier) : (c.setBarrier n x).kverd = c.kverd := rfl
@[simp] theorem Core.setBarrier_fwd (c : Core) (n : Nat) (x : Barrier) : (c.setBarrier n x).fwd = c.fwd := rfl
@[simp] theorem Core.setBarrier_bwd (c : Core) (n : Nat) (x : Barrier) : (c.setBarrier n x).bwd = c.bwd := rfl
@[simp] theorem Core.setBarrier_blocks (c : Core) (n : Nat) (x : Barrier) : (c.setBarrier n x).blocks = c.blocks := rfl
@[simp] theorem Core.setBarrier_portUntil (c : Core) (n : Nat) (x : Barrier) : (c.setBarrier n x).portUntil = c.portUntil := rfl
@[simp] theorem Core.setBarrier_portBwd (c : Core) (n : Nat) (x : Barrier) : (c.setBarrier n x).portBwd = c.portBwd := rfl
@[simp] theorem Core.setBarrier_fwdElig (c : Core) (n : Nat) (x : Barrier) : (c.setBarrier n x).fwdElig = c.fwdElig := rfl
@[simp] theorem Core.setBarrier_sctCfg (c : Core) (n : Nat) (x : Barrier) : (c.setBarrier n x).sctCfg = c.sctCfg := rfl
@[simp] theorem Core.setBarrier_sctScale (c : Core) (n : Nat) (x : Barrier) : (c.setBarrier n x).sctScale = c.sctScale := rfl
@[simp] theorem Core.setBarrier_jit (c : Core) (n : Nat) (x : Barrier) : (c.setBarrier n x).jit = c.jit := rfl
@[simp] theorem Core.setBarrier_shardGot (c : Core) (n : Nat) (x : Barrier) : (c.setBarrier n x).shardGot = c.shardGot := rfl
@[simp] theorem Core.setBarrier_jitWait (c : Core) (n : Nat) (x : Barrier) : (c.setBarrier n x).jitWait = c.jitWait := rfl
@[simp] theorem Core.setBarrier_bndWait (c : Core) (n : Nat) (x : Barrier) : (c.setBarrier n x).bndWait = c.bndWait := rfl
@[simp] theorem Core.setBarrier_sctSeen (c : Core) (n : Nat) (x : Barrier) : (c.setBarrier n x).sctSeen = c.sctSeen := rfl
@[simp] theorem Core.setBarrier_rsHeld (c : Core) (n : Nat) (x : Barrier) : (c.setBarrier n x).rsHeld = c.rsHeld := rfl
@[simp] theorem Core.setBarrier_grants (c : Core) (n : Nat) (x : Barrier) : (c.setBarrier n x).grants = c.grants := rfl
@[simp] theorem Core.setBarrier_nextHandle (c : Core) (n : Nat) (x : Barrier) : (c.setBarrier n x).nextHandle = c.nextHandle := rfl
@[simp] theorem Core.setBarrier_pairs (c : Core) (n : Nat) (x : Barrier) : (c.setBarrier n x).pairs = c.pairs := rfl
@[simp] theorem Core.setBarrier_owed (c : Core) (n : Nat) (x : Barrier) : (c.setBarrier n x).owed = c.owed := rfl
@[simp] theorem Core.setBarrier_stash (c : Core) (n : Nat) (x : Barrier) : (c.setBarrier n x).stash = c.stash := rfl
@[simp] theorem Core.setBarrier_nseq (c : Core) (n : Nat) (x : Barrier) : (c.setBarrier n x).nseq = c.nseq := rfl
@[simp] theorem Core.setBarrier_step (c : Core) (n : Nat) (x : Barrier) : (c.setBarrier n x).step = c.step := rfl
@[simp] theorem Core.setBarrier_good (c : Core) (n : Nat) (x : Barrier) : (c.setBarrier n x).good = c.good := rfl
@[simp] theorem Core.setBarrier_fenced (c : Core) (n : Nat) (x : Barrier) : (c.setBarrier n x).fenced = c.fenced := rfl
@[simp] theorem Core.setBarrier_cyc (c : Core) (n : Nat) (x : Barrier) : (c.setBarrier n x).cyc = c.cyc := rfl
@[simp] theorem Core.setBarrier_progAt (c : Core) (n : Nat) (x : Barrier) : (c.setBarrier n x).progAt = c.progAt := rfl
@[simp] theorem Core.setBarrier_progStopped (c : Core) (n : Nat) (x : Barrier) : (c.setBarrier n x).progStopped = c.progStopped := rfl
@[simp] theorem Core.setBarrier_raised (c : Core) (n : Nat) (x : Barrier) : (c.setBarrier n x).raised = c.raised := rfl
@[simp] theorem Core.setBarrier_out (c : Core) (n : Nat) (x : Barrier) : (c.setBarrier n x).out = c.out := rfl
@[simp] theorem Core.setBarrier_sys (c : Core) (n : Nat) (x : Barrier) : (c.setBarrier n x).sys = c.sys := rfl
@[simp] theorem Core.setBarrier_kerfAt (c : Core) (n : Nat) (x : Barrier) : (c.setBarrier n x).kerfAt = c.kerfAt := rfl
@[simp] theorem Core.setBarrier_bufWait (c : Core) (n : Nat) (x : Barrier) : (c.setBarrier n x).bufWait = c.bufWait := rfl
@[simp] theorem Core.setBarrier_prefAt (c : Core) (n : Nat) (x : Barrier) : (c.setBarrier n x).prefAt = c.prefAt := rfl
@[simp] theorem Core.setBarrier_shardMax (c : Core) (n : Nat) (x : Barrier) : (c.setBarrier n x).shardMax = c.shardMax := rfl
@[simp] theorem Core.setBarrier_scaleDue (c : Core) (n : Nat) (x : Barrier) : (c.setBarrier n x).scaleDue = c.scaleDue := rfl
@[simp] theorem Core.setBarrier_lateMax (c : Core) (n : Nat) (x : Barrier) : (c.setBarrier n x).lateMax = c.lateMax := rfl
@[simp] theorem Core.setBarrier_amaxRep (c : Core) (n : Nat) (x : Barrier) : (c.setBarrier n x).amaxRep = c.amaxRep := rfl
@[simp] theorem Core.setBarrier_loose (c : Core) (n : Nat) (x : Barrier) : (c.setBarrier n x).loose = c.loose := rfl
@[simp] theorem Core.setBarrier_ev (c : Core) (n : Nat) (x : Barrier) : (c.setBarrier n x).ev = c.ev := rfl
@[simp] theorem Core.setBarrier_upset (c : Core) (n : Nat) (x : Barrier) : (c.setBarrier n x).upset = c.upset := rfl
@[simp] theorem Core.raise_regs (c : Core) (ev detail : Nat) : (c.raise ev detail).regs = c.regs := rfl
@[simp] theorem Core.raise_store (c : Core) (ev detail : Nat) : (c.raise ev detail).store = c.store := rfl
@[simp] theorem Core.raise_seq (c : Core) (ev detail : Nat) : (c.raise ev detail).seq = c.seq := rfl
@[simp] theorem Core.raise_fe (c : Core) (ev detail : Nat) : (c.raise ev detail).fe = c.fe := rfl
@[simp] theorem Core.raise_be (c : Core) (ev detail : Nat) : (c.raise ev detail).be = c.be := rfl
@[simp] theorem Core.raise_q (c : Core) (ev detail : Nat) : (c.raise ev detail).q = c.q := rfl
@[simp] theorem Core.raise_ops (c : Core) (ev detail : Nat) : (c.raise ev detail).ops = c.ops := rfl
@[simp] theorem Core.raise_vuQ (c : Core) (ev detail : Nat) : (c.raise ev detail).vuQ = c.vuQ := rfl
@[simp] theorem Core.raise_vuX (c : Core) (ev detail : Nat) : (c.raise ev detail).vuX = c.vuX := rfl
@[simp] theorem Core.raise_ku (c : Core) (ev detail : Nat) : (c.raise ev detail).ku = c.ku := rfl
@[simp] theorem Core.raise_sel (c : Core) (ev detail : Nat) : (c.raise ev detail).sel = c.sel := rfl
@[simp] theorem Core.raise_kerf (c : Core) (ev detail : Nat) : (c.raise ev detail).kerf = c.kerf := rfl
@[simp] theorem Core.raise_chains (c : Core) (ev detail : Nat) : (c.raise ev detail).chains = c.chains := rfl
@[simp] theorem Core.raise_attempts (c : Core) (ev detail : Nat) : (c.raise ev detail).attempts = c.attempts := rfl
@[simp] theorem Core.raise_tallies (c : Core) (ev detail : Nat) : (c.raise ev detail).tallies = c.tallies := rfl
@[simp] theorem Core.raise_unchk (c : Core) (ev detail : Nat) : (c.raise ev detail).unchk = c.unchk := rfl
@[simp] theorem Core.raise_forcedAt (c : Core) (ev detail : Nat) : (c.raise ev detail).forcedAt = c.forcedAt := rfl
@[simp] theorem Core.raise_vrHeld (c : Core) (ev detail : Nat) : (c.raise ev detail).vrHeld = c.vrHeld := rfl
@[simp] theorem Core.raise_vrNew (c : Core) (ev detail : Nat) : (c.raise ev detail).vrNew = c.vrNew := rfl
@[simp] theorem Core.raise_kverd (c : Core) (ev detail : Nat) : (c.raise ev detail).kverd = c.kverd := rfl
@[simp] theorem Core.raise_fwd (c : Core) (ev detail : Nat) : (c.raise ev detail).fwd = c.fwd := rfl
@[simp] theorem Core.raise_bwd (c : Core) (ev detail : Nat) : (c.raise ev detail).bwd = c.bwd := rfl
@[simp] theorem Core.raise_blocks (c : Core) (ev detail : Nat) : (c.raise ev detail).blocks = c.blocks := rfl
@[simp] theorem Core.raise_portUntil (c : Core) (ev detail : Nat) : (c.raise ev detail).portUntil = c.portUntil := rfl
@[simp] theorem Core.raise_portBwd (c : Core) (ev detail : Nat) : (c.raise ev detail).portBwd = c.portBwd := rfl
@[simp] theorem Core.raise_fwdElig (c : Core) (ev detail : Nat) : (c.raise ev detail).fwdElig = c.fwdElig := rfl
@[simp] theorem Core.raise_sctCfg (c : Core) (ev detail : Nat) : (c.raise ev detail).sctCfg = c.sctCfg := rfl
@[simp] theorem Core.raise_sctScale (c : Core) (ev detail : Nat) : (c.raise ev detail).sctScale = c.sctScale := rfl
@[simp] theorem Core.raise_jit (c : Core) (ev detail : Nat) : (c.raise ev detail).jit = c.jit := rfl
@[simp] theorem Core.raise_shardGot (c : Core) (ev detail : Nat) : (c.raise ev detail).shardGot = c.shardGot := rfl
@[simp] theorem Core.raise_jitWait (c : Core) (ev detail : Nat) : (c.raise ev detail).jitWait = c.jitWait := rfl
@[simp] theorem Core.raise_bndWait (c : Core) (ev detail : Nat) : (c.raise ev detail).bndWait = c.bndWait := rfl
@[simp] theorem Core.raise_sctSeen (c : Core) (ev detail : Nat) : (c.raise ev detail).sctSeen = c.sctSeen := rfl
@[simp] theorem Core.raise_rsHeld (c : Core) (ev detail : Nat) : (c.raise ev detail).rsHeld = c.rsHeld := rfl
@[simp] theorem Core.raise_grants (c : Core) (ev detail : Nat) : (c.raise ev detail).grants = c.grants := rfl
@[simp] theorem Core.raise_nextHandle (c : Core) (ev detail : Nat) : (c.raise ev detail).nextHandle = c.nextHandle := rfl
@[simp] theorem Core.raise_pairs (c : Core) (ev detail : Nat) : (c.raise ev detail).pairs = c.pairs := rfl
@[simp] theorem Core.raise_owed (c : Core) (ev detail : Nat) : (c.raise ev detail).owed = c.owed := rfl
@[simp] theorem Core.raise_bar (c : Core) (ev detail : Nat) : (c.raise ev detail).bar = c.bar := rfl
@[simp] theorem Core.raise_stash (c : Core) (ev detail : Nat) : (c.raise ev detail).stash = c.stash := rfl
@[simp] theorem Core.raise_nseq (c : Core) (ev detail : Nat) : (c.raise ev detail).nseq = c.nseq := rfl
@[simp] theorem Core.raise_step (c : Core) (ev detail : Nat) : (c.raise ev detail).step = c.step := rfl
@[simp] theorem Core.raise_good (c : Core) (ev detail : Nat) : (c.raise ev detail).good = c.good := rfl
@[simp] theorem Core.raise_fenced (c : Core) (ev detail : Nat) : (c.raise ev detail).fenced = c.fenced := rfl
@[simp] theorem Core.raise_cyc (c : Core) (ev detail : Nat) : (c.raise ev detail).cyc = c.cyc := rfl
@[simp] theorem Core.raise_progAt (c : Core) (ev detail : Nat) : (c.raise ev detail).progAt = c.progAt := rfl
@[simp] theorem Core.raise_progStopped (c : Core) (ev detail : Nat) : (c.raise ev detail).progStopped = c.progStopped := rfl
@[simp] theorem Core.raise_out (c : Core) (ev detail : Nat) : (c.raise ev detail).out = c.out := rfl
@[simp] theorem Core.raise_sys (c : Core) (ev detail : Nat) : (c.raise ev detail).sys = c.sys := rfl
@[simp] theorem Core.raise_kerfAt (c : Core) (ev detail : Nat) : (c.raise ev detail).kerfAt = c.kerfAt := rfl
@[simp] theorem Core.raise_bufWait (c : Core) (ev detail : Nat) : (c.raise ev detail).bufWait = c.bufWait := rfl
@[simp] theorem Core.raise_prefAt (c : Core) (ev detail : Nat) : (c.raise ev detail).prefAt = c.prefAt := rfl
@[simp] theorem Core.raise_shardMax (c : Core) (ev detail : Nat) : (c.raise ev detail).shardMax = c.shardMax := rfl
@[simp] theorem Core.raise_scaleDue (c : Core) (ev detail : Nat) : (c.raise ev detail).scaleDue = c.scaleDue := rfl
@[simp] theorem Core.raise_lateMax (c : Core) (ev detail : Nat) : (c.raise ev detail).lateMax = c.lateMax := rfl
@[simp] theorem Core.raise_amaxRep (c : Core) (ev detail : Nat) : (c.raise ev detail).amaxRep = c.amaxRep := rfl
@[simp] theorem Core.raise_loose (c : Core) (ev detail : Nat) : (c.raise ev detail).loose = c.loose := rfl
@[simp] theorem Core.raise_ev (c : Core) (ev detail : Nat) : (c.raise ev detail).ev = c.ev := rfl
@[simp] theorem Core.raise_upset (c : Core) (ev detail : Nat) : (c.raise ev detail).upset = c.upset := rfl
@[simp] theorem Core.count_regs (c : Core) (k n : Nat) : (c.count k n).regs = c.regs := rfl
@[simp] theorem Core.count_store (c : Core) (k n : Nat) : (c.count k n).store = c.store := rfl
@[simp] theorem Core.count_seq (c : Core) (k n : Nat) : (c.count k n).seq = c.seq := rfl
@[simp] theorem Core.count_fe (c : Core) (k n : Nat) : (c.count k n).fe = c.fe := rfl
@[simp] theorem Core.count_be (c : Core) (k n : Nat) : (c.count k n).be = c.be := rfl
@[simp] theorem Core.count_q (c : Core) (k n : Nat) : (c.count k n).q = c.q := rfl
@[simp] theorem Core.count_ops (c : Core) (k n : Nat) : (c.count k n).ops = c.ops := rfl
@[simp] theorem Core.count_vuQ (c : Core) (k n : Nat) : (c.count k n).vuQ = c.vuQ := rfl
@[simp] theorem Core.count_vuX (c : Core) (k n : Nat) : (c.count k n).vuX = c.vuX := rfl
@[simp] theorem Core.count_ku (c : Core) (k n : Nat) : (c.count k n).ku = c.ku := rfl
@[simp] theorem Core.count_sel (c : Core) (k n : Nat) : (c.count k n).sel = c.sel := rfl
@[simp] theorem Core.count_kerf (c : Core) (k n : Nat) : (c.count k n).kerf = c.kerf := rfl
@[simp] theorem Core.count_kerfAt (c : Core) (k n : Nat) : (c.count k n).kerfAt = c.kerfAt := rfl
@[simp] theorem Core.count_bufWait (c : Core) (k n : Nat) : (c.count k n).bufWait = c.bufWait := rfl
@[simp] theorem Core.count_chains (c : Core) (k n : Nat) : (c.count k n).chains = c.chains := rfl
@[simp] theorem Core.count_attempts (c : Core) (k n : Nat) : (c.count k n).attempts = c.attempts := rfl
@[simp] theorem Core.count_tallies (c : Core) (k n : Nat) : (c.count k n).tallies = c.tallies := rfl
@[simp] theorem Core.count_unchk (c : Core) (k n : Nat) : (c.count k n).unchk = c.unchk := rfl
@[simp] theorem Core.count_forcedAt (c : Core) (k n : Nat) : (c.count k n).forcedAt = c.forcedAt := rfl
@[simp] theorem Core.count_vrHeld (c : Core) (k n : Nat) : (c.count k n).vrHeld = c.vrHeld := rfl
@[simp] theorem Core.count_vrNew (c : Core) (k n : Nat) : (c.count k n).vrNew = c.vrNew := rfl
@[simp] theorem Core.count_kverd (c : Core) (k n : Nat) : (c.count k n).kverd = c.kverd := rfl
@[simp] theorem Core.count_fwd (c : Core) (k n : Nat) : (c.count k n).fwd = c.fwd := rfl
@[simp] theorem Core.count_bwd (c : Core) (k n : Nat) : (c.count k n).bwd = c.bwd := rfl
@[simp] theorem Core.count_blocks (c : Core) (k n : Nat) : (c.count k n).blocks = c.blocks := rfl
@[simp] theorem Core.count_portUntil (c : Core) (k n : Nat) : (c.count k n).portUntil = c.portUntil := rfl
@[simp] theorem Core.count_portBwd (c : Core) (k n : Nat) : (c.count k n).portBwd = c.portBwd := rfl
@[simp] theorem Core.count_fwdElig (c : Core) (k n : Nat) : (c.count k n).fwdElig = c.fwdElig := rfl
@[simp] theorem Core.count_prefAt (c : Core) (k n : Nat) : (c.count k n).prefAt = c.prefAt := rfl
@[simp] theorem Core.count_sctCfg (c : Core) (k n : Nat) : (c.count k n).sctCfg = c.sctCfg := rfl
@[simp] theorem Core.count_sctScale (c : Core) (k n : Nat) : (c.count k n).sctScale = c.sctScale := rfl
@[simp] theorem Core.count_jit (c : Core) (k n : Nat) : (c.count k n).jit = c.jit := rfl
@[simp] theorem Core.count_shardGot (c : Core) (k n : Nat) : (c.count k n).shardGot = c.shardGot := rfl
@[simp] theorem Core.count_shardMax (c : Core) (k n : Nat) : (c.count k n).shardMax = c.shardMax := rfl
@[simp] theorem Core.count_jitWait (c : Core) (k n : Nat) : (c.count k n).jitWait = c.jitWait := rfl
@[simp] theorem Core.count_scaleDue (c : Core) (k n : Nat) : (c.count k n).scaleDue = c.scaleDue := rfl
@[simp] theorem Core.count_bndWait (c : Core) (k n : Nat) : (c.count k n).bndWait = c.bndWait := rfl
@[simp] theorem Core.count_lateMax (c : Core) (k n : Nat) : (c.count k n).lateMax = c.lateMax := rfl
@[simp] theorem Core.count_amaxRep (c : Core) (k n : Nat) : (c.count k n).amaxRep = c.amaxRep := rfl
@[simp] theorem Core.count_sctSeen (c : Core) (k n : Nat) : (c.count k n).sctSeen = c.sctSeen := rfl
@[simp] theorem Core.count_rsHeld (c : Core) (k n : Nat) : (c.count k n).rsHeld = c.rsHeld := rfl
@[simp] theorem Core.count_grants (c : Core) (k n : Nat) : (c.count k n).grants = c.grants := rfl
@[simp] theorem Core.count_nextHandle (c : Core) (k n : Nat) : (c.count k n).nextHandle = c.nextHandle := rfl
@[simp] theorem Core.count_pairs (c : Core) (k n : Nat) : (c.count k n).pairs = c.pairs := rfl
@[simp] theorem Core.count_loose (c : Core) (k n : Nat) : (c.count k n).loose = c.loose := rfl
@[simp] theorem Core.count_owed (c : Core) (k n : Nat) : (c.count k n).owed = c.owed := rfl
@[simp] theorem Core.count_bar (c : Core) (k n : Nat) : (c.count k n).bar = c.bar := rfl
@[simp] theorem Core.count_stash (c : Core) (k n : Nat) : (c.count k n).stash = c.stash := rfl
@[simp] theorem Core.count_nseq (c : Core) (k n : Nat) : (c.count k n).nseq = c.nseq := rfl
@[simp] theorem Core.count_step (c : Core) (k n : Nat) : (c.count k n).step = c.step := rfl
@[simp] theorem Core.count_good (c : Core) (k n : Nat) : (c.count k n).good = c.good := rfl
@[simp] theorem Core.count_fenced (c : Core) (k n : Nat) : (c.count k n).fenced = c.fenced := rfl
@[simp] theorem Core.count_cyc (c : Core) (k n : Nat) : (c.count k n).cyc = c.cyc := rfl
@[simp] theorem Core.count_progAt (c : Core) (k n : Nat) : (c.count k n).progAt = c.progAt := rfl
@[simp] theorem Core.count_progStopped (c : Core) (k n : Nat) : (c.count k n).progStopped = c.progStopped := rfl
@[simp] theorem Core.count_raised (c : Core) (k n : Nat) : (c.count k n).raised = c.raised := rfl
@[simp] theorem Core.count_out (c : Core) (k n : Nat) : (c.count k n).out = c.out := rfl
@[simp] theorem Core.count_upset (c : Core) (k n : Nat) : (c.count k n).upset = c.upset := rfl
@[simp] theorem Core.count_sys (c : Core) (k n : Nat) : (c.count k n).sys = c.sys := rfl
@[simp] theorem Core.mend_regs (c : Core) (a n : Nat) : (c.mend a n).regs = c.regs := rfl
@[simp] theorem Core.mend_store (c : Core) (a n : Nat) : (c.mend a n).store = c.store := rfl
@[simp] theorem Core.mend_seq (c : Core) (a n : Nat) : (c.mend a n).seq = c.seq := rfl
@[simp] theorem Core.mend_fe (c : Core) (a n : Nat) : (c.mend a n).fe = c.fe := rfl
@[simp] theorem Core.mend_be (c : Core) (a n : Nat) : (c.mend a n).be = c.be := rfl
@[simp] theorem Core.mend_q (c : Core) (a n : Nat) : (c.mend a n).q = c.q := rfl
@[simp] theorem Core.mend_ops (c : Core) (a n : Nat) : (c.mend a n).ops = c.ops := rfl
@[simp] theorem Core.mend_vuQ (c : Core) (a n : Nat) : (c.mend a n).vuQ = c.vuQ := rfl
@[simp] theorem Core.mend_vuX (c : Core) (a n : Nat) : (c.mend a n).vuX = c.vuX := rfl
@[simp] theorem Core.mend_ku (c : Core) (a n : Nat) : (c.mend a n).ku = c.ku := rfl
@[simp] theorem Core.mend_sel (c : Core) (a n : Nat) : (c.mend a n).sel = c.sel := rfl
@[simp] theorem Core.mend_kerf (c : Core) (a n : Nat) : (c.mend a n).kerf = c.kerf := rfl
@[simp] theorem Core.mend_kerfAt (c : Core) (a n : Nat) : (c.mend a n).kerfAt = c.kerfAt := rfl
@[simp] theorem Core.mend_bufWait (c : Core) (a n : Nat) : (c.mend a n).bufWait = c.bufWait := rfl
@[simp] theorem Core.mend_chains (c : Core) (a n : Nat) : (c.mend a n).chains = c.chains := rfl
@[simp] theorem Core.mend_attempts (c : Core) (a n : Nat) : (c.mend a n).attempts = c.attempts := rfl
@[simp] theorem Core.mend_tallies (c : Core) (a n : Nat) : (c.mend a n).tallies = c.tallies := rfl
@[simp] theorem Core.mend_unchk (c : Core) (a n : Nat) : (c.mend a n).unchk = c.unchk := rfl
@[simp] theorem Core.mend_forcedAt (c : Core) (a n : Nat) : (c.mend a n).forcedAt = c.forcedAt := rfl
@[simp] theorem Core.mend_vrHeld (c : Core) (a n : Nat) : (c.mend a n).vrHeld = c.vrHeld := rfl
@[simp] theorem Core.mend_vrNew (c : Core) (a n : Nat) : (c.mend a n).vrNew = c.vrNew := rfl
@[simp] theorem Core.mend_kverd (c : Core) (a n : Nat) : (c.mend a n).kverd = c.kverd := rfl
@[simp] theorem Core.mend_fwd (c : Core) (a n : Nat) : (c.mend a n).fwd = c.fwd := rfl
@[simp] theorem Core.mend_bwd (c : Core) (a n : Nat) : (c.mend a n).bwd = c.bwd := rfl
@[simp] theorem Core.mend_blocks (c : Core) (a n : Nat) : (c.mend a n).blocks = c.blocks := rfl
@[simp] theorem Core.mend_portUntil (c : Core) (a n : Nat) : (c.mend a n).portUntil = c.portUntil := rfl
@[simp] theorem Core.mend_portBwd (c : Core) (a n : Nat) : (c.mend a n).portBwd = c.portBwd := rfl
@[simp] theorem Core.mend_fwdElig (c : Core) (a n : Nat) : (c.mend a n).fwdElig = c.fwdElig := rfl
@[simp] theorem Core.mend_prefAt (c : Core) (a n : Nat) : (c.mend a n).prefAt = c.prefAt := rfl
@[simp] theorem Core.mend_sctCfg (c : Core) (a n : Nat) : (c.mend a n).sctCfg = c.sctCfg := rfl
@[simp] theorem Core.mend_sctScale (c : Core) (a n : Nat) : (c.mend a n).sctScale = c.sctScale := rfl
@[simp] theorem Core.mend_jit (c : Core) (a n : Nat) : (c.mend a n).jit = c.jit := rfl
@[simp] theorem Core.mend_shardGot (c : Core) (a n : Nat) : (c.mend a n).shardGot = c.shardGot := rfl
@[simp] theorem Core.mend_shardMax (c : Core) (a n : Nat) : (c.mend a n).shardMax = c.shardMax := rfl
@[simp] theorem Core.mend_jitWait (c : Core) (a n : Nat) : (c.mend a n).jitWait = c.jitWait := rfl
@[simp] theorem Core.mend_scaleDue (c : Core) (a n : Nat) : (c.mend a n).scaleDue = c.scaleDue := rfl
@[simp] theorem Core.mend_bndWait (c : Core) (a n : Nat) : (c.mend a n).bndWait = c.bndWait := rfl
@[simp] theorem Core.mend_lateMax (c : Core) (a n : Nat) : (c.mend a n).lateMax = c.lateMax := rfl
@[simp] theorem Core.mend_amaxRep (c : Core) (a n : Nat) : (c.mend a n).amaxRep = c.amaxRep := rfl
@[simp] theorem Core.mend_sctSeen (c : Core) (a n : Nat) : (c.mend a n).sctSeen = c.sctSeen := rfl
@[simp] theorem Core.mend_rsHeld (c : Core) (a n : Nat) : (c.mend a n).rsHeld = c.rsHeld := rfl
@[simp] theorem Core.mend_grants (c : Core) (a n : Nat) : (c.mend a n).grants = c.grants := rfl
@[simp] theorem Core.mend_nextHandle (c : Core) (a n : Nat) : (c.mend a n).nextHandle = c.nextHandle := rfl
@[simp] theorem Core.mend_pairs (c : Core) (a n : Nat) : (c.mend a n).pairs = c.pairs := rfl
@[simp] theorem Core.mend_loose (c : Core) (a n : Nat) : (c.mend a n).loose = c.loose := rfl
@[simp] theorem Core.mend_owed (c : Core) (a n : Nat) : (c.mend a n).owed = c.owed := rfl
@[simp] theorem Core.mend_bar (c : Core) (a n : Nat) : (c.mend a n).bar = c.bar := rfl
@[simp] theorem Core.mend_stash (c : Core) (a n : Nat) : (c.mend a n).stash = c.stash := rfl
@[simp] theorem Core.mend_nseq (c : Core) (a n : Nat) : (c.mend a n).nseq = c.nseq := rfl
@[simp] theorem Core.mend_step (c : Core) (a n : Nat) : (c.mend a n).step = c.step := rfl
@[simp] theorem Core.mend_good (c : Core) (a n : Nat) : (c.mend a n).good = c.good := rfl
@[simp] theorem Core.mend_fenced (c : Core) (a n : Nat) : (c.mend a n).fenced = c.fenced := rfl
@[simp] theorem Core.mend_cyc (c : Core) (a n : Nat) : (c.mend a n).cyc = c.cyc := rfl
@[simp] theorem Core.mend_progAt (c : Core) (a n : Nat) : (c.mend a n).progAt = c.progAt := rfl
@[simp] theorem Core.mend_progStopped (c : Core) (a n : Nat) : (c.mend a n).progStopped = c.progStopped := rfl
@[simp] theorem Core.mend_raised (c : Core) (a n : Nat) : (c.mend a n).raised = c.raised := rfl
@[simp] theorem Core.mend_out (c : Core) (a n : Nat) : (c.mend a n).out = c.out := rfl
@[simp] theorem Core.mend_ev (c : Core) (a n : Nat) : (c.mend a n).ev = c.ev := rfl
@[simp] theorem Core.mend_sys (c : Core) (a n : Nat) : (c.mend a n).sys = c.sys := rfl

/-! ### Reads after writes -/

theorem Chip.reg_setReg (s : Chip) (a v b : Nat) : (s.setReg a v).reg b = if b = a then v else s.reg b := Map.get_put _ _ _ _
@[simp] theorem Chip.reg_setReg_self (s : Chip) (a v : Nat) : (s.setReg a v).reg a = v := Map.get_put_self _ _ _
theorem Chip.core_setCore (s : Chip) (p : Nat) (c : Core) (q : Nat) : (s.setCore p c).core q = if q = p then c else s.core q :=
  Map.get_put _ _ _ _
@[simp] theorem Chip.core_setCore_self (s : Chip) (p : Nat) (c : Core) : (s.setCore p c).core p = c := Map.get_put_self _ _ _
@[simp] theorem Chip.core_onCore_self (s : Chip) (p : Nat) (f : Core → Core) : (s.onCore p f).core p = f (s.core p) :=
  Map.get_put_self _ _ _
theorem Chip.core_onCore (s : Chip) (p : Nat) (f : Core → Core) (q : Nat) :
    (s.onCore p f).core q = if q = p then f (s.core p) else s.core q := Map.get_put _ _ _ _
theorem Chip.link_setLink (s : Chip) (l : Nat) (x : Link) (k : Nat) : (s.setLink l x).link k = if k = l then x else s.link k :=
  Map.get_put _ _ _ _
@[simp] theorem Chip.link_setLink_self (s : Chip) (l : Nat) (x : Link) : (s.setLink l x).link l = x := Map.get_put_self _ _ _
theorem Chip.bench_setBench (s : Chip) (b : Nat) (x : Bench) (k : Nat) :
    (s.setBench b x).bench k = if k = b then x else s.bench k := Map.get_put _ _ _ _
theorem Core.reg_setReg (c : Core) (a v b : Nat) : (c.setReg a v).reg b = if b = a then v else c.reg b := Map.get_put _ _ _ _
@[simp] theorem Core.reg_setReg_self (c : Core) (a v : Nat) : (c.setReg a v).reg a = v := Map.get_put_self _ _ _

/-! ### What every command settles -/

/-- Records handed to the trace port change nothing but the pins. -/
theorem Chip.traces_cores (l : List (List Byte)) (g : List Byte) : ∀ u : Chip,
    (l.foldl (fun (s : Chip) r => s.trace 2 (g ++ r)) u).cores = u.cores := by
  induction l with
  | nil => intro u; rfl
  | cons b l ih => intro u; rw [List.foldl_cons, ih]; simp

theorem Chip.core_drainVerdicts (t : Chip) (p : Nat) : (t.drainVerdicts p).core p = { (t.core p) with vrNew := [] } := by
  unfold Chip.drainVerdicts
  by_cases h : (t.core p).vrNew.isEmpty = true
  · simp only [h, if_true]
    rw [← List.isEmpty_iff.1 h]
  · simp only [h, if_false, Chip.core_onCore_self, Bool.false_eq_true]
    simp only [Chip.core, Chip.traces_cores]

theorem Chip.core_drainVerdicts_ne (t : Chip) {p q : Nat} (hq : q ≠ p) : (t.drainVerdicts p).core q = t.core q := by
  unfold Chip.drainVerdicts
  by_cases h : (t.core p).vrNew.isEmpty = true
  · simp only [h, if_true]
  · simp only [h, if_false, Bool.false_eq_true, Chip.core_onCore, hq]
    simp only [Chip.core, Chip.traces_cores]

/-- A core after a command has settled. -/
theorem Chip.settleCore_core (s m : Chip) (p : Nat) : (s.settleCore m p).core p =
    { Core.settled (s.core p) (m.core p) (m.coreCycle p) with vrNew := [] } := by
  unfold Chip.settleCore
  rw [Chip.core_drainVerdicts, Chip.core_setCore_self]

theorem Chip.core_settleCore_ne (s m : Chip) {p q : Nat} (hq : q ≠ p) : (s.settleCore m p).core q = m.core q := by
  unfold Chip.settleCore
  rw [Chip.core_drainVerdicts_ne _ hq, Chip.core_setCore, if_neg hq]

theorem Chip.traces_regs (l : List (List Byte)) (g : List Byte) : ∀ u : Chip,
    (l.foldl (fun (s : Chip) r => s.trace 2 (g ++ r)) u).regs = u.regs := by
  induction l with
  | nil => intro u; rfl
  | cons b l ih => intro u; rw [List.foldl_cons, ih]; simp
@[simp] theorem Chip.settleCore_regs (s m : Chip) (p : Nat) : (s.settleCore m p).regs = m.regs := by
  unfold Chip.settleCore Chip.drainVerdicts
  dsimp only
  split <;> simp only [Chip.onCore_regs, Chip.setCore_regs, Chip.traces_regs]
theorem Chip.traces_hbm (l : List (List Byte)) (g : List Byte) : ∀ u : Chip,
    (l.foldl (fun (s : Chip) r => s.trace 2 (g ++ r)) u).hbm = u.hbm := by
  induction l with
  | nil => intro u; rfl
  | cons b l ih => intro u; rw [List.foldl_cons, ih]; simp
@[simp] theorem Chip.settleCore_hbm (s m : Chip) (p : Nat) : (s.settleCore m p).hbm = m.hbm := by
  unfold Chip.settleCore Chip.drainVerdicts
  dsimp only
  split <;> simp only [Chip.onCore_hbm, Chip.setCore_hbm, Chip.traces_hbm]
theorem Chip.traces_cxl (l : List (List Byte)) (g : List Byte) : ∀ u : Chip,
    (l.foldl (fun (s : Chip) r => s.trace 2 (g ++ r)) u).cxl = u.cxl := by
  induction l with
  | nil => intro u; rfl
  | cons b l ih => intro u; rw [List.foldl_cons, ih]; simp
@[simp] theorem Chip.settleCore_cxl (s m : Chip) (p : Nat) : (s.settleCore m p).cxl = m.cxl := by
  unfold Chip.settleCore Chip.drainVerdicts
  dsimp only
  split <;> simp only [Chip.onCore_cxl, Chip.setCore_cxl, Chip.traces_cxl]
theorem Chip.traces_poison (l : List (List Byte)) (g : List Byte) : ∀ u : Chip,
    (l.foldl (fun (s : Chip) r => s.trace 2 (g ++ r)) u).poison = u.poison := by
  induction l with
  | nil => intro u; rfl
  | cons b l ih => intro u; rw [List.foldl_cons, ih]; simp
@[simp] theorem Chip.settleCore_poison (s m : Chip) (p : Nat) : (s.settleCore m p).poison = m.poison := by
  unfold Chip.settleCore Chip.drainVerdicts
  dsimp only
  split <;> simp only [Chip.onCore_poison, Chip.setCore_poison, Chip.traces_poison]
theorem Chip.traces_redir (l : List (List Byte)) (g : List Byte) : ∀ u : Chip,
    (l.foldl (fun (s : Chip) r => s.trace 2 (g ++ r)) u).redir = u.redir := by
  induction l with
  | nil => intro u; rfl
  | cons b l ih => intro u; rw [List.foldl_cons, ih]; simp
@[simp] theorem Chip.settleCore_redir (s m : Chip) (p : Nat) : (s.settleCore m p).redir = m.redir := by
  unfold Chip.settleCore Chip.drainVerdicts
  dsimp only
  split <;> simp only [Chip.onCore_redir, Chip.setCore_redir, Chip.traces_redir]
theorem Chip.traces_fencedCh (l : List (List Byte)) (g : List Byte) : ∀ u : Chip,
    (l.foldl (fun (s : Chip) r => s.trace 2 (g ++ r)) u).fencedCh = u.fencedCh := by
  induction l with
  | nil => intro u; rfl
  | cons b l ih => intro u; rw [List.foldl_cons, ih]; simp
@[simp] theorem Chip.settleCore_fencedCh (s m : Chip) (p : Nat) : (s.settleCore m p).fencedCh = m.fencedCh := by
  unfold Chip.settleCore Chip.drainVerdicts
  dsimp only
  split <;> simp only [Chip.onCore_fencedCh, Chip.setCore_fencedCh, Chip.traces_fencedCh]
theorem Chip.traces_migLost (l : List (List Byte)) (g : List Byte) : ∀ u : Chip,
    (l.foldl (fun (s : Chip) r => s.trace 2 (g ++ r)) u).migLost = u.migLost := by
  induction l with
  | nil => intro u; rfl
  | cons b l ih => intro u; rw [List.foldl_cons, ih]; simp
@[simp] theorem Chip.settleCore_migLost (s m : Chip) (p : Nat) : (s.settleCore m p).migLost = m.migLost := by
  unfold Chip.settleCore Chip.drainVerdicts
  dsimp only
  split <;> simp only [Chip.onCore_migLost, Chip.setCore_migLost, Chip.traces_migLost]
theorem Chip.traces_flying (l : List (List Byte)) (g : List Byte) : ∀ u : Chip,
    (l.foldl (fun (s : Chip) r => s.trace 2 (g ++ r)) u).flying = u.flying := by
  induction l with
  | nil => intro u; rfl
  | cons b l ih => intro u; rw [List.foldl_cons, ih]; simp
@[simp] theorem Chip.settleCore_flying (s m : Chip) (p : Nat) : (s.settleCore m p).flying = m.flying := by
  unfold Chip.settleCore Chip.drainVerdicts
  dsimp only
  split <;> simp only [Chip.onCore_flying, Chip.setCore_flying, Chip.traces_flying]
theorem Chip.traces_ctbFrac (l : List (List Byte)) (g : List Byte) : ∀ u : Chip,
    (l.foldl (fun (s : Chip) r => s.trace 2 (g ++ r)) u).ctbFrac = u.ctbFrac := by
  induction l with
  | nil => intro u; rfl
  | cons b l ih => intro u; rw [List.foldl_cons, ih]; simp
@[simp] theorem Chip.settleCore_ctbFrac (s m : Chip) (p : Nat) : (s.settleCore m p).ctbFrac = m.ctbFrac := by
  unfold Chip.settleCore Chip.drainVerdicts
  dsimp only
  split <;> simp only [Chip.onCore_ctbFrac, Chip.setCore_ctbFrac, Chip.traces_ctbFrac]
theorem Chip.traces_holdAt (l : List (List Byte)) (g : List Byte) : ∀ u : Chip,
    (l.foldl (fun (s : Chip) r => s.trace 2 (g ++ r)) u).holdAt = u.holdAt := by
  induction l with
  | nil => intro u; rfl
  | cons b l ih => intro u; rw [List.foldl_cons, ih]; simp
@[simp] theorem Chip.settleCore_holdAt (s m : Chip) (p : Nat) : (s.settleCore m p).holdAt = m.holdAt := by
  unfold Chip.settleCore Chip.drainVerdicts
  dsimp only
  split <;> simp only [Chip.onCore_holdAt, Chip.setCore_holdAt, Chip.traces_holdAt]
theorem Chip.traces_benches (l : List (List Byte)) (g : List Byte) : ∀ u : Chip,
    (l.foldl (fun (s : Chip) r => s.trace 2 (g ++ r)) u).benches = u.benches := by
  induction l with
  | nil => intro u; rfl
  | cons b l ih => intro u; rw [List.foldl_cons, ih]; simp
@[simp] theorem Chip.settleCore_benches (s m : Chip) (p : Nat) : (s.settleCore m p).benches = m.benches := by
  unfold Chip.settleCore Chip.drainVerdicts
  dsimp only
  split <;> simp only [Chip.onCore_benches, Chip.setCore_benches, Chip.traces_benches]
theorem Chip.traces_selfRef (l : List (List Byte)) (g : List Byte) : ∀ u : Chip,
    (l.foldl (fun (s : Chip) r => s.trace 2 (g ++ r)) u).selfRef = u.selfRef := by
  induction l with
  | nil => intro u; rfl
  | cons b l ih => intro u; rw [List.foldl_cons, ih]; simp
@[simp] theorem Chip.settleCore_selfRef (s m : Chip) (p : Nat) : (s.settleCore m p).selfRef = m.selfRef := by
  unfold Chip.settleCore Chip.drainVerdicts
  dsimp only
  split <;> simp only [Chip.onCore_selfRef, Chip.setCore_selfRef, Chip.traces_selfRef]
theorem Chip.traces_memResp (l : List (List Byte)) (g : List Byte) : ∀ u : Chip,
    (l.foldl (fun (s : Chip) r => s.trace 2 (g ++ r)) u).memResp = u.memResp := by
  induction l with
  | nil => intro u; rfl
  | cons b l ih => intro u; rw [List.foldl_cons, ih]; simp
@[simp] theorem Chip.settleCore_memResp (s m : Chip) (p : Nat) : (s.settleCore m p).memResp = m.memResp := by
  unfold Chip.settleCore Chip.drainVerdicts
  dsimp only
  split <;> simp only [Chip.onCore_memResp, Chip.setCore_memResp, Chip.traces_memResp]
theorem Chip.traces_memGot (l : List (List Byte)) (g : List Byte) : ∀ u : Chip,
    (l.foldl (fun (s : Chip) r => s.trace 2 (g ++ r)) u).memGot = u.memGot := by
  induction l with
  | nil => intro u; rfl
  | cons b l ih => intro u; rw [List.foldl_cons, ih]; simp
@[simp] theorem Chip.settleCore_memGot (s m : Chip) (p : Nat) : (s.settleCore m p).memGot = m.memGot := by
  unfold Chip.settleCore Chip.drainVerdicts
  dsimp only
  split <;> simp only [Chip.onCore_memGot, Chip.setCore_memGot, Chip.traces_memGot]
theorem Chip.traces_hold (l : List (List Byte)) (g : List Byte) : ∀ u : Chip,
    (l.foldl (fun (s : Chip) r => s.trace 2 (g ++ r)) u).hold = u.hold := by
  induction l with
  | nil => intro u; rfl
  | cons b l ih => intro u; rw [List.foldl_cons, ih]; simp
@[simp] theorem Chip.settleCore_hold (s m : Chip) (p : Nat) : (s.settleCore m p).hold = m.hold := by
  unfold Chip.settleCore Chip.drainVerdicts
  dsimp only
  split <;> simp only [Chip.onCore_hold, Chip.setCore_hold, Chip.traces_hold]
theorem Chip.traces_vlog (l : List (List Byte)) (g : List Byte) : ∀ u : Chip,
    (l.foldl (fun (s : Chip) r => s.trace 2 (g ++ r)) u).vlog = u.vlog := by
  induction l with
  | nil => intro u; rfl
  | cons b l ih => intro u; rw [List.foldl_cons, ih]; simp
@[simp] theorem Chip.settleCore_vlog (s m : Chip) (p : Nat) : (s.settleCore m p).vlog = m.vlog := by
  unfold Chip.settleCore Chip.drainVerdicts
  dsimp only
  split <;> simp only [Chip.onCore_vlog, Chip.setCore_vlog, Chip.traces_vlog]
theorem Chip.traces_raised (l : List (List Byte)) (g : List Byte) : ∀ u : Chip,
    (l.foldl (fun (s : Chip) r => s.trace 2 (g ++ r)) u).raised = u.raised := by
  induction l with
  | nil => intro u; rfl
  | cons b l ih => intro u; rw [List.foldl_cons, ih]; simp
@[simp] theorem Chip.settleCore_raised (s m : Chip) (p : Nat) : (s.settleCore m p).raised = m.raised := by
  unfold Chip.settleCore Chip.drainVerdicts
  dsimp only
  split <;> simp only [Chip.onCore_raised, Chip.setCore_raised, Chip.traces_raised]
theorem Chip.traces_links (l : List (List Byte)) (g : List Byte) : ∀ u : Chip,
    (l.foldl (fun (s : Chip) r => s.trace 2 (g ++ r)) u).links = u.links := by
  induction l with
  | nil => intro u; rfl
  | cons b l ih => intro u; rw [List.foldl_cons, ih]; simp
@[simp] theorem Chip.settleCore_links (s m : Chip) (p : Nat) : (s.settleCore m p).links = m.links := by
  unfold Chip.settleCore Chip.drainVerdicts
  dsimp only
  split <;> simp only [Chip.onCore_links, Chip.setCore_links, Chip.traces_links]
theorem Chip.traces_ts (l : List (List Byte)) (g : List Byte) : ∀ u : Chip,
    (l.foldl (fun (s : Chip) r => s.trace 2 (g ++ r)) u).ts = u.ts := by
  induction l with
  | nil => intro u; rfl
  | cons b l ih => intro u; rw [List.foldl_cons, ih]; simp
@[simp] theorem Chip.settleCore_ts (s m : Chip) (p : Nat) : (s.settleCore m p).ts = m.ts := by
  unfold Chip.settleCore Chip.drainVerdicts
  dsimp only
  split <;> simp only [Chip.onCore_ts, Chip.setCore_ts, Chip.traces_ts]
theorem Chip.traces_flood (l : List (List Byte)) (g : List Byte) : ∀ u : Chip,
    (l.foldl (fun (s : Chip) r => s.trace 2 (g ++ r)) u).flood = u.flood := by
  induction l with
  | nil => intro u; rfl
  | cons b l ih => intro u; rw [List.foldl_cons, ih]; simp
@[simp] theorem Chip.settleCore_flood (s m : Chip) (p : Nat) : (s.settleCore m p).flood = m.flood := by
  unfold Chip.settleCore Chip.drainVerdicts
  dsimp only
  split <;> simp only [Chip.onCore_flood, Chip.setCore_flood, Chip.traces_flood]
theorem Chip.traces_en (l : List (List Byte)) (g : List Byte) : ∀ u : Chip,
    (l.foldl (fun (s : Chip) r => s.trace 2 (g ++ r)) u).en = u.en := by
  induction l with
  | nil => intro u; rfl
  | cons b l ih => intro u; rw [List.foldl_cons, ih]; simp
@[simp] theorem Chip.settleCore_en (s m : Chip) (p : Nat) : (s.settleCore m p).en = m.en := by
  unfold Chip.settleCore Chip.drainVerdicts
  dsimp only
  split <;> simp only [Chip.onCore_en, Chip.setCore_en, Chip.traces_en]
theorem Chip.traces_flt (l : List (List Byte)) (g : List Byte) : ∀ u : Chip,
    (l.foldl (fun (s : Chip) r => s.trace 2 (g ++ r)) u).flt = u.flt := by
  induction l with
  | nil => intro u; rfl
  | cons b l ih => intro u; rw [List.foldl_cons, ih]; simp
@[simp] theorem Chip.settleCore_flt (s m : Chip) (p : Nat) : (s.settleCore m p).flt = m.flt := by
  unfold Chip.settleCore Chip.drainVerdicts
  dsimp only
  split <;> simp only [Chip.onCore_flt, Chip.setCore_flt, Chip.traces_flt]
theorem Chip.traces_snp (l : List (List Byte)) (g : List Byte) : ∀ u : Chip,
    (l.foldl (fun (s : Chip) r => s.trace 2 (g ++ r)) u).snp = u.snp := by
  induction l with
  | nil => intro u; rfl
  | cons b l ih => intro u; rw [List.foldl_cons, ih]; simp
@[simp] theorem Chip.settleCore_snp (s m : Chip) (p : Nat) : (s.settleCore m p).snp = m.snp := by
  unfold Chip.settleCore Chip.drainVerdicts
  dsimp only
  split <;> simp only [Chip.onCore_snp, Chip.setCore_snp, Chip.traces_snp]
theorem Chip.traces_job (l : List (List Byte)) (g : List Byte) : ∀ u : Chip,
    (l.foldl (fun (s : Chip) r => s.trace 2 (g ++ r)) u).job = u.job := by
  induction l with
  | nil => intro u; rfl
  | cons b l ih => intro u; rw [List.foldl_cons, ih]; simp
@[simp] theorem Chip.settleCore_job (s m : Chip) (p : Nat) : (s.settleCore m p).job = m.job := by
  unfold Chip.settleCore Chip.drainVerdicts
  dsimp only
  split <;> simp only [Chip.onCore_job, Chip.setCore_job, Chip.traces_job]
theorem Chip.traces_vcf (l : List (List Byte)) (g : List Byte) : ∀ u : Chip,
    (l.foldl (fun (s : Chip) r => s.trace 2 (g ++ r)) u).vcf = u.vcf := by
  induction l with
  | nil => intro u; rfl
  | cons b l ih => intro u; rw [List.foldl_cons, ih]; simp
@[simp] theorem Chip.settleCore_vcf (s m : Chip) (p : Nat) : (s.settleCore m p).vcf = m.vcf := by
  unfold Chip.settleCore Chip.drainVerdicts
  dsimp only
  split <;> simp only [Chip.onCore_vcf, Chip.setCore_vcf, Chip.traces_vcf]
theorem Chip.traces_sec (l : List (List Byte)) (g : List Byte) : ∀ u : Chip,
    (l.foldl (fun (s : Chip) r => s.trace 2 (g ++ r)) u).sec = u.sec := by
  induction l with
  | nil => intro u; rfl
  | cons b l ih => intro u; rw [List.foldl_cons, ih]; simp
@[simp] theorem Chip.settleCore_sec (s m : Chip) (p : Nat) : (s.settleCore m p).sec = m.sec := by
  unfold Chip.settleCore Chip.drainVerdicts
  dsimp only
  split <;> simp only [Chip.onCore_sec, Chip.setCore_sec, Chip.traces_sec]
theorem Chip.traces_outs (l : List (List Byte)) (g : List Byte) : ∀ u : Chip,
    (l.foldl (fun (s : Chip) r => s.trace 2 (g ++ r)) u).outs = u.outs := by
  induction l with
  | nil => intro u; rfl
  | cons b l ih => intro u; rw [List.foldl_cons, ih]; simp
@[simp] theorem Chip.settleCore_outs (s m : Chip) (p : Nat) : (s.settleCore m p).outs = m.outs := by
  unfold Chip.settleCore Chip.drainVerdicts
  dsimp only
  split <;> simp only [Chip.onCore_outs, Chip.setCore_outs, Chip.traces_outs]

/-- A command that acts changes the part alone; the queue stays. -/
theorem State.act_pending {s t : State} {d : Domain} {f : Chip → Chip} (h : s.act d f = .next t) : t.pending = s.pending := by
  unfold State.act at h
  injection h with h
  subst h
  split <;> rfl

theorem State.actCore_pending {s t : State} {d : Domain} {p : Nat} {f : Chip → Chip} (h : s.actCore d p f = .next t) :
    t.pending = s.pending := by
  unfold State.actCore at h
  split at h
  · exact State.act_pending h
  · cases h

theorem State.actUnit_pending {s t : State} {d : Domain} {u n : Nat} {f : Chip → Chip} (h : s.actUnit d u n f = .next t) :
    t.pending = s.pending := by
  unfold State.actUnit at h
  split at h
  · exact State.act_pending h
  · cases h

end Sys2Proof.Machine
end

