-- ==== Sys2Proof/Laws/Step.lean ====
section
/-!
SUPPORT. What a command that acts on one core can do: nothing but that core and the trace port changes.
-/
namespace Sys2Proof.Machine

theorem State.active_core {s : State} (h : s.awake) : Domain.core.active s.chip = true := by
  obtain ⟨⟨h1, h2⟩, h3⟩ := h
  rcases h1 with h1 | h1 <;> simp [Domain.active, h1, h2, h3]

theorem State.active_held {s : State} (h : s.up) : Domain.held.active s.chip = true := by
  obtain ⟨h1, h2⟩ := h
  rcases h1 with h1 | h1 <;> simp [Domain.active, h1, h2]

theorem State.active_aon {s : State} (h : s.up) : Domain.aon.active s.chip = true := by
  obtain ⟨h1, h2⟩ := h
  rcases h1 with h1 | h1 <;> simp [Domain.active, h1]

theorem State.act_next {s : State} {d : Domain} (h : d.active s.chip = true) (f : Chip → Chip) :
    s.act d f = .next { s with chip := f s.chip } := by
  unfold State.act; rw [if_pos h]

theorem State.actCore_next {s : State} {d : Domain} {p : Nat} (hp : p < nCores) (h : d.active s.chip = true) (f : Chip → Chip) :
    s.actCore d p f = .next { s with chip := s.chip.settleCore (f s.chip) p } := by
  unfold State.actCore; rw [if_pos hp, State.act_next h]

theorem State.actUnit_next {s : State} {d : Domain} {u n : Nat} (hu : u < n) (h : d.active s.chip = true) (f : Chip → Chip) :
    s.actUnit d u n f = .next { s with chip := f s.chip } := by
  unfold State.actUnit; rw [if_pos hu, State.act_next h]

theorem Chip.sameBut_refl (p : Nat) (s : Chip) : s.sameBut p s := ⟨fun _ _ => rfl, rfl⟩

theorem Chip.sameBut_trans {p : Nat} {a b c : Chip} (h : a.sameBut p b) (k : b.sameBut p c) : a.sameBut p c := by
  refine ⟨fun q hq => (k.1 q hq).trans (h.1 q hq), ?_⟩
  have h2 := h.2
  have k2 := k.2
  rw [k2, h2]

theorem Chip.sameBut_setCore (s : Chip) (p : Nat) (c : Core) : s.sameBut p (s.setCore p c) :=
  ⟨fun q hq => by rw [Chip.core_setCore, if_neg hq], rfl⟩

theorem Chip.sameBut_onCore (s : Chip) (p : Nat) (f : Core → Core) : s.sameBut p (s.onCore p f) := Chip.sameBut_setCore s p _

theorem Chip.sameBut_trace (s : Chip) (p ty : Nat) (b : List Byte) : s.sameBut p (s.trace ty b) := by
  unfold Chip.trace
  extract_lets r used
  split
  · exact ⟨fun _ _ => rfl, rfl⟩
  · exact ⟨fun _ _ => rfl, rfl⟩

theorem Chip.sameBut_traces (p : Nat) (g : List Byte) (l : List (List Byte)) : ∀ s : Chip,
    s.sameBut p (l.foldl (fun (s : Chip) r => s.trace 2 (g ++ r)) s) := by
  induction l with
  | nil => exact fun s => Chip.sameBut_refl _ _
  | cons b l ih => exact fun s => Chip.sameBut_trans (Chip.sameBut_trace s p _ _) (ih _)

theorem Chip.sameBut_drainVerdicts (s : Chip) (p : Nat) : s.sameBut p (s.drainVerdicts p) := by
  unfold Chip.drainVerdicts
  extract_lets new xy h
  split
  · exact Chip.sameBut_refl _ _
  · exact Chip.sameBut_trans (Chip.sameBut_traces p h new s) (Chip.sameBut_onCore _ _ _)

theorem Chip.sameBut_settleCore {s m : Chip} {p : Nat} (k : s.sameBut p m) (u : Chip) : s.sameBut p (u.settleCore m p) :=
  Chip.sameBut_trans (Chip.sameBut_trans k (Chip.sameBut_setCore _ _ _)) (Chip.sameBut_drainVerdicts _ p)

/-- The cycle of a bench depends on no core. -/
theorem Chip.sameBut_cycleNow {s m : Chip} {p : Nat} (k : s.sameBut p m) (q : Nat) : m.cycleNow q = s.cycleNow q := by
  rw [k.2]; rfl

/-- What a command settles in its core: the progress timer, the watch on the forward head and its counter. -/
theorem Core.settled_eq (c0 c : Core) (k : Nat) : ∃ a n e f,
    Core.settled c0 c k = { (if n = 0 then c else c.bump rDVT_PREF_CNT n) with progAt := a, fwdElig := e, prefAt := f } := by
  have hd : ∃ a, (if c0.lessWork c then c.progressed else c) = { c with progAt := a } := by
    split
    · exact ⟨0, rfl⟩
    · exact ⟨c.progAt, rfl⟩
  obtain ⟨a, hd⟩ := hd
  unfold Core.settled
  rw [hd]
  unfold Core.watched
  extract_lets fe n u
  refine ⟨a, n, if fe then c.fwdElig else 0, if fe && c.portBwd && decide (k < c.portUntil) then some k else none, ?_⟩
  unfold u
  split <;> rfl

/-- Whatever reads none of these survives settling. -/
theorem Core.settled_keep {γ : Type} (g : Core → γ) (h1 : ∀ (c : Core) a e f, g { c with progAt := a, fwdElig := e, prefAt := f } = g c)
    (h2 : ∀ (c : Core) a v, g (c.setReg a v) = g c) (c0 c : Core) (k : Nat) : g (Core.settled c0 c k) = g c := by
  obtain ⟨a, n, e, f, h⟩ := Core.settled_eq c0 c k
  rw [h, h1]
  split
  · rfl
  · exact h2 _ _ _

/-- A command that changes core p only. -/
theorem completes_onlyCore {i : Instr} {s : State} {d : Domain} {p : Nat} {f : Chip → Chip} {c : Core} (hp : p < nCores)
    (ha : d.active s.chip = true) (he : exec i s = s.actCore d p f) (hf : s.chip.sameBut p (f s.chip))
    (hc : (f s.chip).core p = c) : Completes i s (s.onlyCore p c) := by
  refine ⟨_, he.trans (State.actCore_next hp ha f), rfl, Chip.sameBut_settleCore hf _, ?_⟩
  show (s.chip.settleCore (f s.chip) p).core p = _
  rw [Chip.settleCore_core, Chip.coreCycle, Chip.sameBut_cycleNow hf, hc]

end Sys2Proof.Machine
end

