-- ==== Sys2Proof/Laws/Word.lean ====
section
/-!
SUPPORT. Reads after writes of bit fields.
-/
namespace Sys2Proof

/-- The written field reads as the low bits of what was written. -/
theorem field_setField (x lo n v : Nat) : field (setField x lo n v) lo n = v % 2 ^ n := by
  unfold setField field
  simp only [Nat.shiftRight_eq_div_pow]
  have e : x - x / 2 ^ lo % 2 ^ n * 2 ^ lo = 2 ^ n * 2 ^ lo * (x / 2 ^ lo / 2 ^ n) + x % 2 ^ lo := by
    have h1 := Nat.div_add_mod x (2 ^ lo)
    have h2 := Nat.div_add_mod (x / 2 ^ lo) (2 ^ n)
    have h3 : x = 2 ^ n * 2 ^ lo * (x / 2 ^ lo / 2 ^ n) + x / 2 ^ lo % 2 ^ n * 2 ^ lo + x % 2 ^ lo := by
      calc x = 2 ^ lo * (x / 2 ^ lo) + x % 2 ^ lo := h1.symm
        _ = 2 ^ lo * (2 ^ n * (x / 2 ^ lo / 2 ^ n) + x / 2 ^ lo % 2 ^ n) + x % 2 ^ lo := by rw [h2]
        _ = _ := by ring
    omega
  rw [e]
  have hl : x % 2 ^ lo < 2 ^ lo := Nat.mod_lt _ (Nat.two_pow_pos lo)
  have : 2 ^ n * 2 ^ lo * (x / 2 ^ lo / 2 ^ n) + x % 2 ^ lo + v % 2 ^ n * 2 ^ lo =
      x % 2 ^ lo + 2 ^ lo * (v % 2 ^ n + 2 ^ n * (x / 2 ^ lo / 2 ^ n)) := by ring
  rw [this, Nat.add_mul_div_left _ _ (Nat.two_pow_pos lo), Nat.div_eq_of_lt hl, Nat.zero_add, Nat.add_mul_mod_self_left, Nat.mod_mod]

theorem field_lt (x lo n : Nat) : field x lo n < 2 ^ n := Nat.mod_lt _ (Nat.two_pow_pos n)

/-- A field above the written one reads as before. -/
theorem field_setField_above (x lo n v lo' n' : Nat) (h : lo + n ≤ lo') : field (setField x lo n v) lo' n' = field x lo' n' := by
  unfold setField field
  simp only [Nat.shiftRight_eq_div_pow]
  have key : (x - x / 2 ^ lo % 2 ^ n * 2 ^ lo + v % 2 ^ n * 2 ^ lo) / 2 ^ (lo + n) = x / 2 ^ (lo + n) := by
    have h1 := Nat.div_add_mod x (2 ^ lo)
    have h2 := Nat.div_add_mod (x / 2 ^ lo) (2 ^ n)
    have h3 : x = 2 ^ (lo + n) * (x / 2 ^ lo / 2 ^ n) + x / 2 ^ lo % 2 ^ n * 2 ^ lo + x % 2 ^ lo := by
      rw [pow_add]
      calc x = 2 ^ lo * (x / 2 ^ lo) + x % 2 ^ lo := h1.symm
        _ = 2 ^ lo * (2 ^ n * (x / 2 ^ lo / 2 ^ n) + x / 2 ^ lo % 2 ^ n) + x % 2 ^ lo := by rw [h2]
        _ = _ := by ring
    have hl : x % 2 ^ lo < 2 ^ lo := Nat.mod_lt _ (Nat.two_pow_pos lo)
    have hv : v % 2 ^ n < 2 ^ n := Nat.mod_lt _ (Nat.two_pow_pos n)
    have hb : v % 2 ^ n * 2 ^ lo + x % 2 ^ lo < 2 ^ (lo + n) := by
      rw [pow_add]
      calc v % 2 ^ n * 2 ^ lo + x % 2 ^ lo < v % 2 ^ n * 2 ^ lo + 2 ^ lo := by omega
        _ = (v % 2 ^ n + 1) * 2 ^ lo := by ring
        _ ≤ 2 ^ n * 2 ^ lo := Nat.mul_le_mul_right _ hv
        _ = 2 ^ lo * 2 ^ n := by ring
    have e : x - x / 2 ^ lo % 2 ^ n * 2 ^ lo + v % 2 ^ n * 2 ^ lo = v % 2 ^ n * 2 ^ lo + x % 2 ^ lo + 2 ^ (lo + n) * (x / 2 ^ lo / 2 ^ n) := by omega
    rw [e, Nat.add_mul_div_left _ _ (Nat.two_pow_pos _), Nat.div_eq_of_lt hb, Nat.zero_add, pow_add, ← Nat.div_div_eq_div_mul]
  have e2 : 2 ^ lo' = 2 ^ (lo + n) * 2 ^ (lo' - (lo + n)) := by rw [← pow_add]; congr 1; omega
  rw [e2, ← Nat.div_div_eq_div_mul, key, ← Nat.div_div_eq_div_mul]

/-- A field below the written one reads as before. -/
theorem field_setField_below (x lo n v lo' n' : Nat) (h : lo' + n' ≤ lo) : field (setField x lo n v) lo' n' = field x lo' n' := by
  unfold setField field
  simp only [Nat.shiftRight_eq_div_pow]
  have e2 : 2 ^ lo = 2 ^ lo' * (2 ^ n' * 2 ^ (lo - lo' - n')) := by rw [← pow_add, ← pow_add]; congr 1; omega
  have hle : x / 2 ^ lo % 2 ^ n * 2 ^ lo ≤ x := by
    calc x / 2 ^ lo % 2 ^ n * 2 ^ lo ≤ x / 2 ^ lo * 2 ^ lo := Nat.mul_le_mul_right _ (Nat.mod_le _ _)
      _ ≤ x := Nat.div_mul_le_self _ _
  generalize x / 2 ^ lo % 2 ^ n = a at *
  generalize v % 2 ^ n = b
  rw [e2] at hle ⊢
  generalize 2 ^ (lo - lo' - n') = g at *
  have : x - a * (2 ^ lo' * (2 ^ n' * g)) = x - 2 ^ lo' * (2 ^ n' * (g * a)) := by congr 1; ring
  have hx : ∃ y, x = y + 2 ^ lo' * (2 ^ n' * (g * a)) := ⟨x - 2 ^ lo' * (2 ^ n' * (g * a)), by
    have : a * (2 ^ lo' * (2 ^ n' * g)) = 2 ^ lo' * (2 ^ n' * (g * a)) := by ring
    omega⟩
  obtain ⟨y, hy⟩ := hx
  rw [this, hy, Nat.add_sub_cancel, Nat.add_mul_div_left _ _ (Nat.two_pow_pos lo'), Nat.add_mul_mod_self_left,
    show b * (2 ^ lo' * (2 ^ n' * g)) = 2 ^ lo' * (2 ^ n' * (g * b)) by ring, Nat.add_mul_div_left _ _ (Nat.two_pow_pos lo'),
    Nat.add_mul_mod_self_left]

end Sys2Proof
end

