-- ==== Sys2Proof/Laws/Sequencer.lean ====
section
/-!
SUPPORT. What a queue-extension instruction and an instruction at the pc can do: retire, trap or stall (08 R263-R276).
-/
namespace Sys2Proof.Machine

theorem qxWord_fields (f7 f3 rd rs1 rs2 : Nat) (h7 : f7 < 128) (h3 : f3 < 8) (hd : rd < 32) (h1 : rs1 < 32) (h2 : rs2 < 32) :
    field (qxWord f7 f3 rd rs1 rs2) 25 7 = f7 ∧ field (qxWord f7 f3 rd rs1 rs2) 12 3 = f3 ∧ field (qxWord f7 f3 rd rs1 rs2) 7 5 = rd ∧
    field (qxWord f7 f3 rd rs1 rs2) 15 5 = rs1 ∧ field (qxWord f7 f3 rd rs1 rs2) 20 5 = rs2 := by
  simp only [field, qxWord, Nat.shiftRight_eq_div_pow]
  refine ⟨?_, ?_, ?_, ?_, ?_⟩ <;> norm_num <;> omega

theorem State.actQx_eq {s : State} {p f7 f3 rd rs1 rs2 : Nat} (hd : rd < 32) (h1 : rs1 < 32) (h2 : rs2 < 32) :
    s.actQx p f7 f3 rd rs1 rs2 = s.actCore .core p fun m => queueCmd m p (qxWord f7 f3 rd rs1 rs2) := by
  unfold State.actQx; rw [if_pos ⟨hd, h1, h2⟩]

theorem Chip.endStall_core {m : Chip} {p : Nat} (h : (m.core p).seq.stall = none) : (m.endStall p).core p = m.core p := by
  unfold Chip.endStall; rw [Chip.core_onCore_self]; simp only [h]

theorem Chip.endStall_sameBut (m : Chip) (p : Nat) : m.sameBut p (m.endStall p) := Chip.sameBut_onCore _ _ _

theorem Chip.seqRuns_stall {s : Chip} {p : Nat} (h : s.seqRuns p = true) : (s.core p).seq.stall = none := by
  unfold Chip.seqRuns at h
  simp only [Bool.and_eq_true] at h
  exact Option.isNone_iff_eq_none.1 h.2

@[simp] theorem Core.setX_stall (c : Core) (i : Nat) (v : Word) : (c.setX i v).seq.stall = c.seq.stall := by
  unfold Core.setX; split <;> rfl
@[simp] theorem Core.setX_pc (c : Core) (i : Nat) (v : Word) : (c.setX i v).seq.pc = c.seq.pc := by
  unfold Core.setX; split <;> rfl

/-- A write of an integer register changes nothing else. -/
theorem Core.setX_keep {γ : Type} (g : Core → γ) (h : ∀ (c : Core) (x : NatMap), g { c with seq := { c.seq with x := x } } = g c)
    (c : Core) (i : Nat) (v : Word) : g (c.setX i v) = g c := by
  unfold Core.setX
  split
  · rfl
  · exact h c _

theorem Core.barrier_setBarrier (c : Core) (b : Nat) (x : Barrier) : (c.setBarrier b x).barrier b = x := Map.get_put_self _ _ _

/-- A read after a write of an integer register; x0 stays 0. -/
theorem Core.xr_setX (c : Core) (i j : Nat) (v : Word) : (c.setX i v).xr j = if j = i ∧ i ≠ 0 then v else c.xr j := by
  unfold Core.setX
  by_cases hi : i = 0
  · rw [if_pos hi, if_neg fun h => h.2 hi]
  · rw [if_neg hi]
    unfold Core.xr
    by_cases hj : j = 0
    · rw [if_pos hj, if_pos hj, if_neg fun h => hi (h.1.symm.trans hj)]
    · rw [if_neg hj, if_neg hj]
      show BitVec.ofNat 32 (Map.get (fun _ => 0) (Map.put (fun _ => 0) c.seq.x i v.toNat) j) = _
      rw [Map.get_put]
      by_cases h : j = i
      · rw [if_pos h, if_pos ⟨h, hi⟩]; simp
      · rw [if_neg h, if_neg fun k => h k.1]; rfl

/-- An instruction that retires. -/
theorem seqApply_ok {s m : Chip} (u : Chip) {p w len : Nat} {pc : Word} (hb : s.sameBut p m) (hst : (m.core p).seq.stall = none) :
    s.sameBut p (seqApply u p w len (.ok m pc)) ∧ (seqApply u p w len (.ok m pc)).core p = (m.core p).retired pc := by
  refine ⟨Chip.sameBut_trans (Chip.sameBut_trans hb (Chip.endStall_sameBut m p)) (Chip.sameBut_onCore _ _ _), ?_⟩
  show ((m.endStall p).onCore p _).core p = _
  rw [Chip.core_onCore_self, Chip.endStall_core hst]
  rfl

/-- An instruction that traps: one of the program raises its event. -/
theorem seqApply_trap {s m : Chip} {p w len cause tval : Nat} (hb : s.sameBut p m) (hst : (m.core p).seq.stall = none) :
    s.sameBut p (seqApply s p w len (.trap m cause tval)) ∧ (seqApply s p w len (.trap m cause tval)).core p =
      (if (m.core p).seq.uMode then ((m.core p).trapM false cause tval).raise evProgram (cause + (m.core p).seq.pc.toNat * 2 ^ 32)
       else (m.core p).trapM false cause tval) := by
  refine ⟨Chip.sameBut_trans (Chip.sameBut_trans hb (Chip.endStall_sameBut m p)) (Chip.sameBut_onCore _ _ _), ?_⟩
  show ((m.endStall p).onCore p _).core p = _
  rw [Chip.core_onCore_self, Chip.endStall_core hst]

theorem queueCmd_eq {s : State} {p : Nat} (w : Nat) (hs : s.sequencing p) : queueCmd s.chip p w = seqApply s.chip p w 4 (execQx s.chip p w) := by
  unfold queueCmd; rw [if_pos hs.2.2]

/-- A queue-extension instruction that retires. -/
theorem qx_completes {i : Instr} {s : State} {p w : Nat} {m : Chip} {pc : Word} (hs : s.sequencing p)
    (he : exec i s = s.actCore .core p fun m => queueCmd m p w) (hr : execQx s.chip p w = .ok m pc)
    (hb : s.chip.sameBut p m) (hst : (m.core p).seq.stall = none) : Completes i s (s.onlyCore p ((m.core p).retired pc)) := by
  have k := seqApply_ok s.chip (w := w) (len := 4) (pc := pc) hb hst
  have e := queueCmd_eq w hs
  rw [hr] at e
  exact completes_onlyCore hs.2.1 (State.active_core hs.1) he (by rw [e]; exact k.1) (by rw [e]; exact k.2)

/-- A queue-extension instruction that traps, in M-mode. -/
theorem qx_traps {i : Instr} {s : State} {p w cause tval : Nat} (hs : s.sequencing p)
    (he : exec i s = s.actCore .core p fun m => queueCmd m p w) (hr : execQx s.chip p w = .trap s.chip cause tval)
    (hu : (s.chip.core p).seq.uMode = false) : Completes i s (s.onlyCore p ((s.chip.core p).trapM false cause tval)) := by
  have k := seqApply_trap (w := w) (len := 4) (cause := cause) (tval := tval) (Chip.sameBut_refl p s.chip) (Chip.seqRuns_stall hs.2.2)
  have e := queueCmd_eq w hs
  rw [hr] at e
  rw [hu] at k
  exact completes_onlyCore hs.2.1 (State.active_core hs.1) he (by rw [e]; exact k.1) (by rw [e]; exact k.2)

/-- An exact next state gives any of its consequences. -/
theorem Completes.imp {i : Instr} {s : State} {P Q : State → Prop} (h : Completes i s P) (k : ∀ t, P t → Q t) : Completes i s Q :=
  let ⟨t, h1, h2⟩ := h
  ⟨t, h1, k t h2⟩

theorem State.onlyCore_coreOnly {s t : State} {p : Nat} {c : Core} (h : s.onlyCore p c t) : s.coreOnly p t := ⟨h.1, h.2.1⟩

/-- A core that a command changed, up to what settling changes. -/
theorem State.onlyCore_core {s t : State} {p : Nat} {c : Core} (h : s.onlyCore p c t) : ∃ a n e f,
    t.chip.core p = { (if n = 0 then c else c.bump rDVT_PREF_CNT n) with progAt := a, fwdElig := e, prefAt := f, vrNew := [] } := by
  obtain ⟨a, n, e, f, k⟩ := Core.settled_eq (s.chip.core p) c (max (s.chip.cycleNow p) c.cyc)
  exact ⟨a, n, e, f, by rw [h.2.2, k]⟩

/-- Whatever reads nothing that settling changes is as the command left it. -/
theorem State.onlyCore_keep {γ : Type} (g : Core → γ) (h1 : ∀ (c : Core) a e f, g { c with progAt := a, fwdElig := e, prefAt := f } = g c)
    (h2 : ∀ (c : Core) a v, g (c.setReg a v) = g c) (h3 : ∀ (c : Core) x, g { c with vrNew := x } = g c) {s t : State} {p : Nat} {c : Core}
    (h : s.onlyCore p c t) : g (t.chip.core p) = g c := by
  rw [h.2.2, h3, Core.settled_keep g h1 h2]

/-- An instruction at the pc that retires. -/
theorem rv_completes {s : State} {p w len : Nat} {m : Chip} {pc : Word} (hs : s.sequencing p)
    (hf : (s.chip.core p).fetch = .ok (w, len)) (hr : execFetched s.chip p w len = .ok m pc)
    (hb : s.chip.sameBut p m) (hst : (m.core p).seq.stall = none) : Completes (.rvInstruction p) s (s.onlyCore p ((m.core p).retired pc)) := by
  have k := seqApply_ok s.chip (w := w) (len := len) (pc := pc) hb hst
  have e : rvInstructionCmd s.chip p = seqApply s.chip p w len (execFetched s.chip p w len) := by
    unfold rvInstructionCmd
    rw [hs.2.2, if_neg (by decide), hf]
  rw [hr] at e
  exact completes_onlyCore hs.2.1 (State.active_core hs.1) rfl (by rw [e]; exact k.1) (by rw [e]; exact k.2)

/-- An instruction at the pc that traps. -/
theorem rv_traps {s : State} {p w len cause tval : Nat} (hs : s.sequencing p)
    (hf : (s.chip.core p).fetch = .ok (w, len)) (hr : execFetched s.chip p w len = .trap s.chip cause tval) :
    Completes (.rvInstruction p) s (s.onlyCore p (if (s.chip.core p).seq.uMode then ((s.chip.core p).trapM false cause tval).raise evProgram (cause + (s.chip.core p).seq.pc.toNat * 2 ^ 32)
       else (s.chip.core p).trapM false cause tval)) := by
  have k := seqApply_trap (w := w) (len := len) (cause := cause) (tval := tval) (Chip.sameBut_refl p s.chip) (Chip.seqRuns_stall hs.2.2)
  have e : rvInstructionCmd s.chip p = seqApply s.chip p w len (execFetched s.chip p w len) := by
    unfold rvInstructionCmd
    rw [hs.2.2, if_neg (by decide), hf]
  rw [hr] at e
  exact completes_onlyCore hs.2.1 (State.active_core hs.1) rfl (by rw [e]; exact k.1) (by rw [e]; exact k.2)

/-- A read after a write of a stored CSR. -/
theorem Core.csr_setCsr (c : Core) (n v m : Nat) : (c.setCsr n v).csr m = if m = n then v else c.csr m := by
  unfold Core.csr Core.setCsr NatMap.rd NatMap.wr
  show (if m = csrMcounteren then Map.get (fun _ => 0) (Map.put (fun _ => 0) c.seq.csr n _) m ^^^ 5 else Map.get (fun _ => 0) (Map.put (fun _ => 0) c.seq.csr n _) m) = _
  rw [Map.get_put]
  by_cases h : m = n
  · subst h
    simp only [if_true]
    by_cases k : m = csrMcounteren
    · simp only [k, if_true]; rw [Nat.xor_assoc, Nat.xor_self, Nat.xor_zero]
    · simp only [k, if_false]
  · simp only [h, if_false]

end Sys2Proof.Machine
end

