-- ==== Sys2Proof/Laws/Time.lean ====
section
/-!
SUPPORT. What counting the time base can do (09 R318), and folds that keep a part of the state.
-/
namespace Sys2Proof.Machine

/-- A fold keeps what each of its steps keeps. -/
theorem foldl_keep {α β γ : Type} (g : α → γ) (f : α → β → α) (h : ∀ a b, g (f a b) = g a) (l : List β) : ∀ a, g (l.foldl f a) = g a := by
  induction l with
  | nil => intro a; rfl
  | cons b l ih => intro a; rw [List.foldl_cons, ih, h]

/-- The progress timers change cores alone. -/
theorem Chip.progTicks_keep {γ : Type} (g : Chip → γ) (hg : ∀ (s : Chip) p f, g (s.onCore p f) = g s) (s : Chip) (n : Nat) :
    g (s.progTicks n) = g s := by
  unfold Chip.progTicks
  split
  · rfl
  · apply foldl_keep
    rintro a ⟨x, y, p⟩
    dsimp only
    split
    · exact hg _ _ _
    · split
      · exact hg _ _ _
      · rfl

/-- The engines' run changes cores alone. -/
theorem Chip.coresRun_keep {γ : Type} (g : Chip → γ) (hg : ∀ (s : Chip) p c, g (s.setCore p c) = g s) (s t : Chip) :
    g (s.coresRun t) = g s := foldl_keep g _ (fun _ _ => hg _ _ _) _ _

theorem Chip.ctbAdd_now (s : Chip) (adv adj frac : Nat) : (s.ctbAdd adv adj frac).reg rCTB_NOW = (s.reg rCTB_NOW + adv) % 2 ^ 64 := by
  show ((s.bump rCTB_NOW adv).bump rCTB_ADJ_CNT adj).reg rCTB_NOW = _
  unfold Chip.bump
  rw [Chip.reg_setReg, if_neg (by decide), Chip.reg_setReg_self]

theorem Chip.ctbAdd_adj (s : Chip) (adv adj frac : Nat) : (s.ctbAdd adv adj frac).reg rCTB_ADJ_CNT = (s.reg rCTB_ADJ_CNT + adj) % 2 ^ 64 := by
  show ((s.bump rCTB_NOW adv).bump rCTB_ADJ_CNT adj).reg rCTB_ADJ_CNT = _
  unfold Chip.bump
  rw [Chip.reg_setReg_self, Chip.reg_setReg, if_neg (by decide)]

theorem Chip.ctbAdd_other (s : Chip) (adv adj frac a : Nat) (h1 : a ≠ rCTB_NOW) (h2 : a ≠ rCTB_ADJ_CNT) :
    (s.ctbAdd adv adj frac).reg a = s.reg a := by
  show ((s.bump rCTB_NOW adv).bump rCTB_ADJ_CNT adj).reg a = _
  unfold Chip.bump
  rw [Chip.reg_setReg, if_neg h2, Chip.reg_setReg, if_neg h1]

/-- `n` cycles of a time base that counts, as the four updates they are. -/
theorem Chip.ctbRun_eq (s : Chip) (n : Nat) (h : s.ticking = true) :
    s.ctbRun n = (((s.ctbAdd (s.trimSum n / 2 ^ 32).toNat (s.trimSum n / 2 ^ 32 - n).natAbs (s.trimSum n % 2 ^ 32).toNat).progTicks
      (s.trimSum n / 2 ^ 32).toNat).coresRun s).traceRun (s.trimSum n / 2 ^ 32).toNat := by
  unfold Chip.ctbRun
  rw [h]
  rfl

/-- Registers after `n` cycles. -/
theorem Chip.ctbRun_reg (s : Chip) (n a : Nat) (h : s.ticking = true) :
    (s.ctbRun n).reg a = (s.ctbAdd (s.trimSum n / 2 ^ 32).toNat (s.trimSum n / 2 ^ 32 - n).natAbs (s.trimSum n % 2 ^ 32).toNat).reg a := by
  rw [Chip.ctbRun_eq s n h]
  unfold Chip.reg
  rw [show ∀ (m : Chip) k, (m.traceRun k).regs = m.regs from fun _ _ => rfl]
  rw [Chip.coresRun_keep (·.regs) (fun _ _ _ => rfl), Chip.progTicks_keep (·.regs) (fun _ _ _ => rfl)]

theorem Chip.ctbRun_frac (s : Chip) (n : Nat) (h : s.ticking = true) : (s.ctbRun n).ctbFrac = (s.trimSum n % 2 ^ 32).toNat := by
  rw [Chip.ctbRun_eq s n h, show ∀ (m : Chip) k, (m.traceRun k).ctbFrac = m.ctbFrac from fun _ _ => rfl]
  rw [Chip.coresRun_keep (·.ctbFrac) (fun _ _ _ => rfl), Chip.progTicks_keep (·.ctbFrac) (fun _ _ _ => rfl)]
  rfl

/-- What counting never touches. -/
theorem Chip.ctbRun_keep {γ : Type} (g : Chip → γ) (hc : ∀ (s : Chip) p c, g (s.setCore p c) = g s)
    (ha : ∀ (s : Chip) a b c, g (s.ctbAdd a b c) = g s) (ht : ∀ (s : Chip) n, g (s.traceRun n) = g s) (s : Chip) (n : Nat) :
    g (s.ctbRun n) = g s := by
  by_cases h : s.ticking = true
  · rw [Chip.ctbRun_eq s n h, ht, Chip.coresRun_keep g hc, Chip.progTicks_keep g (fun _ _ _ => hc _ _ _), ha]
  · unfold Chip.ctbRun
    simp only [h, Bool.not_false, if_true]
    split
    · rfl
    · exact ht _ _

end Sys2Proof.Machine
end

