-- ==== Sys2Proof/Laws/Engine.lean ====
section
/-!
SUPPORT. What a launch of an engine can do (04, 05, 07): one more executing issue of that engine; the other engine, the
local store, the sequencer and the other cores stay as they were.
-/
namespace Sys2Proof.Machine

theorem eng_setEng (c : Core) (be : Bool) (e : Eng) : (c.setEng be e).eng be = e := by cases be <;> rfl
theorem eng_setEng_ne (c : Core) (be : Bool) (e : Eng) : (c.setEng be e).eng (!be) = c.eng (!be) := by cases be <;> rfl

/-- The engines, the local store and the sequencer of a core. -/
def coreKey (c : Core) : Eng × Eng × Bytes × Seq := (c.fe, c.be, c.store, c.seq)

theorem key_setReg (c : Core) (a v : Nat) : coreKey (c.setReg a v) = coreKey c := rfl
theorem key_bump (c : Core) (a v : Nat) : coreKey (c.bump a v) = coreKey c := rfl
theorem key_raise (c : Core) (a v : Nat) : coreKey (c.raise a v) = coreKey c := rfl
theorem key_recordHazard (be : Bool) (a b c d e f : Nat) (x : Core) : coreKey (recordHazard be a b c d e f x) = coreKey x := by
  unfold recordHazard; extract_lets u v w; split
  · exact (key_setReg _ _ _).trans (key_bump _ _ _)
  · exact (key_setReg _ _ _).trans ((key_setReg _ _ _).trans (key_bump _ _ _))
theorem key_countPoison (be : Bool) (p : BitVec 2) (n : Nat) (x : Core) : coreKey (countPoison be p n x) = coreKey x := by
  unfold countPoison; split
  · rfl
  · exact key_bump _ _ _
theorem exec_markAll (p : BitVec 2) (ds : List Nat) (e : Eng) : (e.markAll p ds).exec = e.exec := by
  unfold Eng.markAll
  refine foldl_keep (·.exec) _ (fun e d => ?_) ds e
  unfold Eng.mark; split
  · rfl
  · split <;> rfl
theorem exec_markFold (p : BitVec 2) (l : List Issue) (e : Eng) : (l.foldl (fun e x => e.markAll p x.dests) e).exec = e.exec :=
  foldl_keep (·.exec) _ (fun e _ => exec_markAll p _ e) l e

/-! ### Rows in time -/

/-- An issue but for its rows. -/
def Issue.head (x : Issue) : Issue := { x with rows := [] }

theorem set_heads (l : List Issue) (k : Nat) (x y : Issue) (h : l[k]? = some x) (hy : y.head = x.head) :
    (l.set k y).map Issue.head = l.map Issue.head := by
  rw [List.map_set, hy]
  obtain ⟨hk, hx⟩ := List.getElem?_eq_some_iff.1 h
  refine List.ext_getElem (by simp) fun i h1 h2 => ?_
  rw [List.getElem_set]
  split
  · rename_i hi; subst hi; simp [hx]
  · rfl

/-- A row event changes accumulators and the rows of issues, nothing else of an engine. -/
theorem Eng.rowEvent_eq (e : Eng) (v : Nat × Bool × Nat × Nat × Nat) :
    ∃ a x, e.rowEvent v = { e with a := a, exec := x } ∧ x.map Issue.head = e.exec.map Issue.head := by
  unfold Eng.rowEvent
  split
  · exact ⟨e.a, e.exec, rfl, rfl⟩
  · rename_i x hx
    split
    · dsimp only
      split
      · exact ⟨_, _, rfl, set_heads _ _ _ _ hx rfl⟩
      · exact ⟨e.a, _, rfl, set_heads _ _ _ _ hx rfl⟩
    · exact ⟨e.a, e.exec, rfl, rfl⟩

/-- So does an engine that runs on. -/
theorem Eng.advance_eq (e : Eng) (cyc : Nat) :
    ∃ a x, e.advance cyc = { e with a := a, exec := x } ∧ x.map Issue.head = e.exec.map Issue.head := by
  unfold Eng.advance
  generalize e.rowEvents cyc = l
  induction l generalizing e with
  | nil => exact ⟨e.a, e.exec, rfl, rfl⟩
  | cons v l ih =>
    obtain ⟨a, x, h, k⟩ := e.rowEvent_eq v
    rw [List.foldl_cons, h]
    obtain ⟨a', x', h', k'⟩ := ih { e with a := a, exec := x }
    exact ⟨a', x', h', k'.trans k⟩

theorem Eng.advance_length (e : Eng) (cyc : Nat) : (e.advance cyc).exec.length = e.exec.length := by
  obtain ⟨a, x, h, k⟩ := e.advance_eq cyc
  rw [h]
  simpa using congrArg List.length k

/-- Hazards that are recorded change registers and the list of those to come. -/
theorem Core.hazardsTo_keep {γ : Type} (g : Core → γ) (hr : ∀ (c : Core) a v, g (c.setReg a v) = g c) (c : Core) (be : Bool) (tk : Nat → Nat) (cyc : Nat) :
    g (c.hazardsTo be tk cyc) = g (c.setEng be { c.eng be with hz := (c.eng be).hz.filter fun h => !decide (h.at_ ≤ cyc) }) := by
  unfold Core.hazardsTo
  refine foldl_keep g _ (fun c h => ?_) _ _
  unfold recordHazard
  extract_lets u v w
  split
  · exact (hr _ _ _).trans (hr _ _ _)
  · exact (hr _ _ _).trans ((hr _ _ _).trans (hr _ _ _))

/-- A core in which an engine has run up to a cycle. -/
theorem Core.runEng_key (c : Core) (be : Bool) (tk : Nat → Nat) (cyc : Nat) :
    coreKey (c.runEng be tk cyc) = coreKey (c.setEng be { (c.eng be).advance cyc with
      hz := ((c.eng be).advance cyc).hz.filter fun h => !decide (h.at_ ≤ cyc) }) := by
  unfold Core.runEng
  rw [Core.hazardsTo_keep coreKey fun _ _ _ => rfl, eng_setEng]
  cases be <;> rfl

theorem key_eng {c d : Core} (h : coreKey c = coreKey d) (b : Bool) : c.eng b = d.eng b := by
  cases b
  · exact congrArg (·.1) h
  · exact congrArg (·.2.1) h

/-- Whatever reads neither registers nor engines is kept as an engine runs. -/
theorem Core.runEng_keep {γ : Type} (g : Core → γ) (hr : ∀ (c : Core) a v, g (c.setReg a v) = g c) (he : ∀ (c : Core) b e, g (c.setEng b e) = g c)
    (c : Core) (be : Bool) (tk : Nat → Nat) (cyc : Nat) : g (c.runEng be tk cyc) = g c := by
  unfold Core.runEng
  rw [Core.hazardsTo_keep g hr, he, he]

/-! ### Issues -/

/-- The core is the same but for one engine, in which as many issues execute. -/
def alike (c c' : Core) (be : Bool) : Prop :=
  (c'.eng be).exec.length = (c.eng be).exec.length ∧ (c'.eng be).active = (c.eng be).active ∧ (c'.eng (!be)) = c.eng (!be) ∧
  c'.store = c.store ∧ c'.seq = c.seq

/-- What an issue leaves: one more executing issue at the end of its engine; the other engine, the store and the
sequencer as they were. -/
def issued (c c' : Core) (be : Bool) (op launch : Nat) (dests : List Nat) : Prop :=
  (∃ xs y, (c'.eng be).exec = xs ++ [y] ∧ xs.length = (c.eng be).exec.length ∧ y.op = op ∧ y.launch = launch ∧ y.dests = dests) ∧
  (c'.eng (!be)) = c.eng (!be) ∧ c'.store = c.store ∧ c'.seq = c.seq

theorem issued_of_key {c c1 c' : Core} {be : Bool} {op launch : Nat} {dests : List Nat} (hk : coreKey c' = coreKey c1)
    (h : issued c c1 be op launch dests) : issued c c' be op launch dests := by
  unfold issued
  rw [key_eng hk, key_eng hk, show c'.store = c1.store from congrArg (·.2.2.1) hk, show c'.seq = c1.seq from congrArg (·.2.2.2) hk]
  exact h

theorem issued_of_alike {c c0 c' : Core} {be : Bool} {op launch : Nat} {dests : List Nat} (h0 : alike c c0 be)
    (h : issued c0 c' be op launch dests) : issued c c' be op launch dests := by
  obtain ⟨⟨xs, y, a1, a2, a3⟩, b1, b2, b3⟩ := h
  obtain ⟨h1, -, h2, h3, h4⟩ := h0
  exact ⟨⟨xs, y, a1, a2.trans h1, a3⟩, b1.trans h2, b2.trans h3, b3.trans h4⟩

theorem alike_of_key {c c1 c' : Core} {be : Bool} (hk : coreKey c' = coreKey c1) (h : alike c c1 be) : alike c c' be := by
  unfold alike
  rw [key_eng hk, key_eng hk, show c'.store = c1.store from congrArg (·.2.2.1) hk, show c'.seq = c1.seq from congrArg (·.2.2.2) hk]
  exact h

theorem alike_setEng (c : Core) (be : Bool) (e : Eng) (h : e.exec.length = (c.eng be).exec.length) (ha : e.active = (c.eng be).active) :
    alike c (c.setEng be e) be := by
  refine ⟨by rw [eng_setEng]; exact h, by rw [eng_setEng]; exact ha, eng_setEng_ne _ _ _, by cases be <;> rfl, by cases be <;> rfl⟩

theorem length_markFold (l : List Issue) (e : Eng) :
    (l.foldl (fun (e : Eng) x => (e.markAll poisonH x.dests).markIssue x) e).exec.length = e.exec.length := by
  refine foldl_keep (fun e : Eng => e.exec.length) _ (fun e x => ?_) l e
  unfold Eng.markIssue
  dsimp only
  rw [List.length_map, exec_markAll]

/-- Marks on earlier issues leave as many of them. -/
theorem length_clashMarks (c : Core) (be : Bool) (l : List Issue) : ∃ e, e.exec.length = (c.eng be).exec.length ∧
    coreKey (c.clashMarks be l) = coreKey (c.setEng be e) := by
  unfold Core.clashMarks
  exact ⟨_, length_markFold l (c.eng be), foldl_keep coreKey _ (fun c x => key_countPoison _ _ _ _) _ _⟩

/-- An issue that is added to an engine which holds as many as before. -/
theorem issued_add (c : Core) (be : Bool) (e : Eng) (clash : List Issue) (x : Issue) (hz : List Hazard) (h : e.exec.length = (c.eng be).exec.length) :
    issued c (((c.setEng be e).clashMarks be clash).addIssue be x hz) be x.op x.launch x.dests := by
  obtain ⟨e', h1, hk⟩ := length_clashMarks (c.setEng be e) be clash
  rw [eng_setEng] at h1
  have hs : ∀ e1 : Eng, ((c.setEng be e).clashMarks be clash).setEng be e1 = (((c.setEng be e).clashMarks be clash).setEng be e1) := fun _ => rfl
  unfold Core.addIssue
  dsimp only
  have k1 := key_eng hk be
  have k2 := key_eng hk (!be)
  rw [eng_setEng] at k1
  rw [eng_setEng_ne, eng_setEng_ne] at k2
  refine ⟨⟨((c.setEng be e).clashMarks be clash |>.eng be).exec, x, by rw [eng_setEng], by rw [k1, h1, h], rfl, rfl, rfl⟩, ?_, ?_, ?_⟩
  · rw [eng_setEng_ne, k2]
  · exact Eq.trans (by cases be <;> rfl) ((congrArg (·.2.2.1) hk).trans (by cases be <;> rfl))
  · exact Eq.trans (by cases be <;> rfl) ((congrArg (·.2.2.2) hk).trans (by cases be <;> rfl))

theorem issueLoad_issued (c : Core) (be : Bool) (w : BitVec 128) (iofs iter cyc s1 : Nat) (bp : Bool) :
    issued c (issueLoad c be w iofs iter cyc s1 bp) be (wOp w) cyc
      ((List.range 4).map fun a => 100 + (2 * a + (1 - b2n (bitOf (c.eng be).active a)))) := by
  unfold issueLoad
  extract_lets e flw form pair group bad regs reads occ clash pend h r p shadow bufs hit tr load haz e2 c1 c2 c3 c4 c5
  have k5 : coreKey c5 = coreKey c4 := by unfold c5; split <;> [exact key_raise _ _ _; rfl]
  have k4 : coreKey c4 = coreKey c3 := by unfold c4; split <;> [exact key_raise _ _ _; rfl]
  have k3 : coreKey c3 = coreKey c2 := foldl_keep coreKey _ (fun c x => key_countPoison _ _ _ _) _ _
  refine issued_of_key ((key_countPoison _ _ _ _).trans (k5.trans (k4.trans k3))) ?_
  have he : e2.exec.length = e.exec.length := by
    refine congrArg List.length (Eq.trans (foldl_keep (·.exec) load (fun e a => ?_) _ _) (exec_markFold _ _ _))
    rfl
  have hd : bufs.map (100 + ·) = (List.range 4).map fun a => 100 + (2 * a + (1 - b2n (bitOf (c.eng be).active a))) := by
    unfold bufs; rw [List.map_map]; rfl
  rw [← hd]
  exact issued_add c be e2 clash _ haz he

theorem issueMask_issued (c : Core) (w : BitVec 128) (iofs iter cyc s1 : Nat) (bp : Bool) :
    issued c (issueMask c w iofs iter cyc s1 bp) true 0x13 cyc [200 + field (wFlw w) 0 2] := by
  unfold issueMask
  extract_lets e m t bad clash h r v p haz c1 c2
  have k2 : coreKey c2 = coreKey c1 := by unfold c2; split <;> [exact key_raise _ _ _; rfl]
  refine issued_of_key ((key_countPoison _ _ _ _).trans k2) ?_
  exact issued_add c true e clash _ haz rfl

theorem issueMma_issued (c : Core) (be : Bool) (w : BitVec 128) (iofs iter cyc s0 s2 : Nat) (clr swap bp : Bool) :
    issued c (issueMma c be w iofs iter cyc s0 s2 clr swap bp) be (wOp w) cyc ((List.range 4).map fun a => (s2 / 2 + a) % 32) := by
  unfold issueMma
  extract_lets flw gang quad group e0 e bufIdx bufs b0 t0 g pair regs reads p rdAt dests ori maskOn msel mk cols sc bad bufFrom clash pendT bufHaz rowHaz h r haz srcTile srcTags pz conflict e2 m rows cells c1 c2 c3 c4 np c5
  have k5 : coreKey c5 = coreKey c4 := by unfold c5; split <;> [rfl; exact key_bump _ _ _]
  have k4 : coreKey c4 = coreKey c3 := by unfold c4; split <;> [exact key_raise _ _ _; rfl]
  have k3 : coreKey c3 = coreKey c2 := by unfold c3; split <;> [exact key_raise _ _ _; rfl]
  have kn : ∀ (x : Core) (n : Nat), coreKey { x with nseq := n } = coreKey x := fun _ _ => rfl
  refine issued_of_key ((kn c5 _).trans (k5.trans (k4.trans k3))) ?_
  have he : e2.exec.length = (c.eng be).exec.length := by
    refine congrArg List.length (a₂ := (c.eng be).exec) ?_
    exact foldl_keep (fun x : Eng => x.exec) _ (fun e a => by rfl) (List.range 4) e
  exact issued_add c be e2 clash _ haz he

theorem spend_keep (s : Chip) (p h : Nat) : ∃ gr, (s.spendGrant p h).core p = { s.core p with grants := gr } ∧
    (∀ q, q ≠ p → (s.spendGrant p h).core q = s.core q) ∧ (s.spendGrant p h).hbm = s.hbm := by
  unfold Chip.spendGrant
  split
  · exact ⟨(s.core p).grants, rfl, fun _ _ => rfl, rfl⟩
  · rename_i g hg
    have : ∃ m : Chip, m.cores = s.cores ∧ m.hbm = s.hbm ∧ (let s1 : Chip := if g.held then { s with en := { s.en with doneCharge := s.en.doneCharge + g.charge } } else s.withdraw p h; s1) = m := by
      by_cases hh : g.held = true
      · exact ⟨{ s with en := { s.en with doneCharge := s.en.doneCharge + g.charge } }, rfl, rfl, by rw [if_pos hh]⟩
      · exact ⟨s.withdraw p h, rfl, rfl, by rw [if_neg hh]⟩
    obtain ⟨m, h1, h2, h3⟩ := this
    dsimp only at h3 ⊢
    rw [h3]
    have hc : ∀ q, m.core q = s.core q := fun q => by unfold Chip.core; rw [h1]
    refine ⟨(s.core p).grants.filter fun x => x.handle ≠ h, ?_, fun q hq => ?_, ?_⟩
    · rw [Chip.core_onCore_self, hc]
    · rw [Chip.core_onCore, if_neg hq, hc]
    · exact h2

theorem sweep_keep (s : Chip) (p : Nat) : ∃ bl gr, (s.blockSweep p).core p = { s.core p with blocks := bl, grants := gr } ∧
    (∀ q, q ≠ p → (s.blockSweep p).core q = s.core q) ∧ (s.blockSweep p).hbm = s.hbm := by
  unfold Chip.blockSweep
  extract_lets c live gone
  have key : ∀ (l : List (Nat × Bool × Nat × List Nat)) (m : Chip), ∃ gr, (l.foldl (fun (s : Chip) b => s.spendGrant p b.2.2.1) m).core p = { m.core p with grants := gr } ∧
    (∀ q, q ≠ p → (l.foldl (fun (s : Chip) b => s.spendGrant p b.2.2.1) m).core q = m.core q) ∧ (l.foldl (fun (s : Chip) b => s.spendGrant p b.2.2.1) m).hbm = m.hbm := by
    intro l
    induction l with
    | nil => intro m; exact ⟨(m.core p).grants, rfl, fun _ _ => rfl, rfl⟩
    | cons b l ih =>
      intro m
      obtain ⟨g1, a1, a2, a3⟩ := spend_keep m p b.2.2.1
      obtain ⟨g2, b1, b2, b3⟩ := ih (m.spendGrant p b.2.2.1)
      refine ⟨g2, ?_, fun q hq => (b2 q hq).trans (a2 q hq), b3.trans a3⟩
      rw [List.foldl_cons, b1, a1]
  obtain ⟨g, a1, a2, a3⟩ := key gone (s.setCore p { c with blocks := c.blocks.filter live })
  refine ⟨c.blocks.filter live, g, ?_, fun q hq => ?_, a3⟩
  · rw [a1, Chip.core_setCore_self]
  · rw [a2 q hq, Chip.core_setCore, if_neg hq]

theorem nextOp_instr (e : Eng) (h : QHalf) (hs : List QHalf) (b : Nat) (w : BitVec 128) (h1 : e.loops = []) (h2 : e.halves = h :: hs)
    (h3 : h.base = some b) (h4 : h.words[h.next]? = some w) : nextOp e = some (.instr (h.nextAt b), w) := by
  unfold nextOp launches
  simp only [h1, h2, h3, h4, List.length_nil, List.range_zero, List.filterMap_nil, List.nil_append, List.foldl_nil]

/-- An instruction that does not loop is checked without reading the core. -/
theorem encErr_plain (c d : Core) (be first : Bool) (n : Nat) (w : BitVec 128) (hl : wLnd w = 0) : encErr c be first n w = encErr d be first n w := by
  unfold encErr
  simp only [hl, ne_eq, not_true_eq_false, false_and, if_false]

theorem launchInstr_issued (c : Core) (be : Bool) (cyc : Nat) (h : QHalf) (hs : List QHalf) (w : BitVec 128) (op : Nat)
    (hh : (c.eng be).halves = h :: hs) (he : encErr c be (decide (h.next = 0)) h.prevLoff w = 0) (hl : wLnd w = 0) (h4 : (c.eng be).exec.length < 4)
    (hop : op = 0x01 ∨ op = 0x02 ∨ op = 0x11 ∨ op = 0x12 ∨ op = 0x13) (hw : wOp w = op) :
    issued c (launchInstr c be cyc h w) be op cyc (namedDests (c.eng be) w) := by
  have hb : op = 0x13 → be = true := by
    intro h13
    by_contra hn
    have : be = false := by cases be <;> simp_all
    subst this
    rw [h13] at hw
    unfold encErr at he
    simp only [hw] at he
    revert he
    simp [opIsFe, opIsBe]
  let e := c.eng be
  let iofs := h.desc.code / 16 + h.next
  let isLast := decide (h.next + 1 = h.words.length)
  let setH := fun (e : Eng) => { e with halves := { h with next := h.next + 1, prevAt := cyc, prevLoff := wLoff w, poison := h.poison || decide (encErr c be (decide (h.next = 0)) h.prevLoff w ≠ 0) } :: e.halves.drop 1 }
  let entry := (List.range 4).map (wStream w)
  unfold launchInstr
  dsimp only
  rw [if_neg (show ¬ encErr c be (decide (h.next = 0)) h.prevLoff w ≠ 0 from fun k => k he), if_pos (by rw [if_pos hl])]
  let c0 := c.setEng be (setH e)
  have l0 : alike c c0 be := alike_setEng c be _ rfl rfl
  have iss : issued c0 (launchIssue c0 be w iofs 0 cyc entry false [] h.poison) be op cyc (namedDests (c.eng be) w) := by
    have hst : ∀ k, k < 4 → (entry.getD k 0) % 64 = wStream w k := by
      intro k hk
      have : entry.getD k 0 = wStream w k := by
        unfold entry
        rw [List.getD_eq_getElem?_getD, List.getElem?_map, List.getElem?_range hk]; rfl
      rw [this]
      exact Nat.mod_eq_of_lt (by unfold wStream; exact field_lt _ _ _)
    unfold launchIssue
    extract_lets op' e' flw s
    have ho : op' = op := hw
    rw [if_neg (by rw [ho]; omega)]
    have hfil : ¬ (e'.exec.filter fun x => decide (x.finAt > cyc)).length ≥ 4 := by
      have := List.length_filter_le (fun x : Issue => decide (x.finAt > cyc)) e'.exec
      have := l0.1
      have : e'.exec.length = (c.eng be).exec.length := this
      omega
    rw [if_neg hfil]
    by_cases hm : op = 0x02 ∨ op = 0x12
    · rw [if_pos (by rw [ho]; exact hm)]
      have r := issueMma_issued c0 be w iofs 0 cyc (s 0) (s 2) (selector (bitOf flw 3) (field flw 12 3) false [])
        (selector (bitOf flw 2) (field flw 15 3) false []) h.poison
      have hd : namedDests (c.eng be) w = (List.range 4).map fun a => (s 2 / 2 + a) % 32 := by
        unfold namedDests
        simp only [hw]
        rw [if_pos hm]
        have : s 2 = wStream w 2 := hst 2 (by decide)
        rw [this]
      rw [hd]
      rw [hw] at r
      exact r
    · rw [if_neg (by rw [ho]; exact hm)]
      by_cases h13 : op = 0x13
      · rw [if_pos (by rw [ho]; exact h13)]
        have hbe := hb h13
        subst hbe
        have r := issueMask_issued c0 w iofs 0 cyc (s 1) h.poison
        have hd : namedDests (c.eng true) w = [200 + field (wFlw w) 0 2] := by
          unfold namedDests
          simp only [hw, h13]; rfl
        rw [hd, h13]; exact r
      · rw [if_neg (by rw [ho]; exact h13)]
        have r := issueLoad_issued c0 be w iofs 0 cyc (s 1) h.poison
        have hd : namedDests (c.eng be) w = (List.range 4).map fun a => 100 + (2 * a + (1 - b2n (bitOf (c0.eng be).active a))) := by
          unfold namedDests
          simp only [hw, l0.2.1]
          rw [if_neg hm, if_pos (by omega)]
          simp only [Nat.add_assoc]
        rw [hd]
        rw [hw] at r
        exact r
  refine issued_of_alike l0 ?_
  show issued c0 (if isLast = true then Core.setEng (launchIssue c0 be w iofs 0 cyc entry false [] h.poison) be
    (freeHalf ((launchIssue c0 be w iofs 0 cyc entry false [] h.poison).eng be) cyc) else launchIssue c0 be w iofs 0 cyc entry false [] h.poison) be op cyc _
  split
  · obtain ⟨⟨xs, y, a1, a2, a3⟩, b1, b2, b3⟩ := iss
    generalize launchIssue c0 be w iofs 0 cyc entry false [] h.poison = d at *
    refine ⟨⟨xs, y, ?_, a2, a3⟩, (eng_setEng_ne _ _ _).trans b1, Eq.trans (by cases be <;> rfl) b2, Eq.trans (by cases be <;> rfl) b3⟩
    rw [eng_setEng]; exact a1
  · exact iss

/-- An engine that has run up to a cycle: rows, hazards and registers apart it is as before. -/
theorem Core.runEng_eng (c : Core) (be : Bool) (tk : Nat → Nat) (cyc : Nat) :
    (c.runEng be tk cyc).eng be = { (c.eng be).advance cyc with hz := ((c.eng be).advance cyc).hz.filter fun h => !decide (h.at_ ≤ cyc) } := by
  rw [key_eng (Core.runEng_key c be tk cyc), eng_setEng]

theorem Core.runEng_alike (c : Core) (be : Bool) (tk : Nat → Nat) (cyc : Nat) : alike c (c.runEng be tk cyc) be := by
  refine alike_of_key (Core.runEng_key c be tk cyc) (alike_setEng _ _ _ (Eng.advance_length _ _) ?_)
  obtain ⟨a, x, h, -⟩ := (c.eng be).advance_eq cyc
  rw [h]

/-- The launch of an instruction that is due next. -/
theorem engineLaunch_eq (c : Core) (be : Bool) (tk : Nat → Nat) (ok : Nat → Bool) (h : QHalf) (hs : List QHalf) (b : Nat) (w : BitVec 128)
    (h1 : (c.eng be).loops = []) (h2 : (c.eng be).halves = h :: hs) (h3 : h.base = some b) (h4 : h.words[h.next]? = some w) (hk : ok (wOp w) = true) :
    ((c.runEng be tk (h.nextAt b)).eng be).halves = h :: hs ∧
    engineLaunch c be tk ok = { ((launchInstr (c.runEng be tk (h.nextAt b)) be (h.nextAt b) h w).setEng be
        (Eng.ownNew ((launchInstr (c.runEng be tk (h.nextAt b)) be (h.nextAt b) h w).eng be) (c.eng be).exec.length h.blk)).hazardsTo be tk (h.nextAt b)
      with cyc := max (c.runEng be tk (h.nextAt b)).cyc (h.nextAt b) } := by
  have hh : ((c.runEng be tk (h.nextAt b)).eng be).halves = h :: hs := by
    rw [Core.runEng_eng]
    obtain ⟨a, x, k, -⟩ := (c.eng be).advance_eq (h.nextAt b)
    rw [k]; exact h2
  refine ⟨hh, ?_⟩
  unfold engineLaunch
  dsimp only
  rw [nextOp_instr _ h hs b w h1 h2 h3 h4]
  dsimp only [NextLaunch.cyc]
  rw [if_neg (by rw [hk]; decide), hh]
  dsimp only
  rw [(Core.runEng_alike c be tk (h.nextAt b)).1]

/-- An issue launched by an engine: the last of its engine, with the block's number. -/
theorem engineLaunch_issued (c : Core) (be : Bool) (tk : Nat → Nat) (ok : Nat → Bool) (h : QHalf) (hs : List QHalf) (b : Nat) (w : BitVec 128) (op : Nat)
    (h1 : (c.eng be).loops = []) (h2 : (c.eng be).halves = h :: hs) (h3 : h.base = some b) (h4 : h.words[h.next]? = some w) (hk : ok (wOp w) = true)
    (he : encErr c be (decide (h.next = 0)) h.prevLoff w = 0) (hl : wLnd w = 0) (hn : (c.eng be).exec.length < 4)
    (hop : op = 0x01 ∨ op = 0x02 ∨ op = 0x11 ∨ op = 0x12 ∨ op = 0x13) (hw : wOp w = op) :
    let d := engineLaunch c be tk ok
    (∃ xs y, (d.eng be).exec = xs ++ [y] ∧ xs.length = (c.eng be).exec.length ∧ y.op = op ∧ y.launch = h.nextAt b ∧
      y.dests = namedDests (c.eng be) w ∧ y.blk = h.blk) ∧
    d.eng (!be) = c.eng (!be) ∧ d.store = c.store ∧ d.seq = c.seq := by
  intro d
  obtain ⟨hh, hd⟩ := engineLaunch_eq c be tk ok h hs b w h1 h2 h3 h4 hk
  have la := Core.runEng_alike c be tk (h.nextAt b)
  have hi := launchInstr_issued (c.runEng be tk (h.nextAt b)) be (h.nextAt b) h hs w op hh
    ((encErr_plain _ c _ _ _ _ hl).trans he) hl (by rw [la.1]; exact hn) hop hw
  have hnd : namedDests ((c.runEng be tk (h.nextAt b)).eng be) w = namedDests (c.eng be) w := by
    unfold namedDests; rw [la.2.1]
  rw [hnd] at hi
  obtain ⟨⟨xs, y, a1, a2, a3, a4, a5⟩, b1, b2, b3⟩ := hi
  have kk : coreKey d = coreKey _ := (congrArg coreKey hd).trans (Eq.trans (by rfl) (Core.hazardsTo_keep coreKey (fun _ _ _ => rfl) _ be tk (h.nextAt b)))
  rw [eng_setEng] at kk
  generalize launchInstr (c.runEng be tk (h.nextAt b)) be (h.nextAt b) h w = m at a1 b1 b2 b3 kk
  have e1 := key_eng kk be
  rw [eng_setEng] at e1
  rw [la.1] at a2
  refine ⟨⟨xs, { y with blk := h.blk }, ?_, a2, a3, a4, a5, rfl⟩, ?_, ?_, ?_⟩
  · rw [e1]
    show List.take _ (m.eng be).exec ++ List.map _ (List.drop _ (m.eng be).exec) = _
    rw [a1, ← a2, List.take_left', List.drop_left'] <;> rfl
  · rw [key_eng kk (!be), eng_setEng_ne, eng_setEng_ne, b1]; exact la.2.2.1
  · exact (congrArg (·.2.2.1) kk).trans (Eq.trans (by cases be <;> rfl) (b2.trans la.2.2.2.1))
  · exact (congrArg (·.2.2.2) kk).trans (Eq.trans (by cases be <;> rfl) (b3.trans la.2.2.2.2))

theorem launchCmd_keep (s : Chip) (p : Nat) (be : Bool) (ok : Nat → Bool) (c : Core) (h : engineLaunch (s.core p) be (s.tickAt p) ok = c) :
    ∃ bl gr, (launchCmd s p be ok).core p = { c with blocks := bl, grants := gr } ∧
    (∀ q, q ≠ p → (launchCmd s p be ok).core q = s.core q) ∧ (launchCmd s p be ok).hbm = s.hbm := by
  unfold launchCmd
  rw [h]
  obtain ⟨bl, gr, a1, a2, a3⟩ := sweep_keep (s.setCore p c) p
  refine ⟨bl, gr, ?_, fun q hq => ?_, a3⟩
  · rw [a1, Chip.core_setCore_self]
  · rw [a2 q hq, Chip.core_setCore, if_neg hq]
theorem settle_eng (s m : Chip) (p : Nat) : coreKey ((s.settleCore m p).core p) = coreKey (m.core p) := by
  rw [Chip.settleCore_core]
  exact Core.settled_keep coreKey (fun _ _ _ _ => rfl) (fun _ _ _ => rfl) _ _ _
theorem settle_other (s m : Chip) (p q : Nat) (h : q ≠ p) : (s.settleCore m p).core q = m.core q := Chip.core_settleCore_ne s m h
theorem settle_hbm (s m : Chip) (p : Nat) : (s.settleCore m p).hbm = m.hbm := Chip.settleCore_hbm s m p

end Sys2Proof.Machine
end

