-- ==== Sys2Proof/Laws/Core.lean ====
section
/-!
SUPPORT. Reads after writes of a core's registers, what settling keeps, grants that end, and register writes through the
control window.
-/
namespace Sys2Proof.Machine

theorem Core.reg_setField (c : Core) (a lo n v b : Nat) : (c.setField a lo n v).reg b = if b = a then Sys2Proof.setField (c.reg a) lo n v else c.reg b :=
  Core.reg_setReg _ _ _ _

/-- Whatever reads nothing that settling changes survives it. -/
theorem settle_keep {γ : Type} (g : Core → γ) (h1 : ∀ (c : Core) a e f, g { c with progAt := a, fwdElig := e, prefAt := f } = g c)
    (h2 : ∀ (c : Core) a v, g (c.setReg a v) = g c) (h3 : ∀ (c : Core) x, g { c with vrNew := x } = g c) (s m : Chip) (p : Nat) :
    g ((s.settleCore m p).core p) = g (m.core p) := by
  rw [Chip.settleCore_core, h3, Core.settled_keep g h1 h2]

theorem Stash.entry_put (x : Stash) (e : StashEntry) (f : StashEntry) (h : x.entry? f.id = some e) : (x.put f).entry? f.id = some f := by
  unfold Stash.entry? Stash.put at *
  dsimp only at *
  generalize x.entries = l at *
  induction l with
  | nil => cases h
  | cons y l ih =>
    rw [List.map_cons]
    by_cases hy : y.id = f.id
    · rw [if_pos hy, List.find?_cons_of_pos (by simp)]
    · rw [if_neg hy, List.find?_cons_of_neg (by simpa using hy)]
      rw [List.find?_cons_of_neg (by simpa using hy)] at h
      exact ih h

theorem grantState_filter (c : Core) (h : Nat) : Core.grantState { c with grants := c.grants.filter fun x => x.handle ≠ h } h = 0 := by
  unfold Core.grantState
  dsimp only
  rw [List.find?_filter, List.find?_eq_none.2]
  intro x _
  simp

theorem releaseGrant_keep (s : Chip) (p h : Nat) : ∃ gr, (s.releaseGrant p h).core p = { s.core p with grants := gr } ∧
    Core.grantState { s.core p with grants := gr } h = 0 ∧
    (∀ q, q ≠ p → (s.releaseGrant p h).core q = s.core q) ∧ (s.releaseGrant p h).hbm = s.hbm := by
  unfold Chip.releaseGrant
  split
  · rename_i hn
    refine ⟨(s.core p).grants, rfl, ?_, fun _ _ => rfl, rfl⟩
    unfold Core.grantState
    dsimp only
    rw [hn]
  · rename_i g hg
    have : ∃ m : Chip, m.cores = s.cores ∧ m.hbm = s.hbm ∧ (let s1 : Chip := if g.held then s.setPool (s.pool + (g.charge : Int)) else s.withdraw p h; s1) = m := by
      by_cases hh : g.held = true
      · exact ⟨s.setPool (s.pool + (g.charge : Int)), rfl, rfl, by rw [if_pos hh]⟩
      · exact ⟨s.withdraw p h, rfl, rfl, by rw [if_neg hh]⟩
    obtain ⟨m, h1, h2, h3⟩ := this
    dsimp only at h3 ⊢
    rw [h3]
    have hc : ∀ q, m.core q = s.core q := fun q => by unfold Chip.core; rw [h1]
    refine ⟨(s.core p).grants.filter fun x => x.handle ≠ h, ?_, grantState_filter _ _, fun q hq => ?_, ?_⟩
    · rw [Chip.core_onCore_self, hc]
    · rw [Chip.core_onCore, if_neg hq, hc]
    · exact h2

theorem late_keep {γ : Type} (g : Core → γ) (hr : ∀ (c : Core) a v, g (c.setReg a v) = g c) (c : Core) (a : Option Nat) (t : Nat) : g (c.late a t) = g c := by
  unfold Core.late
  split
  · split
    · exact (hr _ _ _).trans (hr _ _ _)
    · rfl
  · rfl

/-- An issue that leaves the engine: its mask takes effect, and nothing else changes but the list of issues. -/
theorem Eng.commit_eq (e : Eng) (x : Issue) : ∃ m z, e.commit x = { e with exec := e.exec.erase x, cm := m, cmPoison := z } ∧
    (x.mask = none → m = e.cm ∧ z = e.cmPoison) ∧ ∀ k v y, x.mask = some (k, v, y) → m = e.cm.set k (BitVec.ofNat 128 v) ∧ z = e.cmPoison.set k y := by
  unfold Eng.commit Eng.commitMask
  cases h : x.mask with
  | none => exact ⟨e.cm, e.cmPoison, rfl, fun _ => ⟨rfl, rfl⟩, nofun⟩
  | some q =>
    obtain ⟨k, v, y⟩ := q
    refine ⟨_, _, rfl, nofun, ?_⟩
    rintro _ _ _ ⟨⟩
    exact ⟨rfl, rfl⟩

theorem Core.countPass_keep {γ : Type} (g : Core → γ) (hr : ∀ (c : Core) a v, g (c.setReg a v) = g c) (he : ∀ (c : Core) x, g { c with ev := x } = g c)
    (c : Core) (be : Bool) (x : Issue) : g (c.countPass be x) = g c := by
  unfold Core.countPass
  extract_lets d
  have hd : g d = g c := he _ _
  split
  · exact (he _ _).trans ((hr _ _ _).trans ((hr _ _ _).trans hd))
  · exact hd

theorem eng_cyc (c : Core) (n : Nat) (b : Bool) : ({ c with cyc := n } : Core).eng b = c.eng b := by cases b <;> rfl

end Sys2Proof.Machine
end

