-- ==== Sys2Proof/Laws/Fault.lean ====
section
/-!
SUPPORT. What the fault collector can do: records touch memory, the ring and the trace port; in a boot halt no
reaction reaches a block (16 R517).
-/
namespace Sys2Proof.Machine

theorem Chip.memWr_pins (s : Chip) (a : Nat) (b : List Byte) : (s.memWr a b).pins = s.pins := by
  unfold Chip.memWr; extract_lets f u; split <;> rfl

theorem Chip.memWrTry_pins (s : Chip) (a : Nat) (b : List Byte) : (s.memWrTry a b).pins = s.pins := by
  unfold Chip.memWrTry
  split
  · rfl
  · exact Chip.memWr_pins _ _ _

theorem Chip.ringWrite_pins (s : Chip) (b : List Byte) : (s.ringWrite b).pins = s.pins := by
  unfold Chip.ringWrite
  split
  · rw [Chip.setReg_pins, Chip.memWrTry_pins]
  · rfl

theorem Chip.record_power (s : Chip) (a b c d e : Nat) : (s.record a b c d e).pins.power = s.pins.power := by
  unfold Chip.record
  rw [Chip.ringWrite_pins, Chip.trace_power]

theorem Chip.first_pins (s : Chip) (a b : Nat) : (s.first a b).pins = s.pins := by
  unfold Chip.first
  extract_lets f older u
  split
  · rw [Chip.setReg_pins, Chip.setReg_pins]
  · rw [Chip.setField_pins]
    have : ∀ (c : Prop) [Decidable c] (x y : Chip), (if c then x else y).pins = if c then x.pins else y.pins := by
      intro c _ x y; split <;> rfl
    show (if _ then _ else _ : Chip).pins = _
    rw [this, Chip.setReg_pins]
    split <;> rfl

theorem Chip.latch_pins (s : Chip) (a : Nat) : (s.latch a).pins = s.pins := by
  unfold Chip.latch
  split
  · rw [Chip.setField_pins]
  · rw [Chip.setField_pins]

/-- No reaction leaves a boot halt. -/
theorem Chip.react_halt (s : Chip) (h : s.pins.power = .halt) (a : Nat) (b : Option Nat) (c d e f : Nat) (m : Media) :
    (s.react a b c d e f m).pins.power = .halt := by
  unfold Chip.react
  split
  · exact h
  · extract_lets k key u v
    have hu : u.pins.power = .halt := (Chip.record_power s _ _ _ _ _).trans h
    have hv : v.pins.power = .halt := (congrArg Pins.power (Chip.onFlt_pins u _)).trans hu
    clear_value v
    split
    · unfold Chip.vcfFault; rw [if_pos (by left; rw [hv]; decide)]; exact hv
    · split
      · unfold Chip.blockReset; rw [if_pos (by rw [hv]; decide)]; exact hv
      · split
        · unfold Chip.faultReset Chip.resettable; rw [if_pos (by rw [hv]; cases v.hold <;> decide)]; exact hv
        · split
          · unfold Chip.enterHold
            split
            · exact hv
            · extract_lets w; split <;> exact hv
          · exact hv

theorem Chip.severe_halt (s : Chip) (h : s.pins.power = .halt) (a : Nat) (b : Option Nat) (c d e : Nat) (m : Media) :
    (s.severe a b c d e m).pins.power = .halt := by
  unfold Chip.severe
  extract_lets key u v w
  apply Chip.react_halt
  show (Chip.onFlt v _).pins.power = _
  rw [Chip.onFlt_pins]
  show (Chip.setField _ _ _ _ _).pins.power = _
  rw [Chip.setField_pins, Chip.setField_pins]
  show (Chip.record _ _ _ _ _ _).pins.power = _
  rw [Chip.record_power, h]

theorem Chip.count_halt (s : Chip) (h : s.pins.power = .halt) (a : Nat) (b : Option Nat) (c d e : Nat) (m : Media) :
    (s.count a b c d e m).pins.power = .halt := by
  have hu : ∀ k lo n, (s.countTo k lo n).pins.power = .halt := fun k lo n => (congrArg Pins.power (Chip.countTo_pins s k lo n)).trans h
  unfold Chip.count
  extract_lets key v u minor cfg fresh n w x
  have hu : u.pins.power = .halt := hu _ _ _
  clear_value u
  have hw : w.pins.power = .halt := by
    refine Eq.trans (congrArg Pins.power ?_) hu
    exact (Chip.setField_pins _ _ _ _ _).trans (Chip.setField_pins _ _ _ _ _)
  clear_value w
  have hx : x.pins.power = .halt := (congrArg Pins.power (Chip.onFlt_pins w _)).trans hw
  clear_value x
  split
  · exact (Chip.record_power _ _ _ _ _ _).trans ((congrArg Pins.power (Chip.setField_pins _ _ _ _ _)).trans hu)
  · split
    · exact (Chip.record_power _ _ _ _ _ _).trans hu
    · split
      · exact Chip.severe_halt _ hx _ _ _ _ _ _
      · exact (Chip.record_power _ _ _ _ _ _).trans hx

/-- No event leaves a boot halt. -/
theorem Chip.collect_halt (s : Chip) (h : s.pins.power = .halt) (a b c : Nat) (m : Media) :
    (s.collect a b c m).pins.power = .halt := by
  unfold Chip.collect
  split
  · exact h
  · split
    · extract_lets u
      have hu : u.pins.power = .halt := by
        show (Chip.record _ _ _ _ _ _).pins.power = _
        rw [Chip.record_power, h]
      clear_value u
      split <;> exact hu
    · split
      · exact h
      · extract_lets u w x
        have hw : w.pins.power = .halt := by
          show (Chip.onFlt u _).pins.power = _
          rw [Chip.onFlt_pins]
          show (Chip.first _ _ _).pins.power = _
          rw [Chip.first_pins, Chip.latch_pins, h]
        have hx : x.pins.power = .halt := Chip.count_halt _ hw _ _ _ _ _ _
        clear_value x
        rw [if_neg (by rintro ⟨-, -, h3⟩; exact h3 hx)]
        exact hx

end Sys2Proof.Machine
end

