-- ==== Sys2Proof/Laws/Operations.lean ====
section
/-!
SUPPORT. What the start of an operation can do to its core (08 R280, R284): its place becomes started, its results wait, and
everything but the queue ends, the statistics and the engines it reads stays.
-/
namespace Sys2Proof.Machine

/-- The part of a core that starting an operation leaves alone. -/
def opKey (c : Core) : List TOp × Bytes × Seq × List VuInstr × List KuInstr × List KerfRec := (c.ops, c.store, c.seq, c.vuQ, c.ku, c.kerf)

theorem opKey_setReg (c : Core) (a v : Nat) : opKey (c.setReg a v) = opKey c := rfl
theorem opKey_raise (c : Core) (a v : Nat) : opKey (c.raise a v) = opKey c := rfl
theorem opKey_setQend (c : Core) (a : Nat) (v : QEnd) : opKey (c.setQend a v) = opKey c := rfl
theorem opKey_setEng (c : Core) (be : Bool) (v : Eng) : opKey (c.setEng be v) = opKey c := by cases be <;> rfl
theorem opKey_unitRd (c : Core) (a n : Nat) : opKey (c.unitRd a n) = opKey c := by
  unfold Core.unitRd; extract_lets d; split <;> rfl
theorem opKey_pop (c : Core) (n : Nat) : opKey (c.pop n) = opKey c := (opKey_setQend _ _ _).trans (opKey_unitRd _ _ _)
theorem opKey_count (c : Core) (k n : Nat) : opKey (c.count k n) = opKey c := rfl
theorem opKey_reserve (c : Core) (n q : Nat) : opKey (c.reserve n q).1 = opKey c := rfl
theorem opKey_late (c : Core) (a : Option Nat) (t : Nat) : opKey (c.late a t) = opKey c := late_keep opKey (fun _ _ _ => rfl) c a t
theorem opKey_foldAmax (c : Core) (n m : Nat) : opKey (c.foldAmax n m) = opKey c := by unfold Core.foldAmax; split <;> rfl
theorem opKey_convFold (c : Core) (n m : Nat) : opKey (convFold c n m) = opKey c := by
  unfold convFold; split <;> [rfl; exact opKey_foldAmax _ _ _]
theorem opKey_convStats (c : Core) (n : Nat) (r : QResult) : opKey (convStats c n r) = opKey c :=
  Eq.trans rfl ((opKey_convFold _ _ _).trans rfl)
theorem zeroOut_q (c : Core) (q s f m n e : Nat) (t : Word) (p : BitVec 2) : (c.zeroOut q s f m n e t p).q = q := by
  unfold Core.zeroOut; dsimp only; split <;> rfl
theorem opKey_ifRaise (c : Core) (b : Bool) (e v : Nat) : opKey (if b then c.raise e v else c) = opKey c := by split <;> rfl
theorem opKey_hazardOut (c : Core) (p : BitVec 2) (t : Word) : opKey (hazardOut c p t) = opKey c := by unfold hazardOut; split <;> rfl
theorem opKey_takeItems (ns : List Nat) : ∀ c : Core, opKey (c.takeItems ns).2 = opKey c := by
  induction ns with
  | nil => intro c; rfl
  | cons n ns ih => intro c; exact (ih (c.pop n)).trans (opKey_pop c n)

theorem opKey_convNarrow (c : Core) (d : List Byte) (fb : Nat) (bad : Bool) (xs : List Nat) : opKey (convNarrow c d fb bad xs).1 = opKey c := by
  unfold convNarrow
  extract_lets stream blocks ctr c1 r c2
  have h1 : opKey c1 = opKey c := by unfold c1; split <;> rfl
  split
  · exact h1
  · refine Eq.trans ?_ ((opKey_convStats c1 (dSlot d) r).trans h1)
    dsimp only
    split <;> rfl

/-- A core in which operation t has started. -/
def Starts (c : Core) (t : TOp) (m : Core) : Prop :=
  ∃ c' r, m = c'.started t r ∧ opKey c' = opKey c ∧ r.items.map (·.q) = opPushes t.desc

theorem ite_q (b : Prop) [Decidable b] {x y : OutItem} {n : Nat} (h1 : x.q = n) (h2 : y.q = n) : [(if b then x else y).q] = [n] := by
  split
  · rw [h1]
  · rw [h2]

theorem Starts.mk {c c' : Core} {t : TOp} {r : OpResult} (h1 : opKey c' = opKey c) (h2 : r.items.map (·.q) = opPushes t.desc) : Starts c t (c'.started t r) := ⟨c', r, rfl, h1, h2⟩

theorem starts_ite {c : Core} {t : TOp} (b : Prop) [Decidable b] {x y : Core × List KerfRec} (hx : Starts c t x.1) (hy : Starts c t y.1) : Starts c t (if b then x else y).1 := by
  split <;> assumption

theorem starts_cvt (c : Core) (t : TOp) (h : dOp t.desc = opCVT) : Starts c t (cvtStart c t).1 := by
  have hp : opPushes t.desc = if dDir t.desc ≥ 1 then [dQD t.desc] else [] := by
    unfold opPushes; dsimp only; rw [if_pos h]
  unfold cvtStart
  split
  · rename_i h0
    rw [if_neg (by omega)] at hp
    unfold cvtLoad
    dsimp only
    refine Starts.mk ?_ hp.symm
    exact (opKey_ifRaise _ _ _ _).trans ((opKey_convNarrow _ _ _ _ _).trans ((opKey_ifRaise _ _ _ _).trans (opKey_pop _ _)))
  · rw [if_pos (by omega)] at hp
    split
    · unfold cvtDeq
      dsimp only
      have k0 := (opKey_reserve ((c.pop (dQA t.desc)).count mConv (c.peek (dQA t.desc)).1.nblk) (dQD t.desc) t.seq).trans ((opKey_count _ _ _).trans (opKey_pop _ _))
      refine starts_ite _ ?_ ?_ <;> dsimp only
      · refine Starts.mk ((opKey_raise _ _ _).trans k0) ?_
        rw [hp, List.map_cons, List.map_nil, zeroOut_q]
      · refine Starts.mk ((opKey_ifRaise _ _ _ _).trans (Eq.trans ?_ k0)) (by rw [hp, List.map_cons, List.map_nil])
        split <;> [rfl; exact opKey_convFold _ _ _]
    · unfold cvtOut
      dsimp only
      refine Starts.mk ?_ ?_
      · exact (opKey_ifRaise _ _ _ _).trans ((opKey_convNarrow _ _ _ _ _).trans ((opKey_reserve _ _ _).trans ((opKey_ifRaise _ _ _ _).trans ((opKey_hazardOut _ _ _).trans (opKey_setEng _ _ _)))))
      · rw [hp, List.map_cons, List.map_nil]
        exact ite_q _ (zeroOut_q _ _ _ _ _ _ _ _ _) rfl

theorem starts_pdrn (c : Core) (t : TOp) (h : dOp t.desc = opPDRN) : Starts c t (pdrnStart c t).1 := by
  have hp : opPushes t.desc = [dQD t.desc] := by
    unfold opPushes; dsimp only; rw [h]; rfl
  unfold pdrnStart
  dsimp only
  refine Starts.mk ?_ ?_ <;> [exact ((opKey_reserve _ _ _).trans ((opKey_hazardOut _ _ _).trans (opKey_setEng _ _ _))); rw [hp, List.map_cons, List.map_nil]]

theorem starts_ldt (c : Core) (t : TOp) (h : dOp t.desc = opLDT) : Starts c t (ldtStart c t) := by
  have hp : opPushes t.desc = [] := by
    unfold opPushes; dsimp only; rw [h]; rfl
  unfold ldtStart
  dsimp only
  refine Starts.mk ?_ ?_ <;> [exact (opKey_ifRaise _ _ _ _).trans (opKey_pop _ _); (rw [hp]; rfl)]

theorem starts_red (c : Core) (t : TOp) (h : dOp t.desc = opRED) : Starts c t (redStart c t) := by
  have hp : opPushes t.desc = [dQD t.desc] := by
    unfold opPushes; dsimp only; rw [h]; rfl
  unfold redStart
  dsimp only
  split
  · refine Starts.mk ((opKey_raise _ _ _).trans ((opKey_reserve _ _ _).trans (opKey_takeItems _ _))) ?_
    rw [hp, List.map_cons, List.map_nil, zeroOut_q]
  · refine Starts.mk ((opKey_reserve _ _ _).trans (opKey_takeItems _ _)) ?_
    rw [hp, List.map_cons, List.map_nil]

/-- What begins an inlay gather: its item is taken and its slot reserved. -/
theorem igthTake_eq (c : Core) (t : TOp) : opKey (igthTake c t).1 = opKey c ∧
    ∃ i r, (igthTake c t).2.1 = { t with input := i, res := r } ∧ r.items.map (·.q) = [dQD t.desc] ∧ r.items.length = 1 :=
  ⟨(opKey_reserve _ _ _).trans (opKey_pop _ _), _, _, rfl, rfl, rfl⟩

theorem starts_kcap (c : Core) (t : TOp) (h : dOp t.desc = opKCAP) : Starts c t (kcapStart c t).1 ∧ ∃ k, (kcapStart c t).2 = [k] ∧ k.input = true ∧ k.chain = dChain t.desc := by
  have hp : opPushes t.desc = if dQDV t.desc then [dQD t.desc] else [] := by
    unfold opPushes; dsimp only; rw [h]; rfl
  unfold kcapStart
  dsimp only
  generalize (if (fmtIsWideEdge (c.peek (dQA t.desc)).1.fmt && !(c.peek (dQA t.desc)).2) = true then (c.peek (dQA t.desc)).1.elems.map (widen (c.peek (dQA t.desc)).1.fmt) else []) = xs
  generalize hk : inputCapture t.desc (passTag (c.peek (dQA t.desc)).1.tag) (c.peek (dQA t.desc)).1.poison (fmtIsWideEdge (c.peek (dQA t.desc)).1.fmt && !(c.peek (dQA t.desc)).2) xs = k
  have e : ∀ (c : Core) (b : Bool), opKey (if b then c else c.raise evFormat 0) = opKey c := by intro c b; split <;> rfl
  have k1 : k.input = true ∧ k.chain = dChain t.desc := by subst hk; exact ⟨rfl, rfl⟩
  have kc := (e (if k.bad then (c.pop (dQA t.desc)).raise evKerfConfig 0 else c.pop (dQA t.desc)) (fmtIsWideEdge (c.peek (dQA t.desc)).1.fmt && !(c.peek (dQA t.desc)).2)).trans ((opKey_ifRaise _ _ _ _).trans (opKey_pop _ _))
  generalize (if (fmtIsWideEdge (c.peek (dQA t.desc)).1.fmt && !(c.peek (dQA t.desc)).2) = true then (if k.bad then (c.pop (dQA t.desc)).raise evKerfConfig 0 else c.pop (dQA t.desc)) else (if k.bad then (c.pop (dQA t.desc)).raise evKerfConfig 0 else c.pop (dQA t.desc)).raise evFormat 0) = c2 at kc ⊢
  split
  · rename_i hq
    rw [if_pos hq] at hp
    dsimp only
    refine ⟨Starts.mk ((opKey_reserve _ _ _).trans kc) ?_, k, rfl, k1⟩
    rw [hp, List.map_cons, List.map_nil]
  · rename_i hq
    rw [if_neg hq] at hp
    dsimp only
    refine ⟨Starts.mk kc ?_, k, rfl, k1⟩
    rw [hp]; rfl

theorem find_set (l : List TOp) (t : TOp) (x : TOp) (h : (l.find? fun y => y.id == t.id) = some x) (j : Nat) :
    ((l.map fun y => if y.id = t.id then t else y).find? fun y => y.id == j) = if j = t.id then some t else l.find? fun y => y.id == j := by
  induction l with
  | nil => cases h
  | cons y l ih =>
    rw [List.map_cons]
    by_cases hy : y.id = t.id
    · rw [if_pos hy]
      by_cases hj : j = t.id
      · rw [if_pos hj, List.find?_cons_of_pos (by simp [hj])]
      · rw [if_neg hj, List.find?_cons_of_neg (by simp; exact fun e => hj e.symm), List.find?_cons_of_neg (by simp [hy]; exact fun e => hj e.symm)]
        clear ih h
        induction l with
        | nil => rfl
        | cons z l ih =>
          rw [List.map_cons]
          by_cases hz : z.id = t.id
          · rw [if_pos hz, List.find?_cons_of_neg (by simp; exact fun e => hj e.symm), List.find?_cons_of_neg (by simp [hz]; exact fun e => hj e.symm), ih]
          · rw [if_neg hz]
            by_cases hzj : z.id = j
            · rw [List.find?_cons_of_pos (by simp [hzj]), List.find?_cons_of_pos (by simp [hzj])]
            · rw [List.find?_cons_of_neg (by simp [hzj]), List.find?_cons_of_neg (by simp [hzj]), ih]
    · rw [if_neg hy]
      rw [List.find?_cons_of_neg (by simpa using hy)] at h
      by_cases hyj : y.id = j
      · rw [List.find?_cons_of_pos (by simp [hyj]), List.find?_cons_of_pos (by simp [hyj]), if_neg (fun e => hy (hyj.trans e))]
      · rw [List.find?_cons_of_neg (by simp [hyj]), List.find?_cons_of_neg (by simp [hyj]), ih h]

theorem op_setOp (c : Core) (t x : TOp) (h : c.op? t.id = some x) (j : Nat) : (c.setOp t).op? j = if j = t.id then some t else c.op? j :=
  find_set c.ops t x h j

/-- The result that a started operation keeps: with a double-bit error in its input its outputs carry cause R. -/
def TOp.resultOf (t : TOp) (r : OpResult) : OpResult := if t.hurt then r.hurt else r

theorem resultOf_q (t : TOp) (r : OpResult) : (t.resultOf r).items.map (·.q) = r.items.map (·.q) := by
  unfold TOp.resultOf OpResult.hurt
  split
  · dsimp only; rw [List.map_map]; rfl
  · rfl

theorem op_started (c : Core) (t x : TOp) (r : OpResult) (h : c.op? t.id = some x) (j : Nat) :
    (c.started t r).op? j = if j = t.id then some { t with phase := .started, res := t.resultOf r } else c.op? j := by
  unfold Core.started
  dsimp only
  split
  · rename_i be n _ _ _
    have hw : ∀ k, (c.setWpend be n).op? k = c.op? k := by intro k; unfold Core.op? Core.setWpend Core.setEng; cases be <;> rfl
    rw [op_setOp _ _ x (by rw [hw]; exact h), hw]
    rfl
  · exact op_setOp _ { t with phase := .started, res := t.resultOf r } x h j

theorem rest_started (c : Core) (t : TOp) (r : OpResult) : (c.started t r).store = c.store ∧ (c.started t r).seq = c.seq ∧ (c.started t r).vuQ = c.vuQ ∧ (c.started t r).ku = c.ku ∧ (c.started t r).kerf = c.kerf := by
  unfold Core.started Core.setOp
  dsimp only
  split
  · unfold Core.setWpend
    rename_i be n _ _ _
    cases be <;> exact ⟨rfl, rfl, rfl, rfl, rfl⟩
  · exact ⟨rfl, rfl, rfl, rfl, rfl⟩

/-- A ready operation without a capture starts. -/
theorem opStart_starts (s : Chip) (p : Nat) (t : TOp) (code : Nat) (run : Core → TOp → Core × List KerfRec)
    (ht : (s.core p).op? t.id = some t) (hop : dOp t.desc = code) (hr : s.opStarts p t = true)
    (hw : wantsCapture t.desc = false) (hst : ∀ c, Starts c t (run c t).1) (hcap : ∀ c, (run c t).2 = []) :
    s.sameBut p (opStart s p t.id code run) ∧ ∃ c', Starts c' t ((opStart s p t.id code run).core p) ∧ opKey c' = opKey (s.core p) := by
  unfold opStart
  dsimp only
  rw [ht]
  dsimp only
  rw [if_neg (by rw [hop]; exact fun h => h rfl), hr, hw, hcap]
  rw [if_neg (show ¬ ((!true) = true) by decide), if_neg (show ¬ (false = true) by decide)]
  have k : opKey { (s.core p).late t.due (s.localTick p) with bufWait := ((s.core p).late t.due (s.localTick p)).bufWait.filter (· != t.id) } = opKey (s.core p) :=
    Eq.trans rfl (opKey_late _ _ _)
  split
  · exact ⟨Chip.sameBut_setCore _ _ _, _, by rw [List.foldl_nil, Chip.core_setCore_self]; exact hst _, k⟩
  · exact ⟨Chip.sameBut_setCore _ _ _, _, by rw [Chip.core_setCore_self]; exact hst _, k⟩

theorem op_drop (c : Core) (id j : Nat) : (c.dropOp id).op? j = if j = id then none else c.op? j := by
  unfold Core.op? Core.dropOp
  dsimp only
  generalize c.ops = l
  induction l with
  | nil => split <;> rfl
  | cons y l ih =>
    by_cases hy : y.id = id
    · rw [List.filter_cons_of_neg (by simpa using hy), ih]
      split
      · rfl
      · rename_i hj
        rw [List.find?_cons_of_neg (by simp [hy]; exact fun h => hj h.symm)]
    · rw [List.filter_cons_of_pos (by simpa using hy)]
      by_cases hj : y.id = j
      · rw [List.find?_cons_of_pos (by simp [hj]), List.find?_cons_of_pos (by simp [hj]), if_neg (fun h => hy (hj.trans h))]
      · rw [List.find?_cons_of_neg (by simp [hj]), List.find?_cons_of_neg (by simp [hj]), ih]

theorem leNat_leBytes (n x : Nat) : leNat (leBytes n x) = x % 256 ^ n := by
  induction n generalizing x with
  | zero => simp [leBytes, leNat, Nat.mod_one]
  | succ n ih =>
    show (BitVec.ofNat 8 x).toNat + 256 * leNat (leBytes n (x / 256)) = _
    rw [ih, BitVec.toNat_ofNat, show (256 : Nat) ^ (n + 1) = 256 * 256 ^ n from by rw [Nat.pow_succ, Nat.mul_comm], Nat.mod_mul]
theorem length_leBytes (n x : Nat) : (leBytes n x).length = n := by
  induction n generalizing x with
  | zero => rfl
  | succ n ih => show (leBytes n (x / 256)).length + 1 = n + 1; rw [ih]
theorem memWrTry_core (s : Chip) (a : Nat) (b : List Byte) (q : Nat) : (s.memWrTry a b).core q = s.core q := by
  unfold Chip.memWrTry Chip.memWr
  split
  · rfl
  · dsimp only; split <;> rfl

end Sys2Proof.Machine
end

