-- ==== Sys2Proof/Tests/Slice0.lean ====
section
/-!
SUPPORT. Tests: the well-formedness checks refuse what they should, worked examples of the specification, and for each
statement with hypotheses a state and operands that meet them (`witness_…`).
-/
namespace Sys2Proof.Tests
open Sys2Proof Sys2Proof.Machine
set_option Elab.async false

/-! ### Well-formed commands -/

/-- One ill-formed command for each check. -/
theorem test_ill_formed : ∀ i ∈ [Instr.rvInstruction 288, .qpushV 0 32, .ctbrl 0 32, .tarm 0 0 32, .bpoll 0 1 2 32, .blockLaunch 288 .fe, .cvt 288 0,
    .vadd 288, .coreVerdictMsg 288 ⟨0, .pass, 0, 1⟩, .packetForward 288 {} .clean, .fecLock 32, .channelNotice (.core 288) 0, .channelNotice (.chip 16) 0,
    .ifQuery 8 0, .ifQuery 0 32, .benchThermal 72, .qeCfgWrite .stewardA 0 16 0, .rsRegWrite .stewardA 0 8 0, .sctCfgWrite .stewardA 0 64 0,
    .sctHistWrite .stewardA 0 0 16 0, .ltCfgWrite .stewardA 0 1024 0, .fabMapWrite .stewardA 256 0, .fabBypWrite .stewardA 5 0,
    .barCfgWrite .stewardA 0 16 0, .memRgnCtlWrite .stewardA 32 0, .slRtWrite .stewardA 4096 0, .fltCfgWrite .stewardA 2350 0,
    .mbxDbWrite .stewardA (.chip 16) 0 0 0], i.wf = false := by decide

theorem test_well_formed : ∀ i ∈ [Instr.rvInstruction 287, .bpoll 287 31 31 31, .mbxDbWrite .client (.chip 15) 7 0 0, .fltCfgWrite .stewardA 2349 0,
    .slRtWrite .stewardA 4095 0, .powerGood 25 0 0], i.wf = true := by decide

/-- No command is spelled by a word: the table gives its rows no bits. -/
theorem test_no_word : decodeTableWord 32 0 = none := rfl

/-! ### States -/

/-- A part that is ready. -/
def ready : State := { chip := { pins := { power := .ready } } }

/-- A ready part whose core 0 is `c`. -/
def one (c : Core) : State := { chip := { pins := { power := .ready }, cores := [(0, c)] } }

/-- A core whose sequencer runs, with queue ends 0 and 1 of four slots of 64 bytes, two items at queue end 0. -/
def cpu : Core := { regs := [(rSEQ_CTL, 1), (rQE_CFG 0, 4 * 2 ^ 32 + 2 ^ 42), (rQE_CFG 1, 4096 + 4 * 2 ^ 32 + 2 ^ 42)]
                    q := [(0, { slots := [.committed, .committed] })] }

theorem ready_up : ready.up := ⟨Or.inr rfl, rfl⟩
theorem ready_awake : ready.awake := ⟨ready_up, rfl⟩
theorem one_awake (c : Core) : (one c).awake := ⟨⟨Or.inr rfl, rfl⟩, rfl⟩
theorem one_sequencing (c : Core) (h : (one c).chip.seqRuns 0 = true) : (one c).sequencing 0 := ⟨one_awake c, by decide, h⟩

/-! ### Witnesses: the step and the sequencer -/

theorem witness_queue : ∃ t, step { ready with pending := [.sysRstNRelease] } = .next t := ⟨_, rfl⟩
theorem witness_idle : State.reset.up ∧ State.reset.pending = [] ∧ State.reset.chip.ctbFrac < 2 ^ 32 ∧
    signedOf 32 (field (State.reset.chip.reg rCTB_TRIM) 0 32) ≤ 858993 ∧ -858993 ≤ signedOf 32 (field (State.reset.chip.reg rCTB_TRIM) 0 32) :=
  ⟨⟨Or.inl rfl, rfl⟩, rfl, by decide, by decide +kernel, by decide +kernel⟩
def stopped : State := { chip := { pins := { power := .halt } }, pending := [.haltTraceRecord] }
theorem witness_halt : stopped.halted ∧ ∃ t, step stopped = .next t := ⟨⟨rfl, rfl⟩, _, rfl⟩
theorem witness_memory : ready.memWf ∧ ∃ t, step { ready with pending := [.sysRstNRelease] } = .next t := ⟨⟨rfl, rfl⟩, _, rfl⟩

theorem witness_timeBase : (one cpu).sequencing 0 := one_sequencing cpu (by decide +kernel)
/-- A core with a vector instruction queued and a register that names the vector unit's fence. -/
def busy : Core := { cpu with vuQ := [{ seq := 0, word := 0x39, rm := 0 }], nseq := 1, seq := { x := [(1, 1), (2, 4)], uMode := true } }
theorem witness_fences : (one busy).sequencing 0 ∧ busy.fenceOpen (busy.xr 1).toNat = false ∧ busy.fenceOpen (busy.xr 2).toNat = true ∧
    busy.mfenceOpen = false ∧ busy.seq.uMode = true :=
  ⟨one_sequencing _ (by decide +kernel), by decide +kernel, by decide +kernel, by decide +kernel, rfl⟩
theorem witness_fence_retires : (one { busy with seq := { busy.seq with stall := some { word := BitVec.ofNat 32 (qxWord 0 3 0 1 0), len := 4, cause := .qfence, since := 0, seq := 1 } } }).awake ∧
    bitOf (busy.reg rSEQ_CTL) 0 = true ∧ busy.fenceOpen (busy.xr 1).toNat = false := ⟨one_awake _, by decide +kernel, by decide +kernel⟩

/-- Barrier 0 with two members, generation 3 the next to complete and 4 the next to arrive. -/
def waiting : Core := { cpu with regs := cpu.regs ++ [(rBAR_CFG 0, 2 ^ 17 + 2), (rBAR_STAT 0, 4 + 3 * 2 ^ 32)], seq := { x := [(1, 2), (2, 3)] }, bar := [(0, { own := 4 })] }
theorem witness_barriers : (one waiting).sequencing 0 ∧ waiting.genAbove 0 (waiting.xr 1).toNat = false ∧ (waiting.xr 1).toNat < barDone waiting 0 ∧
    waiting.genAbove 0 (waiting.xr 2).toNat = false ∧ barDone waiting 0 ≤ (waiting.xr 2).toNat ∧ barValid waiting 0 = true ∧ barArr waiting 0 < barDone waiting 0 + 4 :=
  ⟨one_sequencing _ (by decide +kernel), by decide +kernel⟩

/-- A descriptor of 64 bytes, zero but for those listed. -/
def desc (l : List (Nat × Byte)) : List Byte := l.foldl (fun d x => d.set x.1 x.2) (List.replicate 64 0)
/-- A core whose data SRAM begins with `bs`, with a grant that block 1 may name and one that no block has named. -/
def holding (bs : List Byte) : Core := { cpu with seq := { x := [(1, 0x10000)], dram := Bytes.wrN [] 0x10000 bs }, grants := [{ handle := 1, state := 2, nj := 5, held := true }] }
/-- VADD, KSEL, CVT and a block of one instruction. -/
def vadd : List Byte := [0x20, 0, 0, 0, 0x10, 0x10, 0x0B, 0] ++ List.replicate 8 0
def ksel : List Byte := [0x60, 0, 0, 0, 0, 0, 1, 0] ++ List.replicate 8 0
def aBlock : List Byte := [0, 0, 0x40, 0] ++ List.replicate 26 0 ++ [1, 0]
theorem witness_pushes :
    (∀ bs ∈ [vadd, ksel, desc [(0, 4), (2, 0x71)], aBlock], (one (holding bs)).sequencing 0) ∧
    (let c := holding vadd; let v := BitVec.ofNat 128 (leNat (c.localBytes 0x10000 16))
     (c.xr 1).toNat = 0x10000 ∧ c.structAddr 0x10000 16 = .good ∧ vuWordOk v = true ∧ c.endsOn (vQD v :: vuPops v) = true ∧ c.vuWaiting < 32) ∧
    (let c := holding ksel; let v := BitVec.ofNat 128 (leNat (c.localBytes 0x10000 16))
     c.structAddr 0x10000 16 = .good ∧ kuWordOk v = true ∧ (vu v 0 8 = 0x60 → c.endsOn [kQD v] = true) ∧ vu v 0 8 = 0x60 ∧ c.ku.length < 4) ∧
    (let c := holding (desc [(0, 4), (2, 0x71)]); c.structAddr 0x10000 64 = .good ∧ c.opDescOk (c.localBytes 0x10000 64) = true ∧
      (c.seq.uMode && opNamesMonitor (fun x y => (one c).chip.physOf x y == some 0) (c.localBytes 0x10000 64)) = false ∧ c.ops.length < 64) ∧
    (let c := holding aBlock; c.structAddr 0x10000 32 = .good ∧ blockOk c (c.localBytes 0x10000 32) false = true ∧ c.seq.uMode = false ∧ c.fwd.length < 8 ∧ c.queued false + (blockDescOf (c.localBytes 0x10000 32)).len ≤ 32) :=
  ⟨fun bs h => one_sequencing _ ((by decide +kernel : ∀ bs ∈ [vadd, ksel, desc [(0, 4), (2, 0x71)], aBlock], (one (holding bs)).chip.seqRuns 0 = true) bs h), by decide +kernel, by decide +kernel, by decide +kernel, by decide +kernel⟩

theorem witness_wrung : (one { cpu with seq := { x := [(1, 63), (2, 1023), (3, 1024)] } }).sequencing 0 ∧
    (let c : Core := { cpu with seq := { x := [(1, 63), (2, 1023), (3, 1024)] } }; (c.xr 1).toNat < 64 ∧ (c.xr 2).toNat < 1024 ∧ 1024 ≤ (c.xr 3).toNat) :=
  ⟨one_sequencing _ (by decide +kernel), by decide +kernel⟩
theorem witness_grants : (one (holding [])).sequencing 0 ∧ (holding []).nextHandle ≠ 0 ∧ (holding []).grantState 1 = 2 ∧ (holding []).grantState 2 = 0 ∧
    (holding []).mfenceOpen = false ∧ (holding []).reg 0x80000 < 2 ^ 32 :=
  ⟨one_sequencing _ (by decide +kernel), by decide +kernel⟩

/-- ADDI x1, x0, -1 at 0, an ECALL at 4, in U-mode, with local interrupt 16 delegated, enabled and pending. -/
def program (pc : Word) : Core := { cpu with kverd := true, seq := { pc := pc, uMode := true, iram := Bytes.wrN [] 0 [0x93, 0, 0xF0, 0xFF, 0x73, 0, 0, 0], csr := [(csrMie, 15 * 2 ^ 16), (csrQxdeleg, 15), (csrQxstatus, 1)] } }
theorem witness_addi : (one (program 0)).sequencing 0 ∧ (program 0).fetch = .ok (4095 * 2 ^ 20 + 0 * 2 ^ 15 + 1 * 2 ^ 7 + 0x13, 4) :=
  ⟨one_sequencing _ (by decide +kernel), by decide +kernel⟩
theorem mip_kverd (s : Chip) (p : Nat) (h : (s.core p).kverd = true) : bitOf (s.mip p) (16 + 0) = true := by
  unfold Chip.mip
  dsimp only
  rw [h]
  generalize s.mbxin p = a; generalize ((List.range 16).any _) = b; generalize decide (s.localTick p ≥ _) = d; generalize s.fltn p = e
  revert a b d e; decide +kernel
theorem witness_traps : (one (program 4)).sequencing 0 ∧ (program 4).seq.uMode = true ∧ (program 4).fetch = .ok (0x73, 4) ∧ cpu.seq.uMode = false ∧
    bitOf ((one (program 4)).chip.mip 0) (16 + 0) = true ∧ (program 4).intTarget (16 + 0) = some true :=
  ⟨one_sequencing _ (by decide +kernel), rfl, by decide +kernel, rfl, mip_kverd _ 0 (by decide +kernel), by decide +kernel⟩
/-- The state that a command answers. -/
def ran (s : State) (i : Instr) : State := match step { s with pending := [i] } with | .next t => t | _ => s
/-- The sum wraps: -1 + 1 = 0, and a write of x0 is discarded. -/
theorem test_addi_wraps : let t := ran (one { program 0 with seq := { (program 0).seq with x := [(1, 7)] } }) (.rvInstruction 0)
    (t.chip.core 0).xr 1 = 0xFFFFFFFF#32 ∧ (t.chip.core 0).seq.pc = 4#32 := by decide +kernel

/-! ### Witnesses: engines and blocks -/

/-- A core whose engines hold a launched block of one instruction, of opcode `op`. -/
def launching (be : Bool) (op : Nat) : Core :=
  let h : QHalf := { desc := blockDescOf aBlock, words := [BitVec.ofNat 128 op], copyDone := 0, base := some 9 }
  if be then { cpu with be := { halves := [h] } } else { cpu with fe := { halves := [h] } }
theorem witness_launch : (one cpu).awake ∧ ∀ x ∈ [(false, 0), (false, 1), (false, 2), (true, 0x10), (true, 0x11), (true, 0x12), (true, 0x13)],
    ∃ h, ((launching x.1 x.2).eng x.1).halves = [h] ∧ h.base = some 9 ∧ h.words[h.next]? = some (BitVec.ofNat 128 x.2) ∧
      encErr (launching x.1 x.2) x.1 (decide (h.next = 0)) h.prevLoff (BitVec.ofNat 128 x.2) = 0 ∧ wLnd (BitVec.ofNat 128 x.2) = 0 :=
  ⟨one_awake _, by intro x h; fin_cases h <;> exact ⟨_, rfl, rfl, rfl, by decide +kernel, by decide +kernel⟩⟩

/-- A block at the head of the forward list, a conditional one whose target 5 is kept, and one whose target is not known. -/
def heading (b : BlockDesc) (es : List StashEntry) : Core := { holding [] with fwd := [(0, b)], stash := { entries := es } }
def kept (loc : StashLoc) : StashEntry :=
  { id := 5, recomp := true, uq := 1, use := 7, tag := 0, item := { q := 1, slot := 0, tag := 0, poison := 0, fmt := 12, nelem := 1, payload := [1, 2, 3, 4] }, len := 4, frames := [0], loc := loc }
theorem witness_dispatch :
    (let c := heading { blockDescOf aBlock with cond := true, stash0 := some 5 } [kept .ring]
     (one c).awake ∧ (∃ e, c.stash.entry? 5 = some e ∧ e.loc ≠ .dropped)) ∧
    (let c := heading { blockDescOf aBlock with cond := true, stash0 := some 5 } [kept .dropped]
     c.resident 5 = false ∧ ∀ e, c.stash.entry? 5 = some e → e.loc = .dropped) ∧
    (let c := heading (blockDescOf aBlock) []
     field ((one c).chip.reg (rEN_B_PT (benchOf 0))) 0 4 = field ((one c).chip.reg (rEN_B_PT (benchOf 0))) 4 4 ∧
     c.portUntil ≤ (one c).chip.coreCycle 0 ∧ c.eligible false = true ∧ false = !(c.eligible false && (decide (c.fwdElig ≥ 2) || !c.eligible true))) :=
  ⟨⟨one_awake _, by decide +kernel⟩, ⟨by decide +kernel, fun e h => by cases h; rfl⟩, by decide +kernel⟩

theorem witness_block_launch : let h : QHalf := { desc := blockDescOf aBlock, words := [0], copyDone := 0 }
    (one { cpu with fe := { halves := [h] } }).awake ∧ h.base = none ∧ (h.desc.timed = true → h.desc.launch ≤ (one { cpu with fe := { halves := [h] } }).chip.localTick 0) :=
  ⟨one_awake _, rfl, fun h => absurd h (by decide)⟩
/-- A timed block whose LAUNCH lies ahead: the local copy is below 2^64 whatever its lag. -/
theorem witness_block_waits : let h : QHalf := { desc := { blockDescOf aBlock with timed := true, launch := 2 ^ 64 }, words := [0], copyDone := 0 }
    h.base = none ∧ h.desc.timed = true ∧ (one { cpu with fe := { halves := [h] } }).chip.localTick 0 < h.desc.launch :=
  ⟨rfl, rfl, Nat.lt_of_le_of_lt (Nat.sub_le _ _) (by decide)⟩

/-- An issue that completes on cycle `n`, and a core on which it executes, with a launched block of one FNOP on cycle 9. -/
def anIssue (n : Nat) : Issue := { op := 2, iofs := 0, iter := 0, launch := 3, finAt := n, res := .arrays, resEnd := 9 }
def executing (n : Nat) : Core := let c := launching false 0; { c with fe := { c.fe with exec := [anIssue 30, anIssue n] } }
theorem witness_latency : (one (executing 8)).awake ∧ ∀ x ∈ [(8, false), (20, true)], let e := (executing x.1).eng false
    e.firstDone = some (anIssue x.1) ∧ e.launchBefore (anIssue x.1).finAt = x.2 := ⟨one_awake _, by decide +kernel⟩

theorem witness_self_test : (one { cpu with fenced := true }).awake ∧ isSteward .stewardA = true ∧ bitOf (({ cpu with fenced := true } : Core).reg (rEngStat false)) 10 = false ∧
    (∀ a < 4, cpu.bypassRow false a = 63 ∧ cpu.spareBad false a = false) ∧ bitOf ((cpu.setField (rEngStat true) 10 1 1).reg (rEngStat true)) 10 = true ∧
    cpu.unrepairable true 3 { frow := 0, nrow := 2, col := false, spareBad := false } = true ∧
    cpu.unrepairable true 3 { frow := 31, nrow := 1, col := false, spareBad := false } = false :=
  ⟨one_awake _, rfl, by decide +kernel⟩

/-! ### Witnesses: operations -/

/-- A confirmed item of one FP32 element. -/
def item (v : Nat) : OutItem := { q := 0, slot := 0, tag := confTag, poison := 0, fmt := 0x0C, nelem := 1, payload := leBytes 4 v }
/-- An operation at place 3, and a core that holds it, whose queue end 0 holds the items 1.0 and 2.0. -/
def opOf (d : List Byte) : TOp := { id := 3, seq := 0, desc := d }
def operating (d : List Byte) : Core :=
  { cpu with ops := [opOf d], store := Bytes.wrN (Bytes.wrN [] 0 (item 0x3F800000).bytes) 128 (item 0x40000000).bytes, regs := cpu.regs ++ [(rKRF_BUF_SIZE, 1)], nseq := 1 }
/-- A ready part whose core 0, at logical position (0, 0), is `c`. -/
def mapped (c : Core) : State := { chip := { pins := { power := .ready }, cores := [(0, c)], regs := [(rFAB_MAP 0, 0x200)] } }
theorem mapped_awake (c : Core) : (mapped c).awake := ⟨⟨Or.inr rfl, rfl⟩, rfl⟩

def dCvt : List Byte := desc [(0, 1), (1, 0), (2, 0x51), (16, 1), (17, 0x0C)]
def dRed : List Byte := desc [(0, 4), (2, 0x71)]
def dKcap : List Byte := desc [(0, 10), (2, 0x51), (18, 0), (20, 0), (21, 0), (22, 0x20)]
/-- IGTH of one inlay record; the kind of its list's address word is `k`. -/
def dIgth (k : Byte) : List Byte := desc [(0, 9), (2, 0x51), (23, k), (24, 1)]
theorem witness_start : (mapped cpu).awake ∧
    (∀ d ∈ [dCvt, desc [(0, 2), (2, 0x41)], desc [(0, 3), (2, 0x10)], dRed, dIgth 0, dIgth 0xC0], let s := mapped (operating d)
      (s.chip.core 0).op? 3 = some (opOf d) ∧ wantsCapture d = false ∧ s.chip.opStarts 0 (opOf d) = true) ∧
    remotePlan (dIgth 0) = [] ∧ remotePlan (dIgth 0xC0) ≠ [] ∧
    (let s := mapped (operating dKcap)
     (s.chip.core 0).op? 3 = some (opOf dKcap) ∧ s.chip.physOf (dKX dKcap) (dKY dKcap) = some 0 ∧ dOp dKcap = opKCAP ∧
     s.chip.opStarts 0 (opOf dKcap) = true) :=
  ⟨mapped_awake _, by decide +kernel⟩

/-- RED takes its two items from queue end 0: 1.0 + 2.0 = 3.0. -/
theorem witness_red : dOp dRed = opRED ∧ (operating dRed).op? 3 = some (opOf dRed) ∧
    ((operating dRed).takeItems [dQA dRed, dQB dRed]).1 = [(item 0x3F800000, false), ({ item 0x40000000 with slot := 1 }, false)] := by
  decide +kernel
theorem test_red_sums : ((redStart (operating dRed) (opOf dRed)).op? 3).map (fun t => t.res.items.map (·.payload)) = some [leBytes 4 0x40400000] := by decide +kernel
theorem test_red_format : (redStart (operating (desc [(0, 4), (1, 0x10), (2, 0x71)])) (opOf (desc [(0, 4), (1, 0x10), (2, 0x71)]))).raised = [(evFormat, 0)] := by decide +kernel

def dSend : List Byte := desc [(0, 5), (2, 0x10)]
def dRecv : List Byte := desc [(0, 6), (2, 0x41)]
theorem witness_messages : (mapped cpu).awake ∧
    (let c := { operating dSend with pairs := [{ send := true, chip := 0, x := 0, y := 0, chan := 0, count := 7, tokens := [7] }] }
     ∃ q, (opOf dSend).waits = true ∧ armMet (opOf dSend).arm ((mapped c).chip.localTick 0) = true ∧ c.queuesReady 0 (opPops dSend) [] = true ∧ c.earlierOnPair (opOf dSend) = false ∧ (mapped c).chip.reachable 0 0 0 = true ∧
       c.pair true 0 0 0 0 = some q ∧ q.tokens.contains q.count = true ∧ dPChip dSend = (mapped c).chip.id) ∧
    (let c := operating dRecv
     c.queuesReady 0 [] (opPushes dRecv) = true ∧ c.pairs.length < 256 ∧ c.earlierOnPair (opOf dRecv) = false) :=
  ⟨mapped_awake _, ⟨_, by decide, by decide +kernel, by decide +kernel, by decide +kernel, by decide +kernel, rfl, by decide +kernel⟩, by decide +kernel⟩

/-- A core whose stash set has a ring of 16 frames, high water mark 12 and prefetch window 16, enabled. -/
def stashing (d : List Byte) (x : Stash) : State :=
  { chip := { pins := { power := .ready }, cores := [(0, { operating d with stash := x })]
              regs := [(rSTH_CFG (dieOf 0) (stashOf 0), 1 + 16 * 32), (rSTH_SIZE (dieOf 0) (stashOf 0), 16 + 64 * 2 ^ 32),
                       (rSTH_WM (dieOf 0) (stashOf 0), 12 + 8 * 2 ^ 20)] } }
theorem stashing_awake (d : List Byte) (x : Stash) : (stashing d x).awake := ⟨⟨Or.inr rfl, rfl⟩, rfl⟩
def dStsh : List Byte := desc [(0, 7), (2, 0x10), (16, 6), (19, 2), (20, 7)]
def dUsth : List Byte := desc [(0, 8), (2, 0x41), (16, 5)]
theorem witness_stash : (stashing dStsh {}).awake ∧ sthEn (stashing dStsh {}).chip 0 = true ∧
    (let c := (stashing dStsh { entries := [kept .ring] }).chip.core 0
     (stashing dStsh { entries := [kept .ring] }).chip.opStarts 0 (opOf dStsh) = true ∧ dOp dStsh = opSTSH ∧ c.stash.entries.length < 65536 ∧
     c.stash.entry? (dEntry dStsh) = none ∧
     (c.stash.alloc (sthRing (stashing dStsh {}).chip 0) (ceilDiv (c.readChecked (dQA dStsh)).2.payload.length 4096)).isSome = true) ∧
    (let c := (stashing dUsth { entries := [kept .ring] }).chip.core 0
     (stashing dUsth { entries := [kept .ring] }).chip.opStarts 0 (opOf dUsth) = true ∧ dOp dUsth = opUSTH ∧ c.stash.entry? (dEntry dUsth) = some (kept .ring) ∧ (kept .ring).uq = dQD dUsth) :=
  ⟨stashing_awake _ _, by decide +kernel, by decide +kernel, by decide +kernel⟩
theorem witness_stash_moves :
    (let s := stashing [] { entries := [kept .spilling] }; s.chip.cxlFenced = false ∧ (s.chip.core 0).stash.holding = none) ∧
    (let s := stashing [] { entries := [{ kept .spilled with frames := [], spill := [2] }] }; let x := (s.chip.core 0).stash
     7 ≤ x.cursor + sthWin s.chip 0 ∧ x.occ + 1 ≤ sthHwm s.chip 0 ∧ (x.alloc (sthRing s.chip 0) 1).isSome = true) ∧
    (let m := (stashing [] { holding := some 3, holdSince := 0 }).chip.runOut ((stashing [] { holding := some 3, holdSince := 0 }).chip.holdDue 0)
     (m.core 0).stash.holding.isSome = true ∧ (m.core 0).stash.holdRaised = false ∧ m.now - (m.core 0).stash.holdSince > field (m.sth 0 rSTH_HOLDMAX) 0 20 * 1000) ∧
    (let c := (stashing [] { entries := [kept .ring], bringing := some 5 }).chip.core 0; c.stash.entry? 5 = some (kept .ring) ∧ c.room 1 ≠ 0) :=
  ⟨by decide +kernel, by decide +kernel, by decide +kernel, by decide +kernel⟩

def dMov (n : Byte) : List Byte := desc [(0, 12), (16, 0x80), (23, 0x40), (25, 0x10), (31, 0x40), (32, n), (36, 1), (38, 1), (60, 0x0C), (61, 0x0C)]
theorem witness_move : (mapped (operating (dMov 64))).awake ∧
    (let c := operating (dMov 64); let d := dMov 64
     (mapped c).chip.opStarts 0 (opOf d) = true ∧ dMode d = 0 ∧ movSrcQ d = false ∧ movDstQ d = false ∧ addrSpace (dSrc d) = .own 128 ∧
     addrSpace (dDst d) = .own 4096 ∧ dCnt1 d = 1 ∧ dCnt2 d = 1 ∧ 4096 + dLen0 d ≤ 2 ^ 22 ∧ movBad c d = false) := ⟨mapped_awake _, by decide +kernel⟩

theorem witness_commit : let t : TOp := { opOf (dMov 64) with phase := .started, res := { store := [(4096, [1, 2])], tile := some (true, 31, Tile.reset, none) } }
    (mapped { cpu with ops := [t] }).awake ∧ ({ cpu with ops := [t] } : Core).op? 3 = some t ∧ t.phase = .started ∧ t.res.mem = [] ∧ t.res.items = [] ∧ t.res.dram = [] ∧
    dOp t.desc ≠ opSEND ∧ ({ cpu with vuX := [{ seq := 0, last := true, res := {} }] } : Core).vuX ≠ [] := ⟨mapped_awake _, by decide +kernel⟩
/-- A conversion with one item to commit, and a SEND whose packet has not left the core. -/
theorem witness_commit_items : (let t : TOp := { opOf dCvt with phase := .started, res := { items := [item 5] } }; let c : Core := { cpu with ops := [t] }
      c.op? t.id = some t ∧ dOp t.desc ≠ opSEND ∧ t.res.store = [] ∧ (item 5).payload.length ≤ c.qbytes (item 5).q) ∧
    (let t : TOp := { opOf dSend with phase := .started, num := 7 }; let c : Core := { cpu with ops := [t], out := [{ seq := 7 }] }
      c.op? t.id = some t ∧ dOp t.desc = opSEND ∧ c.sendOut t = true ∧ t.res.mem = []) := by decide +kernel

/-- A drawer header at 0: not claimed in step 5, of logical core (0, 0), weights of 1 by 1 at 1,000h, next message 0; regions 0 and 1 confirmed-only. -/
def header : List Byte := List.replicate 16 0 ++ [0, 0x10, 0, 0, 0, 0, 0, 0, 1, 0, 0, 0, 1, 0, 0, 0] ++ List.replicate 32 0
def dDacc : List Byte := desc [(0, 11), (2, 0x10), (44, 1)]
def drawer (t : TOp) : State :=
  { chip := { pins := { power := .ready }, cores := [(0, { operating dDacc with ops := [t] })], hbm := Bytes.wrN [] 0 header
              regs := [(rFAB_MAP 0, 0x200), (rMEM_RGN_CTL 0, 9), (rMEM_RGN_LIMIT 0, 0x2000)] } }
theorem witness_drawer : (drawer (opOf dDacc)).awake ∧
    (let s := drawer (opOf dDacc); let c := s.chip.core 0; let d := dDacc; let h := header
     (s.chip.memRd 0 64).1 = h ∧ dHdr d = 0 ∧ s.chip.protTouch 0 64 = false ∧ s.chip.opStarts 0 (opOf dDacc) = true ∧ dOp d = opDACC ∧
     tagInv (c.peek (dQA d)).1.tag = false ∧
     s.chip.inConfirmed 0 64 = true ∧ s.chip.inConfirmed (hdBase h) (max 1 (4 * hdRows h * hdCols h)) = true ∧
     s.chip.logOf 0 = some (hdOwner h % 256, hdOwner h / 256) ∧ hdClaimStep h = c.step ∧ daccCause h c.step (dWUse d) (dSeqNo d) = 0) ∧
    (let s := drawer { opOf dDacc with phase := .checked true, input := [item 0] }
     hdNext header = dSeqNo dDacc ∧ s.chip.protTouch (hdBase header) (4 * hdRows header * hdCols header) = false ∧ s.chip.wrRefused 0 64 = false ∧
     bitOf (hdFlags header) 2 = false ∧ daccItemBad (item 0) false dDacc header = false ∧ (item 0).poison = 0 ∧
     hdBase header = 0x1000 ∧ 4 * hdRows header * hdCols header = 4 ∧ (s.chip.memRd 0x1000 4).2 = false) :=
  ⟨⟨⟨Or.inr rfl, rfl⟩, rfl⟩, by decide +kernel, by decide +kernel⟩
/-- At its turn the item 1.0 is added to the 2.0 of the drawer: 3.0; with INIT it is written. -/
theorem test_drawer_adds : ∀ x ∈ [((0 : Byte), 0x40400000), (1, 0x3F800000)],
    let d := dDacc.set 32 x.1
    let s := drawer { opOf d with phase := .checked false, input := [item 0x3F800000] }
    Bytes.rdLe (ran { s with chip := { s.chip with hbm := Bytes.wrN s.chip.hbm 0x1000 (leBytes 4 0x40000000) } } (.daccApply 0 3)).chip.hbm 0x1000 4 = x.2 := by decide +kernel
/-- The same state, but for a claim of another use in this step, is refused with cause 1 (05 R169). -/
theorem test_drawer_claimed : daccCause (hdClaim header 5 2) 5 1 0 = 1 ∧ daccCause (hdClaim header 5 2) 6 1 0 = 0 := by decide +kernel

/-! ### Witnesses: the vector and kerf units, register writes -/

/-- A core whose vector unit holds the word of `bs`, with the operands of `operating`. -/
def vectoring (w : BitVec 128) : Core := { operating dRed with ops := [], vuQ := [{ seq := 0, word := w, rm := 0 }] }
/-- VADD of two items of queue end 0, VNEG of queue end 0 and VRFILL, into queue end 1, in FP32. -/
def vadd00 : List Byte := [0x20, 0, 0, 0, 0, 0x10, 0x0B, 0] ++ List.replicate 8 0
def vneg : List Byte := [0x39, 0, 0, 0, 0, 0x10, 9, 0] ++ List.replicate 8 0
def vrfill : List Byte := [0x3D, 0, 0, 0, 0, 0x10, 8, 0] ++ List.replicate 8 0
theorem witness_vector : (mapped (vectoring 0)).awake ∧ ∀ l ∈ [vadd00, vneg, vrfill], let w := BitVec.ofNat 128 (leNat l); let c := vectoring w
    let now := (mapped c).chip.cycleNow 0
    c.vuX.length < 16 ∧ unitDue now none = true ∧ unitNext c 0x30000 (vu w 8 4) now none = some ({ made := 1, start := now }, false) ∧
    c.queuesReady 0 (vuPops w) [vQD w] = true ∧ mixedTags c.confirmed (c.popTags (vuPops w)) = false ∧ c.rsHeldBefore 0 3 = false :=
  ⟨mapped_awake _, by decide +kernel⟩
theorem witness_signs : (0x80000000 : Nat) < 2 ^ ((vuFmt 0).ebits + (vuFmt 0).fbits + 1) := by decide
theorem witness_finite : ∀ x ∈ [0, 1, 0x7F7FFFFF, 0x80000000], (match fp32.decode x with | .fin _ _ => true | _ => false) = true := by decide +kernel

theorem witness_window_agents : reaches (.seqM 0) 0 = true ∧ reaches .stewardB 287 = true ∧ reaches (.seqU 1) 0 = false ∧ isSteward .stewardA = true := by decide

/-- A core whose layer 0 is a checked layer. -/
def layered : Core := { cpu with regs := cpu.regs ++ [(rLT_CFG 0, 1)] }
theorem witness_layers : (mapped layered).awake ∧ rungsOk (layered.reg (rLT_RUNGS 1023)) (field 0x14 2 2) = true ∧ field 0x14 4 2 ≤ field 0x14 2 2 ∧
    rungsOk 0x0003 1 = false ∧ layered.vrHeld = [] := ⟨mapped_awake _, by decide +kernel, by decide, by decide +kernel, rfl⟩
theorem witness_stash_settings : (stashing [] {}).chip.running = false ∧ field (16 + 8 * 2 ^ 20) 20 20 < field (16 + 8 * 2 ^ 20) 0 20 ∧
    field (16 + 8 * 2 ^ 20) 0 20 ≤ sthRing (stashing [] {}).chip 0 := by decide +kernel

/-- A held write of stream register 2 and a held configuration of queue end 15, with nothing before them. -/
theorem witness_waits : (one { cpu with rsHeld := [(0, 4, 9)], q := [(15, { held := [(0, 0)] })] }).awake ∧
    (let c : Core := { cpu with rsHeld := [(0, 4, 9)], q := [(15, { held := [(0, 0)] })] }
     (c.rsHeld.find? fun h => h.2.1 / 2 == 5 / 2) = some (0, 4, 9) ∧ c.streamUsed 0 (5 / 2) = false ∧ (c.qend 15).held = [(0, 0)] ∧ c.namesBefore 0 15 = false) ∧
    scaleOk 0x00800000 = true ∧ scaleOk 0x7F7FFFFF = true ∧ qeCfgOk true (0x3F0000 - 128 + 2 ^ 32 + 2 ^ 42) = true ∧ qeCfgOk true (0x3F0000 - 64 + 2 ^ 32 + 2 ^ 42) = false :=
  ⟨one_awake _, by decide +kernel, by decide, by decide, by decide +kernel, by decide +kernel⟩
theorem witness_window : (one cpu).awake ∧ ({ cpu with regs := [] } : Core).fenced = false ∧ bitOf (({ cpu with regs := [] } : Core).reg rSEQ_CTL) 0 = false ∧
    ({ cpu with seq := { held := some (rSEQ_CTBCMP, 5) } } : Core).seq.held = some (rSEQ_CTBCMP, 5) := ⟨one_awake _, rfl, by decide +kernel, rfl⟩

theorem witness_mailboxes : ready.up ∧ ready.chip.mbxSide (.core 287) (.seqM 287) 0 = some false ∧ ready.chip.mbxSide (.core 0) .stewardA 0 = some true ∧
    ready.chip.mbxSide (.chip 2) .stewardB 0 = some true ∧ ready.chip.mbxSide (.chip 15) .client 7 = some false ∧ ready.chip.mbxSide (.chip 15) .client 6 = none :=
  ⟨ready_up, by decide +kernel⟩
/-- A bit that the sender sets and the receiver clears in one cycle ends set (12 R413). -/
theorem test_set_wins : let t := ran ready (.mbxDbWrite (.seqM 3) (.core 3) 0 5 4)
    bitOf (t.chip.mbxRd (.core 3) 0) 2 = true ∧ bitOf (t.chip.mbxRd (.core 3) 0) 0 = true := by decide +kernel

theorem witness_settings : ready.awake ∧ ready.chip.stopped 0 = true ∧ bitOf (ready.chip.reg (rFAB_MAP 0)) 9 = false ∧ ready.chip.flood.stale = false ∧
    (ready.chip.link 31).st ≠ .retired := ⟨ready_awake, by decide +kernel, by decide +kernel, by decide +kernel, by decide +kernel⟩
theorem witness_memory_settings : ready.awake ∧ ready.chip.isActive .stewardA = true ∧ bitOf (ready.chip.reg rMEM_MIG) 28 = false ∧ ready.chip.retired.contains 511 = false ∧
    (∀ k < 32, bitOf (ready.chip.reg (rMEM_RGN_CTL k)) 3 = false) ∧ bitOf (ready.chip.reg (rFLT_CFG 2349)) 63 = false ∧ bitOf (ready.chip.reg (rFLT_CFG 0)) 63 = false ∧
    ready.chip.terminal 0 = false ∧ subCount 0 = 0 :=
  ⟨ready_awake, by decide +kernel⟩

/-! ### Witnesses: checks, packets, the time base and links -/

/-- KSEL of layer 0 for four tiles; KCHK of tile 2 of layer 0, with its descriptor at 2000h: columns 0 to 31, one tile a group, inlays of layer 1. -/
def kselWord : BitVec 128 := BitVec.ofNat 128 (leNat ([0x60, 0, 0, 0, 0, 0, 1, 0, 0, 0, 0, 0, 4, 0, 0, 0] : List Byte))
def kchkWord : BitVec 128 := BitVec.ofNat 128 (leNat ([0x61, 0, 0, 0, 0, 0, 0, 0, 0, 0x20, 0, 0, 2, 0, 0, 0] : List Byte))
def capture (input : Bool) (layer idx : Nat) : KerfRec :=
  { input := input, chain := 0, layer := layer, idx := idx, tag := confTag, holdw := false, bad := false, k0 := 0, kn := 32, poison := 0, data := [] }
def checking (run : Bool) (wkind : Byte) : Core :=
  { layered with ku := [{ seq := 0, word := kchkWord, epoch := 0, run := run, kn := 1 }], store := Bytes.wrN [] 0x2000 (desc [(20, 32), (24, 1), (26, wkind), (28, if wkind = 1 then 1 else 0)] |>.take 32)
                 sel := [{ chain := 0, layer := 0, ctr := 0, windows := 1, tiles := 4 }], kerf := [capture false 0 2, capture true 0 2, capture true 1 0] }
theorem witness_selection : (mapped layered).awake ∧ vu kselWord 0 8 = 0x60 ∧ vu kselWord 8 4 = 0 ∧ kTiles kselWord = 4 ∧
    layered.queuesReady 0 [] [kQD kselWord] = true ∧ layered.rsHeldBefore 0 2 = false ∧ layered.selOf 0 0 = none :=
  ⟨mapped_awake _, by decide +kernel⟩
/-- With WKIND = 1 the second operand is a capture; with WKIND = 0 it lies in a confirmed-only region. -/
theorem witness_check : (let c := checking false 1; let d := c.kchkDesc kchkWord
      vu kchkWord 0 8 = 0x61 ∧ vu kchkWord 8 4 = 0 ∧ c.deadAttempt 0 0 0 = false ∧ c.unchk.contains (0, 0) = false ∧ kchkTakes c kchkWord = true ∧
      c.kchkCaps kchkWord = some (capture false 0 2, capture true 0 2, some (capture true 1 0)) ∧ tagInv (capture true 1 0).tag = false ∧
      (capture true 0 2).bad = false ∧ (capture true 0 2).covers (kdK0 d) (kdKN d) = true ∧ (capture true 1 0).covers (kdK0 d) (kdKN d) = true) ∧
    (let c := checking false 0; let d := c.kchkDesc kchkWord
      kchkTakes c kchkWord = true ∧ c.kchkCaps kchkWord = some (capture false 0 2, capture true 0 2, none) ∧
      (drawer (opOf dDacc)).chip.inConfirmed (kdWbase d) (31 * kdStride d + 4 * kdKN d) = true) := by decide +kernel
theorem witness_check_done : (mapped (checking true 1)).awake ∧ ((checking true 1).attempts.find? fun a => decide (a.tag = mkTag 0 0 0 false)) = none := ⟨mapped_awake _, rfl⟩

theorem witness_verdicts : (mapped layered).awake ∧ layered.deadAttempt 0 0 0 = false ∧ (layered.chain 0).early = [] ∧ (layered.chain 0).frontier = 0 ∧
    layered.nextChecked 0 = 0 ∧ isFallback layered 0 = false ∧ (layered.bndWait.any fun w => w.slot == 0) = false ∧
    (let c : Core := { layered with regs := (rSCT_SHLIST 5, 2 * 2 ^ 32) :: layered.regs, shardGot := [(5, 1)], bndWait := [{ slot := 5, t := 0, scale := 0 }] }
     c.bndWait.find? (·.slot == 5) = some { slot := 5, t := 0, scale := 0 } ∧ slotNsh c 5 ≤ NatMap.rd c.shardGot 5 + 1) :=
  ⟨mapped_awake _, by decide +kernel⟩
/-- A reject at the frontier raises the chain's epoch and moves the layer a rung up; the frontier stays (06 R189, R208). -/
theorem test_reject : let t := ran (mapped layered) (.layerVerdictMsg 0 { tag := 0, verdict := .reject, ratio := 0, tiles := 1, rung := 0 })
    ((t.chip.core 0).chain 0).epoch = 1 ∧ ((t.chip.core 0).chain 0).frontier = 0 ∧ (t.chip.core 0).up 0 0 = 1 := by decide +kernel

/-- A RECV whose token is out, and a message for it. -/
def receiving : Core := { operating dRecv with ops := [{ opOf dRecv with phase := .tokened, res := { items := [{ item 0 with q := 1 }] } }] }
theorem witness_arrivals : (mapped receiving).awake ∧ (mapped receiving).chip.physOf 0 0 = some 0 ∧ (one cpu).chip.physOf 0 0 ≠ some 0 ∧
    receiving.inOrder {} = true ∧ receiving.recvOf {} = some { opOf dRecv with phase := .tokened, res := { items := [{ item 0 with q := 1 }] } } ∧
    (itemOfBytes (item 5).bytes).payload.length ≤ receiving.qbytes (dQD dRecv) := ⟨mapped_awake _, by decide +kernel⟩
/-- Generation 3 of barrier 0 is the next to complete at its member. -/
theorem witness_barrier_order : (mapped waiting).awake ∧ (mapped waiting).chip.physOf 0 0 = some 0 ∧ barDone ((mapped waiting).chip.core 0) 0 = 3 :=
  ⟨mapped_awake _, by decide +kernel⟩
theorem witness_barrier_arrival : field (barCfg { cpu with regs := [(rBAR_CFG 0, 1 * 2 ^ 8 + 2 ^ 32)] } 0) 8 9 = 1 ∧ field (barCfg { cpu with regs := [(rBAR_CFG 0, 1 * 2 ^ 8 + 2 ^ 32)] } 0) 32 13 = 1 := by
  decide +kernel
def dMovIn : List Byte := desc [(0, 12), (2, 0x41), (23, 0xC0), (24, 1), (31, 0x80), (32, 64), (36, 1), (38, 1), (60, 0x0C), (61, 0x0C)]
/-- A MOV that awaits one line and one that awaits two, from another core's store, and one that awaits an acknowledgement. -/
theorem witness_store_transfers : ∀ x ∈ [(OpPhase.remote [0], [item 0]), (.remote [0, 1], []), (.acks [0], [])],
    let t : TOp := { opOf dMovIn with phase := x.1, res := { items := x.2 } }
    ({ cpu with ops := [t] } : Core).op? ((3 : Nat) % 64) = some t ∧ movDstQ dMovIn = true ∧ ([0] : List Nat).contains (3 / 64) = true := by decide +kernel
theorem witness_routing :
    (let k : Packet := { ty := 9, cls := 2, dcol := 1 }
     typeClass k.ty = some k.cls ∧ nextRouter 0 k = some 1 ∧ ready.chip.oldestAt 0 k = true ∧ ready.chip.credit 1 k = true ∧ ready.chip.bypassed 0 = false) ∧
    (let c : Chip := { ready.chip with regs := [(rFAB_BYP 0, 2)] }; let k : Packet := { ty := 9, cls := 2, dcol := 2 }
     c.bypassed 1 = true ∧ turnsAt 1 k = false ∧ nextRouter 1 k = some 2 ∧ c.oldestAt 1 k = true ∧ c.credit 2 k = true) := by decide +kernel

/-- A ready part at tick `t`. -/
def timed (t : Nat) : State := { chip := { pins := { power := .ready }, regs := [(rCTB_NOW, t)] } }
theorem witness_time : (timed 5).up ∧ (timed 5).chip.trimOk ∧ (timed 5).chip.now < 2 ^ 63 ∧ bitOf ((timed 5).chip.reg rCTB_STAT) 1 = false ∧
    (let c : Chip := { (timed 5).chip with regs := [(rCTB_NOW, 5), (rCTB_STAT, 2), (rCTB_TRIM, 2 ^ 32 - 858993)] }
     bitOf (c.reg rCTB_STAT) 1 = true ∧ c.now ≤ c.holdAt + holdoverTicks ∧ signedOf 32 (field (c.reg rCTB_TRIM) 0 32) = -858993) ∧
    ({ cpu with regs := [(rSEQ_CTBCMP, 9)] } : Core).reg rSEQ_CTBCMP < 2 ^ 62 :=
  ⟨⟨Or.inr rfl, rfl⟩, ⟨by decide, by decide +kernel, by decide +kernel⟩, by decide +kernel⟩
theorem witness_timed : let t : TOp := { opOf dRed with arm := some 7 }; ({ cpu with ops := [t] } : Core).op? 3 = some t ∧ t.waits = true ∧ dOp t.desc = opRED ∧
    (∃ v : VuInstr, v.loop = none ∧ v.arm = some 7) ∧ (∃ k : KuInstr, k.loop = none ∧ k.run = false ∧ k.arm = some 7) ∧
    ∃ h : QHalf, h.desc.timed = true ∧ h.base.isNone = true ∧ h.desc.launch = 7 :=
  ⟨rfl, rfl, rfl, ⟨{ seq := 0, word := 0, rm := 0, arm := some 7 }, rfl, rfl⟩, ⟨{ seq := 0, word := 0, epoch := 0, arm := some 7 }, rfl, rfl, rfl⟩, { desc := { blockDescOf aBlock with timed := true, launch := 7 }, words := [], copyDone := 0 }, rfl, rfl, rfl⟩

/-- A part at tick `t` whose link 31 is in the state `L`. -/
def linked (t : Nat) (L : Link) : Chip := { (timed t).chip with links := [(31, L)], regs := [(rCTB_NOW, t), (slg rSL_CTL 31, 1 + 5 * 2 ^ 8)] }
theorem witness_links : ready.awake ∧ ((linked 0 { st := .pmd }).link 31).st = .pmd ∧
    (let m := (linked 500000001 { st := .pmd }).runOut ((linked 500000001 { st := .pmd }).trainingDue 31)
     stageBound (m.link 31).st = some 500000000 ∧ m.now > (m.link 31).since + 500000000) ∧
    (let m := (linked 1000000000 { st := .down }).runOut ((linked 1000000000 { st := .down }).retrainDue 31)
     (m.link 31).st = .down ∧ bitOf (m.reg (slg rSL_CTL 31)) 0 = true ∧ m.now ≥ (m.link 31).since + 1000000000) ∧
    ((linked 0 { st := .up }).link 31).isUp = true ∧ bitOf (({ ready.chip with regs := [(rSL_ID, 2 ^ 12 + 9)] } : Chip).reg rSL_ID) 12 = true :=
  ⟨ready_awake, by decide +kernel⟩
def sentFlit : SentFlit := { fseq := 0, ty := 0, payload := [] }
theorem witness_flits : ((linked 9 { st := .up, exp := 4095, buf := [sentFlit] }).link 31).isUp = true ∧
    (let L := (linked 9 { st := .up, buf := [sentFlit], next := 1, acked := 4095 }).link 31; let h : FlitHdr := { fack := 5 }
     (L.header h 9).buf ≠ [] ∧ h.fack ≠ L.acked ∧ ((L.header h 9).epis.getD { start := 9, count := 0, mark := 0 }).count < 64) ∧
    (let c := linked 100000 { st := .up, epis := some { start := 0, count := 0, mark := 0 } }; let m := c.runOut (c.episodeDue 31)
     (m.link 31).isUp = true ∧ (m.link 31).epis = some { start := 0, count := 0, mark := 0 } ∧ m.now ≥ 100000) ∧
    (let c := linked 5000 { st := .up, buf := [sentFlit] }; let m := c.runOut (c.ackDue 31)
     (m.link 31).buf ≠ [] ∧ (m.link 31).epis = none ∧ m.now ≥ (m.link 31).ackAt + ackTo m 31) ∧
    (let c := linked 2000 { st := .up, gap := some 0 }; let m := c.runOut (c.nakDue 31); (m.link 31).gap = some 0 ∧ m.now ≥ 2000) :=
  by decide +kernel
theorem witness_routes : (let c := linked 200000 { st := .up, rxq := [{ dchip := 7 }] }
    (c.link 31).isUp = true ∧ (c.link 31).rxq = [{ dchip := 7 }] ∧ (7 : Nat) ≠ c.id ∧ bitOf (rtEntry c 7) 10 = false ∧ c.flood.recs = []) ∧
    (let c : Chip := { linked 200000 {} with flood := { stale := true } }; c.flood.stale = true ∧ c.job.relink = false ∧ c.flood.changedAt + 200000 ≤ c.now) ∧
    ((linked 0 { st := .up, exch := some (255, -5) }).link 31).exch = some (255, -5) ∧
    ({ ready.chip with regs := [(rTS_STAT, 2 ^ 22 + 31 * 2 ^ 17)] } : Chip).parentLink.isSome = true ∧
    8 ≤ ((List.replicate 8 ((0 : Int), (3 : Int))).filter fun y => decide (∀ z ∈ List.replicate 8 ((0 : Int), (3 : Int)), y.2 ≤ z.2 + 32)).length :=
  by decide +kernel

/-! ### Witnesses: memory and snapshots -/

/-- A part whose first 16 MiB of HBM are a region of kind 6. -/
def regioned : State := { chip := { pins := { power := .ready }, regs := [(rMEM_RGN_CTL 0, 8 + 6), (rMEM_RGN_LIMIT 0, 0xFFF000)] } }
theorem witness_memory_served : regioned.up ∧
    (let q : MemReq := { agent := .security, xid := 0, addr := 0x1FC0, lines := 1, write := true, data := List.replicate 64 1 }
     q.addr / 4096 = (q.addr / 64 + q.lines - 1) / 64 ∧ q.addr % 64 + q.data.length ≤ 64 * q.lines ∧
     regioned.chip.runOk q.agent true true q.addr 64 = true ∧ regioned.chip.wrRefused q.addr 64 = false) ∧
    regioned.chip.runOk .client false true 0x1FC0 64 = false := ⟨⟨Or.inr rfl, rfl⟩, by decide +kernel, by decide +kernel⟩
/-- A Steward reads the first line of the store window of core 0, and the window's last byte is in its reach. -/
theorem witness_store_window : ready.up ∧ ready.chip.windowCore .steward 0x10000000000 64 = some 0 ∧ ready.chip.windowCore .steward 0x100003FFFFF 1 = some 0 ∧
    ready.chip.windowCore .steward 0x10000400000 1 = none ∧ ready.chip.windowCore .client 0x10000000000 64 = none := ⟨⟨Or.inr rfl, rfl⟩, by decide +kernel⟩
theorem witness_migration : let c : Chip := { ready.chip with regs := [(rMEM_MIG, 2 ^ 28 + 3)] }
    bitOf (c.reg rMEM_MIG) 28 = true ∧ c.moveIndex + 1 < c.moveCount := by decide +kernel
theorem witness_migration_end : let c : Chip := { ready.chip with regs := [(rMEM_MIG, 2 ^ 28 + 3 + (2 ^ 19 - 1025) * 2 ^ 9), (rMEM_TOP, (2 ^ 19 - 1024) * 2 ^ 21)] }
    c.moveIndex + 1 = c.moveCount ∧ ∀ x ∈ c.fencedCh, x ∈ c.retired := by decide +kernel
theorem witness_snapshots : ready.awake ∧
    (let c : Chip := { ready.chip with regs := [(rSNP_STAGE_SIZE, 4)], snp := { prot := [1], due := [0], doneL := [2], upload := some (6, 1), step := 6, reports := [(0, 6, 2)] } }
     c.snp.prot.contains (4096 / 4096) = true ∧ c.stagedPages < field (c.reg rSNP_STAGE_SIZE) 0 20 ∧ c.snp.due.contains 0 = true ∧
     bitOf (c.reg rSNP_STAT) 1 = false ∧ c.coordinator = true ∧ c.snp.doneL.contains 2 = true ∧ allReported c 2 c.snp.step = true) := ⟨ready_awake, by decide +kernel⟩

/-! ### Witnesses: commands of clients -/

/-- A message of 256 bytes, of opcode `op`. -/
def message (op : Byte) (l : List (Nat × Byte)) : List Byte := l.foldl (fun d x => d.set x.1 x.2) ([op, 0, 2, 0] ++ List.replicate 252 0)
/-- A ready part in whose client mailbox 0 the command of index 0 of channel 0 has the message `g`. -/
def client (g : List Byte) (job : Job) (regs : Map Nat) : State :=
  let b := Bytes.wrN (Bytes.wrN (Bytes.wrN [] 0 ([1, 0, 64, 0] ++ List.replicate 20 0 ++ [0, 0, 1, 0, 0, 8, 1, 0])) 0x10000
    ([1, 0, 0, 0, 0, 1, 0, 0, 0, 0, 4, 0, 0, 0, 0, 0])) 0x40000 g
  { chip := { pins := { power := .ready }, job := job, regs := (rMBX_CL_CFG 0, 0x1F01) :: regs, vcf := { bufs := [(0, b)], views := [(0, { prod := 1 })] } } }
/-- What the buffer of client 0 must hold for its command to be the head of its channel, in one decidable clause. -/
abbrev AtHead (s : State) (op : Nat) (g : List Byte) : Prop :=
  s.chip.headCmd (.chip 8) 0 = some (0, 0x10000) ∧
  (s.chip.chRd (.chip 8) 0x10000 4, s.chip.chRd (.chip 8) 0x10004 4, s.chip.chRd (.chip 8) 0x10008 8, s.chip.chRd (.chip 8) 0x10010 16) = (1, 256, 0x40000, 0) ∧
  g = Bytes.rdN (s.chip.ringMem (.chip 8)) 0x40000 256 ∧
  (listLe g 0 2 = op ∧ listLe g 2 1 = s.chip.vcfVer.1 ∧ listLe g 3 1 ≤ s.chip.vcfVer.2.1) ∧
  (opGroup op).all (fun n => bitOf (s.chip.reg (rMBX_CL_CFG 0)) (8 + n)) = true ∧ (opGroup op).isSome = true ∧
  opReserved op g = none ∧ s.chip.stateBad op = false
theorem client_head (s : State) (op : Nat) (g : List Byte) (hu : s.awake) (hp : s.chip.pins.power = .ready) (hd : s.chip.vcf.draining = false)
    (h : AtHead s op g) : s.clientHead 0 0 0 op g := by
  have ⟨head, words, bytes, ver, gate, known, fields, state⟩ := h
  have ⟨n, hn⟩ := Option.isSome_iff_exists.mp known
  refine ⟨hu, hp, hd, by decide, by decide, ⟨0x10000, head, congrArg Prod.fst words, ?_⟩, ver.1, ver.2.1, ver.2.2, ⟨n, hn, by simpa [hn] using gate⟩, fields, state⟩
  have len : s.chip.chRd (.chip (8 + 0)) (0x10000 + 4) 4 = 256 := congrArg (·.2.1) words
  have ptr : s.chip.chRd (.chip (8 + 0)) (0x10000 + 8) 8 = 0x40000 := congrArg (·.2.2.1) words
  have rest : s.chip.chRd (.chip (8 + 0)) (0x10000 + 16) 16 = 0 := congrArg (·.2.2.2) words
  rw [len, ptr]
  exact ⟨by decide, by decide, by decide, by decide, rest, bytes⟩
theorem client_at_head (op : Nat) (g : List Byte) (job : Job) (regs : Map Nat) (h : AtHead (client g job regs) op g) :
    (client g job regs).clientHead 0 0 0 op g := client_head _ op g ⟨⟨Or.inr rfl, rfl⟩, rfl⟩ rfl rfl h

/-- A query of one register, CTB_NOW: its address is the 8 bytes at offset 64. -/
def dTel : List Byte := message 0x50 ([(16, 1), (20, 64), (25, 1)] ++ (List.range 8).map fun k => (64 + k, (leBytes 8 rCTB_NOW).getD k 0))
theorem witness_telemetry : (let m := (client dTel {} []).took 0 0
    m.telRead (listLe (m.payloadAt { c := 0, ch := 0, idx := 0, op := 0x50, msg := dTel } 64 8) 0 8) = some 0) := by decide +kernel
theorem witness_client : ∀ x ∈ [(0x01, message 0x01 []), (0x02, message 0x02 []), (0x50, dTel), (0x90, message 0x90 [(16, 0x84), (17, 3)]),
    (0x90, message 0x90 [(16, 0x83), (17, 3)]), (0x60, message 0x60 [(16, 0x2D), (17, 9)]), (0x60, message 0x60 [(16, 0x2E), (17, 9)]),
    (0x40, message 0x40 [(16, 15), (17, 17)]), (0x41, message 0x41 [(16, 15), (17, 17)])], (client x.2 {} []).clientHead 0 0 0 x.1 x.2 := fun x h =>
  client_at_head x.1 x.2 {} [] ((by decide +kernel : ∀ x ∈ [(0x01, message 0x01 []), (0x02, message 0x02 []), (0x50, dTel),
    (0x90, message 0x90 [(16, 0x84), (17, 3)]), (0x90, message 0x90 [(16, 0x83), (17, 3)]), (0x60, message 0x60 [(16, 0x2D), (17, 9)]),
    (0x60, message 0x60 [(16, 0x2E), (17, 9)]), (0x40, message 0x40 [(16, 15), (17, 17)]), (0x41, message 0x41 [(16, 15), (17, 17)])],
    AtHead (client x.2 {} []) x.1 x.2) x h)

theorem witness_jobs : ∀ x ∈ [(0x11, JobSt.loaded), (0x12, .loaded), (0x20, .paused), (0x21, .paused), (0x21, .running), (0x30, .running), (0x31, .paused)],
    (client (message (BitVec.ofNat 8 x.1) []) { st := x.2 } []).clientHead 0 0 0 x.1 (message (BitVec.ofNat 8 x.1) []) := fun x h =>
  client_at_head x.1 _ { st := x.2 } [] ((by decide +kernel : ∀ x ∈ [(0x11, JobSt.loaded), (0x12, .loaded), (0x20, .paused), (0x21, .paused), (0x21, .running),
    (0x30, .running), (0x31, .paused)], AtHead (client (message (BitVec.ofNat 8 x.1) []) { st := x.2 } []) x.1 (message (BitVec.ofNat 8 x.1) [])) x h)
/-- STEP_RUN with LIMIT 0 at index 0 is kept, and completes when its steps have run (12 R434). -/
theorem test_step_run : let t := ran (client (message 0x20 []) { st := .paused } []) (.stepRun 0 0)
    t.chip.job.st = .running ∧ t.chip.job.left = none ∧ t.chip.vcf.running.length = 1 := by decide +kernel

theorem witness_releases : (timed 5).awake ∧ (timed 5).chip.now + 50000 ≤ (50005#64).toNat ∧ (50004#64).toNat < (timed 5).chip.now + 50000 ∧
    (timed 5).chip.boundaryReady = true ∧
    (let c : Chip := { (timed 5).chip with regs := [(rFAB_MAP 0, 0x200)], job := { st := .running, image := List.replicate 16 0 ++ [1, 1] ++ List.replicate 110 0 }
                                           cores := [(0, { layered with sel := [{ chain := 0, layer := 0, ctr := 0, windows := 1, tiles := 4 }] })] }
     c.boundaryReady = false) ∧
    ({ (timed 5).chip with job := { st := .running, reports := [(0, 0)] } } : Chip).allReady = true ∧ bitOf ((timed 5).chip.reg rSNP_STAT) 1 = false :=
  ⟨⟨⟨Or.inr rfl, rfl⟩, rfl⟩, by decide +kernel⟩

/-- A stage set that holds a Steward image, and a proposal of type 1 that the operator may approve. -/
def updating (op : Nat) (g : List Byte) : State :=
  let s := client g {} [(rSEC_UPD, 2 ^ 3 + 2 * 2 ^ 4)]
  { s with chip := { s.chip with sec := { stageSeq := op, proposals := [{ ptype := 0, id := 1, role := 0, body := [], msg := [], expiry := 9 }] } } }
def dPropose : List Byte := message 0x80 [(16, 1), (20, 64), (24, 32), (28, 32), (32, 0x73), (33, 0x12)]
def dApprove : List Byte := message 0x81 [(16, 1), (28, 0x73), (29, 0x12), (32, 1)]
theorem witness_updates : (∀ x ∈ [(0x70, message 0x70 [(17, 1)]), (0x71, message 0x71 [(16, 0x71)]), (0x72, message 0x72 [(16, 0x72)]), (0x80, dPropose), (0x81, dApprove)],
      (updating x.1 x.2).clientHead 0 0 0 x.1 x.2) ∧
    (let m := (updating 0x71 (message 0x71 [(16, 0x71)])).took 0 0; let r : RunCmd := { c := 0, ch := 0, idx := 0, op := 0x71, msg := message 0x71 [(16, 0x71)] }
     m.namesSet r = true ∧ m.commitRuns = false ∧ bitOf m.staged 1 = true) ∧
    (let m := (updating 0x80 dPropose).took 0 0; listLe dPropose 32 4 = 4723 ∧ listLe dPropose 28 4 + 4723 ≤ 0x40000 ∧
     listLe dPropose 20 4 + 32 ≤ 0x40000 ∧ (let body := m.payloadAt { c := 0, ch := 0, idx := 0, op := 0x80, msg := dPropose } (listLe dPropose 20 4) 32
      listLe body 16 1 < 32 ∧ nz body 17 15 = false)) ∧
    (let m := (updating 0x81 dApprove).took 0 0; (m.sec.proposals.find? (fun q => q.id == listLe dApprove 16 8)).isSome = true ∧ m.now < 9) :=
  ⟨fun x h => client_head _ _ _ ⟨⟨Or.inr rfl, rfl⟩, rfl⟩ rfl rfl ((by decide +kernel : ∀ x ∈ [(0x70, message 0x70 [(17, 1)]), (0x71, message 0x71 [(16, 0x71)]),
    (0x72, message 0x72 [(16, 0x72)]), (0x80, dPropose), (0x81, dApprove)], AtHead (updating x.1 x.2) x.1 x.2) x h), by decide +kernel, by decide +kernel, by decide +kernel⟩
theorem witness_switchover : field (({ ready.chip with regs := [(rSEC_UPD, 4)] } : Chip).reg rSEC_UPD) 0 3 = 4 ∧ ready.chip.vcf.running = [] ∧
    field (({ ready.chip with regs := [(rSEC_UPD, 1)] } : Chip).reg rSEC_UPD) 0 3 = 1 ∧ ready.chip.sec.todo = [] := by decide +kernel

theorem witness_channels : (let s := client (message 1 []) {} [(0x20000500000 + 0x1000 * 8, 1)]; let k := s.chip; let m := Mbx.chip 8
      bitOf (k.mbxPend m false) 0 = true ∧ k.chRd m 32 1 = 0 ∧ k.chRd m 2 2 = 64 ∧ k.chRd m 28 4 = 0x10800 ∧ k.chanE m 0 = 64 ∧ k.clEp 0 = true ∧ k.pins.d3 = false) ∧
    (let k := (client [] {} [(rMBX_CL_CFG 1, 2)]).chip; k.ethPath 1 0 = true ∧ k.vcf.conns.contains (0, 1) = false ∧ k.clEp 1 = false) := by decide +kernel

/-! ### Witnesses: energy and faults -/

theorem witness_energy : (timed 5).awake ∧
    (let c : Chip := { (timed 5).chip with regs := [(rEN_STAT, 1)], en := { sent := [{ p := 3, handle := 1, nj := 9 }], queue := [{ p := 3, handle := 1, nj := 9 }] } }
     bitOf (c.reg rEN_STAT) 0 = true ∧ (c.en.sent.find? fun x => decide (x.p = 3) && decide (x.handle = 1)) = some { p := 3, handle := 1, nj := 9 } ∧
     c.grantable { p := 3, handle := 1, nj := 9 } = false) ∧
    ({ (timed 5).chip with regs := [(rEN_STAT, 1), (rEN_POOL, 1000)] } : Chip).grantable { p := 3, handle := 1, nj := 9 } = true ∧
    bitOf ((timed 5).chip.reg rEN_STAT) 0 = false ∧
    (let c : Chip := { (timed 5).chip with regs := [(rEN_B_PT 71, 12 * 16 + 3)] }; field (c.reg (rEN_B_PT 71)) 4 4 ≤ 12 ∧ field (c.reg (rEN_B_PT 71)) 4 4 ≠ field (c.reg (rEN_B_PT 71)) 0 4 ∧
     c.benchBusy 71 = false ∧ c.benchInJob 71 = false) :=
  ⟨⟨⟨Or.inr rfl, rfl⟩, rfl⟩, by decide +kernel, by decide +kernel, by decide +kernel, by decide +kernel⟩
/-- A part with core 0's source of format errors (2) in the state `v`, of threshold `n` and reactions `ra`, `rb`. -/
def faulty (v n ra rb : Nat) : State := { chip := { pins := { power := .ready }, regs := [(rCTB_NOW, 9), (rFLT_SRC 2, v * 2 ^ 16), (rFLT_CFG 2, n + ra * 2 ^ 24 + rb * 2 ^ 27 + 7 * 2 ^ 30)], flt := { winEnd := [(rFLT_SRC 2, 9)], graceEnd := [(rFLT_SRC 2, 9)] } } }
theorem witness_events : (∀ v n ra rb, (faulty v n ra rb).up) ∧ evSource evFormat 0 = some (2, none) ∧ evImm evFormat = false ∧ srcReg 2 none = rFLT_SRC 2 ∧
    (evCoreMemory, 5 + 1 * 2 ^ 32) ∉ ((one cpu).chip.core 0).raised ∧ srcSevere ((faulty 2 1 5 7).chip.reg (rFLT_SRC 2)) = true ∧ srcState ((faulty 0 2 1 7).chip.reg (rFLT_SRC 2)) = 0 ∧ (faulty 0 2 1 7).chip.suppressed 2 = false ∧
    1 < field ((faulty 0 2 1 7).chip.reg (rFLT_CFG 2)) 0 16 ∧ field ((faulty 0 1 5 7).chip.reg (rFLT_CFG 2)) 0 16 ≤ 1 ∧ (faulty 0 1 5 7).chip.chain 2 0 = 5 ∧
    ({ ready.chip with cores := [(0, { cpu with fenced := true })] } : Chip).suppressed 2 = true :=
  ⟨fun _ _ _ _ => ⟨Or.inr rfl, rfl⟩, by decide +kernel⟩
theorem witness_timers : (faulty 1 2 1 7).awake ∧ (srcOf 2) = (2, none) ∧
    (srcState ((faulty 1 2 1 7).chip.reg (rFLT_SRC 2)) = 1 ∧ NatMap.rd (faulty 1 2 1 7).chip.flt.winEnd (rFLT_SRC 2) ≤ (faulty 1 2 1 7).chip.now) ∧
    (faulty 1 2 1 7).chip.trimOk ∧
    (srcState ((faulty 2 2 1 7).chip.reg (rFLT_SRC 2)) = 2 ∧ NatMap.rd (faulty 2 2 1 7).chip.flt.graceEnd (rFLT_SRC 2) ≤ (faulty 2 2 1 7).chip.now ∧ (faulty 2 2 1 7).chip.chain 2 1 = 7) ∧
    (faulty 2 2 1 5).chip.chain 2 1 = 5 ∧
    (srcState (ready.chip.reg (rFLT_SRC 2303)) = 0 ∧ 1 < field (ready.chip.reg (rFLT_CFG 2303)) 0 16) ∧
    ready.chip.chain srcOVC 0 = 6 ∧ ready.chip.chain srcRAIL 0 = 6 ∧ ready.chip.chain srcSTWA 0 = 2 ∧ ready.chip.isActive .stewardB = false ∧
    ({ ready.chip with regs := [(rMBX_ROLE, 2)] } : Chip).stbyOk = true ∧ ({ ready.chip with flt := { lockErr := some 0 } } : Chip).flt.lockErr = some 0 :=
  ⟨⟨⟨Or.inr rfl, rfl⟩, rfl⟩, by decide +kernel, by decide +kernel, ⟨by decide, by decide +kernel, by decide +kernel⟩, by decide +kernel⟩
/-- A running job of one core, which waits for an operation and has a progress limit that has passed. -/
def stuck : State := { chip := { pins := { power := .ready }, cores := [(0, { operating dRed with regs := cpu.regs ++ [(rPROG_LIMIT, 1000)], progAt := 1000000 })]
                                 regs := [(rFAB_MAP 0, 0x200)], job := { st := .running, image := List.replicate 16 0 ++ [1, 1] ++ List.replicate 110 0 } } }
theorem witness_progress : stuck.chip.progRuns 0 = true ∧ 1000 * (stuck.chip.core 0).reg rPROG_LIMIT ≤ (stuck.chip.core 0).progAt := by decide +kernel

/-! ### Witnesses: power, boot, ports -/

theorem witness_power : ({ power := .off, pwrOk := false } : Pins).pwrOk = false ∧ ({ power := .off, railsOk := true } : Pins).railsOk = true ∧
    State.reset.chip.pins.power ≠ .off ∧ ready.chip.resettable = true ∧ ready.chip.pins.resetting = false := by decide +kernel
theorem witness_boot : State.reset.chip.pins.power = .boot ∧ State.reset.chip.pins.sysRst = false ∧ State.reset.chip.hold = false ∧ State.reset.chip.stage = 1 ∧
    ({ State.reset.chip with regs := [(rSEC_STAT, 3)] } : Chip).stage = 3 ∧ State.reset.chip.sec.choose [(1, 0), (1, 1)] 1 = none := by decide +kernel
theorem witness_ports : ready.awake ∧ ready.chip.forming = true ∧ ({ ready.chip with regs := [(rEN_STAT, 1)] } : Chip).tlmAcks = true ∧
    ready.chip.pins.dynAddr = none ∧ (ready.chip.pins.trace.foldl (fun k b => k + b.length) 0) ≤ 65510 := ⟨ready_awake, by decide +kernel⟩
/-- 17 R564: the IDCODE. -/
theorem test_idcode : (ran ready .tapIdcode).chip.outs = [.value 0x1416C3A7] := by decide +kernel

/-! ### Witness: a job image -/

/-- An image for one part of one core, with an empty layer table: header, section table, JOB and PART sections. -/
def image : List Byte :=
  [0x42, 0x56, 0x4A, 0x42, 1, 0, 2, 0, 0x16, 0x04, 0x42, 0x46, 1, 0, 0, 0, 1, 1, 4, 0, 0, 0, 0, 0, 0, 1] ++ List.replicate 230 0 ++
  entry 1 255 384 64 ++ entry 2 255 448 0 ++ entry 3 0 448 64 ++ entry 4 0 512 0 ++
  (List.replicate 28 0 ++ [1, 0, 1, 0, 1] ++ List.replicate 31 0) ++ List.replicate 64 0
where entry (ty r : Byte) (off len : Nat) : List Byte := [ty, 0, 1, 0, r, r, r, r] ++ leBytes 8 off ++ leBytes 8 len ++ List.replicate 8 0
theorem witness_image_check : loadCheck image (Config.sha384 image) 0 1 2 0x200 = none := by
  have h : (¬ imgHeaderOk image ∨ listLe image 6 1 ≠ 2 ∨ ¬ imgTableOk image ∨ imgParts image ≠ 1) = False := by
    simp only [eq_iff_iff, iff_false]; decide +kernel
  simp only [not_or, eq_iff_iff, iff_false, Decidable.not_not, ne_eq] at h
  simp [loadCheck, h.1, h.2.1, h.2.2.1, h.2.2.2]
theorem witness_image_loads : (loadRegions (memJobstWrite ready.chip 1) image 0).2 = none ∧ (namedRanks image 0).dedup.filter (· ≠ 0) = [] ∧
    (loadFinish { memJobstWrite ready.chip 1 with job := { image := image } }).2 = none := by decide +kernel

/-- A JOB_LOAD of that image, which follows the message in the payload area. -/
def dLoad : List Byte :=
  message 0x10 ([(25, 2), (108, 1)] ++ (List.range 8).map (fun k => (32 + k, (leBytes 8 image.length).getD k 0)) ++ [(112, 0xE8), (113, 3)])
def loading : State :=
  let s := client dLoad {} []
  { s with chip := { s.chip with vcf := { s.chip.vcf with bufs := s.chip.vcf.bufs.map fun x => (x.1, Bytes.wrN x.2 0x40200 image) } } }
theorem witness_load_head : loading.clientHead 0 0 0 0x10 dLoad := client_head _ _ _ ⟨⟨Or.inr rfl, rfl⟩, rfl⟩ rfl rfl (by decide +kernel)
theorem witness_load_source : (match (loading.took 0 0).imageSource { c := 0, ch := 0, idx := 0, op := 0x10, msg := dLoad } (listLe dLoad 16 1) 16 [] with
    | .ok b => decide (b = image) | .error _ => false) = true ∧ listLe dLoad 108 4 = 1 ∧ listLe dLoad 112 4 = 1000 := by decide +kernel

/-! ### Witnesses: a core's commands and a bench of a job -/

/-- A running job of that image, on core 0, whose channels 1 and 2 hold a command of 64 bytes each. -/
def speaking : Chip :=
  let ring := fun (ch : Nat) (m : Bytes) => Bytes.wrN (Bytes.wrN m (64 * ch) ([1, 0, 4, 0] ++ List.replicate 20 0 ++ [0, 0x10, 0, 0])) 0x1000
    ([1, 0, 0, 0, 64, 0, 0, 0, 0, 0x20, 0, 0])
  { ready.chip with regs := [(rFAB_MAP 0, 0x200)], job := { st := .running, image := image }, cores := [(0, { cpu with store := ring 2 (ring 1 []) })]
                    vcf := { views := [(4096 + 1, { prod := 1 }), (4096 + 2, { prod := 1 })] } }
theorem witness_core_commands : speaking.inJob 0 = true ∧ speaking.headCmd (.core 0) 2 = some (0, 0x1000) ∧ speaking.headCmd (.core 0) 1 = some (0, 0x1000) ∧
    speaking.chRd (.core 0) 0x1004 4 = 64 ∧ speaking.chRd (.core 0) 0x1008 8 = 0x2000 ∧ speaking.chRd (.core 0) 0x1000 4 = 1 := by decide +kernel
/-- The message of an INPUT_FETCH of 8 bytes to 3000h, on channel 1 of `speaking`. -/
theorem witness_input : let c : Chip := speaking.setCore 0 { cpu with store := Bytes.wrN (speaking.core 0).store 0x2000 (desc [(1, 1), (8, 8), (13, 0x30)]) }
    c.inJob 0 = true ∧ c.headCmd (.core 0) 1 = some (0, 0x1000) ∧ (let g := Bytes.rdN (c.ringMem (.core 0)) 0x2000 64
      listLe g 0 2 = 0x100 ∧ listLe g 12 4 = 0x3000 ∧ listLe g 8 4 = 8) := by decide +kernel
theorem witness_benches : speaking.benchInJob 0 = true ∧ ({ ready.chip with cores := [(0, { cpu with blocks := [(0, false, 0, [])] })] } : Chip).benchBusy 0 = true := by
  decide +kernel

end Sys2Proof.Tests
end

section
/-!
PROOFS. The queue and the commands (01 R23; the queue is the model's frame, log 1): a command answers by whether the units
and registers that it names exist, and no command touches the queue.

`AnswersIf b s r` is that answer, for a result `r` of a command on `s` whose units exist when `b` holds. Each way in which
Machine/Lift.lean makes an effect on the part a result has one rule for it; `exec_answersIf` gives every command its rule.
-/
namespace Sys2Proof.Machine

/-- `r` is a next state with the same queue if `b` holds, and a stop by `noSuchUnit` if not. -/
def AnswersIf (b : Bool) (s : State) (r : Result) : Prop :=
  ∃ m : Chip, r = if b then .next { s with chip := m } else .fault .noSuchUnit

namespace AnswersIf

variable {s : State} {b : Bool} {r : Result}

theorem of_noSuchUnit : AnswersIf false s (.fault .noSuchUnit) := ⟨s.chip, rfl⟩

theorem act (s : State) (d : Domain) (f : Chip → Chip) : AnswersIf true s (s.act d f) := by
  by_cases h : d.active s.chip = true
  · exact ⟨f s.chip, State.act_next h f⟩
  · exact ⟨s.chip, by simp [State.act, h]⟩

/-- A result that is given only under a condition `P` on the command's operands. -/
theorem guarded {P : Prop} [Decidable P] (h : AnswersIf b s r) :
    AnswersIf (b && decide P) s (if P then r else .fault .noSuchUnit) := by
  by_cases hP : P
  · simpa [hP] using h
  · simpa [hP] using of_noSuchUnit

theorem guarded₂ {P Q : Prop} [Decidable P] [Decidable Q] (h : AnswersIf b s r) :
    AnswersIf (b && decide P && decide Q) s (if P ∧ Q then r else .fault .noSuchUnit) := by
  simpa [Bool.and_assoc] using h.guarded (P := P ∧ Q)

theorem actUnit (s : State) (d : Domain) (u n : Nat) (f : Chip → Chip) :
    AnswersIf (decide (u < n)) s (s.actUnit d u n f) :=
  (act s d f).guarded

theorem actCore (s : State) (d : Domain) (p : Nat) (f : Chip → Chip) :
    AnswersIf (decide (p < nCores)) s (s.actCore d p f) :=
  (act s d _).guarded

theorem actOn (s : State) (p : Nat) (f : Core → Core) : AnswersIf (decide (p < nCores)) s (s.actOn p f) :=
  actCore s _ p _

theorem actClient (s : State) (c ch : Nat) (f : Chip → Chip) :
    AnswersIf (decide (c < 8) && decide (ch < 32)) s (s.actClient c ch f) :=
  (act s _ f).guarded₂

theorem actMbx (s : State) (m : Mbx) (f : Chip → Chip) : AnswersIf m.wf s (s.actMbx m f) := by
  have h := (act s .held f).guarded (P := m.wf = true)
  rw [Bool.true_and, Bool.decide_eq_true] at h
  cases m with
  | core p => exact h
  | chip n => exact h

/-- The register numbers that a queue-extension row does not have are 0 in its word. -/
theorem actQx {p f7 f3 rd rs1 rs2 : Nat}
    (h : b = (decide (p < nCores) && decide (rd < 32) && decide (rs1 < 32) && decide (rs2 < 32))) :
    AnswersIf b s (s.actQx p f7 f3 rd rs1 rs2) := by
  have hb : b = (decide (p < nCores) && decide (rd < 32 ∧ rs1 < 32 ∧ rs2 < 32)) := by
    rw [h, Bool.decide_and, Bool.decide_and, Bool.and_assoc, Bool.and_assoc]
  rw [hb]
  exact (actCore s .core p _).guarded

theorem next_of_true (h : AnswersIf b s r) (hb : b = true) : ∃ m : Chip, r = .next { s with chip := m } := by
  simpa [AnswersIf, hb] using h

theorem fault_of_false (h : AnswersIf b s r) (hb : b = false) : r = .fault .noSuchUnit := by
  obtain ⟨_, rfl⟩ := h
  rw [hb]
  rfl

/-- The queue is kept, whichever way the command is answered. -/
theorem pending_of_next {t : State} (h : AnswersIf b s r) (ht : r = .next t) : t.pending = s.pending := by
  obtain ⟨m, rfl⟩ := h
  split at ht
  · cases ht
    rfl
  · cases ht

end AnswersIf

/-- Every command answers by whether it is well-formed: one rule for each lift that the arms of `exec` use. -/
theorem exec_answersIf (c : Instr) (s : State) : AnswersIf c.wf s (exec c s) := by
  unfold exec Instr.wf
  cases c
  case stepBoundary | stepRelease | stewardMessage | rankAnnounce | partLostMsg | memoryRequest | memoryResponse |
      hbmScrub | selfRefreshEntry | hbmTemperature | cxlDeviceDown | cowCopyDone | disciplineWindow | replan | updPhaseDone |
      lockstepMismatch | rdmaConnect | clientWindowRead | clientWindowWrite | faultEvent | faultWindowEnd | graceExpiry |
      overCurrent | captureComplete | captureCommit | destinationFail | accountingPeriod | calibration | exceedCheck |
      powerGood | bootStageDone | bootStageTimeout | railOutOfRange | tapBypass | pcieSurpriseRemoval | i3cOffsetWrite |
      i3cRead | setdasa | entdaa | i2cTransfer | telemetryRefresh | registerWrite | mbxRoleWrite | ctbTrimWrite |
      memRetireGo | memJobstWrite | tsCfgWrite | fltAckWrite | fltFirstClear | snpCtlWrite | ieee1588Message |
      d3hotTransition | trimAdjust | refclkLoss | holdoverRelock | holdoverTimeout | migrationPageMove | migrationDone |
      plannedSwitchover | thermtrip | layer2UploadDone | grantIssue | pwrOkFall | vddAonLow | sysRstN | mepPerstN |
      functionLevelReset | trstN | tapIdcode | traceStatusRecord | haltTraceRecord | traceDropRecord | sysRstNRelease |
      railsWithinRange | accountantRunning | lockstepErrNRelease =>
    exact .act ..
  case rvInstruction | localInterrupt | seqStallRetire | condBlockHead | blockDispatch | blockLaunch | fnop | fwld |
      fmma | bnop | bwld | bmma | bcm | cvt | pdrn | ldt | red | send | recv | stsh | usth | igth | kcap | dacc | daccApply |
      mov | ksel | kchk | kchkDone | coreVerdictMsg | layerVerdictMsg | shardAmaxMsg | tensorScaleMsg | dataMessage |
      voidMessage | readyToken | deliveryAck | storeWrite | storeWriteAck | storeReadRequest | storeReadResponse |
      barrierArrival | barrierCompletion | ctbcmpMatch | timedStart | spillDone | prefetchStart | prefetchDone |
      stashHoldTimeout | inputFetch | log | progressTimeout | grantRequestMsg | bistDone | windowPairAccess | seqCtlWrite |
      sramAliasWrite | clampClr | feRepairWrite | feBistStart | beRepairWrite | beBistStart | vuFcsrWrite | hzdStatClear |
      errStatClear | drwErrClear | krfVrRdWrite | tlLateClr | seqCtbcmpWrite | sthCfgWrite | cfcAckWrite | progLimitWrite |
      engineLatencyReached | operationCommit | checkpointEntryArrival =>
    exact .actCore ..
  case vadd | vsub | vmul | vfma | vdiv | vsqrt | vrem | vmin | vmax | vminn | vmaxn | vminm | vmaxm | vminmn | vmaxmn |
      vcmpq | vcmps | vcvt | vcvti | vcvtf | vrint | vscaleb | vlogb | vnextup | vnextdn | vneg | vabs | vcpsgn | vclass |
      vrfill =>
    exact .actOn ..
  case packetForward | linkStopPacket | pmdTrainingDone | fecLock | identFlit | trainingTimeout | dataFlit | idleFlit |
      nakFlit | timeFlit | lmFlit | ackTimeout | nakRepeat | episodeTimeout | laneSignalLoss | fecFailure | linkDegrade |
      linkRetrain | timeExchangeStart | benchThermal | pointChange | benchPark | fabMapWrite | fabBypWrite | memRgnCtlWrite |
      slCtlEnWrite | slCtlRetire | slRtWrite | fltCfgWrite =>
    exact .actUnit ..
  case ifQuery | chReset | jobLoad | jobStart | jobUnload | stepRun | stepPause | snapTake | snapRestore | coreFence |
      coreUnfence | telQuery | fltAck | updStage | updCommit | updAbort | polPropose | polApprove | envSet =>
    exact .actClient ..
  case channelNotice | mbxDbWrite | mbxDbRWrite | mbxMaskWrite =>
    exact .actMbx ..
  case qpushV | qpushK | qop | benqF | benqB | qfence | mfence | qxret | ctbrl | ctbrh | tarm | barv | bwait | bpoll |
      dbell | wrung | greq | gstat | grel =>
    exact .actQx (by simp)
  case qeCfgWrite | qeCfgTakeEffect | rsRegWrite | rsWriteLand | sctCfgWrite | sctScaleWrite | sctLinkWrite | ltCfgWrite |
      barCfgWrite =>
    exact .guarded (.actCore ..)
  case sctHistWrite =>
    exact .guarded₂ (.actCore ..)

/-- Settles O2: `step` hands the queue's rest to the command (log 1), and a command answers by `exec_answersIf`. -/
theorem queueFirstInFirstOut : Obligations.QueueFirstInFirstOut := by
  refine ⟨fun c rest s t ht => ?_, fun c s hc => ?_, fun c s hc => (exec_answersIf c s).fault_of_false hc⟩
  · have hstep : step { s with pending := c :: rest } = exec c { s with pending := rest } := rfl
    exact (exec_answersIf c { s with pending := rest }).pending_of_next (hstep.symm.trans ht)
  · obtain ⟨m, hm⟩ := (exec_answersIf c s).next_of_true hc
    exact ⟨{ s with chip := m }, hm, rfl⟩

end Sys2Proof.Machine
end

section
/-!
PROOFS. Codes of binary floating-point formats (02 R56, R65, R66): sign and magnitude of a code, and why rounding the value
of a finite code gives the code back.

A finite code means `n * 2 ^ (k - fbits)`, where the significand `n` and the exponent `k` are canonical: `n` has at most
`fbits + 1` bits, and it has fewer only at the least exponent. `round_canonical` is the rounding of such a value, and
`decode_eq_fin` says that every finite code has one.
-/
namespace Sys2Proof.Machine

/-! ### Sign and magnitude of a code -/

namespace FpFmt

variable (f : FpFmt)

theorem signBit_eq (neg : Bool) : f.signBit neg = neg.toNat * 2 ^ (f.ebits + f.fbits) := by
  cases neg <;> simp [signBit]

theorem magBits_eq (x : Nat) : f.magBits x = x % 2 ^ (f.ebits + f.fbits) := by
  simp [magBits, field]

theorem magBits_eq_fields (x : Nat) : f.magBits x = field x f.fbits f.ebits * 2 ^ f.fbits + field x 0 f.fbits := by
  rw [magBits_eq, Nat.add_comm f.ebits, Nat.pow_add, Nat.mod_mul, field, field, Nat.shiftRight_eq_div_pow, Nat.shiftRight_zero]
  ring

theorem toNat_neg {x : Nat} (hx : x < 2 ^ (f.ebits + f.fbits + 1)) : (f.neg x).toNat = x / 2 ^ (f.ebits + f.fbits) := by
  rw [neg, bitOf, Nat.toNat_testBit, Nat.mod_eq_of_lt (Nat.div_lt_of_lt_mul (by rwa [← Nat.pow_succ]))]

/-- A code is its sign bit and its magnitude. -/
theorem signBit_add_magBits {x : Nat} (hx : x < 2 ^ (f.ebits + f.fbits + 1)) : f.signBit (f.neg x) + f.magBits x = x := by
  rw [signBit_eq, toNat_neg f hx, magBits_eq, Nat.div_add_mod']

/-- With the other sign bit a code is the code with that one bit changed. -/
theorem signBit_not_add_magBits {x : Nat} (hx : x < 2 ^ (f.ebits + f.fbits + 1)) :
    f.signBit (!f.neg x) + f.magBits x = x ^^^ 2 ^ (f.ebits + f.fbits) := by
  have hy := Nat.xor_lt_two_pow hx (Nat.pow_lt_pow_succ (n := f.ebits + f.fbits) Nat.one_lt_two)
  have hneg : f.neg (x ^^^ 2 ^ (f.ebits + f.fbits)) = !f.neg x := by simp [neg, bitOf]
  have hmag : f.magBits (x ^^^ 2 ^ (f.ebits + f.fbits)) = f.magBits x := by simp [magBits_eq, Nat.xor_mod_two_pow]
  rw [← hneg, ← hmag, signBit_add_magBits f hy]

end FpFmt

/-! ### The sign operations of the vector unit -/

section
variable (fmt f2 pred a b c : Nat) (rm : RoundMode) (ex : Bool)

theorem vuLane_negate :
    vuLane 0x39 fmt f2 rm pred ex a b c = ((vuFmt fmt).signBit (!(vuFmt fmt).neg a) + (vuFmt fmt).magBits a, {}) := rfl

theorem vuLane_abs : vuLane 0x3A fmt f2 rm pred ex a b c = ((vuFmt fmt).magBits a, {}) := rfl

theorem vuLane_copySign :
    vuLane 0x3B fmt f2 rm pred ex a b c = ((vuFmt fmt).signBit ((vuFmt fmt).neg b) + (vuFmt fmt).magBits a, {}) := rfl

end

/-- Settles O28: each result is a sign bit and the magnitude of A. -/
theorem signOperations : Obligations.SignOperations := by
  intro fmt f2 pred a b c rm ex n ha hb
  refine ⟨?negate, ?abs, ?copySign, ?flags⟩
  case negate => rw [vuLane_negate, FpFmt.signBit_not_add_magBits _ ha]
  case abs => rw [vuLane_abs, FpFmt.magBits_eq]
  case copySign => rw [vuLane_copySign, FpFmt.signBit_eq, FpFmt.toNat_neg _ hb, FpFmt.magBits_eq, Nat.add_comm]
  case flags => simp [vuLane_negate, vuLane_abs, vuLane_copySign]

/-! ### Powers of two and the exponent of a rational -/

theorem pow2_eq_zpow (k : Int) : pow2 k = (2 : Rat) ^ k := by
  unfold pow2
  split
  case isTrue h =>
    lift k to Nat using h
    simp
  case isFalse h =>
    obtain ⟨j, rfl⟩ : ∃ j : Nat, k = -j := ⟨(-k).toNat, by omega⟩
    simp

/-- The leading bits of numerator and denominator give the exponent of a quotient to within one. -/
theorem two_zpow_sub_log2_bounds {n d : Nat} (hn : n ≠ 0) (hd : d ≠ 0) :
    (2 : Rat) ^ ((n.log2 : Int) - d.log2 - 1) < n / d ∧ (n : Rat) / d < 2 ^ ((n.log2 : Int) - d.log2 + 1) := by
  have hd₀ : (0 : Rat) < d := by exact_mod_cast Nat.pos_of_ne_zero hd
  have hnl : (2 : Rat) ^ (n.log2 : Int) ≤ n := by exact_mod_cast Nat.log2_self_le hn
  have hnu : (n : Rat) < 2 ^ ((n.log2 : Int) + 1) := by exact_mod_cast Nat.lt_log2_self
  have hdl : (2 : Rat) ^ (d.log2 : Int) ≤ d := by exact_mod_cast Nat.log2_self_le hd
  have hdu : (d : Rat) < 2 ^ ((d.log2 : Int) + 1) := by exact_mod_cast Nat.lt_log2_self
  constructor
  · calc (2 : Rat) ^ ((n.log2 : Int) - d.log2 - 1) = 2 ^ (n.log2 : Int) / 2 ^ ((d.log2 : Int) + 1) := by
          rw [← zpow_sub₀ two_ne_zero, sub_sub]
      _ < n / d := div_lt_div₀' hnl hdu (by positivity) hd₀
  · calc (n : Rat) / d < 2 ^ ((n.log2 : Int) + 1) / 2 ^ (d.log2 : Int) := div_lt_div₀ hnu hdl (by positivity) (by positivity)
      _ = 2 ^ ((n.log2 : Int) - d.log2 + 1) := by
          rw [← zpow_sub₀ two_ne_zero, sub_add_eq_add_sub]

theorem ratLog2_eq_log {q : Rat} (hq : 0 < q) : ratLog2 q = Int.log 2 q := by
  have hnum : 0 < q.num := Rat.num_pos.mpr hq
  have hnum' : ((q.num.toNat : Nat) : Rat) = (q.num : Rat) := by exact_mod_cast Int.toNat_of_nonneg hnum.le
  obtain ⟨hlo, hhi⟩ := two_zpow_sub_log2_bounds (n := q.num.toNat) (d := q.den) (by omega) q.den_ne_zero
  rw [hnum', Rat.num_div_den] at hlo hhi
  have hlow := (Int.zpow_le_iff_le_log Nat.one_lt_two hq).mp hlo.le
  have hhigh := (Int.lt_zpow_iff_log_lt Nat.one_lt_two hq).mp hhi
  unfold ratLog2
  dsimp only
  rw [pow2_eq_zpow]
  split
  case isTrue h =>
    have := (Int.zpow_le_iff_le_log Nat.one_lt_two hq).mp h
    omega
  case isFalse h =>
    have := (Int.lt_zpow_iff_log_lt Nat.one_lt_two hq).mp (not_le.mp h)
    omega

/-! ### Rounding a value of the format -/

theorem roundInt_natCast (rm : RoundMode) (neg : Bool) (n : Nat) : roundInt rm neg n = n := by
  have hfloor : (n : Rat).floor.toNat = n := congrArg Int.toNat (Rat.floor_intCast n)
  cases rm <;> norm_num [roundInt, hfloor]

namespace FpFmt

variable (f : FpFmt)

/-- `n` and `k` are the significand and the exponent of `n * 2 ^ (k - fbits)` as a code of the format holds them: `n` has its
leading bit unless `k` is the least exponent. -/
structure Canonical (n : Nat) (k : Int) : Prop where
  emin_le : f.emin ≤ k
  sig_lt : n < 2 ^ (f.fbits + 1)
  normal : k = f.emin ∨ 2 ^ f.fbits ≤ n

variable {f} {n : Nat} {k : Int}

/-- The exponent that rounding takes for a canonical value is the value's own. -/
theorem Canonical.max_ratLog2 (h : f.Canonical n k) (hn : n ≠ 0) : max (ratLog2 (n * pow2 (k - f.fbits))) f.emin = k := by
  obtain ⟨hmin, hlt, hnormal⟩ := h
  have hn₀ : (0 : Rat) < n := by exact_mod_cast Nat.pos_of_ne_zero hn
  have hpos : (0 : Rat) < n * 2 ^ (k - f.fbits) := by positivity
  rw [pow2_eq_zpow, ratLog2_eq_log hpos]
  have hhigh : Int.log 2 ((n : Rat) * 2 ^ (k - f.fbits)) < k + 1 := by
    refine (Int.lt_zpow_iff_log_lt Nat.one_lt_two hpos).mp ?_
    have hlt' : (n : Rat) < 2 ^ ((f.fbits : Int) + 1) := by exact_mod_cast hlt
    calc (n : Rat) * 2 ^ (k - f.fbits) < 2 ^ ((f.fbits : Int) + 1) * 2 ^ (k - f.fbits) := by gcongr
      _ = ((2 : Nat) : Rat) ^ (k + 1) := by
        rw [← zpow_add₀ two_ne_zero, Nat.cast_two]
        congr 1
        ring
  rcases hnormal with rfl | hle
  · omega
  · have hlow : k ≤ Int.log 2 ((n : Rat) * 2 ^ (k - f.fbits)) := by
      refine (Int.zpow_le_iff_le_log Nat.one_lt_two hpos).mp ?_
      have hle' : (2 : Rat) ^ (f.fbits : Int) ≤ n := by exact_mod_cast hle
      calc ((2 : Nat) : Rat) ^ k = 2 ^ (f.fbits : Int) * 2 ^ (k - f.fbits) := by
            rw [← zpow_add₀ two_ne_zero, Nat.cast_two, add_sub_cancel]
        _ ≤ (n : Rat) * 2 ^ (k - f.fbits) := by gcongr
    omega

/-- A canonical value below the format's infinity is rounded to its code, exactly. -/
theorem round_canonical (rm : RoundMode) (neg : Bool) (h : f.Canonical n k)
    (hfin : (k - f.emin).toNat * 2 ^ f.fbits + n < f.infCode) :
    f.round rm neg (n * pow2 (k - f.fbits)) = (f.signBit neg + ((k - f.emin).toNat * 2 ^ f.fbits + n), {}) := by
  rcases Nat.eq_zero_or_pos n with rfl | hn
  · have hk : k = f.emin := h.normal.resolve_right (by simp)
    simp [round, hk]
  · have hpow : (0 : Rat) < pow2 (k - f.fbits) := by
      rw [pow2_eq_zpow]
      positivity
    have hn₀ : (0 : Rat) < n := by exact_mod_cast hn
    have hmag : ¬ (n : Rat) * pow2 (k - f.fbits) ≤ 0 := not_le.mpr (mul_pos hn₀ hpow)
    simp [round, hmag, h.max_ratLog2 hn.ne', mul_div_cancel_right₀ _ hpow.ne', roundInt_natCast, hfin]

/-- What a finite code means: its sign, and a canonical value whose code is the code's magnitude. -/
theorem decode_eq_fin {x : Nat} {neg : Bool} {m : Rat} (h : f.decode x = .fin neg m) :
    neg = f.neg x ∧ f.magBits x < f.infCode ∧ ∃ n k, f.Canonical n k ∧ m = n * pow2 (k - f.fbits) ∧
      (k - f.emin).toNat * 2 ^ f.fbits + n = f.magBits x := by
  have he := field_lt x f.fbits f.ebits
  have hm := field_lt x 0 f.fbits
  have hsucc : 2 ^ (f.fbits + 1) = 2 * 2 ^ f.fbits := Nat.pow_succ'
  unfold decode at h
  dsimp only at h
  split at h
  case isTrue => split at h <;> cases h
  case isFalse hne =>
    have hinf : f.magBits x < f.infCode := by
      rw [magBits_eq_fields, infCode]
      calc field x f.fbits f.ebits * 2 ^ f.fbits + field x 0 f.fbits < (field x f.fbits f.ebits + 1) * 2 ^ f.fbits := by
            rw [Nat.succ_mul]
            omega
        _ ≤ (2 ^ f.ebits - 1) * 2 ^ f.fbits := Nat.mul_le_mul_right _ (by omega)
    split at h
    case isTrue hzero =>
      cases h
      refine ⟨rfl, hinf, field x 0 f.fbits, f.emin, ⟨le_rfl, by omega, .inl rfl⟩, rfl, ?_⟩
      simp [magBits_eq_fields, hzero]
    case isFalse hpos =>
      cases h
      refine ⟨rfl, hinf, field x 0 f.fbits + 2 ^ f.fbits, field x f.fbits f.ebits - f.bias,
        ⟨by unfold emin; omega, by omega, .inr (Nat.le_add_left _ _)⟩, rfl, ?_⟩
      obtain ⟨e, he'⟩ := Nat.exists_eq_succ_of_ne_zero hpos
      have hexp : ((e.succ : Int) - f.bias - f.emin).toNat = e := by
        unfold emin
        omega
      rw [magBits_eq_fields, he', hexp, Nat.succ_mul]
      omega

/-- The value of a finite code rounds to the code, whatever the format. -/
theorem round_of_decode (rm : RoundMode) {x : Nat} {neg : Bool} {m : Rat} (hx : x < 2 ^ f.width)
    (h : f.decode x = .fin neg m) : f.round rm neg m = (x, {}) := by
  obtain ⟨rfl, hfin, n, k, hcanon, rfl, hcode⟩ := decode_eq_fin h
  have hx' : x < 2 ^ (f.ebits + f.fbits + 1) := by rwa [width, Nat.add_assoc, Nat.add_comm] at hx
  rw [round_canonical rm _ hcanon (hcode ▸ hfin), hcode, signBit_add_magBits f hx']

end FpFmt

/-- Settles O29: a finite code's value is canonical, and a canonical value rounds exactly. -/
theorem finiteValuesRoundToThemselves : Obligations.FiniteValuesRoundToThemselves :=
  fun _ rm _ _ _ _ hx h => FpFmt.round_of_decode rm hx h

end Sys2Proof.Machine
end

section
/-!
PROOFS. Register writes that wait for earlier work or for the step boundary (03 R97, R112, R113; 08 R282).

A command changes a core by a function and then settles it; `SettlesTo` says what settling leaves, once, so that a proof
speaks of the function alone. The four kinds of register are found in the table of the control window by `FoundAt`.
-/
namespace Sys2Proof.Machine

/-! ### What settling leaves -/

/-- `d` is the core `c` once a command has settled: the progress timer and the watch on the forward head may have moved, and
the verdict records have gone to the trace port. -/
def Core.SettlesTo (c d : Core) : Prop :=
  c.regsKept d ∧
    d = { c with regs := d.regs, progAt := d.progAt, fwdElig := d.fwdElig, prefAt := d.prefAt, vrNew := [] }

namespace Core.SettlesTo

theorem of_settled (c0 c : Core) (k : Nat) : c.SettlesTo { Core.settled c0 c k with vrNew := [] } := by
  obtain ⟨a, n, e, f, h⟩ := Core.settled_eq c0 c k
  rw [h]
  by_cases hn : n = 0
  · simp only [if_pos hn]
    exact ⟨fun _ _ => rfl, rfl⟩
  · simp only [if_neg hn]
    exact ⟨fun b hb => by exact (Core.reg_setReg c rDVT_PREF_CNT _ b).trans (if_neg hb), rfl⟩

variable {c d : Core}

theorem reg (h : c.SettlesTo d) {a : Nat} (ha : a ≠ rDVT_PREF_CNT) : d.reg a = c.reg a := h.1 a ha

/-- Whatever reads none of what settling changes reads as before. -/
theorem keep {γ : Type} (h : c.SettlesTo d) (g : Core → γ)
    (hg : ∀ c d : Core,
      g { c with regs := d.regs, progAt := d.progAt, fwdElig := d.fwdElig, prefAt := d.prefAt, vrNew := [] } = g c) :
    g d = g c := by
  rw [h.2]
  exact hg c d

theorem qend (h : c.SettlesTo d) (n : Nat) : d.qend n = c.qend n := h.keep (·.qend n) fun _ _ => rfl
theorem nseq (h : c.SettlesTo d) : d.nseq = c.nseq := h.keep Core.nseq fun _ _ => rfl
theorem sctCfg (h : c.SettlesTo d) : d.sctCfg = c.sctCfg := h.keep Core.sctCfg fun _ _ => rfl
theorem sctScale (h : c.SettlesTo d) : d.sctScale = c.sctScale := h.keep Core.sctScale fun _ _ => rfl

end Core.SettlesTo

/-- A command that changes core p by `f`. -/
theorem completes_onCore {i : Instr} {s : State} {p : Nat} (f : Core → Core) (hp : p < nCores) (ha : s.awake)
    (he : exec i s = s.actCore .core p fun m => m.onCore p f) : Completes i s (s.onlyCore p (f (s.chip.core p))) :=
  completes_onlyCore hp (State.active_core ha) he (Chip.sameBut_onCore _ _ _) (Chip.core_onCore_self _ _ _)

/-- What holds of a core that `f` has changed and a command has settled holds after a command that changes core p by `f`. -/
theorem completes_coreOnly {i : Instr} {s : State} {p : Nat} {post : State → Prop} (f : Core → Core) (hp : p < nCores)
    (ha : s.awake) (he : exec i s = s.actCore .core p fun m => m.onCore p f)
    (hpost : ∀ t, s.coreOnly p t → (f (s.chip.core p)).SettlesTo (t.chip.core p) → post t) : Completes i s post := by
  obtain ⟨t, ht, hq, hs, hc⟩ := completes_onCore f hp ha he
  exact ⟨t, ht, hpost t ⟨hq, hs⟩ (hc ▸ Core.SettlesTo.of_settled _ _ _)⟩

/-! ### Where the registers lie in the window -/

/-- The table of the control window has a register at offset `a`: number `i` of the row that begins at `b`. -/
def FoundAt (a b i : Nat) : Prop := ∃ r, findReg coreRegs a = some r ∧ r.base = b ∧ (r.idx a).1 = i

theorem foundAt_sctCfg {n : Nat} (hn : n < 64) : FoundAt (rSCT_CFG n) (rSCT_CFG 0) n := by
  unfold FoundAt; revert n; decide

theorem foundAt_sctScale {n : Nat} (hn : n < 64) : FoundAt (rSCT_SCALE n) (rSCT_SCALE 0) n := by
  unfold FoundAt; revert n; decide

theorem foundAt_rsKey {n : Nat} (hn : n < 4) : FoundAt (rRS_KEY n) (rRS_KEY 0) n := by
  unfold FoundAt; revert n; decide

theorem foundAt_rsCtr {n : Nat} (hn : n < 4) : FoundAt (rRS_CTR n) (rRS_CTR 0) n := by
  unfold FoundAt; revert n; decide

theorem foundAt_qeCfg {n : Nat} (hn : n < 16) : FoundAt (rQE_CFG n) (rQE_CFG 0) n := by
  unfold FoundAt; revert n; decide

/-- The kerf unit keeps from core programs only registers of its own block and of the layer table. -/
theorem krfOwn_eq_false {a : Nat} (h : a < 0x40000 ∨ 0x60000 ≤ a) : krfOwn a = false := by
  have h0 : rLT_CFG 0 = 0x50000 := rfl
  have h1 : rLT_CFG 1024 = 0x60000 := rfl
  simp only [krfOwn, h0, h1, Bool.and_eq_false_iff, Bool.or_eq_false_iff, decide_eq_false_iff_not]
  omega

/-! ### A write reaches its register's rule -/

section
variable {s : Chip} {who : Agent} {p n : Nat} (v : Nat) (hr : reaches who p = true)
include hr

theorem Chip.coreWrite_sctCfg (hn : n < 64) :
    s.coreWrite who p (rSCT_CFG n) v = s.onCore p fun c => sctCfgWrite c n v := by
  obtain ⟨r, hf, hb, hi⟩ := foundAt_sctCfg hn
  have hk := krfOwn_eq_false (a := rSCT_CFG n) (by unfold rSCT_CFG; omega)
  have ha : rSCT_CFG n ≠ rVU_FCSR ∧ rSCT_CFG n ≠ rCLAMP_CLR := by unfold rSCT_CFG rVU_FCSR rCLAMP_CLR; omega
  simp [Chip.coreWrite, hr, hf, hb, hi, hk, ha]

theorem Chip.coreWrite_sctScale (hn : n < 64) :
    s.coreWrite who p (rSCT_SCALE n) v = s.onCore p fun c => sctScaleWrite c n v := by
  obtain ⟨r, hf, hb, hi⟩ := foundAt_sctScale hn
  have hk := krfOwn_eq_false (a := rSCT_SCALE n) (by unfold rSCT_SCALE; omega)
  have ha : rSCT_SCALE n ≠ rVU_FCSR ∧ rSCT_SCALE n ≠ rCLAMP_CLR := by unfold rSCT_SCALE rVU_FCSR rCLAMP_CLR; omega
  simp [Chip.coreWrite, hr, hf, hb, hi, hk, ha]

theorem Chip.coreWrite_rsKey (hn : n < 4) :
    s.coreWrite who p (rRS_KEY n) v = s.onCore p fun c => c.rsWrite (2 * n) v := by
  obtain ⟨r, hf, hb, hi⟩ := foundAt_rsKey hn
  have hk := krfOwn_eq_false (a := rRS_KEY n) (by unfold rRS_KEY; omega)
  have ha : rRS_KEY n ≠ rVU_FCSR := by unfold rRS_KEY rVU_FCSR; omega
  simp [Chip.coreWrite, hr, hf, hb, hi, hk, ha]

theorem Chip.coreWrite_rsCtr (hn : n < 4) :
    s.coreWrite who p (rRS_CTR n) v = s.onCore p fun c => c.rsWrite (2 * n + 1) v := by
  obtain ⟨r, hf, hb, hi⟩ := foundAt_rsCtr hn
  have hk := krfOwn_eq_false (a := rRS_CTR n) (by unfold rRS_CTR; omega)
  have ha : rRS_CTR n ≠ rVU_FCSR := by unfold rRS_CTR rVU_FCSR; omega
  simp [Chip.coreWrite, hr, hf, hb, hi, hk, ha]

theorem Chip.coreWrite_rs (hn : n < 8) : s.coreWrite who p (rsAddr n) v = s.onCore p fun c => c.rsWrite n v := by
  unfold rsAddr
  split
  · rw [Chip.coreWrite_rsKey v hr (by omega), show 2 * (n / 2) = n by omega]
  · rw [Chip.coreWrite_rsCtr v hr (by omega), show 2 * (n / 2) + 1 = n by omega]

theorem Chip.coreWrite_qeCfg (hn : n < 16) :
    s.coreWrite who p (rQE_CFG n) v = s.onCore p fun c => c.qeCfg (who == .seqU p) n v := by
  obtain ⟨r, hf, hb, hi⟩ := foundAt_qeCfg hn
  have hk := krfOwn_eq_false (a := rQE_CFG n) (by unfold rQE_CFG; omega)
  have ha : rQE_CFG n ≠ rVU_FCSR ∧ rQE_CFG n ≠ rSEQ_CTL := by unfold rQE_CFG rVU_FCSR rSEQ_CTL; omega
  simp [Chip.coreWrite, hr, hf, hb, hi, hk, ha]

end

/-! ### The scale tracker's writes (03 R112, R113) -/

theorem sctPending_cons (n v : Nat) (l : List (Nat × Nat)) : sctPending ((n, v) :: l) n = some v := by
  simp [sctPending]

theorem bitOf_setField_self (x lo : Nat) (b : Bool) : bitOf (setField x lo 1 (b2n b)) lo = b := by
  have h : field (setField x lo 1 (b2n b)) lo 1 = b2n b % 2 ^ 1 := field_setField x lo 1 _
  rw [bitOf, Nat.testBit_eq_decide_div_mod_eq, ← Nat.shiftRight_eq_div_pow]
  rw [field, pow_one] at h
  rw [h]
  cases b <;> rfl

theorem Core.reg_setField_self (c : Core) (a lo n v : Nat) : (c.setField a lo n v).reg a = Sys2Proof.setField (c.reg a) lo n v :=
  Core.reg_setReg_self _ _ _

theorem Core.reg_setField_ne (c : Core) {a b : Nat} (hb : b ≠ a) (lo n v : Nat) : (c.setField a lo n v).reg b = c.reg b :=
  (Core.reg_setField _ _ _ _ _ _).trans (if_neg hb)

theorem rSCT_CFG_ne_rSCT_STAT (n : Nat) : rSCT_CFG n ≠ rSCT_STAT n := by unfold rSCT_CFG rSCT_STAT; omega
theorem rSCT_SCALE_ne_rSCT_STAT (n : Nat) : rSCT_SCALE n ≠ rSCT_STAT n := by unfold rSCT_SCALE rSCT_STAT; omega
theorem rSCT_CFG_ne_rDVT_PREF_CNT (n : Nat) : rSCT_CFG n ≠ rDVT_PREF_CNT := by unfold rSCT_CFG rDVT_PREF_CNT; omega
theorem rSCT_SCALE_ne_rDVT_PREF_CNT (n : Nat) : rSCT_SCALE n ≠ rDVT_PREF_CNT := by unfold rSCT_SCALE rDVT_PREF_CNT; omega
theorem rSCT_STAT_ne_rDVT_PREF_CNT (n : Nat) : rSCT_STAT n ≠ rDVT_PREF_CNT := by unfold rSCT_STAT rDVT_PREF_CNT; omega

theorem sctCfgWrite_waits {c d : Core} {n v : Nat} (h : (sctCfgWrite c n v).SettlesTo d) :
    sctPending d.sctCfg n = some v ∧ d.reg (rSCT_CFG n) = c.reg (rSCT_CFG n) ∧ bitOf (d.reg (rSCT_STAT n)) 2 = true := by
  have hr : ∀ a, (sctCfgWrite c n v).reg a = (c.setField (rSCT_STAT n) 2 1 1).reg a := fun _ => rfl
  refine ⟨?_, ?_, ?_⟩
  · rw [h.sctCfg]
    exact sctPending_cons n v _
  · rw [h.reg (rSCT_CFG_ne_rDVT_PREF_CNT n), hr, Core.reg_setField_ne _ (rSCT_CFG_ne_rSCT_STAT n)]
  · rw [h.reg (rSCT_STAT_ne_rDVT_PREF_CNT n), hr, Core.reg_setField_self]
    exact bitOf_setField_self _ 2 true

theorem sctScaleWrite_waits {c d : Core} {n v : Nat} (hv : scaleOk v = true) (h : (sctScaleWrite c n v).SettlesTo d) :
    sctPending d.sctScale n = some v ∧ d.reg (rSCT_SCALE n) = c.reg (rSCT_SCALE n) := by
  have he : sctScaleWrite c n v =
      { c.setField (rSCT_STAT n) 2 1 1 with sctScale := (n, v) :: c.sctScale.filter fun p => p.1 ≠ n } := if_pos hv
  rw [he] at h
  refine ⟨?_, ?_⟩
  · rw [h.sctScale]
    exact sctPending_cons n v _
  · exact (h.reg (rSCT_SCALE_ne_rDVT_PREF_CNT n)).trans (Core.reg_setField_ne c (rSCT_SCALE_ne_rSCT_STAT n) 2 1 1)

/-! ### Stream registers (03 R97) -/

/-- A stream register write lands at once, or waits behind what is held or used of its stream. -/
theorem Core.rsWrite_eq (c : Core) {k : Nat} (hk : k < 8) (w : DWord) : c.rsWrite k w.toNat =
    if (c.rsHeld.any fun h => h.2.1 / 2 == k / 2) || c.streamUsed c.nseq (k / 2)
      then { c with rsHeld := c.rsHeld ++ [(c.nseq, k, w)], nseq := c.nseq + 1 }
      else { c.setReg (rsAddr k) w.toNat with nseq := c.nseq + 1 } := by
  unfold Core.rsWrite
  rw [if_neg (by omega), BitVec.ofNat_toNat, BitVec.setWidth_eq]
  by_cases hany : (c.rsHeld.any fun h => h.2.1 / 2 == k / 2) = true
  · simp [hany]
  · have hnone : ∀ x ∈ c.rsHeld, ¬ (x.2.1 / 2 == k / 2) = true := by simpa using hany
    have hfind : ((c.rsHeld ++ [(c.nseq, k, w)]).find? fun h => h.2.1 / 2 == k / 2) = some (c.nseq, k, w) := by
      rw [List.find?_append, List.find?_eq_none.2 hnone]; simp
    have herase : (c.rsHeld ++ [(c.nseq, k, w)]).erase (c.nseq, k, w) = c.rsHeld := by
      rw [List.erase_append_right _ fun hm => hnone _ hm (beq_self_eq_true _)]; simp
    simp only [hany, Bool.not_false, if_true, Bool.false_or, Core.landRs, hfind, herase]
    rfl

theorem Core.landRs_eq {c : Core} {k j k' : Nat} {y : DWord}
    (hfind : (c.rsHeld.find? fun h => h.2.1 / 2 == k / 2) = some (j, k', y)) (hfree : c.streamUsed j (k / 2) = false) :
    c.landRs k = { c.setReg (rsAddr k') y.toNat with rsHeld := c.rsHeld.erase (j, k', y) } := by
  simp [Core.landRs, hfind, hfree]

/-! ### Queue end configurations (08 R282) -/

theorem Core.qend_setQend (c : Core) (n : Nat) (x : QEnd) (m : Nat) : (c.setQend n x).qend m = if m = n then x else c.qend m :=
  Map.get_put _ _ _ _

theorem Core.qend_setQend_self (c : Core) (n : Nat) (x : QEnd) : (c.setQend n x).qend n = x := Map.get_put_self _ _ _

theorem Core.qend_setQend_ne (c : Core) {m n : Nat} (hm : m ≠ n) (x : QEnd) : (c.setQend n x).qend m = c.qend m :=
  (Core.qend_setQend c n x m).trans (if_neg hm)

theorem Core.qend_landCfg (c : Core) (n v : Nat) : (c.landCfg n v).qend n =
    { c.qend n with head := 0, slots := [], sending := 0, held := (c.qend n).held.drop 1 } := Core.qend_setQend_self _ _ _

theorem Core.qend_landCfg_ne (c : Core) {m n : Nat} (hm : m ≠ n) (v : Nat) : (c.landCfg n v).qend m = c.qend m :=
  Core.qend_setQend_ne _ hm _

theorem Core.reg_landCfg (c : Core) (n v : Nat) : (c.landCfg n v).reg (rQE_CFG n) = v := Core.reg_setReg_self _ _ _

theorem Core.takeCfg_eq {c : Core} {n j : Nat} {y : DWord} {x : List (Nat × DWord)} (hheld : (c.qend n).held = (j, y) :: x) :
    c.takeCfg n = if c.namesBefore j n then c else c.landCfg n y.toNat := by
  simp [Core.takeCfg, hheld]

/-- A configuration without reserved bits is kept whole. -/
theorem qeCfg_value {v : Nat} (hv : v < 2 ^ 64) (hbase : v % 2 ^ 22 % 64 = 0) (hres : field v 22 10 = 0) (htop : field v 52 12 = 0) :
    field v 0 22 / 64 * 64 + field v 32 20 * 2 ^ 32 = v := by
  simp only [field, Nat.shiftRight_eq_div_pow] at *
  omega

/-- Core `c` with the configuration `w` held at queue end `n`, as the youngest of its instructions. -/
def Core.holdCfg (c : Core) (n : Nat) (w : DWord) : Core :=
  { c.setQend n { c.qend n with held := (c.qend n).held ++ [(c.nseq, w)] } with nseq := c.nseq + 1 }

theorem Core.qeCfg_refused {c : Core} {user : Bool} {n : Nat} {w : DWord} (hn : n < 16)
    (hw : field w.toNat 0 22 / 64 * 64 + field w.toNat 32 20 * 2 ^ 32 = w.toNat) (hok : qeCfgOk user w.toNat = false) :
    c.qeCfg user n w.toNat = c.setQend n { c.qend n with cfgErr := true } := by
  unfold Core.qeCfg
  rw [hw, if_neg (by omega), if_pos (by simp [hok])]

theorem Core.qeCfg_taken {c : Core} {user : Bool} {n : Nat} {w : DWord} (hn : n < 16)
    (hw : field w.toNat 0 22 / 64 * 64 + field w.toNat 32 20 * 2 ^ 32 = w.toNat) (hok : qeCfgOk user w.toNat = true) :
    c.qeCfg user n w.toNat = if (c.qend n).held.isEmpty then (c.holdCfg n w).takeCfg n else c.holdCfg n w := by
  unfold Core.qeCfg
  rw [hw, if_neg (by omega), if_neg (by simp [hok]), BitVec.ofNat_toNat, BitVec.setWidth_eq]
  rfl

theorem Core.qend_holdCfg (c : Core) (n : Nat) (w : DWord) :
    (c.holdCfg n w).qend n = { c.qend n with held := (c.qend n).held ++ [(c.nseq, w)] } := Core.qend_setQend_self c n _

theorem Core.qend_holdCfg_ne (c : Core) {m n : Nat} (hm : m ≠ n) (w : DWord) : (c.holdCfg n w).qend m = c.qend m :=
  Core.qend_setQend_ne c hm _

theorem Core.takeCfg_holdCfg {c : Core} {n : Nat} (hheld : (c.qend n).held = []) (w : DWord) :
    (c.holdCfg n w).takeCfg n =
      if c.namesBefore c.nseq n then c.holdCfg n w else (c.holdCfg n w).landCfg n w.toNat :=
  Core.takeCfg_eq (x := []) (by rw [Core.qend_holdCfg, hheld]; rfl)

/-- A taken configuration is held behind an earlier one, and behind earlier work that names the queue end. -/
theorem Core.qeCfg_held {c : Core} {user : Bool} {n : Nat} {w : DWord} (hn : n < 16)
    (hw : field w.toNat 0 22 / 64 * 64 + field w.toNat 32 20 * 2 ^ 32 = w.toNat) (hok : qeCfgOk user w.toNat = true)
    (hwait : (c.qend n).held ≠ [] ∨ c.namesBefore c.nseq n = true) : c.qeCfg user n w.toNat = c.holdCfg n w := by
  rw [Core.qeCfg_taken hn hw hok]
  by_cases hheld : (c.qend n).held = []
  · rw [if_pos (by simp [hheld]), Core.takeCfg_holdCfg hheld, if_pos (hwait.resolve_left (not_not_intro hheld))]
  · rw [if_neg (by simpa using hheld)]

theorem Core.qeCfg_landed {c : Core} {user : Bool} {n : Nat} {w : DWord} (hn : n < 16)
    (hw : field w.toNat 0 22 / 64 * 64 + field w.toNat 32 20 * 2 ^ 32 = w.toNat) (hok : qeCfgOk user w.toNat = true)
    (hheld : (c.qend n).held = []) (hfree : ¬ c.namesBefore c.nseq n = true) :
    c.qeCfg user n w.toNat = (c.holdCfg n w).landCfg n w.toNat := by
  rw [Core.qeCfg_taken hn hw hok, if_pos (by simp [hheld]), Core.takeCfg_holdCfg hheld, if_neg hfree]

theorem rQE_CFG_ne_rDVT_PREF_CNT {n : Nat} (hn : n < 16) : rQE_CFG n ≠ rDVT_PREF_CNT := by unfold rQE_CFG rDVT_PREF_CNT; omega

/-- The three fates of a configuration write: refused, held behind earlier work, or landed at once. -/
theorem qeCfg_waits {c d : Core} {user : Bool} {n : Nat} {w : DWord} (hn : n < 16)
    (hw : field w.toNat 0 22 / 64 * 64 + field w.toNat 32 20 * 2 ^ 32 = w.toNat) (h : (c.qeCfg user n w.toNat).SettlesTo d) :
    (∀ m, m ≠ n → d.qend m = c.qend m) ∧
      (if qeCfgOk user w.toNat = false then d.qend n = { c.qend n with cfgErr := true } ∧ d.nseq = c.nseq
       else if (c.qend n).held ≠ [] ∨ c.namesBefore c.nseq n = true
         then d.qend n = { c.qend n with held := (c.qend n).held ++ [(c.nseq, w)] } ∧ d.nseq = c.nseq + 1
         else d.qend n = { c.qend n with head := 0, slots := [], sending := 0 } ∧ d.reg (rQE_CFG n) = w.toNat) := by
  by_cases hok : qeCfgOk user w.toNat = false
  · rw [Core.qeCfg_refused hn hw hok] at h
    rw [if_pos hok]
    exact ⟨fun m hm => (h.qend m).trans (Core.qend_setQend_ne c hm _), (h.qend n).trans (Core.qend_setQend_self c n _), h.nseq⟩
  rw [if_neg hok]
  rw [Bool.not_eq_false] at hok
  by_cases hwait : (c.qend n).held ≠ [] ∨ c.namesBefore c.nseq n = true
  · rw [Core.qeCfg_held hn hw hok hwait] at h
    rw [if_pos hwait]
    exact ⟨fun m hm => (h.qend m).trans (Core.qend_holdCfg_ne c hm w), (h.qend n).trans (Core.qend_holdCfg c n w), h.nseq⟩
  · rw [if_neg hwait]
    obtain ⟨hheld, hfree⟩ := not_or.1 hwait
    rw [not_not] at hheld
    rw [Core.qeCfg_landed hn hw hok hheld hfree] at h
    refine ⟨fun m hm => ?_, ?_, ?_⟩
    · rw [h.qend, Core.qend_landCfg_ne _ hm, Core.qend_holdCfg_ne c hm]
    · simp [h.qend, Core.qend_landCfg, Core.qend_holdCfg, hheld]
    · rw [h.reg (rQE_CFG_ne_rDVT_PREF_CNT hn), Core.reg_landCfg]

theorem takeCfg_lands {c d : Core} {n j : Nat} {y : DWord} {x : List (Nat × DWord)} (hn : n < 16)
    (hheld : (c.qend n).held = (j, y) :: x) (hfree : c.namesBefore j n = false) (h : (c.takeCfg n).SettlesTo d) :
    d.reg (rQE_CFG n) = y.toNat ∧ (d.qend n).slots = [] ∧ (d.qend n).held = x ∧ ∀ m, m ≠ n → d.qend m = c.qend m := by
  rw [Core.takeCfg_eq hheld, hfree, if_neg (by decide)] at h
  refine ⟨?_, ?_, ?_, fun m hm => ?_⟩
  · rw [h.reg (rQE_CFG_ne_rDVT_PREF_CNT hn), Core.reg_landCfg]
  · rw [h.qend, Core.qend_landCfg]
  · rw [h.qend, Core.qend_landCfg, hheld]
    rfl
  · rw [h.qend, Core.qend_landCfg_ne _ hm]

/-! ### The statement -/

/-- Settles O32: each command is its register's rule applied to core p, and settling keeps what the rule has written. -/
theorem writesWaitForEarlierWork : Obligations.WritesWaitForEarlierWork := by
  intro s p n k v w who ha hp hr hv c
  have hmod : v % 2 ^ 64 = v := Nat.mod_eq_of_lt hv
  refine ⟨fun hn => ?_, fun hn hs => ?_, fun hk => ?_, fun j k' y hk hfind hfree => ?_, fun hn hbase hres htop => ?_,
    fun j y x hn hheld hfree => ?_⟩
  · refine completes_coreOnly (fun c => sctCfgWrite c n v) hp ha ?_ fun t ht h => ⟨ht, sctCfgWrite_waits h⟩
    show execSctCfgWrite who p n v s = _
    simp only [execSctCfgWrite, if_pos hn, hmod, Chip.coreWrite_sctCfg _ hr hn]
  · refine completes_coreOnly (fun c => sctScaleWrite c n v) hp ha ?_ fun t ht h => ⟨ht, sctScaleWrite_waits hs h⟩
    show execSctScaleWrite who p n v s = _
    simp only [execSctScaleWrite, if_pos hn, hmod, Chip.coreWrite_sctScale _ hr hn]
  · rw [← Core.rsWrite_eq c hk w]
    refine completes_onCore (fun c => c.rsWrite k w.toNat) hp ha ?_
    show execRsRegWrite who p k w s = _
    simp only [execRsRegWrite, if_pos hk, Chip.coreWrite_rs _ hr hk]
  · rw [← Core.landRs_eq hfind hfree]
    exact completes_onCore (fun c => c.landRs k) hp ha (if_pos hk)
  · have hw := qeCfg_value w.isLt hbase hres htop
    refine completes_coreOnly (fun c => c.qeCfg (who == .seqU p) n w.toNat) hp ha ?_ fun t ht h => ⟨ht, qeCfg_waits hn hw h⟩
    show execQeCfgWrite who p n w s = _
    simp only [execQeCfgWrite, if_pos hn, Chip.coreWrite_qeCfg _ hr hn]
  · exact completes_coreOnly (fun c => c.takeCfg n) hp ha (if_pos hn) fun t ht h => ⟨ht, takeCfg_lands hn hheld hfree h⟩

end Sys2Proof.Machine
end

section
/-!
PROOFS. Verdict and scale messages that arrive at a core (03 R108, R111; 06 R189, R205, R206, R208).

`verdictKey` is what the effect of a verdict is about, the chains, the layer table and the tallies: the parts of the effect
that do something else (the verdict ring, the kerf buffer, tags, replay scales) keep it. With them out of the way an applied
verdict is one update of its chain, `ChainBecomes`: by `chainBecomes_applyVerdict_accept`, `_reject` or `_fallback`.
`layerVerdictMsg_chain` adds what a message does around it: the verdict joins those that have arrived, is taken from them at
the frontier, and the passes of unchecked layers follow.
-/
namespace Sys2Proof.Machine

/-! ### A message arrives -/

theorem Chip.core_takeSys (s : Chip) (p : Nat) (m : SysMsg) (q : Nat) :
    ∃ l, (s.takeSys p m).core q = { s.core q with sys := l } := by
  unfold Chip.takeSys
  split
  · exact ⟨_, rfl⟩
  · extract_lets key
    split
    · next r _ _ =>
      by_cases hq : q = r
      · subst hq
        exact ⟨_, Chip.core_onCore_self _ _ _⟩
      · exact ⟨_, (Chip.core_onCore _ _ _ _).trans (if_neg hq)⟩
    · exact ⟨_, rfl⟩

theorem Chip.takeSys_eq (s : Chip) (p : Nat) (m : SysMsg) : s.takeSys p m = { s with cores := (s.takeSys p m).cores } := by
  unfold Chip.takeSys
  split
  · rfl
  · extract_lets key
    split <;> rfl

namespace Core.SettlesTo

variable {c d : Core}

theorem chain (h : c.SettlesTo d) (n : Nat) : d.chain n = c.chain n := h.keep (·.chain n) fun _ _ => rfl
theorem tallies (h : c.SettlesTo d) : d.tallies = c.tallies := h.keep Core.tallies fun _ _ => rfl
theorem store (h : c.SettlesTo d) : d.store = c.store := h.keep Core.store fun _ _ => rfl
theorem bndWait (h : c.SettlesTo d) : d.bndWait = c.bndWait := h.keep Core.bndWait fun _ _ => rfl
theorem jit (h : c.SettlesTo d) : d.jit = c.jit := h.keep Core.jit fun _ _ => rfl
theorem shardMax (h : c.SettlesTo d) : d.shardMax = c.shardMax := h.keep Core.shardMax fun _ _ => rfl
theorem shardGot (h : c.SettlesTo d) : d.shardGot = c.shardGot := h.keep Core.shardGot fun _ _ => rfl

theorem slotWait (h : c.SettlesTo d) (n : Nat) : Machine.slotWait d n = Machine.slotWait c n := by
  unfold Machine.slotWait
  rw [h.reg (rSCT_STAT_ne_rDVT_PREF_CNT n)]

end Core.SettlesTo

/-- A message that arrives at core p and changes it by `f`: it is no longer on its way, and nothing else changes. -/
theorem completes_arrival {i : Instr} {s : State} {p : Nat} {post : State → Prop} (m : SysMsg) (f : Chip → Core → Core)
    (hp : p < nCores) (ha : s.awake) (he : exec i s = s.actCore .core p fun x => (x.takeSys p m).onCore p (f x))
    (hpost : ∀ u l, s.arrival p u → (f s.chip { s.chip.core p with sys := l }).SettlesTo (u.chip.core p) → post u) :
    Completes i s post := by
  have hm := Chip.takeSys_eq s.chip p m
  have hrest : ∀ {γ : Type} (g : Chip → γ), (∀ (x : Chip) cs, g { x with cores := cs } = g x) →
      g (s.chip.takeSys p m) = g s.chip := fun g hg => by rw [hm, hg]
  obtain ⟨l, hl⟩ := Chip.core_takeSys s.chip p m p
  refine ⟨_, he.trans (State.actCore_next hp (State.active_core ha) _), hpost _ l ⟨rfl, ?_, ?_, ?_, fun q hq => ?_⟩ ?_⟩
  · exact (Chip.settleCore_hbm _ _ _).trans (hrest Chip.hbm fun _ _ => rfl)
  · exact (Chip.settleCore_cxl _ _ _).trans (hrest Chip.cxl fun _ _ => rfl)
  · exact (Chip.settleCore_regs _ _ _).trans (hrest Chip.regs fun _ _ => rfl)
  · obtain ⟨k, hk⟩ := Chip.core_takeSys s.chip p m q
    dsimp only
    rw [Chip.core_settleCore_ne _ _ hq, Chip.core_onCore, if_neg hq, hk]
  · dsimp only
    rw [Chip.settleCore_core, Chip.core_onCore_self, hl]
    exact Core.SettlesTo.of_settled _ _ _

/-! ### What the effect of a verdict is about -/

/-- The chains, the layer table and the tallies of a core. -/
def verdictKey (c : Core) : (Nat → Chain) × List (Nat × Nat) × List Tally := (c.chain, c.layers, c.tallies)

/-- As far as chains, layer table and tallies go, `d` is `c` with chain `ch` set to `x`. -/
def ChainBecomes (c : Core) (ch : Nat) (x : Chain) (d : Core) : Prop :=
  verdictKey d = (Function.update c.chain ch x, c.layers, c.tallies)

theorem chainBecomes_setChain (c : Core) (ch : Nat) (x : Chain) : ChainBecomes c ch x (c.setChain ch x) := by
  have hchain : (c.setChain ch x).chain = Function.update c.chain ch x := by
    funext k
    rw [Function.update_apply]
    exact Map.get_put _ _ _ _
  unfold ChainBecomes verdictKey
  rw [hchain]
  rfl

theorem chainBecomes_same (c : Core) (ch : Nat) : ChainBecomes c ch (c.chain ch) c := by
  unfold ChainBecomes
  rw [Function.update_eq_self]
  rfl

namespace ChainBecomes

variable {c d e : Core} {ch : Nat} {x y : Chain} (h : ChainBecomes c ch x d)
include h

theorem chain_eq : d.chain = Function.update c.chain ch x := congrArg Prod.fst h

theorem chain_self : d.chain ch = x := by rw [h.chain_eq, Function.update_self]

theorem layers : d.layers = c.layers := congrArg (·.2.1) h

theorem tallies : d.tallies = c.tallies := congrArg (·.2.2) h

theorem nextChecked (f : Nat) : d.nextChecked f = c.nextChecked f := by
  unfold Core.nextChecked
  rw [h.layers]

theorem trans (k : ChainBecomes d ch y e) : ChainBecomes c ch y e := by
  have hk : verdictKey e = (Function.update d.chain ch y, d.layers, d.tallies) := k
  rw [h.chain_eq, Function.update_idem, h.layers, h.tallies] at hk
  exact hk

theorem keep (he : verdictKey e = verdictKey d) : ChainBecomes c ch x e := Eq.trans he h

theorem congr (hxy : x = y) : ChainBecomes c ch y d := hxy ▸ h

end ChainBecomes

theorem chainBecomes_of_verdictKey {c d : Core} (h : verdictKey d = verdictKey c) (ch : Nat) :
    ChainBecomes c ch (c.chain ch) d := (chainBecomes_same c ch).keep h

theorem NatMap.rd_wr_self (m : NatMap) (a v : Nat) : NatMap.rd (NatMap.wr m a v) a = v := Map.get_put_self _ _ _

/-- The chain once layer `l` at its frontier is final with `v`, which is no reject (06 R206). -/
def Chain.accepted (x : Chain) (l : Nat) (v : Verdict) : Chain := { x with frontier := l + 1, finals := (l, v) :: x.finals }

/-- The chain in its next epoch: attempts from layer `l` on of the epochs so far are dead (06 R189). -/
def Chain.renewed (x : Chain) (l : Nat) : Chain := { x with epoch := (x.epoch + 1) % 4096, dead := (l, x.epoch) :: x.dead }

/-- The chain with layer `l` one rung up (06 R208). -/
def Chain.climbed (x : Chain) (l : Nat) : Chain := { x with up := NatMap.wr x.up l (NatMap.rd x.up l + 1) }

/-- The chain once layer `l` at its frontier is rejected, with no fall-back. -/
def Chain.rejected (x : Chain) (l : Nat) : Chain := { (x.climbed l).renewed l with rejects := x.rejects + 1 }

/-- A selection from a sparse map that has nothing of key `k` does not see a write at `k`. -/
theorem Map.filterMap_put {α β : Type} [DecidableEq α] {d : Nat → α} (f : Nat × α → Option β) (m : Map α) (k : Nat) (v : α)
    (hf : ∀ x, f (k, x) = none) : (Map.put d m k v).filterMap f = m.filterMap f := by
  have hfilter : ∀ m : Map α, (m.filter fun e => decide (e.1 ≠ k)).filterMap f = m.filterMap f := by
    intro m
    rw [List.filterMap_filter]
    refine List.filterMap_congr fun e _ => ?_
    by_cases he : e.1 = k
    · rw [if_neg (by simp [he])]
      subst he
      exact (hf e.2).symm
    · rw [if_pos (by simpa using he)]
  have hinsert : ∀ m : Map α, (Map.insert k v m).filterMap f = m.filterMap f := by
    intro m
    induction m with
    | nil => simp [Map.insert, hf]
    | cons e m ih =>
      rw [Map.insert]
      split
      · rw [List.filterMap_cons_none (hf v)]
      · rw [List.filterMap_cons, ih, ← List.filterMap_cons]
  unfold Map.put
  dsimp only
  split
  · exact hfilter m
  · rw [hinsert, hfilter]

/-- A register outside the layer table. -/
theorem verdictKey_setReg (c : Core) {a : Nat} (v : Nat) (ha : a < 0x50000 ∨ 0x60000 ≤ a) :
    verdictKey (c.setReg a v) = verdictKey c := by
  have hl : (c.setReg a v).layers = c.layers := Map.filterMap_put _ _ _ _ fun x => if_neg (by omega)
  unfold verdictKey
  rw [hl]
  rfl

/-! ### What keeps chains, layer table and tallies -/

theorem verdictKey_vrFlush (n : Nat) : ∀ c : Core, verdictKey (vrFlush n c) = verdictKey c := by
  induction n with
  | zero => exact fun _ => rfl
  | succ n ih =>
    intro c
    unfold vrFlush
    split
    · rfl
    · extract_lets wr
      split
      · rfl
      · exact (ih _).trans ((verdictKey_setReg _ _ (Or.inl (by decide))).trans rfl)

theorem verdictKey_vrSettle (c : Core) : verdictKey (vrSettle c) = verdictKey c := by
  have hflush := verdictKey_vrFlush c.vrHeld.length c
  unfold vrSettle
  extract_lets e
  split <;> exact hflush

theorem verdictKey_vrRecord (c : Core) (ch l epoch : Nat) (v : Verdict) (fb : Bool) (ratio tiles : Nat) :
    verdictKey (vrRecord c ch l epoch v fb ratio tiles) = verdictKey c := by
  unfold vrRecord
  split
  · rfl
  · extract_lets r irq cnt
    have hcnt : cnt < 0x50000 := by
      unfold cnt
      split <;> decide
    exact (verdictKey_vrSettle _).trans (verdictKey_setReg c _ (Or.inl hcnt))

theorem verdictKey_waitSync (c : Core) (n : Nat) : verdictKey (c.waitSync n) = verdictKey c :=
  verdictKey_setReg c _ (Or.inr (by unfold rSCT_STAT; omega))

theorem verdictKey_jitFinish (c : Core) (n r : Nat) : verdictKey (jitFinish c n r) = verdictKey c := by
  unfold jitFinish
  split
  · split
    · exact (verdictKey_waitSync _ _).trans rfl
    · rfl
  · rfl

theorem verdictKey_jitSlot (ch l rung : Nat) (c : Core) (n : Nat) : verdictKey (jitSlot ch l rung c n) = verdictKey c := by
  unfold jitSlot
  extract_lets k r fmt
  split
  · rfl
  · split
    · exact (verdictKey_waitSync _ _).trans rfl
    · split
      · exact (verdictKey_jitFinish _ _ _).trans ((verdictKey_waitSync _ _).trans rfl)
      · rfl

/-- The replay scales of the layers that a chain replays leave its verdicts alone. -/
theorem verdictKey_jitFrom (c : Core) (ch f : Nat) : verdictKey (jitFrom c ch f) = verdictKey c := by
  unfold jitFrom
  refine foldl_keep verdictKey _ (fun c k => ?_) _ _
  split
  · exact foldl_keep verdictKey _ (fun c n => verdictKey_jitSlot _ _ _ c n) _ _
  · rfl

theorem verdictKey_mapTags (f : Word → Word) (c : Core) : verdictKey (c.mapTags f) = verdictKey c := by
  have hqueue : ∀ (c : Core) n, verdictKey (c.mapQueueTags f n) = verdictKey c := fun c n => by
    unfold Core.mapQueueTags
    refine foldl_keep verdictKey _ (fun c i => ?_) _ _
    split
    · dsimp only
      split <;> rfl
    · rfl
  unfold Core.mapTags
  extract_lets e fi
  have he : verdictKey e = verdictKey c := foldl_keep verdictKey _ hqueue (List.range 16) c
  clear_value e
  exact he

/-! ### What moves a chain -/

theorem chainBecomes_chainReject (c : Core) (ch l : Nat) :
    ChainBecomes c ch ((c.chain ch).renewed l) (chainReject c ch l) := by
  unfold chainReject
  extract_lets e r x y
  have hr : verdictKey r = verdictKey c := verdictKey_mapTags _ c
  clear_value r
  have hc := chainBecomes_of_verdictKey hr ch
  have hy : ChainBecomes c ch ((c.chain ch).renewed l) y := (hc.trans (chainBecomes_setChain r ch _)).congr (by
    rw [show x = c.chain ch from hc.chain_self]
    rfl)
  clear_value y
  exact hy.keep rfl

theorem chainBecomes_concludePasses (c : Core) (ch : Nat) : ChainBecomes c ch
    { c.chain ch with frontier := c.nextChecked (c.chain ch).frontier } (concludePasses c ch) := by
  unfold concludePasses
  extract_lets x n mine r
  split
  · next hn => exact (chainBecomes_same c ch).congr (by rw [show c.nextChecked (c.chain ch).frontier = (c.chain ch).frontier from hn])
  · exact (chainBecomes_setChain c ch _).keep (foldl_keep verdictKey _ (fun c l => verdictKey_vrRecord c _ _ _ _ _ _ _) _ _)

/-- A verdict that passes its layer moves the frontier past it (06 R206). -/
theorem chainBecomes_applyVerdict_accept (c : Core) (ch l ratio tiles : Nat) (home : Bool) {v : Verdict} (hv : v ≠ .reject) :
    ChainBecomes c ch ((c.chain ch).accepted l v) (applyVerdict c ch l v ratio tiles home) := by
  cases v with
  | reject => exact absurd rfl hv
  | pass | warn | forced => exact (chainBecomes_setChain _ _ _).keep (verdictKey_vrRecord _ _ _ _ _ _ _ _)

/-- A reject that is no fall-back begins a new epoch one rung up (06 R189, R208). -/
theorem chainBecomes_applyVerdict_reject (c : Core) (ch l ratio tiles : Nat) (home : Bool) (hfb : isFallback c ch = false) :
    ChainBecomes c ch ((c.chain ch).rejected l) (applyVerdict c ch l .reject ratio tiles home) := by
  have hup : ChainBecomes c ch ((c.chain ch).climbed l) (jitFrom (c.setUp ch l (c.up ch l + 1)) ch l) :=
    (chainBecomes_setChain c ch _).keep (verdictKey_jitFrom _ ch l)
  have hrej := hup.trans (chainBecomes_chainReject _ ch l)
  rw [hup.chain_self] at hrej
  unfold applyVerdict
  simp only [hfb, Bool.false_eq_true, if_false]
  generalize chainReject (jitFrom (c.setUp ch l (c.up ch l + 1)) ch l) ch l = r at hrej ⊢
  refine ((hrej.trans (chainBecomes_setChain r ch _)).keep (verdictKey_vrRecord _ _ _ _ _ _ _ _)).congr ?_
  rw [hrej.chain_self]
  rfl

theorem verdictKey_bump (c : Core) {a : Nat} (n : Nat) (ha : a < 0x50000 ∨ 0x60000 ≤ a) :
    verdictKey (c.bump a n) = verdictKey c := verdictKey_setReg c _ ha

theorem chainBecomes_fallbackUps (ch : Nat) (ls : List Nat) : ∀ c : Core, ∃ x, x.early = (c.chain ch).early ∧
    ChainBecomes c ch x (ls.foldl (fun c k => c.setUp ch k (fallbackUp c ch k)) c) := by
  induction ls with
  | nil => exact fun c => ⟨_, rfl, chainBecomes_same c ch⟩
  | cons k ls ih =>
    intro c
    have hset := chainBecomes_setChain c ch { c.chain ch with up := NatMap.wr (c.chain ch).up k (fallbackUp c ch k) }
    obtain ⟨x, hx, h⟩ := ih (c.setUp ch k (fallbackUp c ch k))
    exact ⟨x, hx.trans (by rw [Core.setUp, hset.chain_self]), hset.trans h⟩

/-- A fall-back touches its own chain alone, and no verdict that has arrived (06 R212). -/
theorem chainBecomes_applyVerdict_fallback (c : Core) (ch l ratio tiles : Nat) (home : Bool) (hfb : isFallback c ch = true) :
    ∃ x, x.early = (c.chain ch).early ∧ ChainBecomes c ch x (applyVerdict c ch l .reject ratio tiles home) := by
  unfold applyVerdict
  simp only [hfb, if_true]
  generalize ((c.layers.filter _).map _) = ls
  obtain ⟨x, hx, hup⟩ := chainBecomes_fallbackUps ch ls c
  have hjit := hup.keep (verdictKey_jitFrom _ ch (c.chain ch).frontier)
  have hrej := hjit.trans (chainBecomes_chainReject _ ch (c.chain ch).frontier)
  rw [hjit.chain_self] at hrej
  generalize chainReject _ ch (c.chain ch).frontier = r at hrej ⊢
  have hreset := (hrej.trans (chainBecomes_setChain r ch { r.chain ch with rejects := 0 })).keep
    (verdictKey_bump _ 1 (Or.inl (by decide : rKRF_GFB_CNT < 0x50000)))
  refine ⟨_, ?_, hreset.keep ((verdictKey_vrRecord _ _ _ _ _ _ _ _).trans ?_)⟩
  · rw [hrej.chain_self]
    exact hx
  · split <;> rfl

/-! ### The verdicts that have arrived take effect -/

/-- The next checked layer lies at or past the layer asked from. -/
theorem le_nextChecked (c : Core) {f : Nat} (hf : f ≤ 1024) : f ≤ c.nextChecked f := by
  unfold Core.nextChecked
  split
  · next e he =>
    have h := List.find?_some he
    simp only [Bool.and_eq_true, decide_eq_true_eq] at h
    exact h.1
  · exact hf

theorem concludePasses_of_checked {c : Core} {ch : Nat} (h : c.nextChecked (c.chain ch).frontier = (c.chain ch).frontier) :
    concludePasses c ch = c := if_pos h

/-- With no verdict left to apply, only the passes of unchecked layers remain. -/
theorem drainVerdicts_of_early_nil (home : Nat → Bool) (n : Nat) {c : Core} {ch : Nat} (h : (c.chain ch).early = []) :
    drainVerdicts home (n + 1) c ch = concludePasses c ch := by
  have he : ((concludePasses c ch).chain ch).early = [] := by rw [(chainBecomes_concludePasses c ch).chain_self, h]
  rw [drainVerdicts]
  simp only [he, List.find?_nil]

/-- The one verdict that has arrived, of the layer at the frontier, is applied, and the passes that lie next with it. -/
theorem chainBecomes_drainVerdicts (home : Nat → Bool) (n : Nat) {c : Core} {ch : Nat} {v : LayerVerdict} {P : Chain → Prop}
    (hearly : (c.chain ch).early = [v]) (hlayer : tagLayer v.tag = (c.chain ch).frontier)
    (hepoch : tagEpoch v.tag = (c.chain ch).epoch)
    (hchecked : c.nextChecked (c.chain ch).frontier = (c.chain ch).frontier)
    (happly : ∀ ratio tiles b, ∃ x, P x ∧ x.early = [] ∧ ChainBecomes c ch x
      (applyVerdict (c.setChain ch { c.chain ch with early := [] }) ch (c.chain ch).frontier v.verdict ratio tiles b)) :
    ∃ x, P x ∧ ChainBecomes c ch { x with frontier := c.nextChecked x.frontier } (drainVerdicts home (n + 2) c ch) := by
  obtain ⟨x, hP, hx, h⟩ := happly v.ratio.toNat v.tiles (home (c.chain ch).frontier)
  have heq : drainVerdicts home (n + 2) c ch = concludePasses (applyVerdict (c.setChain ch { c.chain ch with early := [] }) ch
      (c.chain ch).frontier v.verdict v.ratio.toNat v.tiles (home (c.chain ch).frontier)) ch := by
    rw [drainVerdicts, concludePasses_of_checked hchecked, ← drainVerdicts_of_early_nil home n (by rw [h.chain_self, hx])]
    simp [hearly, hlayer, hepoch]
  refine ⟨x, hP, ?_⟩
  rw [heq]
  exact (h.trans (chainBecomes_concludePasses _ ch)).congr (by rw [h.chain_self, h.nextChecked])

/-- What a verdict home can do: nothing, or send the layer verdict of one tally, which is final then (06 R205). -/
theorem homeMake_cases (c : Core) (chip : Nat) (me : Option (Nat × Nat)) (ch : Nat) :
    homeMake c chip me ch = c ∨ ∃ tag sys raised forcedAt, homeMake c chip me ch = { c with
      tallies := { (c.tallies.find? fun t => decide (t.tag = tag)).getD { tag := tag } with final := true } ::
        c.tallies.filter fun t => t.tag ≠ tag
      sys := sys, raised := raised, forcedAt := forcedAt } := by
  unfold homeMake
  extract_lets x l tag ty rej ratio tiles worst top v rung d
  split
  · exact .inl rfl
  · split
    · exact .inl rfl
    · split <;> exact .inr ⟨tag, _, _, _, rfl⟩

theorem homeMake_chain (c : Core) (chip : Nat) (me : Option (Nat × Nat)) (ch : Nat) : (homeMake c chip me ch).chain = c.chain := by
  obtain h | ⟨_, _, _, _, h⟩ := homeMake_cases c chip me ch <;> rw [h]
  rfl

/-- The newest tally stays, with what it has gathered. -/
theorem homeMake_keeps_tally {c : Core} (chip : Nat) (me : Option (Nat × Nat)) (ch : Nat) {y : Tally} {l : List Tally}
    (hy : c.tallies = y :: l) : ∃ z ∈ (homeMake c chip me ch).tallies, z.tag = y.tag ∧ z.got = y.got := by
  obtain h | ⟨tag, _, _, _, h⟩ := homeMake_cases c chip me ch <;> rw [h]
  · exact ⟨y, hy ▸ List.mem_cons_self, rfl, rfl⟩
  · rw [hy]
    by_cases ht : y.tag = tag
    · exact ⟨{ y with final := true }, by simp [ht], rfl, rfl⟩
    · exact ⟨y, by simp [ht], rfl, rfl⟩

/-! ### Verdict messages -/

theorem isFallback_congr {c d : Core} {ch : Nat} (hregs : d.regs = c.regs) (hchain : d.chain ch = c.chain ch) :
    isFallback d ch = isFallback c ch := by
  unfold isFallback gfbLimit Core.reg
  rw [hregs, hchain]

/-- A core verdict of a live attempt joins its attempt's tally (06 R205). -/
theorem coreVerdictMsg_joins_tally {c : Core} (chip : Nat) (me : Option (Nat × Nat)) {w : CoreVerdict}
    (hlive : c.deadAttempt (tagChain w.tag) (tagLayer w.tag) (tagEpoch w.tag) = false)
    (hearly : (c.chain (tagChain w.tag)).early = []) : ∃ y ∈ (coreVerdictMsg c chip me w).tallies,
      y.tag = mkTag (tagLayer w.tag) (tagChain w.tag) (tagEpoch w.tag) false ∧ w ∈ y.got := by
  unfold coreVerdictMsg
  extract_lets ch tag ty
  rw [if_neg (by simp [ch, hlive])]
  have hty : ty.tag = tag := by
    unfold ty
    cases hfind : c.tallies.find? fun t => decide (t.tag = tag) with
    | none => rfl
    | some t => simpa using List.find?_some hfind
  unfold settleChain
  generalize hjoined : ({ c with tallies := { ty with got := ty.got ++ [w] } :: c.tallies.filter fun t => t.tag ≠ tag } : Core) = d
  have htallies : d.tallies = { ty with got := ty.got ++ [w] } :: c.tallies.filter fun t => t.tag ≠ tag := hjoined ▸ rfl
  rw [drainVerdicts_of_early_nil _ 1024 (by rw [← hjoined]; exact hearly)]
  obtain ⟨z, hz, htag, hgot⟩ := homeMake_keeps_tally chip me ch ((chainBecomes_concludePasses d ch).tallies.trans htallies)
  exact ⟨z, hz, htag.trans hty, by simp [hgot]⟩

section
variable {c : Core} (chip : Nat) (me : Option (Nat × Nat)) {v : LayerVerdict}
  (hearly : (c.chain (tagChain v.tag)).early = []) (hlayer : tagLayer v.tag = (c.chain (tagChain v.tag)).frontier)
  (hepoch : tagEpoch v.tag = (c.chain (tagChain v.tag)).epoch)
  (hchecked : c.nextChecked (c.chain (tagChain v.tag)).frontier = (c.chain (tagChain v.tag)).frontier)
include hearly hlayer hepoch hchecked

/-- A layer verdict for the frontier of its chain is applied, and the passes that lie next with it. -/
theorem layerVerdictMsg_chain {P : Chain → Prop}
    (happly : ∀ d ratio tiles b, d.regs = c.regs → d.chain (tagChain v.tag) = c.chain (tagChain v.tag) →
      ∃ x, P x ∧ x.early = [] ∧ ChainBecomes d (tagChain v.tag) x
        (applyVerdict d (tagChain v.tag) (c.chain (tagChain v.tag)).frontier v.verdict ratio tiles b)) :
    ∃ x, P x ∧ (layerVerdictMsg c chip me v).chain =
      Function.update c.chain (tagChain v.tag) { x with frontier := c.nextChecked x.frontier } := by
  unfold layerVerdictMsg settleChain
  extract_lets ch y
  have harrived := chainBecomes_setChain c ch { y with early := y.early ++ [v] }
  have hy : { y with early := [] } = y := by rw [← show y.early = [] from hearly]
  have hself := harrived.chain_self
  have hregs : (c.setChain ch { y with early := y.early ++ [v] }).regs = c.regs := rfl
  generalize c.setChain ch { y with early := y.early ++ [v] } = e at *
  have hdrained : ∃ x, P x ∧
      ChainBecomes e ch { x with frontier := e.nextChecked x.frontier } (drainVerdicts (isHome e chip me) 1025 e ch) := by
    refine chainBecomes_drainVerdicts (v := v) _ 1023 ?_ ?_ ?_ ?_ fun ratio tiles b => ?_
    · rw [hself, show y.early = [] from hearly]; rfl
    · rw [hself]; exact hlayer
    · rw [hself]; exact hepoch
    · rw [hself, harrived.nextChecked]; exact hchecked
    · have htaken := chainBecomes_setChain e ch { e.chain ch with early := [] }
      have hfrontier : (e.chain ch).frontier = y.frontier := by rw [hself]
      rw [hfrontier]
      obtain ⟨x, hP, hx, h⟩ := happly (e.setChain ch { e.chain ch with early := [] }) ratio tiles b hregs
        (by rw [htaken.chain_self, hself]; exact hy)
      exact ⟨x, hP, hx, htaken.trans h⟩
  obtain ⟨x, hP, h⟩ := hdrained
  exact ⟨x, hP, by rw [homeMake_chain, (harrived.trans h).chain_eq, harrived.nextChecked]⟩

theorem layerVerdictMsg_accept (hv : v.verdict ≠ .reject) : (layerVerdictMsg c chip me v).chain =
    Function.update c.chain (tagChain v.tag)
      { (c.chain (tagChain v.tag)).accepted (c.chain (tagChain v.tag)).frontier v.verdict with
        frontier := c.nextChecked ((c.chain (tagChain v.tag)).frontier + 1) } := by
  obtain ⟨x, rfl, h⟩ := layerVerdictMsg_chain chip me hearly hlayer hepoch hchecked
    (P := (· = (c.chain (tagChain v.tag)).accepted (c.chain (tagChain v.tag)).frontier v.verdict))
    fun d ratio tiles b _ hd => ⟨_, rfl, hearly, hd ▸ chainBecomes_applyVerdict_accept d _ _ ratio tiles b hv⟩
  exact h

theorem layerVerdictMsg_reject (hv : v.verdict = .reject) (hfb : isFallback c (tagChain v.tag) = false) :
    (layerVerdictMsg c chip me v).chain = Function.update c.chain (tagChain v.tag)
      ((c.chain (tagChain v.tag)).rejected (c.chain (tagChain v.tag)).frontier) := by
  obtain ⟨x, rfl, h⟩ := layerVerdictMsg_chain chip me hearly hlayer hepoch hchecked
    (P := (· = (c.chain (tagChain v.tag)).rejected (c.chain (tagChain v.tag)).frontier))
    fun d ratio tiles b hr hd => ⟨_, rfl, hearly, hv ▸ hd ▸ chainBecomes_applyVerdict_reject d _ _ ratio tiles b
      ((isFallback_congr hr hd).trans hfb)⟩
  rw [h]
  congr 1
  rw [show ((c.chain (tagChain v.tag)).rejected (c.chain (tagChain v.tag)).frontier).frontier =
    (c.chain (tagChain v.tag)).frontier from rfl, hchecked]
  rfl

/-- Whatever the verdict, no other chain moves. -/
theorem layerVerdictMsg_chain_ne {k : Nat} (hk : k ≠ tagChain v.tag) : (layerVerdictMsg c chip me v).chain k = c.chain k := by
  obtain ⟨x, -, h⟩ := layerVerdictMsg_chain chip me hearly hlayer hepoch hchecked (P := fun _ => True)
    fun d ratio tiles b _ hd => by
      have hnone : (d.chain (tagChain v.tag)).early = [] := by rw [hd, hearly]
      by_cases hv : v.verdict = .reject
      · rw [hv]
        cases hfb : isFallback d (tagChain v.tag) with
        | false => exact ⟨(d.chain _).rejected _, trivial, hnone, chainBecomes_applyVerdict_reject d _ _ ratio tiles b hfb⟩
        | true =>
          obtain ⟨x, hx, h⟩ := chainBecomes_applyVerdict_fallback d _ (c.chain (tagChain v.tag)).frontier ratio tiles b hfb
          exact ⟨x, trivial, hx.trans hnone, h⟩
      · exact ⟨(d.chain _).accepted _ _, trivial, hnone, chainBecomes_applyVerdict_accept d _ _ ratio tiles b hv⟩
  rw [h, Function.update_of_ne hk]

/-- What a core holds of the chain once a verdict message for its frontier has settled. -/
theorem layerVerdictMsg_takes_effect {d : Core} (hfrontier : (c.chain (tagChain v.tag)).frontier < 1024)
    (hd : (layerVerdictMsg c chip me v).SettlesTo d) :
    let ch := tagChain v.tag
    let x := c.chain ch
    (v.verdict ≠ .reject → x.frontier < (d.chain ch).frontier ∧ (d.chain ch).epoch = x.epoch ∧
      (x.frontier, v.verdict) ∈ (d.chain ch).finals) ∧
    (v.verdict = .reject → isFallback c ch = false → (d.chain ch).frontier = x.frontier ∧
      (d.chain ch).epoch = (x.epoch + 1) % 4096 ∧ d.up ch x.frontier = c.up ch x.frontier + 1 ∧
      (d.chain ch).rejects = x.rejects + 1) ∧
    (∀ k, k ≠ ch → d.chain k = c.chain k) := by
  intro ch x
  refine ⟨fun hv => ?_, fun hv hfb => ?_, fun k hk => ?_⟩
  · rw [hd.chain, layerVerdictMsg_accept chip me hearly hlayer hepoch hchecked hv, Function.update_self]
    exact ⟨le_nextChecked c (Nat.succ_le_of_lt hfrontier), rfl, List.mem_cons_self⟩
  · have h : d.chain ch = x.rejected x.frontier := by
      rw [hd.chain, layerVerdictMsg_reject chip me hearly hlayer hepoch hchecked hv hfb, Function.update_self]
    have hup : NatMap.rd (x.rejected x.frontier).up x.frontier = NatMap.rd x.up x.frontier + 1 := by
      rw [Chain.rejected, Chain.renewed, Chain.climbed, NatMap.rd_wr_self]
    unfold Core.up
    rw [h]
    exact ⟨rfl, rfl, hup, rfl⟩
  · rw [hd.chain, layerVerdictMsg_chain_ne chip me hearly hlayer hepoch hchecked hk]

end

/-! ### Tracker messages (03 R108, R111) -/

theorem slotWait_waitSync (c : Core) (n : Nat) : slotWait (c.waitSync n) n =
    (c.bndWait.any (·.slot == n) || c.scaleDue.any (·.1 == n) || c.jitWait.any (·.1 == n)) := by
  unfold slotWait Core.waitSync Core.setWait
  rw [Core.reg_setField_self, bitOf_setField_self]

theorem Core.reg_waitSync_ne (c : Core) {n a : Nat} (ha : a ≠ rSCT_STAT n) : (c.waitSync n).reg a = c.reg a :=
  Core.reg_setField_ne c ha _ _ _

theorem rSCT_AMAX_ne_rSCT_STAT (n : Nat) : rSCT_AMAX n ≠ rSCT_STAT n := by unfold rSCT_AMAX rSCT_STAT; omega
theorem rSCT_AMAX_ne_rDVT_PREF_CNT (n : Nat) : rSCT_AMAX n ≠ rDVT_PREF_CNT := by unfold rSCT_AMAX rDVT_PREF_CNT; omega

/-- What a boundary's steps on the registers of a slot leave alone. -/
def boundaryKey (c : Core) : Bytes × List BndWait × NatMap := (c.store, c.bndWait, c.lateMax)

theorem boundaryKey_setReg (c : Core) (a v : Nat) : boundaryKey (c.setReg a v) = boundaryKey c := rfl

theorem boundaryKey_setField (c : Core) (a lo n v : Nat) : boundaryKey (c.setField a lo n v) = boundaryKey c := rfl

theorem boundaryKey_sctApplyCfg (c : Core) (n : Nat) (w : Option Nat) : boundaryKey (sctApplyCfg c n w) = boundaryKey c := by
  unfold sctApplyCfg
  split
  · exact (boundaryKey_setField _ _ _ _ _).trans (boundaryKey_setReg _ _ _)
  · rfl

theorem boundaryKey_sctSetFmt (c : Core) (n f : Nat) : boundaryKey (sctSetFmt c n f) = boundaryKey c := by
  unfold sctSetFmt
  split
  · exact boundaryKey_setField _ _ _ _ _
  · rfl

theorem boundaryKey_sctPush (c : Core) (n : Nat) : boundaryKey (sctPush c n) = boundaryKey c := by
  unfold sctPush
  extract_lets hl old new d
  exact (boundaryKey_setField _ _ _ _ _).trans (foldl_keep boundaryKey _ (fun _ _ => boundaryKey_setReg _ _ _) (List.range 16) c)

theorem boundaryKey_sctFlags (c : Core) (n t scale : Nat) : boundaryKey (sctFlags c n t scale) = boundaryKey c := by
  unfold sctFlags
  extract_lets ex cnt d e f warm
  have hd : boundaryKey d = boundaryKey c := boundaryKey_setField _ _ _ _ _
  have he : boundaryKey e = boundaryKey c := by
    unfold e
    split
    · exact (boundaryKey_setField _ _ _ _ _).trans hd
    · exact hd
  clear_value e
  have hf : boundaryKey f = boundaryKey c := (boundaryKey_setField _ _ _ _ _).trans he
  clear_value f
  have hg : boundaryKey (if warm then f.setField (rSCT_STAT n) 0 1 0 else f) = boundaryKey c := by
    split
    · exact (boundaryKey_setField _ _ _ _ _).trans hf
    · exact hf
  exact hg

theorem boundaryKey_sctScaleStep (c : Core) (n : Nat) (w : Option Nat) : boundaryKey (sctScaleStep c n w) = boundaryKey c := by
  unfold sctScaleStep
  split
  · rfl
  · exact boundaryKey_setReg _ _ _

theorem reg_sctNext (c : Core) (n : Nat) : (sctNext c n).reg (rSCT_AMAX n) = NatMap.rd c.lateMax n := Core.reg_setReg_self c _ _

/-- The steps of a boundary up to step 5. -/
def sctScaled (c : Core) (b : BndWait) : Core :=
  let c := sctApplyCfg (c.raiseAmax b.slot (NatMap.rd c.shardMax b.slot)) b.slot b.cfg
  let c := match b.fmt with | some f => sctSetFmt c b.slot f | none => c
  sctScaleStep (sctFlags (sctPush c b.slot) b.slot b.t b.scale) b.slot b.new

theorem boundaryKey_sctScaled (c : Core) (b : BndWait) : boundaryKey (sctScaled c b) = boundaryKey c := by
  unfold sctScaled
  extract_lets d e
  have hd : boundaryKey d = boundaryKey c := (boundaryKey_sctApplyCfg _ _ _).trans (boundaryKey_setReg _ _ _)
  have he : boundaryKey e = boundaryKey d := by
    unfold e
    split
    · exact boundaryKey_sctSetFmt _ _ _
    · rfl
  exact (boundaryKey_sctScaleStep _ _ _).trans ((boundaryKey_sctFlags _ _ _ _).trans ((boundaryKey_sctPush _ _).trans (he.trans hd)))

/-- A boundary ends with step 6, and with the scale sent to the shards. -/
theorem sctFinish_eq (c : Core) (b : BndWait) : ∃ l, sctFinish c b = { (sctNext { sctScaled c b with
    bndWait := (sctScaled c b).bndWait.filter (·.slot != b.slot) } b.slot).pendSync b.slot with sys := l }.waitSync b.slot := by
  unfold sctFinish
  extract_lets n d e f g h
  split
  · exact ⟨_, rfl⟩
  · exact ⟨_, rfl⟩

/-- A boundary that ends leaves the slot with the amax folded meanwhile, and no wait (03 R108). -/
theorem sctFinish_ends (c : Core) (b : BndWait) : (sctFinish c b).store = c.store ∧
    (sctFinish c b).bndWait = c.bndWait.filter (·.slot != b.slot) ∧
    (sctFinish c b).reg (rSCT_AMAX b.slot) = NatMap.rd c.lateMax b.slot := by
  obtain ⟨l, h⟩ := sctFinish_eq c b
  have hkey := boundaryKey_sctScaled c b
  have hamax := rSCT_AMAX_ne_rSCT_STAT b.slot
  generalize sctScaled c b = d at *
  simp only [boundaryKey, Prod.mk.injEq] at hkey
  obtain ⟨hstore, hwait, hlate⟩ := hkey
  rw [h, ← hstore, ← hwait, ← hlate]
  refine ⟨rfl, rfl, ?_⟩
  rw [Core.reg_waitSync_ne _ hamax]
  exact (Core.reg_setField_ne _ hamax _ _ _).trans (reg_sctNext _ _)

/-- A core with the boundary amax of one more shard of slot `n` (03 R108 step 1). -/
def Core.shardReported (c : Core) (n m : Nat) : Core :=
  { c with shardGot := NatMap.wr c.shardGot n (NatMap.rd c.shardGot n + 1)
           shardMax := NatMap.wr c.shardMax n (max (NatMap.rd c.shardMax n) m)
           amaxRep := if m ≠ 0 then n :: c.amaxRep else c.amaxRep }

theorem shardAmax_of_not_waiting {c : Core} {n : Nat} (m : Nat) (h : (c.bndWait.any fun w => w.slot == n) = false) :
    shardAmax c n m none = c.shardReported n m := by
  have hfind : c.bndWait.find? (·.slot == n) = none := by simpa using h
  unfold shardAmax
  simp only [hfind]
  rfl

theorem shardAmax_of_last {c : Core} {n : Nat} {w : BndWait} (m : Nat) (h : c.bndWait.find? (·.slot == n) = some w)
    (hlast : slotNsh c n ≤ NatMap.rd c.shardGot n + 1) : shardAmax c n m none = sctFinish (c.shardReported n m) w := by
  have hgot : slotNsh (c.shardReported n m) n ≤ NatMap.rd (c.shardReported n m).shardGot n :=
    hlast.trans_eq (NatMap.rd_wr_self _ _ _).symm
  unfold shardAmax
  simp only [h]
  exact if_pos hgot

/-- A shard's amax is kept by maximum while the slot does not wait. -/
theorem shardAmax_counts {c d : Core} {n m : Nat} (h : (c.bndWait.any fun w => w.slot == n) = false)
    (hd : (shardAmax c n m none).SettlesTo d) : NatMap.rd d.shardMax n = max (NatMap.rd c.shardMax n) m ∧
      NatMap.rd d.shardGot n = NatMap.rd c.shardGot n + 1 ∧ d.store = c.store ∧ d.reg (rSCT_AMAX n) = c.reg (rSCT_AMAX n) := by
  rw [shardAmax_of_not_waiting m h] at hd
  refine ⟨?_, ?_, hd.store, hd.reg (rSCT_AMAX_ne_rDVT_PREF_CNT n)⟩
  · rw [hd.shardMax]
    exact NatMap.rd_wr_self _ _ _
  · rw [hd.shardGot, Core.shardReported, NatMap.rd_wr_self]

/-- The last shard's amax ends the wait of the home slot at its boundary. -/
theorem shardAmax_ends_wait {c d : Core} {n m : Nat} {w : BndWait} (h : c.bndWait.find? (·.slot == n) = some w)
    (hlast : slotNsh c n ≤ NatMap.rd c.shardGot n + 1) (hd : (shardAmax c n m none).SettlesTo d) :
    (d.bndWait.any fun w => w.slot == n) = false ∧ d.reg (rSCT_AMAX n) = NatMap.rd c.lateMax n ∧ d.store = c.store := by
  rw [shardAmax_of_last m h hlast] at hd
  have hslot : w.slot = n := by simpa using List.find?_some h
  obtain ⟨hstore, hwait, hamax⟩ := sctFinish_ends (c.shardReported n m) w
  rw [hslot] at hwait hamax
  refine ⟨?_, ?_, hd.store.trans hstore⟩
  · rw [hd.bndWait, hwait]
    simp
  · rw [hd.reg (rSCT_AMAX_ne_rDVT_PREF_CNT n), hamax]
    rfl

/-- The scales due to slot `n` once the one due as `x` has come. -/
theorem any_due_filter (l : List (Nat × Option Nat)) (n : Nat) (x : Option Nat) :
    (l.filter (· != (n, x))).any (·.1 == n) = l.any fun e => e.1 == n && e.2 != x := by
  rw [List.any_filter]
  congr 1
  funext e
  rw [Bool.eq_iff_iff]
  simp only [Bool.and_eq_true, bne_iff_ne, beq_iff_eq, ne_eq, Prod.ext_iff]
  tauto

/-- What slot `n` waits for once the scale due as `x` has come. -/
theorem slotWait_tensorScale (c : Core) (n m : Nat) (x : Option Nat) : slotWait (tensorScale c n m x) n = true ↔
    (c.bndWait.any (·.slot == n)) = true ∨ (c.scaleDue.any fun e => e.1 == n && e.2 != x) = true ∨
      (c.jitWait.any (·.1 == n)) = true := by
  rw [← any_due_filter]
  cases x <;> (unfold tensorScale; rw [slotWait_waitSync, Bool.or_eq_true, Bool.or_eq_true, or_assoc]; rfl)

theorem reg_tensorScale_scale (c : Core) (n m : Nat) : (tensorScale c n m none).reg (rSCT_SCALE n) = m :=
  (Core.reg_waitSync_ne _ (rSCT_SCALE_ne_rSCT_STAT n)).trans (Core.reg_setReg_self _ _ _)

theorem reg_tensorScale_ne (c : Core) (n m : Nat) {a : Nat} (hs : a ≠ rSCT_SCALE n) (ht : a ≠ rSCT_STAT n) :
    (tensorScale c n m none).reg a = c.reg a :=
  (Core.reg_waitSync_ne _ ht).trans ((Core.reg_setReg _ _ _ _).trans (if_neg hs))

theorem reg_tensorScale_replay (c : Core) (n m r : Nat) {a : Nat} (ht : a ≠ rSCT_STAT n) :
    (tensorScale c n m (some r)).reg a = c.reg a := Core.reg_waitSync_ne _ ht

theorem jit_tensorScale (c : Core) (n m r : Nat) : (n, r, m) ∈ (tensorScale c n m (some r)).jit := List.mem_cons_self

/-! ### The statement -/

theorem exec_shardAmaxMsg (s : State) (p : Nat) {n m : Nat} (jit : Option Nat) (hn : n < 64) (hm : m < 2 ^ 32) :
    exec (.shardAmaxMsg p n m jit) s =
      s.actCore .core p fun x => (x.takeSys p (.shardAmax n m jit)).onCore p fun c => shardAmax c n m jit := by
  show execShardAmaxMsg p n m jit s = _
  simp only [execShardAmaxMsg, Nat.mod_eq_of_lt hn, Nat.mod_eq_of_lt hm]

theorem exec_tensorScaleMsg (s : State) (p : Nat) {n m : Nat} (jit : Option Nat) (hn : n < 64) (hm : m < 2 ^ 32) :
    exec (.tensorScaleMsg p n m jit) s =
      s.actCore .core p fun x => (x.takeSys p (.tensorScale n m jit)).onCore p fun c => tensorScale c n m jit := by
  show execTensorScaleMsg p n m jit s = _
  simp only [execTensorScaleMsg, Nat.mod_eq_of_lt hn, Nat.mod_eq_of_lt hm]

/-- Settles O38: each message is taken off its way and applied to core p by its rule, and settling keeps what the rule has
written. -/
theorem verdictsAndScalesArrive : Obligations.VerdictsAndScalesArrive := by
  refine ⟨fun s p v w ha hp => ⟨fun hlive hearly => ?_, fun hearly hlayer hepoch hchecked hfrontier => ?_⟩,
    fun s p n m ch ha hp hn hm => ⟨fun hwait => ?_, fun w hwait hlast => ?_, ?_, ?_⟩⟩
  · refine completes_arrival (.coreVerdict w) (fun x c => coreVerdictMsg c x.id (x.logOf p) w) hp ha rfl fun u l hu hd => ⟨hu, ?_⟩
    rw [hd.tallies]
    exact coreVerdictMsg_joins_tally _ _ (by exact hlive) (by exact hearly)
  · exact completes_arrival (.layerVerdict v) (fun x c => layerVerdictMsg c x.id (x.logOf p) v) hp ha rfl
      fun u l hu hd => ⟨hu, layerVerdictMsg_takes_effect (c := { s.chip.core p with sys := l }) _ _
        (by exact hearly) (by exact hlayer) (by exact hepoch) (by exact hchecked) (by exact hfrontier) hd⟩
  · exact completes_arrival (.shardAmax n m none) (fun _ c => shardAmax c n m none) hp ha (exec_shardAmaxMsg s p none hn hm)
      fun u l hu hd => ⟨hu, shardAmax_counts (c := { s.chip.core p with sys := l }) (by exact hwait) hd⟩
  · exact completes_arrival (.shardAmax n m none) (fun _ c => shardAmax c n m none) hp ha (exec_shardAmaxMsg s p none hn hm)
      fun u l hu hd => ⟨hu, shardAmax_ends_wait (c := { s.chip.core p with sys := l }) (by exact hwait) (by exact hlast) hd⟩
  · refine completes_arrival (.tensorScale n m none) (fun _ c => tensorScale c n m none) hp ha
      (exec_tensorScaleMsg s p none hn hm) fun u l hu hd => ⟨hu, ?_, ?_, fun a hout => ?_⟩
    · rw [hd.reg (rSCT_SCALE_ne_rDVT_PREF_CNT n), reg_tensorScale_scale]
    · rw [hd.slotWait, slotWait_tensorScale]
    · obtain ⟨hscale, hstat, hcount⟩ : a ≠ rSCT_SCALE n ∧ a ≠ rSCT_STAT n ∧ a ≠ rDVT_PREF_CNT := by simpa using hout
      rw [hd.reg hcount, reg_tensorScale_ne _ _ _ hscale hstat]
      rfl
  · refine completes_arrival (.tensorScale n m (some ch)) (fun _ c => tensorScale c n m (some ch)) hp ha
      (exec_tensorScaleMsg s p (some ch) hn hm) fun u l hu hd => ⟨hu, ?_, ?_, fun a hout => ?_⟩
    · rw [hd.jit]
      exact jit_tensorScale _ _ _ _
    · rw [hd.slotWait, slotWait_tensorScale]
    · obtain ⟨hstat, hcount⟩ : a ≠ rSCT_STAT n ∧ a ≠ rDVT_PREF_CNT := by simpa using hout
      rw [hd.reg hcount, reg_tensorScale_replay _ _ _ _ hstat]
      rfl

end Sys2Proof.Machine
end

section
/-!
PROOFS. An executing issue reaches its latency cycle (04 R133; 05 R162; 07 R218, R237).

The engine runs on to that cycle, which changes accumulators and the rows of its issues only (`Eng.advance_eq`). So the issue
that is first after the run completes on the cycle of the one that was first before it (`Eng.firstDone_advance`), and
`engineCommit_key` says what of the core its commit changes.
-/
namespace Sys2Proof.Machine

/-! ### The issue that completes first -/

/-- Of two issues the one that completes first, of two on one cycle the one that stands first. -/
def Issue.first (x y : Issue) : Issue := if y.finAt < x.finAt then y else x

theorem Issue.foldl_first_mem (l : List Issue) (x : Issue) : l.foldl Issue.first x ∈ x :: l := by
  induction l generalizing x with
  | nil => exact List.mem_singleton_self x
  | cons y l ih =>
    rw [List.foldl_cons]
    rcases List.mem_cons.1 (ih (x.first y)) with h | h
    · rw [h, Issue.first]
      split <;> simp
    · exact List.mem_cons_of_mem _ (List.mem_cons_of_mem _ h)

theorem Issue.foldl_first_le (l : List Issue) (x : Issue) : ∀ z ∈ x :: l, (l.foldl Issue.first x).finAt ≤ z.finAt := by
  induction l generalizing x with
  | nil => simp
  | cons y l ih =>
    have hfirst : (x.first y).finAt = min x.finAt y.finAt := by
      unfold Issue.first
      split <;> omega
    have hle := ih (x.first y) (x.first y) List.mem_cons_self
    intro z hz
    rw [List.foldl_cons]
    rcases List.mem_cons.1 hz with rfl | hz
    · omega
    rcases List.mem_cons.1 hz with rfl | hz
    · omega
    · exact ih (x.first y) z (List.mem_cons_of_mem _ hz)

theorem Eng.firstDone_cons {e : Eng} {x : Issue} {l : List Issue} (h : e.exec = x :: l) :
    e.firstDone = some (l.foldl Issue.first x) := by
  unfold Eng.firstDone
  rw [h]
  rfl

theorem Eng.exists_firstDone {e : Eng} (h : e.exec ≠ []) : ∃ x, e.firstDone = some x := by
  obtain ⟨x, l, hl⟩ := List.exists_cons_of_ne_nil h
  exact ⟨_, Eng.firstDone_cons hl⟩

/-- The first issue to complete is one of the executing ones, and none of them completes before it. -/
theorem Eng.firstDone_spec {e : Eng} {x : Issue} (h : e.firstDone = some x) : x ∈ e.exec ∧ ∀ z ∈ e.exec, x.finAt ≤ z.finAt := by
  cases hl : e.exec with
  | nil => simp [Eng.firstDone, hl] at h
  | cons y l =>
    rw [Eng.firstDone_cons hl, Option.some.injEq] at h
    exact h ▸ ⟨Issue.foldl_first_mem l y, Issue.foldl_first_le l y⟩

/-- Whatever reads neither accumulators nor issues is kept as an engine runs on. -/
theorem Eng.advance_keep {γ : Type} (g : Eng → γ) (hg : ∀ (e : Eng) a x, g { e with a := a, exec := x } = g e) (e : Eng)
    (cyc : Nat) : g (e.advance cyc) = g e := by
  obtain ⟨a, l, h, -⟩ := e.advance_eq cyc
  rw [h, hg]

/-- A run changes no issue's latency cycle. -/
theorem Eng.advance_finAt (e : Eng) (cyc : Nat) : (e.advance cyc).exec.map Issue.finAt = e.exec.map Issue.finAt := by
  obtain ⟨a, l, h, hl⟩ := e.advance_eq cyc
  have hhead : Issue.finAt = Issue.finAt ∘ Issue.head := rfl
  rw [h, hhead, ← List.map_map, ← List.map_map, hl]

/-- After a run the first issue completes on the same cycle as before. -/
theorem Eng.firstDone_advance {e d : Eng} {x : Issue} {cyc : Nat} (hx : e.firstDone = some x)
    (hd : d.exec = (e.advance cyc).exec) : ∃ y, d.firstDone = some y ∧ y ∈ (e.advance cyc).exec ∧ y.finAt = x.finAt := by
  have hmap : d.exec.map Issue.finAt = e.exec.map Issue.finAt := hd ▸ e.advance_finAt cyc
  obtain ⟨hmem, hmin⟩ := Eng.firstDone_spec hx
  obtain ⟨z, hz, hzx⟩ := List.mem_map.1 (hmap ▸ List.mem_map_of_mem hmem : x.finAt ∈ d.exec.map Issue.finAt)
  obtain ⟨y, hy⟩ := Eng.exists_firstDone (List.ne_nil_of_mem hz)
  obtain ⟨hymem, hymin⟩ := Eng.firstDone_spec hy
  obtain ⟨w, hw, hwy⟩ := List.mem_map.1 (hmap ▸ List.mem_map_of_mem hymem : y.finAt ∈ e.exec.map Issue.finAt)
  have hyz := hymin z hz
  have hxw := hmin w hw
  exact ⟨y, hy, hd ▸ hymem, by omega⟩

/-! ### What the commit changes -/

/-- An engine that has run on to a cycle, the hazards up to it recorded. -/
def Eng.ranTo (e : Eng) (cyc : Nat) : Eng :=
  { e.advance cyc with hz := (e.advance cyc).hz.filter fun h => !decide (h.at_ ≤ cyc) }

theorem Core.runEng_ranTo (c : Core) (be : Bool) (tk : Nat → Nat) (cyc : Nat) :
    (c.runEng be tk cyc).eng be = (c.eng be).ranTo cyc ∧
      coreKey (c.runEng be tk cyc) = coreKey (c.setEng be ((c.eng be).ranTo cyc)) :=
  ⟨Core.runEng_eng c be tk cyc, Core.runEng_key c be tk cyc⟩

theorem key_countPass (c : Core) (be : Bool) (x : Issue) : coreKey (c.countPass be x) = coreKey c :=
  Core.countPass_keep coreKey (fun _ _ _ => rfl) (fun _ _ => rfl) c be x

theorem coreKey_setEng {c d : Core} (be : Bool) (e : Eng) (h : coreKey c = coreKey d) :
    coreKey (c.setEng be e) = coreKey (d.setEng be e) := by
  simp only [coreKey, Prod.mk.injEq] at h ⊢
  obtain ⟨hfe, hbe, hstore, hseq⟩ := h
  cases be <;> simp [Core.setEng, hfe, hbe, hstore, hseq]

theorem coreKey_setEng_setEng (c : Core) (be : Bool) (d e : Eng) : coreKey ((c.setEng be d).setEng be e) = coreKey (c.setEng be e) := by
  cases be <;> rfl

/-- While a launch is due before the first completion, nothing happens. -/
theorem engineCommit_of_launchBefore {c : Core} {be : Bool} {x : Issue} (tk : Nat → Nat) (hx : (c.eng be).firstDone = some x)
    (hl : (c.eng be).launchBefore x.finAt = true) : engineCommit c be tk = c := by
  unfold engineCommit
  rw [hx]
  exact if_pos hl

/-- With no launch due before it, the first issue leaves its engine once that has run on to the issue's cycle. -/
theorem engineCommit_key {c : Core} {be : Bool} {x : Issue} (tk : Nat → Nat) (hx : (c.eng be).firstDone = some x)
    (hl : (c.eng be).launchBefore x.finAt = false) : ∃ y, y ∈ ((c.eng be).advance x.finAt).exec ∧ y.finAt = x.finAt ∧
      coreKey (engineCommit c be tk) = coreKey (c.setEng be (((c.eng be).ranTo x.finAt).commit y)) := by
  obtain ⟨hrun, hkey⟩ := Core.runEng_ranTo c be tk x.finAt
  obtain ⟨y, hy, hmem, hfin⟩ := Eng.firstDone_advance hx (d := (c.eng be).ranTo x.finAt) rfl
  have hcommit : engineCommit c be tk =
      { (((c.runEng be tk x.finAt).setEng be (((c.eng be).ranTo x.finAt).commit y)).countPass be y) with
        cyc := max (c.runEng be tk x.finAt).cyc y.finAt } := by
    unfold engineCommit
    simp only [hx, hl, hrun, hy, Bool.false_eq_true, if_false]
  refine ⟨y, hmem, hfin, (congrArg coreKey hcommit).trans ((key_countPass _ be y).trans ?_)⟩
  exact (coreKey_setEng be _ hkey).trans (coreKey_setEng_setEng c be _ _)

/-- The command changes core p as the commit does, its blocks and grants apart. -/
theorem latencyReached_completes {s : State} {p : Nat} {k : Engine} {post : State → Prop} (hp : p < nCores) (ha : s.awake)
    (hpost : ∀ t, coreKey (t.chip.core p) = coreKey (engineCommit (s.chip.core p) (k == .be) (s.chip.tickAt p)) →
      (∀ q, q ≠ p → t.chip.core q = s.chip.core q) → t.chip.hbm = s.chip.hbm → post t) :
    Completes (.engineLatencyReached p k) s post := by
  let u := s.chip.setCore p (engineCommit (s.chip.core p) (k == .be) (s.chip.tickAt p))
  have hf : latencyReachedCmd s.chip p (k == .be) = u.blockSweep p := rfl
  obtain ⟨bl, gr, hself, hother, hhbm⟩ := sweep_keep u p
  refine ⟨_, State.actCore_next hp (State.active_core ha) _, hpost _ ?_ (fun q hq => ?_) ?_⟩
  · refine (settle_eng _ _ p).trans ?_
    rw [hf, hself, Chip.core_setCore_self]
    rfl
  · refine (settle_other _ _ p q hq).trans ?_
    rw [hf, hother q hq, Chip.core_setCore, if_neg hq]
  · refine (settle_hbm _ _ p).trans ?_
    rw [hf, hhbm]
    rfl

/-! ### The statement -/

/-- Settles O18: of the core's engines and store the command changes what `engineCommit_key` says, and nothing while a launch
is due. -/
theorem issueCompletesAtItsLatency : Obligations.IssueCompletesAtItsLatency := by
  intro s p k x ha hp be e hx
  refine ⟨fun hl => ?_, fun hl => ?_⟩
  · obtain ⟨y, hmem, hfin, hcommit⟩ := engineCommit_key (s.chip.tickAt p) hx hl
    obtain ⟨m, z, hleft, hkeep, hset⟩ := (e.ranTo x.finAt).commit_eq y
    refine latencyReached_completes hp ha fun t hkey hother hhbm => ?_
    replace hkey := hkey.trans hcommit
    have heng : (t.chip.core p).eng be =
        { e.ranTo x.finAt with exec := (e.ranTo x.finAt).exec.erase y, cm := m, cmPoison := z } :=
      (key_eng hkey be).trans ((eng_setEng _ be _).trans hleft)
    have hcm : (e.advance x.finAt).cm = e.cm := e.advance_keep (·.cm) (fun _ _ _ => rfl) _
    refine ⟨⟨y, hmem, hfin, (Eng.firstDone_spec hx).2, (congrArg Eng.exec heng :), (congrArg Eng.a heng :), fun hm => ?_,
      fun i v w hm => ?_⟩, ?_, ?_, ?_, (key_eng hkey _).trans (eng_setEng_ne _ be _), ?_, hother, hhbm⟩
    · exact (congrArg Eng.cm heng).trans ((hkeep hm).1.trans hcm)
    · rw [← hcm]
      exact (congrArg Eng.cm heng).trans (hset i v w hm).1
    · exact (congrArg Eng.t heng).trans (e.advance_keep (·.t) (fun _ _ _ => rfl) _)
    · exact (congrArg Eng.bufs heng).trans (e.advance_keep (·.bufs) (fun _ _ _ => rfl) _)
    · exact (congrArg Eng.halves heng).trans (e.advance_keep (·.halves) (fun _ _ _ => rfl) _)
    · exact (congrArg (·.2.2.1) hkey).trans (by cases be <;> rfl)
  · refine latencyReached_completes hp ha fun t hkey hother hhbm => ?_
    rw [engineCommit_of_launchBefore _ hx hl] at hkey
    exact ⟨key_eng hkey be, hother, hhbm⟩

end Sys2Proof.Machine
end

section
/-!
PROOFS. Self-test and row repair of the engines (04 R141, R142, R143, R145, R146; 05 R165, R183).

Both engines have their registers at the same places of their blocks, so each register write has one rule for the two of
them. A repair word names at most one row here: the other three steps of `repairWriteCmd` do nothing. `bistKey_selfTested`
says once what a self-test that completes leaves of its core.
-/
namespace Sys2Proof.Machine

/-! ### A command that changes core p alone -/

/-- What holds of a settled core holds after a command that sets core p to `c` on this part. -/
theorem completes_setCore {i : Instr} {s : State} {p : Nat} {c : Core} {post : State → Prop} (f : Chip → Chip) (hp : p < nCores)
    (ha : s.awake) (he : exec i s = s.actCore .core p f) (hf : f s.chip = s.chip.setCore p c)
    (hpost : ∀ t, s.coreOnly p t → c.SettlesTo (t.chip.core p) → post t) : Completes i s post := by
  have hc : (f s.chip).core p = c := by rw [hf, Chip.core_setCore_self]
  have honly := completes_onlyCore hp (State.active_core ha) he (hf ▸ Chip.sameBut_setCore _ _ _) hc
  exact honly.imp fun t ⟨hq, hs, ht⟩ => hpost t ⟨hq, hs⟩ (ht ▸ Core.SettlesTo.of_settled _ _ _)

namespace Core.SettlesTo

variable {c d : Core} (h : c.SettlesTo d)
include h

theorem eng (be : Bool) : d.eng be = c.eng be := h.keep (·.eng be) fun _ _ => rfl
theorem fenced : d.fenced = c.fenced := h.keep Core.fenced fun _ _ => rfl

theorem bypassRow (be : Bool) (a : Nat) : d.bypassRow be a = c.bypassRow be a := by
  unfold Core.bypassRow
  rw [h.reg (by cases be <;> decide)]

end Core.SettlesTo

/-! ### The register writes -/

/-- FE_BIST_CTL or BE_BIST_CTL. -/
abbrev rBistCtl (be : Bool) : Nat := if be then rBE_BIST_CTL else rFE_BIST_CTL

section
variable {who : Agent} (hw : isSteward who = true)
include hw

theorem reaches_of_isSteward (p : Nat) : reaches who p = true := by rw [reaches, hw, Bool.or_true]

theorem Chip.coreWrite_bistCtl (s : Chip) (p : Nat) (be : Bool) (v : Nat) : s.coreWrite who p (rBistCtl be) v = bistCmd s who p be v := by
  have hr := reaches_of_isSteward hw p
  cases be <;> (unfold Chip.coreWrite; rw [hr]; rfl)

theorem Chip.coreWrite_repair (s : Chip) (p : Nat) (be : Bool) (v : Nat) : s.coreWrite who p (rRepair be) v = repairCmd s who p be v := by
  have hr := reaches_of_isSteward hw p
  cases be <;> (unfold Chip.coreWrite; rw [hr]; rfl)

end

/-! ### Self-test starts -/

theorem exec_bistStart (be : Bool) (who : Agent) (p v : Nat) (s : State) :
    exec (if be then .beBistStart who p v else .feBistStart who p v) s =
      s.actCore .core p fun m => m.coreWrite who p (rBistCtl be) (v % 2 ^ 64) := by
  cases be <;> rfl

theorem bitOf_zero (v : Nat) : bitOf v 0 = decide (v % 2 = 1) := Nat.testBit_zero v

theorem bistCmd_starts {s : Chip} {who : Agent} {p v : Nat} {be : Bool} (hw : isSteward who = true) (hf : (s.core p).fenced = true)
    (hv : v % 2 = 1) (hidle : bitOf ((s.core p).reg (rEngStat be)) 10 = false) :
    bistCmd s who p be v = s.setCore p ((s.core p).setField (rEngStat be) 10 1 1) := by
  unfold bistCmd bistStartCmd
  rw [hw, hf, hidle, bitOf_zero, decide_eq_true hv]
  rfl

/-! ### Row repair -/

/-- A repair word that names row `row` for array `a` and no row for another. -/
def repairWord (a row : Nat) : Nat := 0x3F3F3F3F - (63 - row) * 2 ^ (8 * a)

theorem field_repairWord : ∀ a < 4, ∀ row < 32, ∀ b < 4, field (repairWord a row) (8 * b) 6 = if b = a then row else 63 := by
  decide

theorem exec_repairWrite (be : Bool) (who : Agent) (p v : Nat) (s : State) :
    exec (if be then .beRepairWrite who p v else .feRepairWrite who p v) s =
      s.actCore .core p fun m => m.coreWrite who p (rRepair be) (v % 2 ^ 64) := by
  cases be <;> rfl

theorem rShim_ne_rRepair (be : Bool) : rShim be ≠ rRepair be := by cases be <;> decide

section
variable {c : Core} {be : Bool} {a row : Nat} (ha : a < 4) (hrow : row < 32) (hfree : c.bypassRow be a = 63)
  (hspare : c.spareBad be a = false)
include ha hrow hfree hspare

theorem Core.repairRow_eq : c.repairRow be a row =
    ((c.setField (rShim be) (8 * a) 6 row).setField (rShim be) (8 * a + 6) 1 1).setField (rRepair be) (8 * a) 6 row := by
  unfold Core.repairRow
  exact if_neg (by simpa [hfree, hspare] using ⟨ha, Nat.le_of_lt_succ hrow⟩)

theorem Core.bypassRow_repairRow (b : Nat) : (c.repairRow be a row).bypassRow be b = if b = a then row else c.bypassRow be b := by
  unfold Core.bypassRow
  rw [Core.repairRow_eq ha hrow hfree hspare, Core.reg_setField_ne _ (rShim_ne_rRepair be), Core.reg_setField_self, Core.reg_setField_self]
  split
  case isTrue h =>
    rw [h, field_setField_below _ _ _ _ _ _ (le_refl _), field_setField]
    omega
  case isFalse h =>
    rcases Nat.lt_or_gt_of_ne h with h | h
    · rw [field_setField_below _ _ _ _ _ _ (by omega), field_setField_below _ _ _ _ _ _ (by omega)]
    · rw [field_setField_above _ _ _ _ _ _ (by omega), field_setField_above _ _ _ _ _ _ (by omega)]

theorem Core.repairRow_ne : c.repairRow be a row ≠ c := by
  intro h
  have hb := Core.bypassRow_repairRow ha hrow hfree hspare a
  rw [h, hfree, if_pos rfl] at hb
  omega

theorem Core.eng_repairRow (b : Bool) : (c.repairRow be a row).eng b = c.eng b := by
  rw [Core.repairRow_eq ha hrow hfree hspare]
  rfl

end

theorem foldl_eq_self {α β : Type} {f : α → β → α} {l : List β} (hf : ∀ d ∈ l, ∀ x, f x d = x) (x : α) : l.foldl f x = x := by
  induction l with
  | nil => rfl
  | cons d l ih => rw [List.foldl_cons, hf d List.mem_cons_self, ih fun e he => hf e (List.mem_cons_of_mem _ he)]

/-- A fold in which one member alone does something. -/
theorem foldl_eq_single {α β : Type} {f : α → β → α} {b : β} {l : List β} (hn : l.Nodup) (hb : b ∈ l)
    (hf : ∀ d ∈ l, d ≠ b → ∀ x, f x d = x) (x : α) : l.foldl f x = f x b := by
  obtain ⟨l₁, l₂, rfl⟩ := List.append_of_mem hb
  have hrest : ∀ d ∈ l₁ ++ l₂, ∀ x, f x d = x := by
    intro d hd
    have hne : d ≠ b := fun h => (List.nodup_middle.1 hn).notMem (h ▸ hd)
    rcases List.mem_append.1 hd with h | h
    · exact hf d (List.mem_append_left _ h) hne
    · exact hf d (List.mem_append_right _ (List.mem_cons_of_mem _ h)) hne
  rw [List.foldl_append, List.foldl_cons, foldl_eq_self fun d hd => hrest d (List.mem_append_left _ hd),
    foldl_eq_self fun d hd => hrest d (List.mem_append_right _ hd)]

/-- The one row that a repair word names is bypassed, and recorded in the map. -/
theorem repairWriteCmd_repairWord {s : Chip} {p a row : Nat} {be : Bool} (ha : a < 4) (hrow : row < 32)
    (hfree : (s.core p).bypassRow be a = 63) (hspare : (s.core p).spareBad be a = false) :
    repairWriteCmd s p be (repairWord a row) = (s.setCore p ((s.core p).repairRow be a row)).mapRepair p (b2n be) a row := by
  unfold repairWriteCmd
  have hfield := field_repairWord a ha row hrow
  rw [foldl_eq_single List.nodup_range (List.mem_range.2 ha) fun b hb hne u => ?_]
  · dsimp only
    rw [hfield a ha, if_pos rfl, if_neg (Core.repairRow_ne ha hrow hfree hspare)]
  · have hnone : (u.core p).repairRow be b 63 = u.core p := if_pos (by omega)
    dsimp only
    rw [hfield b (List.mem_range.1 hb), if_neg hne, hnone, if_pos rfl]

/-- A new entry of the repair map. -/
theorem Chip.mapRepair_new {s : Chip} {p e a row : Nat} (hnew : s.sec.repairs.contains (p, e, a, row) = false)
    (hroom : s.sec.repairs.length < 2304) : (s.mapRepair p e a row).sec.repairs = s.sec.repairs ++ [(p, e, a, row)] ∧
      ∀ q, (s.mapRepair p e a row).core q = s.core q := by
  unfold Chip.mapRepair
  rw [if_neg (by rw [hnew]; simpa using hroom)]
  exact ⟨rfl, fun _ => rfl⟩

/-- The repair write answers the part with the row bypassed and the map's entry, once core p has settled. -/
theorem repairWrite_completes {s : State} {p a row : Nat} {be : Bool} {who : Agent} {post : State → Prop} (hp : p < nCores)
    (haw : s.awake) (hw : isSteward who = true) (hf : (s.chip.core p).fenced = true) (ha : a < 4) (hrow : row < 32)
    (hfree : (s.chip.core p).bypassRow be a = 63) (hspare : (s.chip.core p).spareBad be a = false)
    (hnew : s.chip.sec.repairs.contains (p, b2n be, a, row) = false) (hroom : s.chip.sec.repairs.length < 2304)
    (hpost : ∀ t, ((s.chip.core p).repairRow be a row).SettlesTo (t.chip.core p) →
      t.chip.sec.repairs = s.chip.sec.repairs ++ [(p, b2n be, a, row)] → (∀ q, q ≠ p → t.chip.core q = s.chip.core q) → post t) :
    Completes (if be then .beRepairWrite who p (repairWord a row) else .feRepairWrite who p (repairWord a row)) s post := by
  have hword : repairWord a row % 2 ^ 64 = repairWord a row := by
    unfold repairWord
    omega
  have hcmd : s.chip.coreWrite who p (rRepair be) (repairWord a row % 2 ^ 64) =
      (s.chip.setCore p ((s.chip.core p).repairRow be a row)).mapRepair p (b2n be) a row := by
    rw [hword, Chip.coreWrite_repair hw, repairCmd, hw, hf, Bool.and_self, if_pos rfl, repairWriteCmd_repairWord ha hrow hfree hspare]
  obtain ⟨hmap, hcore⟩ := Chip.mapRepair_new (s := s.chip.setCore p ((s.chip.core p).repairRow be a row)) hnew hroom
  refine ⟨_, (exec_repairWrite be who p _ s).trans (State.actCore_next hp (State.active_core haw) _), hpost _ ?_ ?_ fun q hq => ?_⟩
  · dsimp only
    rw [Chip.settleCore_core, hcmd, hcore, Chip.core_setCore_self]
    exact Core.SettlesTo.of_settled _ _ _
  · dsimp only
    rw [Chip.settleCore_sec, hcmd, hmap]
    rfl
  · dsimp only
    rw [Chip.core_settleCore_ne _ _ hq, hcmd, hcore, Chip.core_setCore, if_neg hq]

/-! ### Self-test completes -/

theorem Eng.acc_setAcc (e : Eng) (r : Nat) (x : Acc) (q : Nat) : (e.setAcc r x).acc q = if q = r then x else e.acc q :=
  Map.get_put _ _ _ _

/-- Tile registers and the elements of accumulators: what a self-test leaves (R143). -/
def Eng.kept (e : Eng) : Map Tile × (Nat → NatMap) := (e.t, fun r => (e.acc r).el)

theorem Eng.kept_setBuf (e : Eng) (k : Nat) (x : WBuf) : (e.setBuf k x).kept = e.kept := rfl

theorem freeAcc_el (be : Bool) (n r : Nat) (x : Acc) : (freeAcc be n r x).el = x.el := by
  simp only [freeAcc]

theorem Eng.kept_freeAcc (e : Eng) (be : Bool) (n r : Nat) : (e.setAcc r (freeAcc be n r (e.acc r))).kept = e.kept := by
  refine Prod.ext rfl (funext fun q => ?_)
  show ((e.setAcc r _).acc q).el = (e.acc q).el
  rw [Eng.acc_setAcc]
  split
  case isTrue h =>
    rw [freeAcc_el, h]
  case isFalse => rfl

theorem Eng.kept_freeBufs (e : Eng) (n : Nat) (l : List Nat) :
    (l.foldl (fun (e : Eng) k => e.setBuf k (freeBuf n k)) e).kept = e.kept :=
  foldl_keep Eng.kept _ (fun e k => e.kept_setBuf k _) l e

theorem Eng.kept_freeAccs (e : Eng) (be : Bool) (n : Nat) (l : List Nat) :
    (l.foldl (fun (e : Eng) r => e.setAcc r (freeAcc be n r (e.acc r))) e).kept = e.kept :=
  foldl_keep Eng.kept _ (fun e r => e.kept_freeAcc be n r) l e

theorem Eng.kept_masks (e : Eng) (m : List (BitVec 128)) (z : List (BitVec 2)) : Eng.kept { e with cm := m, cmPoison := z } = e.kept := rfl

theorem Eng.kept_scrambled (e : Eng) (be : Bool) (n : Nat) : (e.scrambled be n).kept = e.kept := by
  unfold Eng.scrambled
  dsimp only
  split
  · rw [Eng.kept_masks, Eng.kept_freeAccs, Eng.kept_freeBufs]
  · rw [Eng.kept_freeAccs, Eng.kept_freeBufs]

/-- What a self-test reports of an array in which it finds nothing. -/
def noFinding : BistArray := { frow := 0, nrow := 0, col := false, spareBad := false }

/-- The findings of the four arrays. -/
def bistArrays (arrays : List BistArray) : List BistArray := (List.range 4).map fun a => arrays.getD a noFinding

theorem bistArrays_getD (arrays : List BistArray) {a : Nat} (ha : a < 4) : (bistArrays arrays).getD a noFinding = arrays.getD a noFinding := by
  simp [bistArrays, List.getD_eq_getElem?_getD, ha]

/-- Do these findings fence the core (R142)? -/
def Core.bistFails (c : Core) (be : Bool) (arrays : List BistArray) : Bool :=
  (List.range 4).any fun a => c.unrepairable be a ((bistArrays arrays).getD a noFinding)

theorem Core.bistFails_of_unrepairable {c : Core} {be : Bool} {arrays : List BistArray} {a : Nat} {x : BistArray} (ha : a < 4)
    (hx : arrays[a]? = some x) (hbad : c.unrepairable be a x = true) : c.bistFails be arrays = true := by
  refine List.any_eq_true.2 ⟨a, List.mem_range.2 ha, ?_⟩
  rw [bistArrays_getD _ ha, List.getD_eq_getElem?_getD, hx]
  exact hbad

theorem Core.bistFails_of_repairable {c : Core} {be : Bool} {arrays : List BistArray} (hlen : arrays.length = 4)
    (hgood : ∀ a x, a < 4 → arrays[a]? = some x → c.unrepairable be a x = false) : c.bistFails be arrays = false := by
  refine List.any_eq_false.2 fun a ha => ?_
  have ha : a < 4 := List.mem_range.1 ha
  have hx : arrays[a]? = some arrays[a] := List.getElem?_eq_getElem _
  rw [bistArrays_getD _ ha, List.getD_eq_getElem?_getD, hx, Bool.not_eq_true]
  exact hgood a _ ha hx

/-- A core with the findings `xs` of a self-test in its registers, and BIST_DONE in the place of the running test. -/
def Core.withFindings (c : Core) (be : Bool) (xs : List BistArray) : Core :=
  (List.range 4).foldl (fun (c : Core) a =>
    let x := xs.getD a noFinding
    (c.setField (rBistStat be) (16 * a) 16 (bistField x)).setField (rShim be) (8 * a + 7) 1 (b2n x.spareBad))
    ((c.setField (rEngStat be) 10 1 0).setField (rEngStat be) 11 1 1)

/-- A core fenced because an array cannot be repaired. -/
def Core.bistFenced (c : Core) (p : Nat) : Core := ({ c with fenced := true, good := false } : Core).raise evUnrepairable p

/-- A core whose engine a self-test has overwritten. -/
def Core.scrambled (c : Core) (be : Bool) : Core :=
  let c := c.setEng be ((c.eng be).scrambled be c.nseq)
  { c with nseq := c.nseq + 1 }

/-- A core on which a self-test has completed. -/
def Core.selfTested (c : Core) (p : Nat) (be : Bool) (arrays : List BistArray) : Core :=
  if c.bistFails be arrays then ((c.scrambled be).withFindings be (bistArrays arrays)).bistFenced p
  else (c.scrambled be).withFindings be (bistArrays arrays)

theorem bistDoneCmd_of_running {s : Chip} {p : Nat} {be : Bool} (arrays : List BistArray)
    (hrun : bitOf ((s.core p).reg (rEngStat be)) 10 = true) :
    bistDoneCmd s p be arrays = s.setCore p ((s.core p).selfTested p be arrays) := by
  unfold bistDoneCmd
  exact if_neg (by simp [hrun])

/-! What each of these steps leaves alone. -/

section
variable (c : Core) (be : Bool)

theorem Core.reg_setEng (e : Eng) (a : Nat) : (c.setEng be e).reg a = c.reg a := by cases be <;> rfl
theorem Core.fenced_setEng (e : Eng) : (c.setEng be e).fenced = c.fenced := by cases be <;> rfl

theorem Core.key_scrambled : coreKey (c.scrambled be) = coreKey (c.setEng be ((c.eng be).scrambled be c.nseq)) := rfl
theorem Core.reg_scrambled (a : Nat) : (c.scrambled be).reg a = c.reg a := Core.reg_setEng c be _ a
theorem Core.fenced_scrambled : (c.scrambled be).fenced = c.fenced := Core.fenced_setEng c be _

/-- The engines, the local store, the sequencer, the status register of an engine and the fence of a core. -/
def bistKey : (Eng × Eng × Bytes × Seq) × Nat × Bool := (coreKey c, c.reg (rEngStat be), c.fenced)

theorem bistKey_finding (a v w : Nat) :
    bistKey ((c.setField (rBistStat be) (16 * a) 16 v).setField (rShim be) (8 * a + 7) 1 w) be = bistKey c be := by
  have hstat : rEngStat be ≠ rBistStat be ∧ rEngStat be ≠ rShim be := by cases be <;> decide
  unfold bistKey
  rw [Core.reg_setField_ne _ hstat.2, Core.reg_setField_ne _ hstat.1]
  rfl

theorem bistKey_withFindings (xs : List BistArray) : bistKey (c.withFindings be xs) be =
    (coreKey c, setField (setField (c.reg (rEngStat be)) 10 1 0) 11 1 1, c.fenced) := by
  refine (foldl_keep (bistKey · be) _ (fun c a => bistKey_finding c be a _ _) _ _).trans ?_
  rw [bistKey, Core.reg_setField_self, Core.reg_setField_self]
  rfl

theorem bistKey_bistFenced (p : Nat) : bistKey (c.bistFenced p) be = (coreKey c, c.reg (rEngStat be), true) := rfl

/-- A self-test that completes leaves the engine overwritten and BIST_DONE set, and fences a core it fails. -/
theorem bistKey_selfTested (p : Nat) (arrays : List BistArray) : bistKey (c.selfTested p be arrays) be =
    (coreKey (c.setEng be ((c.eng be).scrambled be c.nseq)), setField (setField (c.reg (rEngStat be)) 10 1 0) 11 1 1,
      c.bistFails be arrays || c.fenced) := by
  have h := bistKey_withFindings (c.scrambled be) be (bistArrays arrays)
  rw [Core.key_scrambled, Core.reg_scrambled, Core.fenced_scrambled] at h
  unfold Core.selfTested
  split
  case isTrue hfails =>
    obtain ⟨hkey, hreg, -⟩ : _ ∧ _ ∧ _ := by simpa only [bistKey, Prod.mk.injEq] using h
    rw [bistKey_bistFenced, hkey, hreg, hfails, Bool.true_or]
  case isFalse hpasses =>
    rw [Bool.not_eq_true] at hpasses
    rw [h, hpasses, Bool.false_or]

end

theorem bitOf_setField_below {x lo n v i : Nat} (h : i < lo) : bitOf (setField x lo n v) i = bitOf x i := by
  have hbit : ∀ y, bitOf y i = decide (field y i 1 = 1) := fun y => by
    rw [bitOf, Nat.testBit_eq_decide_div_mod_eq, field, Nat.shiftRight_eq_div_pow, pow_one]
  rw [hbit, hbit, field_setField_below _ _ _ _ _ _ h]

/-! ### The statement -/

/-- Settles O19: each register write is its rule applied to core p, and the self-test that completes is `bistKey_selfTested`. -/
theorem selfTestAndRepair : Obligations.SelfTestAndRepair := by
  intro s p be ha hp c
  refine ⟨fun who v hw hf hv hidle => ?start, fun who row a hw hf ha4 hrow hfree hspare hnew hroom => ?repair,
    fun k arrays hbe hrun => ?done⟩
  case start =>
    have hcmd : s.chip.coreWrite who p (rBistCtl be) (v % 2 ^ 64) = s.chip.setCore p (c.setField (rEngStat be) 10 1 1) := by
      rw [Chip.coreWrite_bistCtl hw, bistCmd_starts hw hf (by omega) hidle]
    exact completes_onlyCore hp (State.active_core ha) (exec_bistStart be who p v s) (hcmd ▸ Chip.sameBut_setCore _ _ _)
      (by rw [hcmd, Chip.core_setCore_self])
  case repair =>
    refine repairWrite_completes hp ha hw hf ha4 hrow hfree hspare hnew hroom fun t hd hmap hother => ?_
    have hrow' := Core.bypassRow_repairRow ha4 hrow hfree hspare
    have heng := Core.eng_repairRow ha4 hrow hfree hspare
    refine ⟨?_, fun b _ hb => ?_, hmap, (hd.eng false).trans (heng false), (hd.eng true).trans (heng true), hother⟩
    · rw [hd.bypassRow, hrow', if_pos rfl]
    · rw [hd.bypassRow, hrow', if_neg hb]
  case done =>
    subst hbe
    have h := bistKey_selfTested c (k == .be) p arrays
    simp only [bistKey, Prod.mk.injEq] at h
    obtain ⟨hkey, hstat, hfenced⟩ := h
    refine completes_setCore (fun m => bistDoneCmd m p (k == .be) arrays) hp ha rfl (bistDoneCmd_of_running arrays hrun)
      fun t ht hd => ?_
    have hreg := (hd.reg (a := rEngStat (k == .be)) (by cases k <;> decide)).trans hstat
    have heng : (t.chip.core p).eng (k == .be) = (c.eng (k == .be)).scrambled (k == .be) c.nseq :=
      (hd.eng _).trans ((key_eng hkey _).trans (eng_setEng _ _ _))
    have hkept : ((t.chip.core p).eng (k == .be)).kept = (c.eng (k == .be)).kept := heng ▸ Eng.kept_scrambled _ _ _
    refine ⟨ht, ?_, ?_, congrArg Prod.fst hkept, fun r => congrFun (congrArg Prod.snd hkept) r,
      (hd.eng _).trans ((key_eng hkey _).trans (eng_setEng_ne _ _ _)), ?_, fun hlen hgood => ?_⟩
    · rw [hreg, bitOf_setField_below (by decide)]
      exact bitOf_setField_self _ 10 false
    · rw [hreg]
      exact bitOf_setField_self _ 11 true
    · rintro ⟨a, x, ha4, hx, hbad⟩
      rw [hd.fenced, hfenced, Core.bistFails_of_unrepairable ha4 hx hbad, Bool.true_or]
    · rw [hd.fenced, hfenced, Core.bistFails_of_repairable hlen hgood, Bool.false_or]

end Sys2Proof.Machine
end

section
/-!
PROOFS. Block cycle 0 (05 R175; 07 R231).

BLOCK_LAUNCH sets core p to `blockLaunch`, a late start of it counted: the head that is due gets its block cycle 0 and the core's
clock stands on it, and a timed head before its LAUNCH leaves the core as it was.
-/
namespace Sys2Proof.Machine

/-- Block cycle 0 of the head block `h` (R175): its copy is complete, and SEAM cycles have passed since the previous block's last
launch. -/
def Core.blockCycle0 (c : Core) (be : Bool) (now : Nat) (h : QHalf) : Nat :=
  max (max now c.cyc) (max h.copyDone ((c.eng be).lastAt + h.desc.seam))

/-- The head block `h` of an engine's queue `h :: hs` has launched on cycle `k`. -/
def Core.headLaunched (c : Core) (be : Bool) (h : QHalf) (hs : List QHalf) (k : Nat) : Core :=
  { c.setEng be { c.eng be with halves := { h with base := some k, prevAt := k } :: hs } with cyc := k }

section
variable {c : Core} {be : Bool} {h : QHalf} {hs : List QHalf} (hhead : (c.eng be).halves = h :: hs) (hbase : h.base = none)
include hhead hbase

theorem blockLaunch_of_due (now : Nat) {tick : Nat} (hdue : h.desc.timed = true → h.desc.launch ≤ tick) :
    blockLaunch c be now tick = c.headLaunched be h hs (c.blockCycle0 be now h) := by
  have hlate : ¬ (h.desc.timed && decide (tick < h.desc.launch)) = true := by simpa using hdue
  unfold blockLaunch
  simp only [hhead, hbase, hlate]
  rfl

theorem blockLaunch_of_early (now : Nat) {tick : Nat} (htimed : h.desc.timed = true) (hearly : tick < h.desc.launch) :
    blockLaunch c be now tick = c := by
  unfold blockLaunch
  simp [hhead, hbase, htimed, hearly]

end

/-- BLOCK_LAUNCH changes core p as `blockLaunch` does, but for the count of late starts. -/
theorem blockLaunchCmd_eq {s : Chip} {p : Nat} {be : Bool} {h : QHalf} {hs : List QHalf}
    (hhead : ((s.core p).eng be).halves = h :: hs) (hbase : h.base = none) :
    ∃ due k, blockLaunchCmd s p be = s.setCore p ((blockLaunch (s.core p) be (s.cycleNow p) (s.localTick p)).late due k) := by
  unfold blockLaunchCmd
  simp only [hhead, hbase, Option.isSome_none, Bool.false_eq_true, if_false]
  split
  · exact ⟨_, _, rfl⟩
  · exact ⟨none, 0, rfl⟩

/-- The engines, the store, the sequencer, the operations and the clock of a core. -/
def blockLaunchKey (c : Core) : (Eng × Eng × Bytes × Seq) × List TOp × Nat := (coreKey c, c.ops, c.cyc)

/-- BLOCK_LAUNCH answers a state whose core p has the key of `blockLaunch`. -/
theorem blockLaunch_completes {s : State} {p : Nat} {k : Engine} {h : QHalf} {hs : List QHalf} {post : State → Prop} (hp : p < nCores)
    (ha : s.awake) (hhead : ((s.chip.core p).eng (k == .be)).halves = h :: hs) (hbase : h.base = none)
    (hpost : ∀ t, s.coreOnly p t → blockLaunchKey (t.chip.core p) =
      blockLaunchKey (blockLaunch (s.chip.core p) (k == .be) (s.chip.cycleNow p) (s.chip.localTick p)) → post t) :
    Completes (.blockLaunch p k) s post := by
  obtain ⟨due, n, hcmd⟩ := blockLaunchCmd_eq hhead hbase
  refine completes_setCore (fun m => blockLaunchCmd m p (k == .be)) hp ha rfl hcmd fun t ht hd => hpost t ht ?_
  rw [hd.keep blockLaunchKey fun _ _ => rfl, late_keep blockLaunchKey fun _ _ _ => rfl]

theorem Core.le_blockCycle0 (c : Core) (be : Bool) (now : Nat) (h : QHalf) :
    h.copyDone ≤ c.blockCycle0 be now h ∧ (c.eng be).lastAt + h.desc.seam ≤ c.blockCycle0 be now h ∧ now ≤ c.blockCycle0 be now h := by
  unfold Core.blockCycle0
  omega

/-- A launch of its head block changes in core p that block, its engine's cycle 0, and the clock. -/
theorem Core.headLaunched_leaves {c d : Core} {be : Bool} {h : QHalf} {hs : List QHalf} {k : Nat}
    (hd : blockLaunchKey d = blockLaunchKey (c.headLaunched be h hs k)) :
    d.eng be = { c.eng be with halves := { h with base := some k, prevAt := k } :: hs } ∧ d.cyc = k ∧
      d.eng (!be) = c.eng (!be) ∧ d.store = c.store ∧ d.seq = c.seq ∧ d.ops = c.ops := by
  obtain ⟨hcore, hops, hcyc⟩ : _ ∧ _ ∧ _ := by simpa only [blockLaunchKey, Prod.mk.injEq] using hd
  exact ⟨(key_eng hcore be).trans (by cases be <;> rfl), hcyc, (key_eng hcore _).trans (by cases be <;> rfl),
    (congrArg (·.2.2.1) hcore).trans (by cases be <;> rfl), (congrArg (·.2.2.2) hcore).trans (by cases be <;> rfl),
    hops.trans (by cases be <;> rfl)⟩

/-! ### The statement -/

/-- Settles O17: a head that is due gets the cycle `Core.blockCycle0`, and one before its LAUNCH is left alone. -/
theorem blockLaunches : Obligations.BlockLaunches := by
  refine ⟨?due, ?early⟩
  case due =>
    intro s p k h hs ha hp be c hhead hbase hdue
    refine blockLaunch_completes hp ha hhead hbase fun t ht hkey => ⟨ht, ?_⟩
    rw [blockLaunch_of_due hhead hbase _ hdue] at hkey
    obtain ⟨hself, hcyc, hother, hstore, hseq, hops⟩ := Core.headLaunched_leaves hkey
    obtain ⟨hcopy, hseam, hnow⟩ := Core.le_blockCycle0 c be (s.chip.cycleNow p) h
    exact ⟨⟨_, congrArg Eng.halves hself, hcopy, hseam, hnow, hcyc⟩, (congrArg Eng.exec hself :), hother, hstore, hseq, hops⟩
  case early =>
    intro s p k h hs ha hp hhead hbase htimed hearly
    refine blockLaunch_completes hp ha hhead hbase fun t ht hkey => ⟨ht, ?_⟩
    rw [blockLaunch_of_early hhead hbase _ htimed hearly] at hkey
    exact key_eng (congrArg Prod.fst hkey) _

end Sys2Proof.Machine
end

section
/-!
PROOFS. Dispatch of blocks and the decision of a COND head (05 R174, R176, R180).

A COND head whose target is present leaves the list and ends its grant, which is all that `releaseGrant_keep` lets change. A
dispatch of the backward head leaves everything that eligibility of the forward head reads (`Core.SameQueues.eligible_false`), so a forward head
that was passed over has stayed eligible, and `Core.watched` keeps the count.
-/
namespace Sys2Proof.Machine

/-! ### COND heads -/

section
variable {s : Chip} {p seq t : Nat} {b : BlockDesc} {rest : List (Nat × BlockDesc)}
  (hfwd : (s.core p).fwd = (seq, b) :: rest) (hcond : b.cond = true) (hdec : b.decided = false) (htarget : b.stash0 = some t)
include hfwd hcond hdec htarget

/-- A target that the stash holds is pinned, and the head retires. -/
theorem condBlockHeadCmd_of_present {e : StashEntry} (he : (s.core p).stash.entry? t = some e) (hloc : e.loc ≠ .dropped) :
    condBlockHeadCmd s p = (s.setCore p { s.core p with
      fwd := rest, stash := (s.core p).stash.put { e with pinned := true }, fwdElig := 0 }).releaseGrant p b.grant := by
  unfold condBlockHeadCmd
  simp [hfwd, hcond, hdec, htarget, he, hloc]

/-- For a dropped target the checkpoint entry is brought, and the head stays, decided. -/
theorem condBlockHeadCmd_of_dropped (hres : (s.core p).resident t = false)
    (hdrop : ∀ e, (s.core p).stash.entry? t = some e → e.loc = .dropped) :
    condBlockHeadCmd s p = s.setCore p { s.core p with
      fwd := (seq, { b with decided := true }) :: rest, stash := { (s.core p).stash with bringing := b.stash1 } } := by
  unfold condBlockHeadCmd
  cases he : (s.core p).stash.entry? t with
  | none => simp [hfwd, hcond, hdec, htarget, he, hres]
  | some e => simp [hfwd, hcond, hdec, htarget, he, hres, hdrop e he]

end

theorem Stash.id_of_entry? {x : Stash} {id : Nat} {e : StashEntry} (h : x.entry? id = some e) : e.id = id := by
  simpa using List.find?_some h

/-- Pinned, an entry stays at its place. -/
theorem Stash.entry?_put_pinned {x : Stash} {id : Nat} {e : StashEntry} (h : x.entry? id = some e) :
    (x.put { e with pinned := true }).entry? id = some { e with pinned := true } := by
  have hid := Stash.id_of_entry? h
  subst hid
  exact Stash.entry_put x e { e with pinned := true } h

/-- The forward list, the stash, the grants, the forward engine and the port of a core. -/
def condKey (c : Core) : List (Nat × BlockDesc) × Stash × List Grant × Eng × Nat := (c.fwd, c.stash, c.grants, c.fe, c.portUntil)

/-- A command that ends a grant of core p, which is `c` otherwise. -/
theorem completes_releaseGrant {i : Instr} {s : State} {p h : Nat} {c : Core} {post : State → Prop} (f : Chip → Chip) (hp : p < nCores)
    (ha : s.awake) (he : exec i s = s.actCore .core p f) (hf : f s.chip = (s.chip.setCore p c).releaseGrant p h)
    (hpost : ∀ u gr, Core.grantState { c with grants := gr } h = 0 → condKey (u.chip.core p) = condKey { c with grants := gr } →
      (∀ q, q ≠ p → u.chip.core q = s.chip.core q) → u.chip.hbm = s.chip.hbm → post u) : Completes i s post := by
  obtain ⟨gr, hself, hspent, hother, hhbm⟩ := releaseGrant_keep (s.chip.setCore p c) p h
  rw [← hf, Chip.core_setCore_self] at hself
  rw [Chip.core_setCore_self] at hspent
  rw [← hf] at hother hhbm
  refine ⟨_, he.trans (State.actCore_next hp (State.active_core ha) f), hpost _ gr hspent ?_ (fun q hq => ?_) ?_⟩
  · exact (settle_keep condKey (fun _ _ _ _ => rfl) (fun _ _ _ => rfl) (fun _ _ => rfl) _ _ p).trans (congrArg condKey hself)
  · rw [Chip.core_settleCore_ne _ _ hq, hother q hq, Chip.core_setCore, if_neg hq]
  · rw [Chip.settleCore_hbm, hhbm]
    rfl

/-! ### What the eligibility of a head reads -/

/-- The queue ends and their configurations, the stash, the grants, the epochs and the store of a core. -/
def queueKey (c : Core) : Map QEnd × (Nat → Nat) × Bytes × Map Chain × Stash × List Grant :=
  (c.q, c.qcfg, c.store, c.chains, c.stash, c.grants)

/-- Two cores that agree in them. -/
structure Core.SameQueues (c d : Core) : Prop where
  q : d.q = c.q
  qcfg : d.qcfg = c.qcfg
  store : d.store = c.store
  chains : d.chains = c.chains
  stash : d.stash = c.stash
  grants : d.grants = c.grants

theorem Core.SameQueues.of_key {c d : Core} (h : queueKey d = queueKey c) : c.SameQueues d := by
  simp only [queueKey, Prod.mk.injEq] at h
  obtain ⟨hq, hqcfg, hstore, hchains, hstash, hgrants⟩ := h
  exact ⟨hq, hqcfg, hstore, hchains, hstash, hgrants⟩

namespace Core.SameQueues

variable {c d : Core} (h : c.SameQueues d)
include h

theorem qend (n : Nat) : d.qend n = c.qend n := by unfold Core.qend; rw [h.q]

theorem slotOf (n i : Nat) : d.slotOf n i = c.slotOf n i := by unfold Core.slotOf; rw [h.qend, h.qcfg]

theorem slotAddr (n k : Nat) : d.slotAddr n k = c.slotAddr n k := by unfold Core.slotAddr Core.qbytes; rw [h.qcfg]

theorem readItem (n k : Nat) : d.readItem n k = c.readItem n k := by unfold Core.readItem; rw [h.slotAddr, h.store]

theorem slotTag (n k : Nat) : d.slotTag n k = c.slotTag n k := by unfold Core.slotTag; rw [h.slotAddr, h.store]

theorem heldTag (t : Word) : d.heldTag t = c.heldTag t := by unfold Core.heldTag Core.chain; rw [h.chains]

theorem present (n : Nat) : d.present n = c.present n := by
  unfold Core.present
  simp only [h.qend, h.heldTag, h.slotTag, h.slotOf]

theorem room (n : Nat) : d.room n = c.room n := by unfold Core.room; rw [h.stash, h.qcfg, h.qend]

theorem entryPresent (n e : Nat) : d.entryPresent n e = c.entryPresent n e := by
  unfold Core.entryPresent
  simp only [h.present, h.readItem, h.slotOf]

theorem resident (e : Nat) : d.resident e = c.resident e := by
  unfold Core.resident
  simp only [h.stash, h.entryPresent]

theorem optResident (e : Option Nat) : optResident d e = optResident c e := by
  cases e with
  | none => rfl
  | some e => exact h.resident e

theorem qcondHolds (x : Nat × Bool × Nat) : d.qcondHolds x = c.qcondHolds x := by
  unfold Core.qcondHolds
  rw [h.room, h.present]

theorem cfgHeldBefore (seq n : Nat) : d.cfgHeldBefore seq n = c.cfgHeldBefore seq n := by unfold Core.cfgHeldBefore; rw [h.qend]

/-- The forward head is as eligible as it was. -/
theorem eligible_false (hfwd : d.fwd = c.fwd) (hfe : d.fe = c.fe) : d.eligible false = c.eligible false := by
  unfold Core.eligible
  simp only [h.qcondHolds, h.cfgHeldBefore, h.optResident, h.grants, hfwd, Core.eng, hfe]
  rfl

end Core.SameQueues

/-! ### Dispatch -/

/-- The list of the engine. -/
def Core.blockList (c : Core) (be : Bool) : List (Nat × BlockDesc) := if be then c.bwd else c.fwd

/-- A core whose list of one engine is `l`. -/
def Core.withList (c : Core) (be : Bool) (l : List (Nat × BlockDesc)) : Core := if be then { c with bwd := l } else { c with fwd := l }

/-- The half into which a block is copied: its instructions at four a cycle. -/
def Core.blockHalf (c : Core) (seq : Nat) (b : BlockDesc) (now : Nat) : QHalf :=
  { desc := b, blk := seq, words := (List.range b.len).map fun k => BitVec.ofNat 128 (Bytes.rdLe c.store (b.code + 16 * k) 16)
    copyDone := now + ceilDiv b.len 4, poison := c.upsetIn (0x400000 + b.code) (16 * b.len) }

/-- A core whose engine has one half more. -/
def Core.withHalf (c : Core) (be : Bool) (h : QHalf) : Core := c.setEng be { c.eng be with halves := (c.eng be).halves ++ [h] }

/-- A core that has handed block `b` from the head of a list to its engine. -/
def Core.dispatched (c : Core) (be : Bool) (seq : Nat) (b : BlockDesc) (rest : List (Nat × BlockDesc)) (now : Nat) : Core :=
  let d := ((c.withList be rest).withHalf be (c.blockHalf seq b now)).unitRd b.code (16 * b.len)
  { d with blocks := d.blocks ++ [(seq, be, b.grant, b.qconds.map (·.1))], portUntil := now + ceilDiv b.len 4, portBwd := be }

theorem dispatchHead_eq {c : Core} {be : Bool} {seq : Nat} {b : BlockDesc} {rest : List (Nat × BlockDesc)}
    (hlist : c.blockList be = (seq, b) :: rest) (now : Nat) : dispatchHead c be now = c.dispatched be seq b rest now := by
  unfold dispatchHead
  unfold Core.blockList at hlist
  rw [hlist]
  cases be <;> rfl

/-- A read of core store changes counters and events, and SEQ_ECC when it meets a double-bit error. -/
theorem Core.unitRd_keep {γ : Type} (g : Core → γ) (hev : ∀ (c : Core) x, g { c with ev := x } = g c)
    (hraise : ∀ (c : Core) x, g { c with raised := x } = g c)
    (hreg : ∀ (c : Core) v, g (c.setReg rSEQ_ECC v) = g c) (c : Core) (a n : Nat) : g (c.unitRd a n) = g c := by
  unfold Core.unitRd
  dsimp only
  split
  · exact (hraise _ _).trans ((hreg _ _).trans (hev _ _))
  · exact hev _ _

/-- SEQ_ECC is the configuration of no queue end. -/
theorem queueKey_setReg_ecc (c : Core) (v : Nat) : queueKey (c.setReg rSEQ_ECC v) = queueKey c := by
  have hcfg : (c.setReg rSEQ_ECC v).qcfg = c.qcfg := by
    funext n
    unfold Core.qcfg
    rw [Core.reg_setReg, if_neg (by unfold rQE_CFG rSEQ_ECC; omega)]
  unfold queueKey
  rw [hcfg]
  rfl

/-- The forward count is kept while the forward head is eligible. -/
theorem Core.watched_fwdElig (c0 c : Core) (k : Nat) : (Core.watched c0 c k).fwdElig = if c.eligible false then c.fwdElig else 0 := by
  unfold Core.watched
  by_cases hn : c0.prefRun k = 0
  · simp only [hn, if_true]
  · simp only [hn, if_false]
    rfl

theorem Core.settled_fwdElig (c0 c : Core) (k : Nat) : (Core.settled c0 c k).fwdElig = if c.eligible false then c.fwdElig else 0 := by
  unfold Core.settled
  split
  · exact Core.watched_fwdElig c0 c.progressed k
  · exact Core.watched_fwdElig c0 c k

/-- The engines, the store, the sequencer and the lists of a core. -/
def dispatchKey (c : Core) : (Eng × Eng × Bytes × Seq) × List (Nat × BlockDesc) × List (Nat × BlockDesc) := (coreKey c, c.fwd, c.bwd)

section
variable (c : Core) (be : Bool) (seq : Nat) (b : BlockDesc) (rest : List (Nat × BlockDesc)) (now : Nat)

theorem dispatchKey_dispatched : dispatchKey (c.dispatched be seq b rest now) =
    dispatchKey ((c.withList be rest).withHalf be (c.blockHalf seq b now)) :=
  Core.unitRd_keep dispatchKey (fun _ _ => rfl) (fun _ _ => rfl) (fun _ _ => rfl) _ _ _

/-- What a dispatch leaves, whatever else of the core moves. -/
theorem Core.dispatched_leaves {d : Core} (hd : dispatchKey d = dispatchKey (c.dispatched be seq b rest now)) :
    (d.eng be).halves = (c.eng be).halves ++ [c.blockHalf seq b now] ∧ d.blockList be = rest ∧
      d.blockList (!be) = c.blockList (!be) ∧ d.eng (!be) = c.eng (!be) ∧ d.store = c.store ∧ d.seq = c.seq := by
  obtain ⟨hcore, hfwd, hbwd⟩ : _ ∧ _ ∧ _ := by simpa only [dispatchKey, Prod.mk.injEq] using hd.trans (dispatchKey_dispatched ..)
  exact ⟨(congrArg Eng.halves (key_eng hcore be)).trans (by cases be <;> rfl), by cases be; exacts [hfwd, hbwd],
    by cases be; exacts [hbwd, hfwd], (key_eng hcore _).trans (by cases be <;> rfl),
    (congrArg (·.2.2.1) hcore).trans (by cases be <;> rfl), (congrArg (·.2.2.2) hcore).trans (by cases be <;> rfl)⟩

theorem queueKey_dispatched : queueKey (c.dispatched be seq b rest now) = queueKey c :=
  (Core.unitRd_keep queueKey (fun _ _ => rfl) (fun _ _ => rfl) queueKey_setReg_ecc _ _ _).trans (by cases be <;> rfl)

/-- A backward dispatch leaves the forward head as eligible as it was. -/
theorem Core.eligible_dispatched_backward : (c.dispatched true seq b rest now).eligible false = c.eligible false := by
  obtain ⟨-, -, hfwd, hfe, -, -⟩ := Core.dispatched_leaves c true seq b rest now rfl
  exact (Core.SameQueues.of_key (queueKey_dispatched ..)).eligible_false hfwd hfe

end

/-- The backward dispatches in a row, this one counted, through which the forward head has stayed eligible. -/
def Core.passedOver (c : Core) (be : Bool) : Nat := if be && c.eligible false then c.fwdElig + 1 else 0

/-- A core whose forward head has been passed over `n` times in a row. -/
def Core.counted (c : Core) (n : Nat) : Core := { c with fwdElig := n }

@[simp] theorem Core.fwdElig_counted (c : Core) (n : Nat) : (c.counted n).fwdElig = n := rfl
@[simp] theorem Core.eligible_counted (c : Core) (n : Nat) (be : Bool) : (c.counted n).eligible be = c.eligible be := rfl
@[simp] theorem Core.portUntil_counted (c : Core) (n : Nat) : (c.counted n).portUntil = c.portUntil := rfl
@[simp] theorem dispatchKey_counted (c : Core) (n : Nat) : dispatchKey (c.counted n) = dispatchKey c := rfl

/-- A free port whose bench keeps its point dispatches the head whose turn it is (R176). -/
theorem blockDispatchCmd_eq {s : Chip} {p seq : Nat} {b : BlockDesc} {rest : List (Nat × BlockDesc)} {be : Bool}
    (hpoint : field (s.reg (rEN_B_PT (benchOf p))) 0 4 = field (s.reg (rEN_B_PT (benchOf p))) 4 4)
    (hfree : (s.core p).portUntil ≤ s.coreCycle p) (helig : (s.core p).eligible be = true)
    (hlist : (s.core p).blockList be = (seq, b) :: rest)
    (hturn : be = !((s.core p).eligible false && (decide ((s.core p).fwdElig ≥ 2) || !(s.core p).eligible true))) :
    blockDispatchCmd s p = s.setCore p
      (((s.core p).dispatched be seq b rest (s.coreCycle p)).counted ((s.core p).passedOver be)) := by
  have hidle : decide (s.coreCycle p < (s.core p).portUntil) = false := decide_eq_false (by omega)
  have hsome : (!(s.core p).eligible false && !(s.core p).eligible true) = false := by cases be <;> simp [helig]
  have hkeeps : decide (field (s.reg (rEN_B_PT (benchOf p))) 0 4 ≠ field (s.reg (rEN_B_PT (benchOf p))) 4 4) = false :=
    decide_eq_false (not_not_intro hpoint)
  rw [← dispatchHead_eq hlist]
  unfold blockDispatchCmd Core.passedOver
  dsimp only
  rw [hidle, hsome, hkeeps, if_neg (by decide)]
  cases be with
  | false => exact if_pos ((Bool.not_eq_false' _).mp hturn.symm)
  | true => exact if_neg (Bool.eq_false_iff.1 ((Bool.not_eq_true' _).mp hturn.symm))

/-- A command that sets core p to `c` keeps the forward count of `c` as long as the forward head of `c` is eligible. -/
theorem completes_setCore_counted {i : Instr} {s : State} {p : Nat} {c : Core} {post : State → Prop} (f : Chip → Chip) (hp : p < nCores)
    (ha : s.awake) (he : exec i s = s.actCore .core p f) (hf : f s.chip = s.chip.setCore p c)
    (hpost : ∀ t, s.coreOnly p t → c.SettlesTo (t.chip.core p) →
      (t.chip.core p).fwdElig = (if c.eligible false then c.fwdElig else 0) → post t) : Completes i s post := by
  have hc : (f s.chip).core p = c := by rw [hf, Chip.core_setCore_self]
  have honly := completes_onlyCore hp (State.active_core ha) he (hf ▸ Chip.sameBut_setCore _ _ _) hc
  exact honly.imp fun t ⟨hq, hs, hcore⟩ => hpost t ⟨hq, hs⟩ (hcore ▸ Core.SettlesTo.of_settled _ _ _)
    ((congrArg Core.fwdElig hcore).trans (Core.settled_fwdElig _ _ _))

/-! ### The statement -/

/-- Settles O16: a COND head is decided by `condBlockHeadCmd_of_present` and `condBlockHeadCmd_of_dropped`; a dispatch leaves what
`Core.dispatched_leaves` says, and its count of passes is kept by settling. -/
theorem blocksAreDispatched : Obligations.BlocksAreDispatched := by
  refine ⟨?cond, ?dispatch⟩
  case cond =>
    intro s p seq t b rest ha hp c hfwd hcond hdec htarget
    refine ⟨fun e he hloc => ?present, fun hres hdrop => ?dropped⟩
    case present =>
      refine completes_releaseGrant (fun m => condBlockHeadCmd m p) hp ha rfl
        (condBlockHeadCmd_of_present hfwd hcond hdec htarget he hloc) fun u gr hspent hkey hother hhbm => ?_
      obtain ⟨hlist, hstash, hgrants, hfe, hport⟩ : _ ∧ _ ∧ _ ∧ _ ∧ _ := by simpa only [condKey, Prod.mk.injEq] using hkey
      refine ⟨hlist, ?_, ?_, hfe, hport, hother, hhbm⟩
      · rw [hstash]
        exact Stash.entry?_put_pinned he
      · unfold Core.grantState at hspent ⊢
        rw [hgrants]
        exact hspent
    case dropped =>
      have hcmd := condBlockHeadCmd_of_dropped hfwd hcond hdec htarget hres hdrop
      exact completes_onlyCore hp (State.active_core ha) (f := fun m => condBlockHeadCmd m p) rfl
        (hcmd ▸ Chip.sameBut_setCore _ _ _) (by rw [hcmd, Chip.core_setCore_self])
  case dispatch =>
    intro s p seq b rest be ha hp c hpoint hfree helig hlist hturn
    refine completes_setCore_counted (fun m => blockDispatchCmd m p) hp ha rfl (blockDispatchCmd_eq hpoint hfree helig hlist hturn)
      fun t ht hd hcount => ⟨ht, ?_⟩
    have hkey := hd.keep dispatchKey fun _ _ => rfl
    have hport := hd.keep Core.portUntil fun _ _ => rfl
    rw [dispatchKey_counted] at hkey
    rw [Core.portUntil_counted] at hport
    rw [Core.eligible_counted, Core.fwdElig_counted] at hcount
    obtain ⟨hhalves, hrest, hkept, hother, hstore, hseq⟩ := Core.dispatched_leaves c be seq b rest (s.chip.coreCycle p) hkey
    refine ⟨⟨_, hhalves, rfl, rfl, by simp [Core.blockHalf], rfl, rfl, rfl, hport⟩, hrest, ?_, hother, hstore, hseq, fun hf => ?_,
      fun hb hfe => ?_⟩
    · cases be <;> exact hkept
    · subst hf
      exact hcount.trans (ite_self 0)
    · subst hb
      rw [hcount, Core.eligible_dispatched_backward, if_pos hfe]
      exact if_pos hfe

end Sys2Proof.Machine
end

section
/-!
PROOFS. Reads and writes of device memory by the units of a core (10 R346, R350; 15 R497).

`Chip.Wrote s m b` says that `m` is `s` with the bytes `b` in HBM, whatever poison the writes took away: a run of lines that was
sound stays so, and a write that was not refused is not refused later. Each access of memory has one rule for it.
-/
namespace Sys2Proof.Machine

/-! ### Bytes of a list -/

theorem length_hdPut {h bs : List Byte} {o : Nat} (ho : o + bs.length ≤ h.length) : (hdPut h o bs).length = h.length := by
  unfold hdPut
  simp only [List.length_append, List.length_take, List.length_drop]
  omega

/-- What has been put reads back. -/
theorem listLe_hdPut_self {h bs : List Byte} {o : Nat} (ho : o ≤ h.length) : listLe (hdPut h o bs) o bs.length = leNat bs := by
  unfold listLe hdPut
  rw [List.append_assoc, List.drop_left' (by rw [List.length_take]; omega), List.take_left' rfl]

/-- What stands before it reads as it was. -/
theorem listLe_hdPut_below {h bs : List Byte} {o i n : Nat} (hi : i + n ≤ o) (ho : o ≤ h.length) :
    listLe (hdPut h o bs) i n = listLe h i n := by
  unfold listLe hdPut
  rw [List.append_assoc, List.drop_append_of_le_length (by rw [List.length_take]; omega),
    List.take_append_of_le_length (by rw [List.length_drop, List.length_take]; omega), List.drop_take, List.take_take,
    Nat.min_eq_left (by omega)]

/-- Two runs that adjoin are one. -/
theorem Bytes.wrN_append (xs ys : List Byte) : ∀ (m : Bytes) (a : Nat),
    Bytes.wrN m a (xs ++ ys) = Bytes.wrN (Bytes.wrN m a xs) (a + xs.length) ys := by
  induction xs with
  | nil => exact fun _ _ => rfl
  | cons x xs ih =>
    intro m a
    rw [List.length_cons, Nat.add_comm xs.length 1, ← Nat.add_assoc]
    exact ih (Bytes.wr m a x) (a + 1)

theorem Bytes.rdLe_wrN_leBytes (m : Bytes) (a n v : Nat) : Bytes.rdLe (Bytes.wrN m a (leBytes n v)) a n = v % 256 ^ n := by
  have h := Bytes.rdN_wrN m a (leBytes n v)
  rw [length_leBytes] at h
  rw [Bytes.rdLe, h, leNat_leBytes]

/-! ### Lines -/

theorem mem_linesOf {a n l : Nat} : l ∈ linesOf a n ↔ n ≠ 0 ∧ a / 64 ≤ l ∧ l ≤ (a + n - 1) / 64 := by
  unfold linesOf
  by_cases hn : n = 0
  · simp [hn]
  · simp only [hn, if_false, List.mem_map, List.mem_range]
    constructor
    · rintro ⟨k, hk, rfl⟩
      exact ⟨hn, by omega, by omega⟩
    · rintro ⟨-, hlo, hhi⟩
      exact ⟨l - a / 64, by omega, by omega⟩

/-- No line of the run is lost. -/
def Chip.Sound (s : Chip) (a n : Nat) : Prop := ∀ l ∈ linesOf a n, s.linePoison l = false

theorem Chip.memRd_lost {s : Chip} {a n : Nat} : (s.memRd a n).2 = false ↔ s.Sound a n := by
  unfold Chip.memRd Chip.Sound
  simp only [List.any_eq_false, Bool.not_eq_true]

namespace Chip.Sound

variable {s : Chip} {a n : Nat} (h : s.Sound a n)
include h

/-- Part of a sound run is sound. -/
theorem part {x k : Nat} (hlo : a ≤ x) (hhi : x + k ≤ a + n) : s.Sound x k := by
  intro l hl
  obtain ⟨hk, hxl, hlx⟩ := mem_linesOf.1 hl
  exact h l (mem_linesOf.2 ⟨by omega, by omega, by omega⟩)

theorem wrRefused : s.wrRefused a n = false := by
  refine List.any_eq_false.2 fun l hl => ?_
  have hsound := h l hl
  unfold Chip.linePoison at hsound
  simp only [Bool.or_eq_false_iff, decide_eq_false_iff_not, not_not] at hsound
  simp [hsound]

end Chip.Sound

/-! ### What writes leave -/

/-- `m` is `s` with the bytes `b` in HBM: poison may be gone, and the other medium, the energy counts and the stacks that sleep
may differ. -/
structure Chip.Wrote (s m : Chip) (b : Bytes) : Prop where
  hbm : m.hbm = b
  cores : m.cores = s.cores
  regs : m.regs = s.regs
  redir : m.redir = s.redir
  fencedCh : m.fencedCh = s.fencedCh
  poison : ∀ l, NatMap.rd s.poison l = 0 → NatMap.rd m.poison l = 0

namespace Chip.Wrote

variable {s m u : Chip} {b c : Bytes}

theorem refl (s : Chip) : s.Wrote s s.hbm := ⟨rfl, rfl, rfl, rfl, rfl, fun _ h => h⟩

theorem trans (h : s.Wrote m b) (k : m.Wrote u c) : s.Wrote u c :=
  ⟨k.hbm, k.cores.trans h.cores, k.regs.trans h.regs, k.redir.trans h.redir, k.fencedCh.trans h.fencedCh,
    fun l hl => k.poison l (h.poison l hl)⟩

theorem core (h : s.Wrote m b) (p : Nat) : m.core p = s.core p := by unfold Chip.core; rw [h.cores]

theorem lineFenced (h : s.Wrote m b) (l : Nat) : m.lineFenced l = s.lineFenced l := by
  unfold Chip.lineFenced Chip.cxlFenced Chip.reg
  rw [h.fencedCh, h.redir, h.regs]

/-- Sound lines stay sound. -/
theorem sound (h : s.Wrote m b) {a n : Nat} (hs : s.Sound a n) : m.Sound a n := by
  intro l hl
  have hsound := hs l hl
  unfold Chip.linePoison at hsound ⊢
  rw [h.lineFenced]
  simp only [Bool.or_eq_false_iff, decide_eq_false_iff_not, not_not] at hsound ⊢
  exact ⟨h.poison l hsound.1, hsound.2⟩

/-- A write that was not refused is not refused later. -/
theorem wrRefused (h : s.Wrote m b) {a n : Nat} (hs : s.wrRefused a n = false) : m.wrRefused a n = false := by
  refine List.any_eq_false.2 fun l hl => ?_
  have hfree := List.any_eq_false.1 hs l hl
  rw [h.lineFenced]
  simp only [Bool.or_eq_true, Bool.and_eq_true, decide_eq_true_eq, not_or, not_and] at hfree ⊢
  exact ⟨hfree.1, fun hlost => hfree.2 fun hzero => hlost (h.poison l hzero)⟩

end Chip.Wrote

/-- Poison that is taken from lines comes to no other line. -/
theorem NatMap.rd_foldl_clear (ls : List Nat) {m : NatMap} {l : Nat} (h : NatMap.rd m l = 0) :
    NatMap.rd (ls.foldl (fun m k => NatMap.wr m k 0) m) l = 0 := by
  induction ls generalizing m with
  | nil => exact h
  | cons k ls ih =>
    refine ih ((Map.get_put m k 0 l).trans ?_)
    split
    · rfl
    · exact h

theorem Chip.wrote_memWr (s : Chip) {a : Nat} (bs : List Byte) (ha : a < 0x10000000000) :
    s.Wrote (s.memWr a bs) (Bytes.wrN s.hbm a bs) := by
  unfold Chip.memWr
  dsimp only
  rw [if_pos ha]
  exact ⟨rfl, rfl, rfl, rfl, rfl, fun l => NatMap.rd_foldl_clear _⟩

theorem Chip.wrote_memWrTry {s : Chip} {a : Nat} {bs : List Byte} (ha : a < 0x10000000000) (hw : s.wrRefused a bs.length = false) :
    s.Wrote (s.memWrTry a bs) (Bytes.wrN s.hbm a bs) := by
  unfold Chip.memWrTry
  rw [hw]
  exact s.wrote_memWr bs ha

/-- What the count of a transfer leaves alone. -/
theorem Chip.hbmUse_keep {γ : Type} (g : Chip → γ) (hen : ∀ (s : Chip) x, g { s with en := x } = g s)
    (hsr : ∀ (s : Chip) x, g { s with selfRef := x } = g s) (s : Chip) (a n : Nat) : g (s.hbmUse a n) = g s := by
  have hwake : ∀ (s : Chip) a, g (s.wake a) = g s := by
    intro s a
    unfold Chip.wake
    split
    · exact hsr _ _
    · rfl
  unfold Chip.hbmUse
  split
  · rfl
  · dsimp only
    split
    · exact hen _ _
    · exact (foldl_keep g _ hwake _ _).trans (hen _ _)

/-- Writes of runs, one after the other. -/
def Bytes.wrRuns (b : Bytes) (l : List (Nat × List Byte)) : Bytes := l.foldl (fun b r => Bytes.wrN b r.1 r.2) b

/-- Runs of bytes that lie between two addresses. -/
def RunsIn (lo hi : Nat) (l : List (Nat × List Byte)) : Prop := ∀ r ∈ l, lo ≤ r.1 ∧ r.1 < hi ∧ r.1 + r.2.length ≤ hi

/-- Runs that lie in sound lines of HBM are written whole. -/
theorem Chip.wrote_runs {a n : Nat} (hhi : a + n ≤ 0x10000000000) {l : List (Nat × List Byte)} : ∀ {s : Chip}, s.Sound a n →
    RunsIn a (a + n) l → s.Wrote (l.foldl (fun s q => s.memWrTry q.1 q.2) s) (Bytes.wrRuns s.hbm l) := by
  induction l with
  | nil => exact fun {s} _ _ => Chip.Wrote.refl s
  | cons r l ih =>
    intro s hs hl
    obtain ⟨hlo, hlt, hin⟩ := hl r List.mem_cons_self
    have hr := Chip.wrote_memWrTry (s := s) (a := r.1) (bs := r.2) (by omega) (hs.part hlo hin).wrRefused
    have hrest := ih (hr.sound hs) fun q hq => hl q (List.mem_cons_of_mem _ hq)
    rw [hr.hbm] at hrest
    exact hr.trans hrest

/-! ### Runs that are joined and cut at lines -/

theorem Bytes.wrRuns_cons (b : Bytes) (r : Nat × List Byte) (l : List (Nat × List Byte)) :
    Bytes.wrRuns b (r :: l) = Bytes.wrRuns (Bytes.wrN b r.1 r.2) l := rfl

theorem Bytes.wrRuns_append (b : Bytes) (l k : List (Nat × List Byte)) :
    Bytes.wrRuns b (l ++ k) = Bytes.wrRuns (Bytes.wrRuns b l) k := List.foldl_append

/-- A run before others: joined to the first of them where they adjoin. -/
def joinRun (r : Nat × List Byte) : List (Nat × List Byte) → List (Nat × List Byte)
  | [] => [r]
  | q :: l => if r.1 + r.2.length = q.1 then (r.1, r.2 ++ q.2) :: l else r :: q :: l

theorem joinRuns_cons (r : Nat × List Byte) (l : List (Nat × List Byte)) : joinRuns (r :: l) = joinRun r (joinRuns l) := by
  obtain ⟨a, x⟩ := r
  rw [joinRuns]
  cases joinRuns l <;> rfl

theorem Bytes.wrRuns_joinRun (b : Bytes) (r : Nat × List Byte) (l : List (Nat × List Byte)) :
    Bytes.wrRuns b (joinRun r l) = Bytes.wrRuns b (r :: l) := by
  cases l with
  | nil => rfl
  | cons q l =>
    rw [joinRun]
    split
    case isTrue hadj => rw [Bytes.wrRuns_cons, Bytes.wrRuns_cons, Bytes.wrRuns_cons, Bytes.wrN_append, hadj]
    case isFalse => rfl

theorem RunsIn.joinRun {lo hi : Nat} {r : Nat × List Byte} {l : List (Nat × List Byte)} (h : RunsIn lo hi (r :: l)) :
    RunsIn lo hi (joinRun r l) := by
  cases l with
  | nil => exact h
  | cons q l =>
    obtain ⟨hr, hq, hl⟩ : _ ∧ _ ∧ _ := by simpa only [RunsIn, List.forall_mem_cons] using h
    rw [Machine.joinRun]
    split
    case isTrue hadj =>
      refine List.forall_mem_cons.2 ⟨?_, hl⟩
      rw [List.length_append]
      omega
    case isFalse => exact h

/-- Joined runs write what the runs write. -/
theorem Bytes.wrRuns_joinRuns (l : List (Nat × List Byte)) : ∀ b : Bytes, Bytes.wrRuns b (joinRuns l) = Bytes.wrRuns b l := by
  induction l with
  | nil => exact fun _ => rfl
  | cons r l ih =>
    intro b
    rw [joinRuns_cons, Bytes.wrRuns_joinRun, Bytes.wrRuns_cons, ih]
    rfl

theorem RunsIn.joinRuns {lo hi : Nat} {l : List (Nat × List Byte)} (h : RunsIn lo hi l) : RunsIn lo hi (joinRuns l) := by
  induction l with
  | nil => exact h
  | cons r l ih =>
    obtain ⟨hr, hl⟩ := List.forall_mem_cons.1 h
    rw [joinRuns_cons]
    exact RunsIn.joinRun (List.forall_mem_cons.2 ⟨hr, ih hl⟩)

/-- The part of a run in one line. -/
def linePart (o : Nat) (bs : List Byte) (l : Nat) : Nat × List Byte :=
  (max o (64 * l), (bs.drop (max o (64 * l) - o)).take (min (o + bs.length) (64 * l + 64) - max o (64 * l)))

theorem lineParts_eq (o : Nat) (bs : List Byte) : lineParts o bs = (linesOf o bs.length).map (linePart o bs) := rfl

theorem runsIn_lineParts {lo hi o : Nat} {bs : List Byte} (hlo : lo ≤ o) (hhi : o + bs.length ≤ hi) : RunsIn lo hi (lineParts o bs) := by
  intro r hr
  rw [lineParts_eq] at hr
  obtain ⟨l, hl, rfl⟩ := List.mem_map.1 hr
  obtain ⟨hn, hfirst, hlast⟩ := mem_linesOf.1 hl
  unfold linePart
  simp only [List.length_take, List.length_drop]
  omega

/-- The parts of a run in its first `k` lines write its bytes up to the end of the last of them. -/
theorem Bytes.wrRuns_firstLines (b : Bytes) (o : Nat) (bs : List Byte) : ∀ k, o / 64 + k ≤ (o + bs.length - 1) / 64 + 1 →
    Bytes.wrRuns b ((List.range k).map fun i => linePart o bs (o / 64 + i)) = Bytes.wrN b o (bs.take (64 * (o / 64 + k) - o)) := by
  intro k
  induction k with
  | zero =>
    intro _
    rw [show 64 * (o / 64 + 0) - o = 0 by omega]
    rfl
  | succ k ih =>
    intro hk
    rw [List.range_succ, List.map_append, Bytes.wrRuns_append, ih (by omega)]
    have hlo : max o (64 * (o / 64 + k)) = o + (64 * (o / 64 + k) - o) := by omega
    have htaken : (bs.take (64 * (o / 64 + k) - o)).length = 64 * (o / 64 + k) - o := by rw [List.length_take]; omega
    have hrest : 64 * (o / 64 + (k + 1)) - o = 64 * (o / 64 + k) - o + (64 * (o / 64 + (k + 1)) - o - (64 * (o / 64 + k) - o)) := by omega
    rw [hrest, List.take_add, Bytes.wrN_append, htaken, List.map_singleton, linePart, hlo, Nat.add_sub_cancel_left]
    refine congrArg (Bytes.wrN _ _) (List.take_eq_take_iff.2 ?_)
    rw [List.length_drop]
    omega

/-- A run cut at lines is the run. -/
theorem Bytes.wrRuns_lineParts (b : Bytes) (o : Nat) (bs : List Byte) : Bytes.wrRuns b (lineParts o bs) = Bytes.wrN b o bs := by
  rw [lineParts_eq]
  unfold linesOf
  split
  case isTrue hn =>
    rw [List.length_eq_zero_iff.1 hn]
    rfl
  case isFalse hn =>
    rw [List.map_map]
    refine (Bytes.wrRuns_firstLines b o bs _ (by omega)).trans ?_
    rw [List.take_of_length_le (by omega)]

theorem Bytes.wrRuns_flatMap_lineParts (l : List (Nat × List Byte)) : ∀ b : Bytes,
    Bytes.wrRuns b (l.flatMap fun r => lineParts r.1 r.2) = Bytes.wrRuns b l := by
  induction l with
  | nil => exact fun _ => rfl
  | cons r l ih =>
    intro b
    rw [List.flatMap_cons, Bytes.wrRuns_append, Bytes.wrRuns_lineParts, ih]
    rfl

end Sys2Proof.Machine
end

section
/-!
PROOFS. DACC: the checks and the turn of an item (05 R168, R169).

The elements of an item lie in its drawer one after the other and never overlap (`daccElemAddr_lt`), so each of them is written
from the value that stood there before; with INIT the runs are joined and cut at lines, which writes the same bytes. The header
lies outside, and is written last.
-/
namespace Sys2Proof.Machine

/-! ### The elements of an item -/

/-- The address of element `m` of an item in the drawer's array. -/
def daccElemAddr (h d : List Byte) (m : Nat) : Nat :=
  hdBase h + 4 * (hdCols h * (dRow0 d + m / dNCol d) + (dCol0 d + m % dNCol d))

/-- What element `m` of an item makes of the drawer's `old`. -/
def daccValue (d : List Byte) (o : OutItem) (old m : Nat) : Nat :=
  if dInit d then canonElem 0x0C (listLe o.payload (4 * m) 4)
  else engAdd fp32 (fp32.decode old) (fp32.decode (listLe o.payload (4 * m) 4))

/-- Element `m` of an item is applied. -/
def daccWrite (h d : List Byte) (o : OutItem) (b : Bytes) (m : Nat) : Bytes :=
  Bytes.wrN b (daccElemAddr h d m) (leBytes 4 (daccValue d o (Bytes.rdLe b (daccElemAddr h d m) 4) m))

/-- The first `n` elements of an item are applied. -/
def daccWrites (h d : List Byte) (o : OutItem) (n : Nat) (b : Bytes) : Bytes := (List.range n).foldl (daccWrite h d o) b

theorem daccWrites_succ (h d : List Byte) (o : OutItem) (n : Nat) (b : Bytes) :
    daccWrites h d o (n + 1) b = daccWrite h d o (daccWrites h d o n b) n := by
  unfold daccWrites
  rw [List.range_succ, List.foldl_append]
  rfl

/-- A run outside the drawer's elements is not touched. -/
theorem rdN_daccWrites_outside {h d : List Byte} {o : OutItem} {x k : Nat} (b : Bytes) : ∀ {n : Nat},
    (∀ m, m < n → x + k ≤ daccElemAddr h d m ∨ daccElemAddr h d m + 4 ≤ x) →
    Bytes.rdN (daccWrites h d o n b) x k = Bytes.rdN b x k := by
  intro n
  induction n with
  | zero => exact fun _ => rfl
  | succ n ih =>
    intro hout
    rw [daccWrites_succ, daccWrite, Bytes.rdN_wrN_outside _ _ _ _ _ (by rw [length_leBytes]; exact hout n (Nat.lt_succ_self n)),
      ih fun m hm => hout m (Nat.lt_succ_of_lt hm)]

/-- An item fits its drawer (R168 stage 3). -/
structure DaccFits (h d : List Byte) (n : Nat) : Prop where
  ncol : dNCol d ≠ 0
  whole : n % dNCol d = 0
  cols : dCol0 d + dNCol d ≤ hdCols h
  rows : dRow0 d + n / dNCol d ≤ hdRows h

theorem daccFits_of_good {o : OutItem} {d h : List Byte} (hgood : daccItemBad o false d h = false) : DaccFits h d o.nelem := by
  simp only [daccItemBad, Bool.or_eq_false_iff, decide_eq_false_iff_not, not_not, not_lt] at hgood
  obtain ⟨⟨⟨⟨⟨-, -⟩, hncol⟩, hwhole⟩, hcols⟩, hrows⟩ := hgood
  exact ⟨hncol, hwhole, by omega, by omega⟩

section
variable {h d : List Byte} {n : Nat} (hfits : DaccFits h d n)
include hfits

/-- Elements lie one after the other. -/
theorem daccElemAddr_lt {i j : Nat} (hij : i < j) : daccElemAddr h d i + 4 ≤ daccElemAddr h d j := by
  have hi := Nat.mod_lt i (Nat.pos_of_ne_zero hfits.ncol)
  have hcols := hfits.cols
  unfold daccElemAddr
  rcases Nat.lt_or_eq_of_le (Nat.div_le_div_right (c := dNCol d) hij.le) with hrow | hrow
  · have hnext : hdCols h * (dRow0 d + i / dNCol d) + hdCols h ≤ hdCols h * (dRow0 d + j / dNCol d) := by
      rw [← Nat.mul_succ]
      exact Nat.mul_le_mul_left _ (by omega)
    omega
  · have hcol : i % dNCol d < j % dNCol d := by
      have hi := Nat.div_add_mod i (dNCol d)
      have hj := Nat.div_add_mod j (dNCol d)
      rw [hrow] at hi
      omega
    rw [hrow]
    omega

/-- Elements lie in the drawer's array. -/
theorem daccElemAddr_mem {m : Nat} (hm : m < n) :
    hdBase h ≤ daccElemAddr h d m ∧ daccElemAddr h d m + 4 ≤ hdBase h + 4 * hdRows h * hdCols h := by
  have hcol := Nat.mod_lt m (Nat.pos_of_ne_zero hfits.ncol)
  have hcols := hfits.cols
  have hrow : m / dNCol d < n / dNCol d := Nat.div_lt_div_of_lt_of_dvd (Nat.dvd_of_mod_eq_zero hfits.whole) hm
  have hrows := hfits.rows
  have hlast : hdCols h * (dRow0 d + m / dNCol d) + hdCols h ≤ hdCols h * hdRows h := by
    rw [← Nat.mul_succ]
    exact Nat.mul_le_mul_left _ (by omega)
  have harray : 4 * hdRows h * hdCols h = 4 * (hdCols h * hdRows h) := by rw [Nat.mul_assoc, Nat.mul_comm (hdRows h)]
  unfold daccElemAddr
  omega

/-- Each element is applied to what stood at its place. -/
theorem rdLe_daccWrites {o : OutItem} (b : Bytes) {m : Nat} : ∀ {k : Nat}, m < k →
    Bytes.rdLe (daccWrites h d o k b) (daccElemAddr h d m) 4 =
      daccValue d o (Bytes.rdLe b (daccElemAddr h d m) 4) m % 256 ^ 4 := by
  intro k
  induction k with
  | zero => exact fun hm => absurd hm (Nat.not_lt_zero m)
  | succ k ih =>
    intro hm
    rw [daccWrites_succ, daccWrite]
    rcases Nat.lt_succ_iff_lt_or_eq.1 hm with hlt | rfl
    · rw [Bytes.rdLe, Bytes.rdN_wrN_outside _ _ _ _ _ (Or.inl (daccElemAddr_lt hfits hlt))]
      exact ih hlt
    · have hold : Bytes.rdLe (daccWrites h d o m b) (daccElemAddr h d m) 4 = Bytes.rdLe b (daccElemAddr h d m) 4 :=
        congrArg leNat (rdN_daccWrites_outside b fun i hi => Or.inr (daccElemAddr_lt hfits hi))
      rw [hold, Bytes.rdLe_wrN_leBytes]

end

/-! ### The commands write them -/

/-- In a drawer without a mask every element is trained. -/
theorem daccAddr_of_unmasked (s : Chip) {h d : List Byte} (hmask : bitOf (hdFlags h) 2 = false) (m : Nat) :
    daccAddr s h d m = some (daccElemAddr h d m) := by
  unfold daccAddr daccTrained
  rw [hmask]
  rfl

/-- An element of a sound line of HBM is added and written back. -/
theorem daccElem_of_sound {s : Chip} {h d : List Byte} {o : OutItem} {m : Nat} (hinit : dInit d = false)
    (hmask : bitOf (hdFlags h) 2 = false) (haddr : daccElemAddr h d m < 0x10000000000) (hsound : s.Sound (daccElemAddr h d m) 4) :
    daccElem h d o (s, false) m =
      (s.memWr (daccElemAddr h d m) (leBytes 4 (daccValue d o (Bytes.rdLe s.hbm (daccElemAddr h d m) 4) m)), false) := by
  have hread : s.memRd (daccElemAddr h d m) 4 = (Bytes.rdN s.hbm (daccElemAddr h d m) 4, false) :=
    Prod.ext (if_pos haddr) (Chip.memRd_lost.2 hsound)
  unfold daccElem daccValue
  dsimp only
  rw [daccAddr_of_unmasked s hmask, hinit]
  dsimp only
  rw [hread]
  rfl

/-- The runs that an item with INIT = 1 writes. -/
def daccRuns (h d : List Byte) (o : OutItem) : List (Nat × List Byte) :=
  (List.range o.nelem).map fun m => (daccElemAddr h d m, leBytes 4 (canonElem 0x0C (listLe o.payload (4 * m) 4)))

theorem runsIn_daccRuns {h d : List Byte} {o : OutItem} (hfits : DaccFits h d o.nelem) :
    RunsIn (hdBase h) (hdBase h + 4 * hdRows h * hdCols h) (daccRuns h d o) := by
  intro r hr
  obtain ⟨m, hm, rfl⟩ := List.mem_map.1 hr
  obtain ⟨hlo, hend⟩ := daccElemAddr_mem hfits (List.mem_range.1 hm)
  rw [length_leBytes]
  dsimp only
  omega

theorem wrRuns_daccRuns {d : List Byte} (hinit : dInit d = true) (h : List Byte) (o : OutItem) (b : Bytes) :
    Bytes.wrRuns b (daccRuns h d o) = daccWrites h d o o.nelem b := by
  unfold daccWrites Bytes.wrRuns daccWrite daccValue daccRuns
  rw [List.foldl_map]
  simp only [hinit, if_true]

/-- They are joined, cut at lines, and written one after the other. -/
theorem daccInit_eq (s : Chip) {h : List Byte} (hmask : bitOf (hdFlags h) 2 = false) (d : List Byte) (o : OutItem) : daccInit s h d o =
    ((joinRuns (daccRuns h d o)).flatMap fun r => lineParts r.1 r.2).foldl (fun s q => s.memWrTry q.1 q.2) s := by
  unfold daccInit daccRuns
  simp only [daccAddr_of_unmasked s hmask, Option.map_some, List.filterMap_eq_map', List.foldl_flatMap]

section
variable {s : Chip} {h d : List Byte} {o : OutItem} (hfits : DaccFits h d o.nelem) (hmask : bitOf (hdFlags h) 2 = false)
  (hhi : hdBase h + 4 * hdRows h * hdCols h ≤ 0x10000000000) (hsound : s.Sound (hdBase h) (4 * hdRows h * hdCols h))
include hfits hmask hhi hsound

/-- Elements that are added (INIT = 0). -/
theorem wrote_daccElems (hinit : dInit d = false) : ∀ n, n ≤ o.nelem → ∃ m, (List.range n).foldl (daccElem h d o) (s, false) = (m, false) ∧
    s.Wrote m (daccWrites h d o n s.hbm) := by
  intro n
  induction n with
  | zero => exact fun _ => ⟨s, rfl, Chip.Wrote.refl s⟩
  | succ n ih =>
    intro hn
    obtain ⟨m, hfold, hw⟩ := ih (by omega)
    obtain ⟨hlo, hend⟩ := daccElemAddr_mem hfits (Nat.lt_of_succ_le hn)
    have haddr : daccElemAddr h d n < 0x10000000000 := by omega
    have hstep := daccElem_of_sound (o := o) hinit hmask haddr ((hw.sound hsound).part hlo hend)
    refine ⟨_, by rw [List.range_succ, List.foldl_append, hfold]; exact hstep, ?_⟩
    rw [daccWrites_succ, ← hw.hbm]
    exact hw.trans (m.wrote_memWr _ haddr)

/-- Elements that are written (INIT = 1). -/
theorem wrote_daccInit (hinit : dInit d = true) : s.Wrote (daccInit s h d o) (daccWrites h d o o.nelem s.hbm) := by
  have hparts : RunsIn (hdBase h) (hdBase h + 4 * hdRows h * hdCols h)
      ((joinRuns (daccRuns h d o)).flatMap fun r => lineParts r.1 r.2) := by
    intro q hq
    obtain ⟨r, hr, hq⟩ := List.mem_flatMap.1 hq
    obtain ⟨hlo, -, hend⟩ := (runsIn_daccRuns hfits).joinRuns r hr
    exact runsIn_lineParts hlo hend q hq
  rw [daccInit_eq s hmask, ← wrRuns_daccRuns hinit, ← Bytes.wrRuns_joinRuns, ← Bytes.wrRuns_flatMap_lineParts]
  exact Chip.wrote_runs hhi hsound hparts

/-- The elements of an item, added or written. -/
theorem wrote_daccElements : ∃ m, (if dInit d then (daccInit s h d o, false)
    else (List.range o.nelem).foldl (daccElem h d o) (s, false)) = (m, false) ∧ s.Wrote m (daccWrites h d o o.nelem s.hbm) := by
  by_cases hinit : dInit d = true
  · exact ⟨_, if_pos hinit, wrote_daccInit hfits hmask hhi hsound hinit⟩
  · rw [if_neg hinit]
    exact wrote_daccElems hfits hmask hhi hsound (Bool.eq_false_iff.2 hinit) _ le_rfl

end

/-! ### The turn of an item -/

/-- What the count of a DACC's lines leaves alone. -/
theorem Chip.daccUse_keep {γ : Type} (g : Chip → γ) (hen : ∀ (s : Chip) x, g { s with en := x } = g s)
    (hsr : ∀ (s : Chip) x, g { s with selfRef := x } = g s) (s : Chip) (h d : List Byte) (o : OutItem) (writes : Bool) :
    g (s.daccUse h d o writes) = g s := by
  have huse : ∀ (s : Chip) a n, g (s.hbmUse a n) = g s := Chip.hbmUse_keep g hen hsr
  unfold Chip.daccUse
  dsimp only
  split
  · exact (huse _ _ _).trans (huse _ _ _)
  · refine (foldl_keep g _ (fun s r => ?_) _ _).trans ((huse _ _ _).trans (huse _ _ _))
    split
    · exact huse _ _ _
    · exact (huse _ _ _).trans (huse _ _ _)

theorem Chip.wrote_daccUse (s : Chip) (h d : List Byte) (o : OutItem) (writes : Bool) : s.Wrote (s.daccUse h d o writes) s.hbm where
  hbm := Chip.daccUse_keep Chip.hbm (fun _ _ => rfl) (fun _ _ => rfl) s h d o writes
  cores := Chip.daccUse_keep Chip.cores (fun _ _ => rfl) (fun _ _ => rfl) s h d o writes
  regs := Chip.daccUse_keep Chip.regs (fun _ _ => rfl) (fun _ _ => rfl) s h d o writes
  redir := Chip.daccUse_keep Chip.redir (fun _ _ => rfl) (fun _ _ => rfl) s h d o writes
  fencedCh := Chip.daccUse_keep Chip.fencedCh (fun _ _ => rfl) (fun _ _ => rfl) s h d o writes
  poison l hl := by rw [Chip.daccUse_keep Chip.poison (fun _ _ => rfl) (fun _ _ => rfl) s h d o writes, hl]

/-- The header after the turn of an item, of flags POISON if the item is not applied and LAST if it is the last one. -/
def daccHeader (h d : List Byte) (poisoned : Bool) : List Byte :=
  hdPut (hdSetFlags h (hdFlags h ||| (if poisoned then 1 else 0) ||| (if dLast d then 2 else 0))) 40
    (leBytes 4 ((hdNext h + 1) % 2 ^ 32))

section
variable {h : List Byte} (hlen : h.length = 64) (d : List Byte) (poisoned : Bool)
include hlen

theorem length_hdSetFlags (v : Nat) : (hdSetFlags h v).length = 64 := by
  unfold hdSetFlags
  rw [length_hdPut (by rw [length_leBytes]; omega), hlen]

theorem length_daccHeader : (daccHeader h d poisoned).length = 64 := by
  have hflags := length_hdSetFlags hlen
  unfold daccHeader
  rw [length_hdPut (by rw [length_leBytes, hflags]; omega), hflags]

theorem hdNext_daccHeader : hdNext (daccHeader h d poisoned) = (hdNext h + 1) % 2 ^ 32 := by
  have hflags := length_hdSetFlags hlen
  unfold hdNext daccHeader
  refine (listLe_hdPut_self (bs := leBytes 4 _) (by rw [hflags]; omega)).trans ?_
  rw [leNat_leBytes]
  exact Nat.mod_mod _ _

theorem hdFlags_poisoned : bitOf (hdFlags (daccHeader h d true)) 0 = true := by
  have hflags := length_hdSetFlags hlen
  unfold hdFlags daccHeader
  rw [listLe_hdPut_below (by omega) (by rw [hflags]; omega)]
  unfold hdSetFlags
  refine (congrArg (bitOf · 0) ((listLe_hdPut_self (bs := leBytes 2 _) (by omega)).trans (leNat_leBytes 2 _))).trans ?_
  unfold bitOf
  rw [show (256 : Nat) ^ 2 = 2 ^ 16 by norm_num, Nat.testBit_mod_two_pow, Nat.testBit_or, Nat.testBit_or]
  simp

end

/-- The mask of a drawer without one is not read. -/
theorem daccTrained_of_unmasked (s : Chip) {h : List Byte} (hmask : bitOf (hdFlags h) 2 = false) (r c : Nat) :
    daccTrained s h r c = (true, false) := by
  unfold daccTrained
  rw [hmask]
  rfl

/-- An operation has had its turn: it leaves the transfer table. -/
def Core.turned (c : Core) (id : Nat) (poisoned : Bool) : Core :=
  if poisoned then (c.dropOp id).raise evPoisonEgress 0 else c.dropOp id

theorem Core.op_turned (c : Core) (id : Nat) (poisoned : Bool) : (c.turned id poisoned).op? id = none := by
  have hdrop : (c.turned id poisoned).op? id = (c.dropOp id).op? id := by cases poisoned <;> rfl
  rw [hdrop, op_drop, if_pos rfl]

section
variable {s : Chip} {p : Nat} {t : TOp} {bad : Bool} {o : OutItem} {h : List Byte}
  (hop : (s.core p).op? t.id = some t) (hh : h = (s.memRd (dHdr t.desc) 64).1) (hprot : s.protTouch (dHdr t.desc) 64 = false)
  (hphase : t.phase = .checked bad) (hin : t.input = [o]) (hmask : bad = true ∨ bitOf (hdFlags h) 2 = false)
  (hnext : hdNext h = dSeqNo t.desc) (hdrawer : s.protTouch (hdBase h) (4 * hdRows h * hdCols h) = false)
include hop hh hprot hphase hin hmask hnext hdrawer

/-- The turn of an item: `m` holds what its elements leave, if it is not poisoned. -/
theorem daccApplyCmd_eq {poisoned : Bool} (hpois : poisoned = (bad || decide (o.poison ≠ 0))) {m : Chip}
    (hm : (if poisoned then (s, false) else if dInit t.desc then (daccInit s h t.desc o, false)
      else (List.range o.nelem).foldl (daccElem h t.desc o) (s, false)) = (m, false)) :
    daccApplyCmd s p t.id = ((m.daccUse h t.desc o (!poisoned)).memWrTry (dHdr t.desc) (daccHeader h t.desc poisoned)).onCore p
      (·.turned t.id poisoned) := by
  have hlost : (!bad && (List.range o.nelem).any fun m =>
      (daccTrained s h (dRow0 t.desc + m / dNCol t.desc) (dCol0 t.desc + m % dNCol t.desc)).2) = false := by
    rcases hmask with hbad | hmask
    · rw [hbad]
      rfl
    · simp [daccTrained_of_unmasked s hmask]
  unfold daccApplyCmd
  simp only [hop, hphase, ← hh, hnext, ne_eq, not_true_eq_false, if_false, hprot, hdrawer, Bool.or_self, Bool.false_eq_true, hin,
    List.headD_cons, hlost, Bool.or_false, ← hpois, hm]
  unfold daccHeader
  rw [hnext]
  rfl

end

/-- A command that sets core p to `c` on a part with the cores of this one. -/
theorem completes_setCore_on {i : Instr} {s : State} {p : Nat} {m : Chip} {c : Core} {post : State → Prop} (f : Chip → Chip)
    (hp : p < nCores) (ha : s.awake) (he : exec i s = s.actCore .core p f) (hf : f s.chip = m.setCore p c)
    (hcores : ∀ q, m.core q = s.chip.core q) (hpost : ∀ u, c.SettlesTo (u.chip.core p) →
      (∀ q, q ≠ p → u.chip.core q = s.chip.core q) → u.chip.hbm = m.hbm → post u) : Completes i s post := by
  refine ⟨_, he.trans (State.actCore_next hp (State.active_core ha) f), hpost _ ?_ (fun q hq => ?_) ?_⟩
  · dsimp only
    rw [Chip.settleCore_core, hf, Chip.core_setCore_self]
    exact Core.SettlesTo.of_settled _ _ _
  · dsimp only
    rw [Chip.core_settleCore_ne _ _ hq, hf, Chip.core_setCore, if_neg hq, hcores]
  · dsimp only
    rw [Chip.settleCore_hbm, hf]
    rfl

/-- The header is written once the elements have left the bytes `b`. -/
theorem wrote_header {s m : Chip} {b : Bytes} (hw : s.Wrote m b) (h d : List Byte) (o : OutItem) (writes : Bool) {a : Nat}
    {hdr : List Byte} (hlen : hdr.length = 64) (hwr : s.wrRefused a 64 = false) (hhi : a + 64 ≤ 0x10000000000) :
    s.Wrote ((m.daccUse h d o writes).memWrTry a hdr) (Bytes.wrN b a hdr) := by
  have huse := hw.trans (m.wrote_daccUse h d o writes)
  rw [hw.hbm] at huse
  have hwrite := Chip.wrote_memWrTry (s := m.daccUse h d o writes) (a := a) (bs := hdr) (by omega) (hlen ▸ huse.wrRefused hwr)
  rw [huse.hbm] at hwrite
  exact huse.trans hwrite

/-- A written header reads back. -/
theorem memRd_header {u : Chip} {b : Bytes} {a : Nat} {hdr : List Byte} (hbm : u.hbm = Bytes.wrN b a hdr) (hlen : hdr.length = 64)
    (hhi : a + 64 ≤ 0x10000000000) : (u.memRd a 64).1 = hdr := by
  have hread : (u.memRd a 64).1 = Bytes.rdN u.hbm a 64 := if_pos (by omega)
  rw [hread, hbm, ← hlen, Bytes.rdN_wrN]

theorem length_memRd (s : Chip) (a n : Nat) : (s.memRd a n).1.length = n := by
  unfold Chip.memRd Chip.bytesAt
  dsimp only
  split
  · exact Bytes.length_rdN _ _ _
  · exact Bytes.length_rdN _ _ _

/-- The turn of an item whose elements leave the bytes `b`: the header is written into them. -/
theorem completes_turn {s : State} {p : Nat} {t : TOp} {h : List Byte} {o : OutItem} {writes poisoned : Bool} {m : Chip} {b : Bytes}
    {post : State → Prop} (hp : p < nCores) (ha : s.awake) (hlen : h.length = 64)
    (hcmd : daccApplyCmd s.chip p t.id = ((m.daccUse h t.desc o writes).memWrTry (dHdr t.desc) (daccHeader h t.desc poisoned)).onCore p
      (·.turned t.id poisoned)) (hw : s.chip.Wrote m b) (hwr : s.chip.wrRefused (dHdr t.desc) 64 = false)
    (hhi : dHdr t.desc + 64 ≤ 0x10000000000)
    (hpost : ∀ u, (u.chip.core p).op? t.id = none → (u.chip.memRd (dHdr t.desc) 64).1 = daccHeader h t.desc poisoned →
      u.chip.hbm = Bytes.wrN b (dHdr t.desc) (daccHeader h t.desc poisoned) → (∀ q, q ≠ p → u.chip.core q = s.chip.core q) →
      post u) : Completes (.daccApply p t.id) s post := by
  have hhdr := length_daccHeader hlen t.desc poisoned
  have hwrote := wrote_header hw h t.desc o writes hhdr hwr hhi
  refine completes_setCore_on (fun m => daccApplyCmd m p t.id) hp ha rfl hcmd (fun q => hwrote.core q) fun u hu hother hhbm => ?_
  rw [hwrote.hbm] at hhbm
  exact hpost u ((hu.keep (·.op? t.id) fun _ _ => rfl).trans (Core.op_turned _ _ _)) (memRd_header hhbm hhdr hhi) hhbm hother

/-! ### The checks of an item -/

theorem Chip.inConfirmed_of_regs {s m : Chip} (h : m.regs = s.regs) (a n : Nat) : m.inConfirmed a n = s.inConfirmed a n := by
  unfold Chip.inConfirmed Chip.regionOf Chip.reg
  rw [h]

theorem Chip.logOf_of_regs {s m : Chip} (h : m.regs = s.regs) (p : Nat) : m.logOf p = s.logOf p := by
  unfold Chip.logOf Chip.physOf Chip.reg
  rw [h]

theorem Chip.regs_hbmUse (s : Chip) (a n : Nat) : (s.hbmUse a n).regs = s.regs :=
  Chip.hbmUse_keep Chip.regs (fun _ _ => rfl) (fun _ _ => rfl) s a n

theorem Chip.core_hbmUse (s : Chip) (a n q : Nat) : (s.hbmUse a n).core q = s.core q :=
  Chip.hbmUse_keep (·.core q) (fun _ _ => rfl) (fun _ _ => rfl) s a n

/-- DACC with a confirmed item, of the drawer's owner and claimed in this step, with no cause of refusal. -/
theorem daccCmd_passes {s : Chip} {p : Nat} {t : TOp} {h : List Byte} {o : OutItem} {hb : Bool}
    (hop : (s.core p).op? t.id = some t) (hh : h = (s.memRd (dHdr t.desc) 64).1) (hstart : s.opStarts p t = true)
    (hcode : dOp t.desc = opDACC) (hpeek : (s.core p).peek (dQA t.desc) = (o, hb)) (hinv : tagInv o.tag = false)
    (hhdr : s.inConfirmed (dHdr t.desc) 64 = true)
    (harray : s.inConfirmed (hdBase h) (max 1 (4 * hdRows h * hdCols h)) = true)
    (howner : s.logOf p = some (hdOwner h % 256, hdOwner h / 256)) (hclaim : hdClaimStep h = (s.core p).step)
    (hcause : daccCause h (s.core p).step (dWUse t.desc) (dSeqNo t.desc) = 0) :
    ∃ (m : Chip) (c : Core), daccCmd s p t.id =
      m.setCore p (c.setOp { t with phase := .checked (daccItemBad o hb t.desc h), input := [o] }) ∧
      opKey c = opKey (s.core p) ∧ ∀ q, m.core q = s.core q := by
  have hregs := s.regs_hbmUse (dHdr t.desc) 64
  have hnotnew : ¬ (dSeqNo t.desc = 0 ∧ hdClaimStep h ≠ (s.core p).step) := fun hnew => hnew.2 hclaim
  have hme : hdOwner h % 256 + 256 * (hdOwner h / 256) = hdOwner h := Nat.mod_add_div _ _
  unfold daccCmd
  simp only [hop, hcode, hstart, hpeek, hinv, ← hh, Chip.inConfirmed_of_regs hregs, Chip.logOf_of_regs hregs, hhdr, harray, howner, hme,
    hnotnew, hcause, ne_eq, not_true_eq_false, if_false, Bool.not_true, Bool.false_eq_true, Bool.or_self]
  refine ⟨_, _, rfl, ?_, fun q => ?_⟩
  · rw [opKey_ifRaise, opKey_pop, opKey_late]
  · split
    · rw [memWrTry_core, memWrTry_core, Chip.core_hbmUse, Chip.core_hbmUse]
    · rw [memWrTry_core, Chip.core_hbmUse, Chip.core_hbmUse]

theorem op_of_opKey {c d : Core} (h : opKey d = opKey c) (id : Nat) : d.op? id = c.op? id :=
  congrArg (fun k => k.1.find? fun x : TOp => x.id == id) h

/-! ### The statement -/

/-- Settles O26: the checks pass by `daccCmd_passes`; at its turn an item leaves the bytes of `wrote_daccElems` or `wrote_daccInit`, if
it is applied, and then the header `daccHeader`. -/
theorem drawerChecksAndTurns : Obligations.DrawerChecksAndTurns := by
  intro s p t a h ha hp c d hop haddr hh hprot
  subst haddr
  refine ⟨?checks, ?poisoned, ?applied⟩
  case checks =>
    intro o hb hstart hcode hpeek hinv hhdr harray howner hclaim hcause
    obtain ⟨m, c', hcmd, hkey, hcores⟩ := daccCmd_passes hop hh hstart hcode hpeek hinv hhdr harray howner hclaim hcause
    refine completes_setCore_on (fun m => daccCmd m p t.id) hp ha rfl hcmd hcores fun u hu hother _ => ⟨?_, ?_, hother⟩
    · have hfound : c'.op? t.id = some t := (op_of_opKey hkey t.id).trans hop
      have hset := op_setOp c' { t with phase := .checked (daccItemBad o hb d h), input := [o] } t hfound t.id
      exact (hu.keep (·.op? t.id) fun _ _ => rfl).trans (hset.trans (if_pos rfl))
    · exact hu.store.trans (congrArg (·.2.1) hkey)
  case poisoned =>
    intro bad o hphase hin hpois hmask hnext hdrawer hwr hhi
    have hpoisoned : true = (bad || decide (o.poison ≠ 0)) := by simpa using hpois
    have hlen : h.length = 64 := hh ▸ length_memRd _ _ _
    have hcmd := daccApplyCmd_eq hop hh hprot hphase hin hmask hnext hdrawer hpoisoned (m := s.chip) (if_pos rfl)
    refine completes_turn hp ha hlen hcmd (Chip.Wrote.refl s.chip) hwr hhi fun u hgone hhdr hhbm hother =>
      ⟨hgone, ?_, ?_, fun x hx => ?_, hother⟩
    · rw [hhdr, hdNext_daccHeader hlen]
    · rw [hhdr, hdFlags_poisoned hlen]
    · rw [hhbm, Bytes.rd_wrN_outside _ _ _ _ (by rw [length_daccHeader hlen]; exact hx)]
  case applied =>
    intro o hphase hin hpois hgood hmask hnext hdrawer hwr hhi hend hapart hread
    have hfits := daccFits_of_good hgood
    have hlen : h.length = 64 := hh ▸ length_memRd _ _ _
    obtain ⟨m, hm, hw⟩ := wrote_daccElements hfits hmask hend (Chip.memRd_lost.1 hread)
    have hcmd := daccApplyCmd_eq hop hh hprot hphase hin (Or.inr hmask) hnext hdrawer (poisoned := false) (m := m)
      (by simp [hpois]) ((if_neg Bool.false_ne_true).trans hm)
    refine completes_turn hp ha hlen hcmd hw hwr hhi fun u hgone hhdr hhbm hother => ⟨hgone, ?_, fun k hk => ?_, hother⟩
    · rw [hhdr, hdNext_daccHeader hlen]
    · obtain ⟨hlo, hlast⟩ := daccElemAddr_mem hfits hk
      have hclear : daccElemAddr h d k + 4 ≤ dHdr d ∨ dHdr d + 64 ≤ daccElemAddr h d k := hapart.imp hlast.trans (·.trans hlo)
      have hout : Bytes.rdLe u.chip.hbm (daccElemAddr h d k) 4 = Bytes.rdLe (daccWrites h d o o.nelem s.chip.hbm) (daccElemAddr h d k) 4 := by
        rw [hhbm, Bytes.rdLe, Bytes.rdN_wrN_outside _ _ _ _ _ (by rw [length_daccHeader hlen]; exact hclear)]
        rfl
      have hvalue := hout.trans (rdLe_daccWrites hfits s.chip.hbm hk)
      exact (congrArg (· % 2 ^ 32) hvalue).trans (Nat.mod_mod _ _)

end Sys2Proof.Machine
end

section
/-!
PROOFS. KSEL and KCHK of the kerf unit (06 R197, R198, R201, R202, R204; 07 R250).

Each of the three commands has one equation for the core that it leaves: `kselStart_eq` records a selection, `kchkStart_eq` lets the
KCHK at the head run on what it has latched, and `kchkDone_eq` with `tileVerdict_eq_of_first` counts a tile and opens its attempt.
What they leave survives the count of a late start and settling (`keep_started`, `reg_started`): the lemmas `kselStart_leaves`,
`kchkStart_leaves` and `kchkDone_leaves` say it of the core after the command.
-/
namespace Sys2Proof.Machine

/-! ### Starts of the kerf unit -/

/-- An instruction that names no loop makes one issue (07 R227). -/
theorem unitNext_of_no_loop (c : Core) (b now : Nat) : ∃ l, unitNext c b 0 now none = some (l, false) ∧ l.more = false :=
  ⟨_, rfl, rfl⟩

/-- The head of the queue leaves it with its last issue. -/
theorem kuNext_of_last {l : UnitLoop} (h : l.more = false) (c : Core) (k : KuInstr) (bad : Bool) :
    kuNext c k l bad = { c with ku := c.ku.drop 1 } := by
  simp [kuNext, h]

/-- An issue changes the queue of the kerf unit alone. -/
theorem kuNext_keep {γ : Type} (g : Core → γ) (hg : ∀ (c : Core) x, g { c with ku := x } = g c) (c : Core) (k : KuInstr)
    (l : UnitLoop) (bad : Bool) : g (kuNext c k l bad) = g c := hg c _

/-- The count of a late start is kept in two registers (09 R325). -/
theorem Core.reg_late (c : Core) (due : Option Nat) (t : Nat) {a : Nat} (hcnt : a ≠ rTL_LATE_CNT) (hmax : a ≠ rTL_LATE_MAX) :
    (c.late due t).reg a = c.reg a := by
  unfold Core.late
  split
  · split
    · rw [Core.reg_setField_ne _ hmax, Core.bump, Core.reg_setReg, if_neg hcnt]
    · rfl
  · rfl

/-- Beside a start, a late one may be counted. -/
theorem kuLate_eq (c d : Core) (t : Nat) : kuLate c d t = d ∨ ∃ due, kuLate c d t = d.late due t := by
  unfold kuLate
  split
  · split
    · exact .inr ⟨_, rfl⟩
    · exact .inl rfl
  · exact .inl rfl

/-- A start of the kerf unit from `b` to `c`, counted as late where it is, and settled. -/
theorem Core.SettlesTo.keep_started {b c d : Core} {t : Nat} (h : (kuLate b c t).SettlesTo d) {γ : Type} (g : Core → γ)
    (hg : ∀ c d : Core,
      g { c with regs := d.regs, progAt := d.progAt, fwdElig := d.fwdElig, prefAt := d.prefAt, vrNew := [] } = g c) :
    g d = g c := by
  refine (h.keep g hg).trans ?_
  obtain hlate | ⟨due, hlate⟩ := kuLate_eq b c t <;> rw [hlate]
  exact late_keep g (fun c a v => (hg (c.setReg a v) c).symm.trans (hg c c)) c due t

theorem Core.SettlesTo.reg_started {b c d : Core} {t : Nat} (h : (kuLate b c t).SettlesTo d) {a : Nat} (hpref : a ≠ rDVT_PREF_CNT)
    (hcnt : a ≠ rTL_LATE_CNT) (hmax : a ≠ rTL_LATE_MAX) : d.reg a = c.reg a := by
  refine (h.reg hpref).trans ?_
  obtain hlate | ⟨due, hlate⟩ := kuLate_eq b c t <;> rw [hlate]
  exact Core.reg_late c due t hcnt hmax

theorem Core.reg_bump_self (c : Core) (a n : Nat) : (c.bump a n).reg a = (c.reg a + n) % 2 ^ 64 := Core.reg_setReg_self _ _ _

theorem Core.reg_bump_ne (c : Core) {a b : Nat} (hb : b ≠ a) (n : Nat) : (c.bump a n).reg b = c.reg b :=
  (Core.reg_setReg _ _ _ _).trans (if_neg hb)

/-! ### KSEL (R197, R198) -/

/-- What a commit of an item leaves alone: it changes the queue ends, the store, and what a write of the store and an event
change. -/
theorem Core.commitItem_keep {γ : Type} (g : Core → γ) (hg : ∀ c d : Core,
      g { c with q := d.q, store := d.store, seq := d.seq, upset := d.upset, ev := d.ev, raised := d.raised } = g c)
    (c : Core) (o : OutItem) : g (c.commitItem o) = g c := by
  have hend : ∀ (c : Core) n x, g (c.setQend n x) = g c := fun c n x => hg c (c.setQend n x)
  have hwrite : ∀ (c : Core) a bs, g (c.unitWr a bs) = g c := fun c a bs => hg c (c.unitWr a bs)
  unfold Core.commitItem
  extract_lets over_ o' d e x
  refine (hend _ _ _).trans ((hwrite _ _ _).trans ?_)
  unfold d
  split
  · exact hg c (c.raise evFormat 0)
  · rfl

/-- The selection that the first KSEL for a chain and layer draws. -/
def Core.drawn (c : Core) (w : BitVec 128) : Sel :=
  { chain := kChain w, layer := kLayer w, ctr := BitVec.ofNat 64 (c.reg (rRS_CTR 2)),
    windows := kerfWindows (ltRate c (kLayer w)) (kTiles w), tiles := kTiles w }

/-- A core with one more selection in its table, stream RS2 past the windows that it drew. -/
def Core.recorded (c : Core) (s : Sel) : Core := ({ c with sel := c.sel ++ [s] } : Core).bump (rRS_CTR 2) s.windows

/-- The KSEL at the head starts, and its selection is the first of its chain and layer. -/
structure KselStarts (c : Core) (tick : Nat) (k : KuInstr) : Prop where
  opcode : vu k.word 0 8 = 0x60
  noLoop : vu k.word 8 4 = 0
  fresh : k.loop = none
  due : armMet k.arm tick = true
  queues : c.queuesReady k.seq [] [kQD k.word] = true
  stream : c.rsHeldBefore k.seq 2 = false
  first : c.selOf (kChain k.word) (kLayer k.word) = none
  tiles : kTiles k.word ≠ 0
  room : c.sel.length < 4096

/-- The selection table, and what a KSEL does not touch. -/
def kselKey (c : Core) : List Sel × List TOp × List VuInstr × List KerfRec × List Attempt :=
  (c.sel, c.ops, c.vuQ, c.kerf, c.attempts)

/-- A KSEL that starts reserves the slot of its item, records its selection, commits the item, and makes its last issue. -/
theorem kselStart_eq {c : Core} {tick : Nat} {k : KuInstr} {rest : List KuInstr} (hku : c.ku = k :: rest) (h : KselStarts c tick k)
    (now : Nat) : ∃ o l, l.more = false ∧ kselStart c tick now =
      kuNext (((c.reserve (kQD k.word) k.seq).1.recorded (c.drawn k.word)).commitItem o) k l false := by
  obtain ⟨l, hnext, hlast⟩ := unitNext_of_no_loop c 0x40000 now
  have hready : kselReady c now k = true := by
    simp [kselReady, h.fresh, h.noLoop, h.queues, h.stream, unitDue]
  have hsel : (c.reserve (kQD k.word) k.seq).1.selOf (kChain k.word) (kLayer k.word) = none := h.first
  have hroom : ¬ (c.reserve (kQD k.word) k.seq).1.sel.length ≥ 4096 := Nat.not_le.2 h.room
  unfold kselStart
  rw [hku]
  dsimp only
  rw [h.due, hready, h.noLoop, h.fresh, hnext]
  dsimp only
  rw [hsel, decide_eq_true h.opcode]
  dsimp only
  rw [if_neg (by decide), if_neg (by decide), if_neg h.tiles, if_neg hroom]
  exact ⟨_, l, hlast, rfl⟩

/-- What core p holds once a KSEL has recorded its selection and the command has settled. -/
theorem kselStart_leaves {c d : Core} {tick now t : Nat} {k : KuInstr} {rest : List KuInstr} (hku : c.ku = k :: rest)
    (h : KselStarts c tick k) (hd : (kuLate c (kselStart c tick now) t).SettlesTo d) : d.sel = c.sel ++ [c.drawn k.word] ∧
      d.ku = rest ∧ d.reg (rRS_CTR 2) = (c.reg (rRS_CTR 2) + (c.drawn k.word).windows) % 2 ^ 64 ∧ d.ops = c.ops ∧
      d.vuQ = c.vuQ ∧ d.kerf = c.kerf ∧ d.attempts = c.attempts := by
  obtain ⟨o, l, hlast, heq⟩ := kselStart_eq hku h now
  have hkeep : ∀ {γ : Type} (g : Core → γ), (∀ (c : Core) x, g { c with ku := x } = g c) → (∀ c d : Core,
      g { c with q := d.q, store := d.store, seq := d.seq, upset := d.upset, ev := d.ev, raised := d.raised } = g c) →
      g (kselStart c tick now) = g ((c.reserve (kQD k.word) k.seq).1.recorded (c.drawn k.word)) := fun g hk hg =>
    (congrArg g heq).trans ((kuNext_keep g hk _ _ _ _).trans (Core.commitItem_keep g hg _ _))
  have hkey := (hd.keep_started kselKey fun _ _ => rfl).trans (hkeep kselKey (fun _ _ => rfl) fun _ _ => rfl)
  obtain ⟨hsel, hops, hvuQ, hkerf, hattempts⟩ : _ ∧ _ ∧ _ ∧ _ ∧ _ := by simpa only [kselKey, Prod.mk.injEq] using hkey
  refine ⟨hsel, (hd.keep_started Core.ku fun _ _ => rfl).trans ?_,
    (hd.reg_started (by decide) (by decide) (by decide)).trans ?_, hops, hvuQ, hkerf, hattempts⟩
  · rw [heq, kuNext_of_last hlast, Core.commitItem_keep Core.ku fun _ _ => rfl]
    exact congrArg (List.drop 1) hku
  · exact (hkeep (·.reg (rRS_CTR 2)) (fun _ _ => rfl) fun _ _ => rfl).trans (Core.reg_bump_self _ _ _)

/-! ### KCHK starts (R201, R250) -/

/-- The address of column `j` of the weights that a KCHK with descriptor `d` reads for tile `t`, from row K0 on (07 R249). -/
def kchkCol (d : List Byte) (t j : Nat) : Nat := kdWbase d + (32 * (t % kdCgrp d) + j) * kdStride d + 4 * kdK0 d

/-- The columns follow the first one of the tile's group. -/
theorem kchkCol_of_first (d : List Byte) (t j : Nat) :
    kdWbase d + 32 * (t % kdCgrp d) * kdStride d + j * kdStride d + 4 * kdK0 d = kchkCol d t j := by
  unfold kchkCol
  ring

/-- The weights that a KCHK latches, and whether they are poisoned: those of a capture, or those that `rd` reads. -/
def kchkWeights (d : List Byte) (t : Nat) (rd : Nat → Nat → List Byte × Bool) (b : Option KerfRec) : List Nat × Bool :=
  match b with
  | some b => (b.rows (kdK0 d) (kdKN d), decide (b.poison ≠ 0))
  | none => ((List.range 32).flatMap fun j => (List.range (kdKN d)).map fun m => listLe (rd (kchkCol d t j) (4 * kdKN d)).1 (4 * m) 4,
      (List.range 32).any fun j => (rd (kchkCol d t j) (4 * kdKN d)).2)

/-- The KCHK `k` as it runs, on the tile `o`, the rows of `a` and the weights `w`. -/
def KuInstr.running (k : KuInstr) (c : Core) (l : UnitLoop) (o a : KerfRec) (w : List Nat × Bool) : KuInstr :=
  let d := c.kchkDesc k.word
  { k with run := true, loop := some l, a := a.rows (kdK0 d) (kdKN d), b := w.1, x := o.data, kn := kdKN d
           poisoned := w.2 || decide (o.poison ≠ 0) || decide (a.poison ≠ 0) || c.upsetIn (0x400000 + kDesc k.word) 32 }

/-- The KCHK at the head starts on its captures, and checks its tile. -/
structure KchkStarts (c : Core) (tick : Nat) (inConf : Nat → Nat → Bool) (k : KuInstr) (o a : KerfRec)
    (b : Option KerfRec) : Prop where
  opcode : vu k.word 0 8 = 0x61
  noLoop : vu k.word 8 4 = 0
  idle : k.run = false
  fresh : k.loop = none
  due : armMet k.arm tick = true
  live : c.deadAttempt (kChain k.word) (kLayer k.word) k.epoch = false
  takes : kchkTakes c k.word = true
  captures : c.kchkCaps k.word = some (o, a, b)
  whole : o.bad = false
  tileValid : tagInv o.tag = false
  rowsValid : tagInv a.tag = false
  rowsCover : a.covers (kdK0 (c.kchkDesc k.word)) (kdKN (c.kchkDesc k.word)) = true
  captured : ∀ x, b = some x →
    tagInv x.tag = false ∧ x.covers (kdK0 (c.kchkDesc k.word)) (kdKN (c.kchkDesc k.word)) = true
  confirmed : b = none → inConf (kchkCol (c.kchkDesc k.word) (kTile k.word) 0)
    (31 * kdStride (c.kchkDesc k.word) + 4 * kdKN (c.kchkDesc k.word)) = true

/-- A KCHK that starts reads its descriptor, and runs at the head of the queue. -/
theorem kchkStart_eq {c : Core} {tick : Nat} {inConf : Nat → Nat → Bool} {k : KuInstr} {rest : List KuInstr} {o a : KerfRec}
    {b : Option KerfRec} (hku : c.ku = k :: rest) (h : KchkStarts c tick inConf k o a b) (now : Nat)
    (rd : Nat → Nat → List Byte × Bool) : ∃ l, kchkStart c tick now inConf rd =
      { c.unitRd (kDesc k.word) 32 with
        ku := k.running c l o a (kchkWeights (c.kchkDesc k.word) (kTile k.word) rd b) :: rest } := by
  obtain ⟨l, hnext, -⟩ := unitNext_of_no_loop c 0x40000 now
  have hready : kchkReady c now k = true := by
    simp [kchkReady, h.idle, h.fresh, h.noLoop, hnext, h.captures, unitDue]
  refine ⟨l, ?_⟩
  unfold kchkStart
  rw [hku]
  dsimp only
  rw [h.due, hready, h.noLoop, h.fresh, hnext, decide_eq_true h.opcode, h.takes, h.live, h.captures]
  dsimp only
  rw [if_neg (by decide), if_neg (by decide), if_neg (by decide), if_neg (by decide), h.tileValid, h.rowsValid, h.rowsCover,
    h.whole]
  cases b with
  | some b =>
    obtain ⟨hvalid, hcover⟩ := h.captured b rfl
    simp only [hvalid, hcover]
    rw [if_neg (by decide), if_neg (by decide)]
    rfl
  | none =>
    simp only [kchkCol_of_first, List.flatMap_map, List.any_map, h.confirmed rfl]
    rw [if_neg (by decide), if_neg (by decide)]
    rfl

/-- What core p holds once a KCHK has started and the command has settled. -/
theorem kchkStart_leaves {c d : Core} {tick now t : Nat} {inConf : Nat → Nat → Bool} {rd : Nat → Nat → List Byte × Bool}
    {k : KuInstr} {rest : List KuInstr} {o a : KerfRec} {b : Option KerfRec} (hku : c.ku = k :: rest)
    (h : KchkStarts c tick inConf k o a b)
    (hd : (kuLate c (kchkStart c tick now inConf rd) t).SettlesTo d) : d.store = c.store ∧ d.kerf = c.kerf ∧
      ∃ l, d.ku = k.running c l o a (kchkWeights (c.kchkDesc k.word) (kTile k.word) rd b) :: rest := by
  obtain ⟨l, hstart⟩ := kchkStart_eq hku h now rd
  have hread := opKey_unitRd c (kDesc k.word) 32
  rw [hstart] at hd
  exact ⟨(hd.keep_started Core.store fun _ _ => rfl).trans (congrArg (·.2.1) hread),
    (hd.keep_started Core.kerf fun _ _ => rfl).trans (congrArg (·.2.2.2.2.2) hread), l, hd.keep_started Core.ku fun _ _ => rfl⟩

theorem KuInstr.poisoned_running_capture (k : KuInstr) (c : Core) (l : UnitLoop) (o a x : KerfRec) (d : List Byte) (t : Nat)
    (rd : Nat → Nat → List Byte × Bool) : (k.running c l o a (kchkWeights d t rd (some x))).poisoned = true ↔
      o.poison ≠ 0 ∨ a.poison ≠ 0 ∨ x.poison ≠ 0 ∨ c.upsetIn (0x400000 + kDesc k.word) 32 = true := by
  simp only [KuInstr.running, kchkWeights, Bool.or_eq_true, decide_eq_true_eq]
  tauto

/-- What the count of a starting KCHK's memory reads leaves alone. -/
theorem Chip.kchkUse_keep {γ : Type} (g : Chip → γ) (hen : ∀ (s : Chip) x, g { s with en := x } = g s)
    (hsr : ∀ (s : Chip) x, g { s with selfRef := x } = g s) (s : Chip) (p : Nat) : g (s.kchkUse p) = g s := by
  unfold Chip.kchkUse
  split
  · split
    · rfl
    · dsimp only
      split
      · rfl
      · exact foldl_keep g _ (fun s j => Chip.hbmUse_keep g hen hsr s _ _) _ s
  · rfl

theorem Chip.core_kchkUse (s : Chip) (p q : Nat) : (s.kchkUse p).core q = s.core q :=
  Chip.kchkUse_keep (·.core q) (fun _ _ => rfl) (fun _ _ => rfl) s p

theorem Chip.hbm_kchkUse (s : Chip) (p : Nat) : (s.kchkUse p).hbm = s.hbm :=
  Chip.kchkUse_keep Chip.hbm (fun _ _ => rfl) (fun _ _ => rfl) s p

/-! ### KCHK is done (R202, R204) -/

/-- The attempt of (chain, layer, epoch) with the verdict of its first tile. -/
def Attempt.opened (ch l e tile : Nat) (v : Verdict) (ratio : Nat) (sent : Bool) : Attempt :=
  { chain := ch, layer := l, tag := mkTag l ch e false, worst := worseVerdict .pass v, ratio := max 0 ratio
    tiles := [tile], sent := sent }

/-- The core verdict of an attempt with one tile. -/
def Attempt.verdictOfOne (a : Attempt) : CoreVerdict :=
  { tag := a.tag, verdict := a.worst, ratio := BitVec.ofNat 32 a.ratio, tiles := 1 }

/-- The first tile verdict of a live attempt opens it; a reject sends the core's verdict home, and so may the last selected tile. -/
theorem tileVerdict_eq_of_first {c : Core} {ch l e : Nat} (hlive : c.deadAttempt ch l e = false)
    (hchecked : c.unchk.contains (ch, l) = false) (hfirst : (c.attempts.find? fun a => decide (a.tag = mkTag l ch e false)) = none)
    (tile : Nat) (v : Verdict) (ratio : Nat) : ∃ sent sys, (v = .reject → sent = true) ∧
      (sent = true → ∃ dst, sys = c.sys ++ [(dst, .coreVerdict (Attempt.opened ch l e tile v ratio sent).verdictOfOne)]) ∧
      tileVerdict c ch l e tile v ratio = { c.bump rKRF_TILE_CNT 1 with
        attempts := Attempt.opened ch l e tile v ratio sent :: c.attempts.filter fun b => b.tag ≠ mkTag l ch e false
        sys := sys } := by
  unfold tileVerdict
  extract_lets d tag a a' full go d'
  have hopen : (d.deadAttempt ch l e || d.unchk.contains (ch, l)) = false := Bool.or_eq_false_iff.2 ⟨hlive, hchecked⟩
  have ha : a = { chain := ch, layer := l, tag := tag } := congrArg (Option.getD · _) hfirst
  have ha' : a' = Attempt.opened ch l e tile v ratio false := by
    unfold a'
    rw [ha]
    rfl
  have hd' : d' = { d with attempts := Attempt.opened ch l e tile v ratio go :: c.attempts.filter fun b => b.tag ≠ tag } := by
    unfold d'
    rw [ha']
    rfl
  have hreject : v = .reject → go = true := fun hv => by simp [go, hv]
  rw [hopen, ha, ha', hd', if_neg Bool.false_ne_true, if_neg Bool.false_ne_true]
  split
  case isTrue => exact ⟨go, _, hreject, fun _ => ⟨_, rfl⟩, rfl⟩
  case isFalse hgo => exact ⟨go, c.sys, hreject, fun h => absurd h hgo, rfl⟩

/-- The tile verdict of a KCHK that has run (R202). -/
def KuInstr.tileResult (k : KuInstr) (c : Core) : Verdict × Nat :=
  if k.poisoned then (.reject, fp32Inf)
  else kerfMetric k.x (kerfRefs k.a k.b k.kn) (c.reg (rLT_TWARN (kLayer k.word))) (c.reg (rLT_TREJ (kLayer k.word)))
    (c.reg (rLT_FLOOR (kLayer k.word)))

/-- The attempt that a KCHK opens on core `c` with the verdict of its tile. -/
def KuInstr.opensAttempt (k : KuInstr) (c : Core) (sent : Bool) : Attempt :=
  Attempt.opened (kChain k.word) (kLayer k.word) k.epoch (kTile k.word) (k.tileResult c).1 (k.tileResult c).2 sent

/-- A KCHK that has run counts its multiply-adds and gives its tile's verdict; the kerf queue and the kerf buffer follow. -/
theorem kchkDone_eq {c : Core} {k : KuInstr} {rest : List KuInstr} (hku : c.ku = k :: rest) (hrun : k.run = true) : ∃ ku kerf,
    kchkDone c = { tileVerdict ((c.bump rKRF_MAC_CNT (1024 * k.kn)).count mKu (1024 * k.kn)) (kChain k.word) (kLayer k.word) k.epoch
      (kTile k.word) (k.tileResult c).1 (k.tileResult c).2 with ku := ku, kerf := kerf } := by
  unfold kchkDone
  rw [hku]
  dsimp only
  rw [hrun, if_neg (by decide)]
  exact ⟨_, _, rfl⟩

/-- What core p holds once the KCHK that has run on the first tile of a live attempt is done and the command has settled. -/
theorem kchkDone_leaves {c d : Core} {k : KuInstr} {rest : List KuInstr} (hku : c.ku = k :: rest) (hrun : k.run = true)
    (hlive : c.deadAttempt (kChain k.word) (kLayer k.word) k.epoch = false)
    (hchecked : c.unchk.contains (kChain k.word, kLayer k.word) = false)
    (hfirst : (c.attempts.find? fun a => decide (a.tag = mkTag (kLayer k.word) (kChain k.word) k.epoch false)) = none)
    (hd : (kchkDone c).SettlesTo d) : d.reg rKRF_MAC_CNT = (c.reg rKRF_MAC_CNT + 1024 * k.kn) % 2 ^ 64 ∧
      d.reg rKRF_TILE_CNT = (c.reg rKRF_TILE_CNT + 1) % 2 ^ 64 ∧
      (∃ sent, k.opensAttempt c sent ∈ d.attempts ∧ ((k.tileResult c).1 = .reject → sent = true) ∧
        (sent = true → ∃ dst, d.sys = c.sys ++ [(dst, .coreVerdict (k.opensAttempt c sent).verdictOfOne)])) ∧
      d.store = c.store ∧ d.ops = c.ops ∧ d.seq = c.seq := by
  obtain ⟨ku, kerf, hdone⟩ := kchkDone_eq hku hrun
  obtain ⟨sent, sys, hreject, hsent, htile⟩ := tileVerdict_eq_of_first
    (c := (c.bump rKRF_MAC_CNT (1024 * k.kn)).count mKu (1024 * k.kn)) hlive hchecked hfirst (kTile k.word)
    (k.tileResult c).1 (k.tileResult c).2
  rw [hdone, htile] at hd
  have hreg : ∀ a, a ≠ rDVT_PREF_CNT → d.reg a = ((c.bump rKRF_MAC_CNT (1024 * k.kn)).bump rKRF_TILE_CNT 1).reg a :=
    fun a => hd.reg
  have hattempts := hd.keep Core.attempts fun _ _ => rfl
  have hsys := hd.keep Core.sys fun _ _ => rfl
  refine ⟨?_, ?_, ⟨sent, hattempts ▸ List.mem_cons_self, hreject, fun h => ?_⟩, hd.store, hd.keep Core.ops fun _ _ => rfl,
    hd.keep Core.seq fun _ _ => rfl⟩
  · rw [hreg _ (by decide), Core.reg_bump_ne _ (by decide), Core.reg_bump_self]
  · rw [hreg _ (by decide), Core.reg_bump_self, Core.reg_bump_ne _ (by decide)]
  · rw [hsys]
    exact hsent h

/-! ### The statement -/

/-- Settles O37: a KSEL leaves what `kselStart_leaves` says, a KCHK that starts what `kchkStart_leaves` says, and one that is done what
`kchkDone_leaves` says. -/
theorem selectionAndCheck : Obligations.SelectionAndCheck := by
  refine ⟨?ksel, ?checks⟩
  case ksel =>
    intro s p k rest ha hp c ch l sel hku hop hloop hfresh hdue hqueues hstream hfirst htiles hroom
    refine completes_setCore (fun m => kselCmd m p) hp ha rfl rfl fun u hu hd => ⟨hu, ?_⟩
    exact kselStart_leaves hku ⟨hop, hloop, hfresh, hdue, hqueues, hstream, hfirst, htiles, hroom⟩ hd
  case checks =>
    intro s p k rest ha hp c ch l d hku
    refine ⟨?starts, ?done⟩
    case starts =>
      intro o a b hop hidle hfresh hloop hdue hlive htakes hcaps hwhole htile hrows hcover col hweights
      have hstarts : KchkStarts c (s.chip.localTick p) s.chip.inConfirmed k o a b :=
        ⟨hop, hloop, hidle, hfresh, hdue, hlive, htakes, hcaps, hwhole, htile, hrows, hcover,
          fun x hx => by subst hx; exact hweights, fun hx => by subst hx; exact hweights⟩
      refine completes_setCore_on (fun m => kchkCmd m p) hp ha rfl rfl (s.chip.core_kchkUse p) fun u hd hother hhbm =>
        ⟨hhbm.trans (s.chip.hbm_kchkUse p), hother, ?_⟩
      obtain ⟨hstore, hkerf, n, hku'⟩ := kchkStart_leaves hku hstarts hd
      refine ⟨hstore, hkerf, _, hku', rfl, rfl, rfl, rfl, fun x hx => ?_, fun hx => ?_⟩
      · subst hx
        exact ⟨rfl, KuInstr.poisoned_running_capture ..⟩
      · subst hx
        rfl
    case done =>
      intro hrun hlive hchecked hfirst v
      refine completes_coreOnly kchkDone hp ha rfl fun u hu hd => ⟨hu, ?_⟩
      obtain ⟨hmac, htiles, ⟨sent, hmem, hreject, hsent⟩, hkept⟩ := kchkDone_leaves hku hrun hlive hchecked hfirst hd
      exact ⟨hmac, htiles, ⟨k.opensAttempt c sent, hmem, rfl, rfl, rfl, rfl, hreject, hsent⟩, hkept⟩

end Sys2Proof.Machine
end

section
/-!
PROOFS. Records and counters that a register write clears (03 R104; 05 R185; 07 R252, R253; 09 R325).

A core is cleared register by register (`Core.clearIf`); each of the six record writes, and CLAMP_CLR, has one equation for what its
write of the control window does.
-/
namespace Sys2Proof.Machine

/-- A core whose register `a` is cleared if `b` holds. -/
def Core.clearIf (c : Core) (b : Bool) (a : Nat) : Core := if b then c.setReg a 0 else c

theorem Core.reg_clearIf (c : Core) (b : Bool) (a x : Nat) :
    (c.clearIf b a).reg x = if x = a ∧ b = true then 0 else c.reg x := by
  cases b with
  | false => simp [Core.clearIf]
  | true => simp [Core.clearIf, Core.reg_setReg]

/-! ### The register writes -/

/-- FE_HZD_STAT or BE_HZD_STAT. -/
abbrev rHzdStat (be : Bool) : Nat := if be then rBE_HZD_STAT else rFE_HZD_STAT

/-- FE_ERR_STAT or BE_ERR_STAT. -/
abbrev rErrStat (be : Bool) : Nat := if be then rBE_ERR_STAT else rFE_ERR_STAT

section
variable (s : Chip) {who : Agent} {p : Nat} (v : Nat) (hr : reaches who p = true)
include hr

theorem Chip.coreWrite_hzdStat (be : Bool) : s.coreWrite who p (rHzdStat be) v = s.onCore p fun c => c.hzdClear be v := by
  cases be <;> (unfold Chip.coreWrite; rw [hr]; rfl)

theorem Chip.coreWrite_errStat (be : Bool) :
    s.coreWrite who p (rErrStat be) v = s.onCore p fun c => c.recClear (rErrStat be) v := by
  cases be <;> (unfold Chip.coreWrite; rw [hr]; rfl)

theorem Chip.coreWrite_drwErr : s.coreWrite who p rBE_DRW_ERR v = s.onCore p fun c => c.recClear rBE_DRW_ERR v := by
  unfold Chip.coreWrite; rw [hr]; rfl

theorem Chip.coreWrite_lateMax : s.coreWrite who p rTL_LATE_MAX v = s.onCore p fun c => c.lateClear v := by
  unfold Chip.coreWrite; rw [hr]; rfl

end

/-- The clamp counters that a write of CLAMP_CLR clears: underflow, saturation, overflow of integers. -/
def Core.clampCleared (c : Core) (v : Nat) : Core :=
  ((c.clearIf (bitOf v 0) rCLAMP_UF).clearIf (bitOf v 1) rCLAMP_SAT).clearIf (bitOf v 2) rCLAMP_IOVF

theorem Chip.coreWrite_clampClr (s : Chip) {who : Agent} {p : Nat} (v : Nat) (hw : isSteward who = true) :
    s.coreWrite who p rCLAMP_CLR v = s.onCore p fun c => c.clampCleared v := by
  have hcmd : s.coreWrite who p rCLAMP_CLR v = clampClrCmd s who p v := by
    unfold Chip.coreWrite; rw [reaches_of_isSteward hw p]; rfl
  rw [hcmd, clampClrCmd, hw]
  rfl

theorem Core.reg_clampCleared (c : Core) (v a : Nat) : (c.clampCleared v).reg a =
    if (a = rCLAMP_UF ∧ bitOf v 0 = true) ∨ (a = rCLAMP_SAT ∧ bitOf v 1 = true) ∨ (a = rCLAMP_IOVF ∧ bitOf v 2 = true) then 0
    else c.reg a := by
  simp only [Core.clampCleared, Core.reg_clearIf]
  split_ifs <;> tauto

/-! ### The statement -/

/-- A write of a window register of core p whose rule is `f`. -/
theorem completes_coreWrite {i : Instr} {s : State} {p a v : Nat} {who : Agent} (f : Core → Core) (hp : p < nCores) (ha : s.awake)
    (hv : v < 2 ^ 64) (hf : s.chip.coreWrite who p a v = s.chip.onCore p f)
    (he : exec i s = s.actCore .core p fun m => m.coreWrite who p a (v % 2 ^ 64)) :
    Completes i s (s.onlyCore p (f (s.chip.core p))) := by
  rw [Nat.mod_eq_of_lt hv] at he
  exact completes_onlyCore hp (State.active_core ha) he (hf ▸ Chip.sameBut_onCore _ _ _)
    (hf ▸ Chip.core_onCore_self _ _ _)

/-- Settles O30: each command is the write of one register, whose rule clears its record, or its counters. -/
theorem recordsClear : Obligations.RecordsClear := by
  intro s p v who ha hp hr hv c
  refine ⟨?records, fun hw => ?clamps⟩
  case records =>
    have hzd (be : Bool) := Chip.coreWrite_hzdStat s.chip v hr be
    have err (be : Bool) := Chip.coreWrite_errStat s.chip v hr be
    simp only [List.forall_mem_cons, List.not_mem_nil, false_implies, implies_true, and_true]
    exact ⟨completes_coreWrite _ hp ha hv (hzd false) rfl, completes_coreWrite _ hp ha hv (hzd true) rfl,
      completes_coreWrite _ hp ha hv (err false) rfl, completes_coreWrite _ hp ha hv (err true) rfl,
      completes_coreWrite _ hp ha hv (Chip.coreWrite_drwErr s.chip v hr) rfl,
      completes_coreWrite _ hp ha hv (Chip.coreWrite_lateMax s.chip v hr) rfl⟩
  case clamps =>
    refine (completes_coreWrite _ hp ha hv (Chip.coreWrite_clampClr s.chip v hw) rfl).imp fun t ht =>
      ⟨State.onlyCore_coreOnly ht, fun a hpref => ?_⟩
    obtain ⟨hq, hs, hcore⟩ := ht
    have hset : (c.clampCleared v).SettlesTo (t.chip.core p) := hcore ▸ Core.SettlesTo.of_settled _ _ _
    exact (hset.reg hpref).trans (Core.reg_clampCleared c v a)

end Sys2Proof.Machine
end

section
/-!
PROOFS. An engine launches the next instruction of its running block (05 R175; 07 R218, R231, R232).

What a launch adds is `engineLaunch_issued`. Here stands the rest: no launch writes a tile register (`t_engineLaunch`, over every kind
of issue), and one that executes nothing leaves the engine as it runs on to the cycle (`engineLaunch_nop`).
-/
namespace Sys2Proof.Machine

/-! ### Launches write no tile register -/

theorem Eng.t_mark (e : Eng) (p : BitVec 2) (d : Nat) : (e.mark p d).t = e.t := by
  unfold Eng.mark
  split
  · rfl
  · split <;> rfl

theorem Eng.t_markAll (e : Eng) (p : BitVec 2) (ds : List Nat) : (e.markAll p ds).t = e.t :=
  foldl_keep Eng.t _ (fun e d => e.t_mark p d) ds e

section
variable (be : Bool)

theorem t_of_key {c d : Core} (h : coreKey c = coreKey d) : (c.eng be).t = (d.eng be).t := congrArg Eng.t (key_eng h be)

theorem t_setEng (c : Core) (e : Eng) : ((c.setEng be e).eng be).t = e.t := congrArg Eng.t (eng_setEng c be e)

theorem key_foldCountPoison (c : Core) (p : BitVec 2) (l : List Issue) :
    coreKey (l.foldl (fun c x => countPoison be p x.dests.length c) c) = coreKey c :=
  foldl_keep coreKey _ (fun c _ => key_countPoison be p _ c) l c

theorem key_ifRaise (c : Core) (b : Prop) [Decidable b] (ev v : Nat) : coreKey (if b then c.raise ev v else c) = coreKey c := by
  split <;> rfl

theorem t_clashMarks (c : Core) (l : List Issue) : ((c.clashMarks be l).eng be).t = (c.eng be).t := by
  unfold Core.clashMarks
  refine (t_of_key be (key_foldCountPoison ..)).trans ((t_setEng ..).trans ?_)
  exact foldl_keep Eng.t _ (fun e x => by exact e.t_markAll poisonH x.dests) l _

theorem t_addIssue (c : Core) (x : Issue) (hz : List Hazard) : ((c.addIssue be x hz).eng be).t = (c.eng be).t := t_setEng ..

/-- A new issue, with its marks on earlier ones. -/
theorem t_issue (c : Core) (e : Eng) (clash : List Issue) (x : Issue) (hz : List Hazard) :
    ((((c.setEng be e).clashMarks be clash).addIssue be x hz).eng be).t = e.t :=
  (t_addIssue ..).trans ((t_clashMarks ..).trans (t_setEng ..))

theorem t_issueLoad (c : Core) (w : BitVec 128) (iofs iter cyc s1 : Nat) (bp : Bool) :
    ((issueLoad c be w iofs iter cyc s1 bp).eng be).t = (c.eng be).t := by
  unfold issueLoad
  extract_lets e flw form pair group bad regs reads occ clash pend h r p shadow bufs hit tr load haz e2 c1 c2 c3 c4 c5
  have hkey : coreKey (countPoison be p 4 c5) = coreKey c2 :=
    (key_countPoison ..).trans ((key_ifRaise ..).trans ((key_ifRaise ..).trans (key_foldCountPoison ..)))
  have hload : e2.t = e.t := (foldl_keep Eng.t load (fun _ _ => rfl) _ _).trans
    (foldl_keep Eng.t _ (fun e x => e.t_markAll poisonH x.dests) hit e)
  exact (t_of_key be hkey).trans ((t_issue ..).trans hload)

theorem t_issueMma (c : Core) (w : BitVec 128) (iofs iter cyc s0 s2 : Nat) (clr swap bp : Bool) :
    ((issueMma c be w iofs iter cyc s0 s2 clr swap bp).eng be).t = (c.eng be).t := by
  unfold issueMma
  extract_lets flw gang quad group e0 e bufIdx bufs b0 t0 g pair regs reads p rdAt dests ori maskOn msel mk cols sc bad bufFrom clash pendT bufHaz rowHaz h r haz srcTile srcTags pz conflict e2 m rows cells c1 c2 c3 c4 np c5
  have hcount : coreKey c5 = coreKey c4 := by unfold c5; split <;> [rfl; exact key_bump _ _ _]
  have hnseq : ∀ (x : Core) n, coreKey { x with nseq := n } = coreKey x := fun _ _ => rfl
  have hkey := (hnseq c5 (c5.nseq + 1)).trans (hcount.trans ((key_ifRaise ..).trans (key_ifRaise ..)))
  have hsidecars : e2.t = e.t := foldl_keep Eng.t _ (fun _ _ => by rfl) _ e
  exact (t_of_key be hkey).trans ((t_issue ..).trans hsidecars)

end

theorem t_issueMask (c : Core) (w : BitVec 128) (iofs iter cyc s1 : Nat) (bp be : Bool) :
    ((issueMask c w iofs iter cyc s1 bp).eng be).t = (c.eng be).t := by
  cases be with
  | false => exact congrArg Eng.t (issueMask_issued c w iofs iter cyc s1 bp).2.1
  | true =>
    unfold issueMask
    extract_lets e m t bad clash h r v p haz c1 c2
    have hkey : coreKey (countPoison true p 1 c2) = coreKey c1 := (key_countPoison ..).trans (key_ifRaise ..)
    exact (t_of_key true hkey).trans ((t_addIssue ..).trans (t_clashMarks ..))

section
variable (c : Core) (be : Bool)

theorem t_launchIssue (w : BitVec 128) (iofs iter cyc : Nat) (st : List Nat) (looped : Bool) (idx : List Nat) (bp : Bool) :
    ((launchIssue c be w iofs iter cyc st looped idx bp).eng be).t = (c.eng be).t := by
  unfold launchIssue
  extract_lets op e flw s
  split_ifs
  case pos => rfl
  case pos => exact (t_of_key be (key_countPoison ..)).trans ((t_setEng ..).trans (e.t_markAll ..))
  case pos => exact t_issueMma ..
  case pos => exact t_issueMask ..
  case neg => exact t_issueLoad ..

variable {c be} in
theorem launchIssue_of_nop {w : BitVec 128} (hnop : wOp w = 0x00 ∨ wOp w = 0x10) {iofs iter cyc : Nat} {st : List Nat} {looped : Bool}
    {idx : List Nat} {bp : Bool} : launchIssue c be w iofs iter cyc st looped idx bp = c := if_pos hnop

/-- An instruction without an encoding error that does not loop is one issue; the last one of its block frees the half. -/
theorem launchInstr_eq (cyc : Nat) (h : QHalf) (w : BitVec 128) (herr : encErr c be (decide (h.next = 0)) h.prevLoff w = 0)
    (hplain : wLnd w = 0) : ∃ hs,
      let d := launchIssue (c.setEng be { c.eng be with halves := hs }) be w (h.desc.code / 16 + h.next) 0 cyc
        ((List.range 4).map (wStream w)) false [] h.poison
      launchInstr c be cyc h w = if decide (h.next + 1 = h.words.length) then d.setEng be (freeHalf (d.eng be) cyc) else d := by
  unfold launchInstr
  dsimp only
  rw [if_neg (not_not_intro herr), if_pos (if_pos hplain)]
  exact ⟨_, rfl⟩

end

/-! ### The instruction that is due -/

/-- The next launch of the engine is instruction `w`, of block `h` with block cycle 0 on `b`, and nothing keeps it from executing. -/
structure LaunchDue (c : Core) (be : Bool) (h : QHalf) (hs : List QHalf) (b : Nat) (w : BitVec 128) : Prop where
  noLoop : (c.eng be).loops = []
  halves : (c.eng be).halves = h :: hs
  base : h.base = some b
  word : h.words[h.next]? = some w
  noError : encErr c be (decide (h.next = 0)) h.prevLoff w = 0
  plain : wLnd w = 0
  room : (c.eng be).exec.length < 4

/-- An instruction without an encoding error is of the engine on which it launches. -/
theorem opIsBe_of_encErr {c : Core} {be first : Bool} {n : Nat} {w : BitVec 128} (h : encErr c be first n w = 0) :
    opIsBe (wOp w) = be := by
  unfold encErr at h
  dsimp only at h
  split at h
  case isTrue => cases h
  split at h
  case isTrue => cases h
  case isFalse hne => simpa using hne

/-- What an instruction could execute on: the issues, the accumulators, the tile registers and the weight buffers of an engine. -/
def Eng.work (e : Eng) : List Issue × Map Acc × Map Tile × Map WBuf := (e.exec, e.a, e.t, e.bufs)

/-- With no issue beyond the first `n`, none is given a block. -/
theorem Eng.work_ownNew {e : Eng} {n : Nat} (h : e.exec.length = n) (blk : Nat) : (e.ownNew n blk).work = e.work := by
  subst h
  simp [Eng.ownNew, Eng.work]

/-- A core whose engine has run on to a cycle, and holds the halves `hs` then. -/
def Core.launching (c : Core) (be : Bool) (tk : Nat → Nat) (cyc : Nat) (hs : List QHalf) : Core :=
  (c.runEng be tk cyc).setEng be { (c.runEng be tk cyc).eng be with halves := hs }

theorem Core.eng_launching (c : Core) (be : Bool) (tk : Nat → Nat) (cyc : Nat) (hs : List QHalf) :
    (c.launching be tk cyc hs).eng be = { (c.eng be).ranTo cyc with halves := hs } := by
  rw [Core.launching, eng_setEng, Core.runEng_eng]
  rfl

section
variable {c : Core} {be : Bool} {h : QHalf} {hs : List QHalf} {b : Nat} {w : BitVec 128} (hdue : LaunchDue c be h hs b w)
  (tk : Nat → Nat) {ok : Nat → Bool} (hok : ok (wOp w) = true)
include hdue hok

/-- A launch leaves of its engine what the one issue leaves, its place in the block and the hazards apart. -/
theorem eng_engineLaunch : ∃ hs' halves lastAt hz, (engineLaunch c be tk ok).eng be =
    { ((launchIssue (c.launching be tk (h.nextAt b) hs') be w (h.desc.code / 16 + h.next) 0 (h.nextAt b)
        ((List.range 4).map (wStream w)) false [] h.poison).eng be).ownNew (c.eng be).exec.length h.blk with
      halves := halves, lastAt := lastAt, hz := hz } := by
  obtain ⟨-, heq⟩ := engineLaunch_eq c be tk ok h hs b w hdue.noLoop hdue.halves hdue.base hdue.word hok
  obtain ⟨hs', hinstr⟩ := launchInstr_eq (c.runEng be tk (h.nextAt b)) be (h.nextAt b) h w
    ((encErr_plain _ c _ _ _ _ hdue.plain).trans hdue.noError) hdue.plain
  refine ⟨hs', ?_⟩
  rw [heq, eng_cyc, key_eng (Core.hazardsTo_keep coreKey (fun _ _ _ => rfl) _ be tk _), eng_setEng, eng_setEng, hinstr]
  dsimp only
  split
  · rw [eng_setEng]
    exact ⟨_, _, _, rfl⟩
  · exact ⟨_, _, _, rfl⟩

/-- A launch writes no tile register. -/
theorem t_engineLaunch : ((engineLaunch c be tk ok).eng be).t = (c.eng be).t := by
  obtain ⟨hs', halves, lastAt, hz, heng⟩ := eng_engineLaunch hdue tk hok
  refine (congrArg Eng.t heng).trans ((t_launchIssue ..).trans ?_)
  rw [Core.eng_launching]
  exact (c.eng be).advance_keep Eng.t (fun _ _ _ => rfl) _

/-- An instruction that executes nothing leaves its engine as it runs on to the cycle. -/
theorem engineLaunch_nop (hnop : wOp w = 0x00 ∨ wOp w = 0x10) :
    ((engineLaunch c be tk ok).eng be).work = ((c.eng be).advance (h.nextAt b)).work := by
  obtain ⟨hs', halves, lastAt, hz, heng⟩ := eng_engineLaunch hdue tk hok
  rw [launchIssue_of_nop hnop, Core.eng_launching] at heng
  exact (congrArg Eng.work heng).trans (Eng.work_ownNew ((c.eng be).advance_length (h.nextAt b)) h.blk)

end

/-! ### The commands -/

/-- A launch command changes core p as the launch does, its blocks and grants apart. -/
theorem launch_completes {i : Instr} {s : State} {p : Nat} {be : Bool} {ok : Nat → Bool} {post : State → Prop} (hp : p < nCores)
    (ha : s.awake) (he : exec i s = s.actCore .core p fun m => launchCmd m p be ok)
    (hpost : ∀ t, coreKey (t.chip.core p) = coreKey (engineLaunch (s.chip.core p) be (s.chip.tickAt p) ok) →
      (∀ q, q ≠ p → t.chip.core q = s.chip.core q) → t.chip.hbm = s.chip.hbm → post t) : Completes i s post := by
  obtain ⟨bl, gr, hself, hother, hhbm⟩ := launchCmd_keep s.chip p be ok _ rfl
  refine ⟨_, he.trans (State.actCore_next hp (State.active_core ha) _), hpost _ ?_ (fun q hq => ?_) ?_⟩
  · refine (settle_eng _ _ p).trans ?_
    rw [hself]
    rfl
  · exact (settle_other _ _ p q hq).trans (hother q hq)
  · exact (settle_hbm _ _ p).trans hhbm

section
variable {i : Instr} {s : State} {p : Nat} {be : Bool} {ok : Nat → Bool} {h : QHalf} {hs : List QHalf} {b : Nat} {w : BitVec 128}
  {op : Nat} (hp : p < nCores) (ha : s.awake) (hdue : LaunchDue (s.chip.core p) be h hs b w) (hw : wOp w = op)
  (he : exec i s = s.actCore .core p fun m => launchCmd m p (opIsBe op) ok) (hok : ok op = true)
include hp ha hdue hw he hok

/-- A load, a multiply or a mask load executes. -/
theorem launch_issues (hop : op ∈ [0x01, 0x02, 0x11, 0x12, 0x13]) : Completes i s fun t =>
    let e := (s.chip.core p).eng be
    let e' := (t.chip.core p).eng be
    (∃ y, e'.exec.length = e.exec.length + 1 ∧ e'.exec.getLast? = some y ∧ y.op = op ∧ y.launch = h.nextAt b ∧
      y.dests = namedDests e w ∧ y.blk = h.blk) ∧ e'.t = e.t ∧
    (t.chip.core p).eng (!be) = (s.chip.core p).eng (!be) ∧ (t.chip.core p).store = (s.chip.core p).store ∧
    (t.chip.core p).seq = (s.chip.core p).seq ∧ (∀ q, q ≠ p → t.chip.core q = s.chip.core q) ∧ t.chip.hbm = s.chip.hbm := by
  subst hw
  rw [opIsBe_of_encErr hdue.noError] at he
  refine launch_completes hp ha he fun t hkey hother hhbm => ?_
  obtain ⟨⟨xs, y, hexec, hlen, hyop, hlaunch, hdests, hblk⟩, heng, hstore, hseq⟩ := engineLaunch_issued (s.chip.core p) be
    (s.chip.tickAt p) ok h hs b w (wOp w) hdue.noLoop hdue.halves hdue.base hdue.word hok hdue.noError hdue.plain hdue.room
    (by simpa using hop) rfl
  refine ⟨⟨y, ?_, ?_, hyop, hlaunch, hdests, hblk⟩, ?_, (key_eng hkey _).trans heng, (congrArg (·.2.2.1) hkey).trans hstore,
    (congrArg (·.2.2.2) hkey).trans hseq, hother, hhbm⟩
  · rw [key_eng hkey, hexec, List.length_append, hlen, List.length_singleton]
  · rw [key_eng hkey, hexec, List.getLast?_concat]
  · exact (t_of_key be hkey).trans (t_engineLaunch hdue _ hok)

/-- FNOP and BNOP execute nothing. -/
theorem launch_executes_nothing (hnop : op = 0x00 ∨ op = 0x10) : Completes i s fun t =>
    let e := (s.chip.core p).eng be
    let e' := (t.chip.core p).eng be
    e'.exec = (e.advance (h.nextAt b)).exec ∧ e'.a = (e.advance (h.nextAt b)).a ∧ e'.t = e.t ∧ e'.bufs = e.bufs ∧
    (∀ q, q ≠ p → t.chip.core q = s.chip.core q) ∧ t.chip.hbm = s.chip.hbm := by
  subst hw
  rw [opIsBe_of_encErr hdue.noError] at he
  refine launch_completes hp ha he fun t hkey hother hhbm => ?_
  have hwork := (congrArg Eng.work (key_eng hkey be)).trans (engineLaunch_nop hdue (s.chip.tickAt p) hok hnop)
  obtain ⟨hexec, hacc, htiles, hbufs⟩ : _ ∧ _ ∧ _ ∧ _ := by simpa only [Eng.work, Prod.mk.injEq] using hwork
  exact ⟨hexec, hacc, htiles.trans (Eng.advance_keep Eng.t (fun _ _ _ => rfl) _ _),
    hbufs.trans (Eng.advance_keep Eng.bufs (fun _ _ _ => rfl) _ _), hother, hhbm⟩

end

/-! ### The statement -/

/-- Settles O15: each command launches, on the engine of its opcode, what has its opcode. -/
theorem engineLaunches : Obligations.EngineLaunches := by
  intro s p be h hs b w ha hp c e hloops hhalves hbase hword herr hlnd hroom
  have hdue : LaunchDue c be h hs b w := ⟨hloops, hhalves, hbase, hword, herr, hlnd, hroom⟩
  simp only [List.forall_mem_cons, List.not_mem_nil, false_implies, implies_true, and_true]
  refine ⟨⟨?_, ?_, ?_, ?_, ?_⟩, ?_, ?_⟩
  iterate 5 exact fun hw => launch_issues hp ha hdue hw rfl rfl (by decide)
  iterate 2 exact fun hw => launch_executes_nothing hp ha hdue hw rfl rfl (by decide)

end Sys2Proof.Machine
end

section
/-!
PROOFS. An issue of the vector unit (07 R246, R247; 08 R292).

The start of an issue reads its operands, reserves a slot, counts and reports: of its core it touches registers, queue ends, counts and
events only (`Core.Touches`). Beside that it has one result item (`vuResult_items`), which joins the executing issues, and its
instruction leaves the queue or stays (`vuStart_eq`).
-/
namespace Sys2Proof.Machine

/-! ### What reads, counts and reports touch -/

/-- The two cores differ in registers, queue ends, counts of events and reports only. -/
def Core.Touches (c d : Core) : Prop := d = { c with regs := d.regs, q := d.q, ev := d.ev, raised := d.raised }

namespace Core.Touches

theorem refl (c : Core) : c.Touches c := rfl

theorem trans {a b c : Core} (h : a.Touches b) (k : b.Touches c) : a.Touches c := by
  unfold Core.Touches at h k ⊢
  rw [k, h]

theorem setReg (c : Core) (a v : Nat) : c.Touches (c.setReg a v) := rfl
theorem raise (c : Core) (ev v : Nat) : c.Touches (c.raise ev v) := rfl
theorem count (c : Core) (k n : Nat) : c.Touches (c.count k n) := rfl
theorem reserve (c : Core) (n seq : Nat) : c.Touches (c.reserve n seq).1 := rfl

/-- What may be left undone. -/
theorem ite {c d : Core} (b : Prop) [Decidable b] (h : c.Touches d) : c.Touches (if b then d else c) := by
  split
  · exact h
  · exact refl c

theorem late (c : Core) (due : Option Nat) (t : Nat) : c.Touches (c.late due t) := by
  unfold Core.late
  split
  · exact ite _ ((setReg ..).trans (setReg ..))
  · exact refl c

theorem unitRd (c : Core) (a n : Nat) : c.Touches (c.unitRd a n) :=
  (count ..).trans (ite _ ((setReg ..).trans (raise ..)))

theorem pop (c : Core) (n : Nat) : c.Touches (c.pop n) := (unitRd ..).trans rfl

theorem takeItems (ns : List Nat) (c : Core) : c.Touches (c.takeItems ns).2 := by
  induction ns generalizing c with
  | nil => exact refl c
  | cons n ns ih => exact (pop c n).trans (ih _)

end Core.Touches

/-! ### The result of an issue -/

/-- An issue has one result item: it is for the queue end QD of its instruction, in the format of its destination. -/
theorem vuResult_items (c : Core) (v : VuInstr) (konst : Nat) (items : List (OutItem × Bool)) (slot : Nat) (ctr key : DWord)
    (bad : Bool) : ∃ o, (vuResult c v konst items slot ctr key bad).1.items = [o] ∧ o.q = vQD v.word ∧ o.fmt = vuDstByte v.word := by
  unfold vuResult
  extract_lets w op n tags pz dst blank srcK b xs ne fmtBad
  split
  case isTrue => exact ⟨_, rfl, rfl, rfl⟩
  case isFalse =>
    split
    case isTrue => exact ⟨_, rfl, rfl, rfl⟩
    case isFalse => exact ⟨_, rfl, rfl, rfl⟩

/-! ### The start of an issue -/

/-- The instruction at the head makes its next issue, by the loop state `l`. -/
structure VuStarts (c : Core) (tick now : Nat) (v : VuInstr) (l : UnitLoop) (bad : Bool) : Prop where
  armed : armMet v.arm tick = true
  room : c.vuX.length < 16
  due : unitDue now v.loop = true
  next : unitNext c 0x30000 (vu v.word 8 4) now v.loop = some (l, bad)
  queues : c.queuesReady v.seq (vuPops v.word) [vQD v.word] = true
  oneTag : mixedTags c.confirmed (c.popTags (vuPops v.word)) = false
  stream : vu v.word 0 8 = 0x3D → c.rsHeldBefore v.seq 3 = false

theorem VuStarts.ready {c : Core} {tick now : Nat} {v : VuInstr} {l : UnitLoop} {bad : Bool} (h : VuStarts c tick now v l bad) :
    vuReady c now v = true := by
  simpa [vuReady, h.due, h.next, h.room, h.queues, h.oneTag, imp_iff_not_or] using h.stream

/-- An issue that starts joins the executing ones; its instruction stays while it has more. -/
theorem vuStart_eq {c : Core} {tick now : Nat} {v : VuInstr} {rest : List VuInstr} {l : UnitLoop} {bad : Bool} {ok : Nat → Bool}
    (hq : c.vuQ = v :: rest) (h : VuStarts c tick now v l bad) (hok : ok (vu v.word 0 8) = true) : ∃ d res o, c.Touches d ∧
      res.items = [o] ∧ o.q = vQD v.word ∧ o.fmt = vuDstByte v.word ∧ vuStart c tick now ok =
        { d with vuQ := if !bad && l.more then { v with loop := some l } :: rest else rest
                 vuX := d.vuX ++ [{ seq := v.seq, last := !(!bad && l.more), fill := decide (vu v.word 0 8 = 0x3D)
                                    pops := vuPops v.word, res := res }] } := by
  unfold vuStart
  rw [hq]
  dsimp only
  rw [hok, h.armed, h.ready, if_neg (by decide), h.next]
  dsimp only
  obtain ⟨o, hitems, hqueue, hfmt⟩ := vuResult_items _ _ _ _ _ _ _ _
  refine ⟨_, _, o, ?_, hitems, hqueue, hfmt, rfl⟩
  exact (Core.Touches.ite _ (.late ..)).trans (.trans (.takeItems ..) (.trans (.reserve ..) (.trans (.ite _ (.raise ..)) (.trans (.count ..)
    (.trans (.ite _ (.raise ..)) (.trans (.ite _ (.raise ..)) (.ite _ (.setReg ..))))))))

/-- What core p holds once an issue has started and the command has settled. -/
theorem vuStart_leaves {c d : Core} {tick now : Nat} {v : VuInstr} {rest : List VuInstr} {l : UnitLoop} {bad : Bool} {ok : Nat → Bool}
    (hq : c.vuQ = v :: rest) (h : VuStarts c tick now v l bad) (hok : ok (vu v.word 0 8) = true)
    (hd : (vuStart c tick now ok).SettlesTo d) :
    (∃ y o, d.vuX = c.vuX ++ [y] ∧ y.seq = v.seq ∧ y.last = !(!bad && l.more) ∧ y.res.items = [o] ∧ o.q = vQD v.word ∧
      o.fmt = vuDstByte v.word) ∧ d.vuQ = (if !bad && l.more then { v with loop := some l } :: rest else rest) ∧
      d.store = c.store ∧ d.seq = c.seq ∧ d.ops = c.ops ∧ d.fe = c.fe ∧ d.be = c.be := by
  obtain ⟨e, res, o, htouch, hitems, hqueue, hfmt, hstart⟩ := vuStart_eq hq h hok
  rw [hstart, htouch] at hd
  exact ⟨⟨_, o, hd.keep Core.vuX fun _ _ => rfl, rfl, rfl, hitems, hqueue, hfmt⟩, hd.keep Core.vuQ fun _ _ => rfl, hd.store,
    hd.keep Core.seq fun _ _ => rfl, hd.keep Core.ops fun _ _ => rfl, hd.keep Core.fe fun _ _ => rfl, hd.keep Core.be fun _ _ => rfl⟩

/-! ### The rows -/

/-- The rows of the vector unit, each with its opcode (07 R246). -/
def vuRows (p : Nat) : List (Nat × Instr) :=
  [(0x20, .vadd p), (0x21, .vsub p), (0x22, .vmul p), (0x23, .vfma p), (0x24, .vdiv p), (0x25, .vsqrt p), (0x26, .vrem p),
    (0x27, .vmin p), (0x28, .vmax p), (0x29, .vminn p), (0x2A, .vmaxn p), (0x2B, .vminm p), (0x2C, .vmaxm p), (0x2D, .vminmn p),
    (0x2E, .vmaxmn p), (0x2F, .vcmpq p), (0x30, .vcmps p), (0x31, .vcvt p), (0x32, .vcvti p), (0x33, .vcvtf p), (0x34, .vrint p),
    (0x35, .vscaleb p), (0x36, .vlogb p), (0x37, .vnextup p), (0x38, .vnextdn p), (0x39, .vneg p), (0x3A, .vabs p),
    (0x3B, .vcpsgn p), (0x3C, .vclass p), (0x3D, .vrfill p)]

/-- The rows differ in the opcode alone for which they start an issue. -/
theorem exec_vuRow (s : State) (p : Nat) : ∀ x ∈ vuRows p, exec x.2 s = s.actCore .core p fun m => m.onCore p fun c =>
    vuStart c (s.chip.localTick p) (s.chip.cycleNow p) fun o => o == x.1 := by
  simp only [vuRows, List.forall_mem_cons, List.not_mem_nil, false_implies, implies_true, and_true]
  and_intros <;> rfl

/-- Settles O27: a row starts the issue at the head as `vuStart_leaves` says. -/
theorem vectorIssues : Obligations.VectorIssues := by
  intro s p v rest l bad ha hp c w pops now more hq harm hroom hdue hnext hqueues htags hstream x hx hop
  have hstarts : VuStarts c (s.chip.localTick p) now v l bad := ⟨harm, hroom, hdue, hnext, hqueues, htags, hstream⟩
  have hok : (fun o => o == x.1) (vu v.word 0 8) = true := by simpa using hop
  exact completes_coreOnly (fun c => vuStart c (s.chip.localTick p) now fun o => o == x.1) hp ha (exec_vuRow s p x hx) fun t ht hd =>
    ⟨ht, vuStart_leaves hq hstarts hok hd⟩

end Sys2Proof.Machine
end

section
/-!
PROOFS. The queue pushes (05 R173; 07 R220; 08 R284).

A push that passes its checks makes its core `d`, marks it late where it is, and retires (`SeqRes.enters`): `push_completes` says what
the command then answers. Beside it each push has one equation, which goes through its checks.
-/
namespace Sys2Proof.Machine

/-- Core p becomes `d`, which has just issued work, and the instruction retires. -/
def Chip.enters (s : Chip) (p : Nat) (d : Core) : SeqRes := .ok ((s.setCore p d).markNew p) (s.pcNext p)

/-- The marks of late work change nothing of the sequencer. -/
theorem Chip.seq_core_markNew (s : Chip) (p : Nat) : ((s.markNew p).core p).seq = (s.core p).seq := by
  unfold Chip.markNew
  rw [Chip.core_setCore_self]
  rfl

theorem Chip.sameBut_markNew (s : Chip) (p : Nat) (d : Core) : s.sameBut p ((s.setCore p d).markNew p) :=
  Chip.sameBut_trans (Chip.sameBut_setCore s p d) (Chip.sameBut_setCore _ p _)

/-- A push that enters `d` answers that core, retired. -/
theorem push_completes {i : Instr} {s : State} {p f7 f3 rs1 : Nat} {d : Core} (hs : s.sequencing p) (hrs1 : rs1 < 32)
    (he : exec i s = s.actQx p f7 f3 0 rs1 0) (hx : execQx s.chip p (qxWord f7 f3 0 rs1 0) = s.chip.enters p d)
    (hstall : d.seq.stall = (s.chip.core p).seq.stall) :
    Completes i s (s.onlyCore p ((s.marked p d).retired ((s.chip.core p).seq.pc + 4))) := by
  rw [State.actQx_eq (by decide) hrs1 (by decide)] at he
  refine qx_completes hs he hx (Chip.sameBut_markNew s.chip p d) ?_
  rw [Chip.seq_core_markNew, Chip.core_setCore_self, hstall]
  exact Chip.seqRuns_stall hs.2.2

/-! ### The words of the pushes (R263) -/

section
variable (s : Chip) (p : Nat) {rs1 : Nat} (h : rs1 < 32)
include h

theorem execQx_qpushV : execQx s p (qxWord 0 0 0 rs1 0) = qxQpushV s p (qxWord 0 0 0 rs1 0) ((s.core p).xr rs1).toNat := by
  obtain ⟨h7, h3, hd, h1, h2⟩ := qxWord_fields 0 0 0 rs1 0 (by decide) (by decide) (by decide) h (by decide)
  simp only [execQx, h7, h3, hd, h1, h2]
  rfl

theorem execQx_qpushK : execQx s p (qxWord 1 0 0 rs1 0) = qxQpushK s p (qxWord 1 0 0 rs1 0) ((s.core p).xr rs1).toNat := by
  obtain ⟨h7, h3, hd, h1, h2⟩ := qxWord_fields 1 0 0 rs1 0 (by decide) (by decide) (by decide) h (by decide)
  simp only [execQx, h7, h3, hd, h1, h2]
  rfl

theorem execQx_qop : execQx s p (qxWord 0 1 0 rs1 0) = qxQop s p (qxWord 0 1 0 rs1 0) ((s.core p).xr rs1).toNat := by
  obtain ⟨h7, h3, hd, h1, h2⟩ := qxWord_fields 0 1 0 rs1 0 (by decide) (by decide) (by decide) h (by decide)
  simp only [execQx, h7, h3, hd, h1, h2]
  rfl

theorem execQx_benq (be : Bool) : execQx s p (qxWord (b2n be) 2 0 rs1 0) =
    qxBenq s p be (qxWord (b2n be) 2 0 rs1 0) ((s.core p).xr rs1).toNat := by
  obtain ⟨h7, h3, hd, h1, h2⟩ := qxWord_fields (b2n be) 2 0 rs1 0 (by cases be <;> decide) (by decide) (by decide) h (by decide)
  simp only [execQx, h7, h3, hd, h1, h2]
  cases be <;> rfl

end

/-! ### The pushes that pass their checks -/

section
variable (s : Chip) (p w a : Nat)

theorem qxQpushV_enters (hgood : (s.core p).structAddr a 16 = .good) :
    let c := s.core p
    let v := BitVec.ofNat 128 (leNat (c.localBytes a 16))
    vuWordOk v = true → c.endsOn (vQD v :: vuPops v) = true → c.vuWaiting < 32 → qxQpushV s p w a = s.enters p { c.issued.disarm with
      vuQ := c.vuQ ++ [{ seq := c.nseq, word := v, rm := field (c.reg rVU_FCSR) 0 3, arm := s.armTick p }] } := by
  intro c v hword hends hroom
  unfold qxQpushV
  simp only [hgood]
  rw [if_neg (by simp [c, v, hword, hends]), if_neg (Nat.not_le.2 hroom)]
  rfl

theorem qxQpushK_enters (hgood : (s.core p).structAddr a 16 = .good) :
    let c := s.core p
    let v := BitVec.ofNat 128 (leNat (c.localBytes a 16))
    kuWordOk v = true → (vu v 0 8 = 0x60 → c.endsOn [kQD v] = true) → (vu v 0 8 ≠ 0x60 → c.seq.uMode = false) → c.ku.length < 4 →
    qxQpushK s p w a = s.enters p { c.issued.disarm with
      ku := c.ku ++ [{ seq := c.nseq, word := v, epoch := (c.chain (kChain v)).epoch, arm := s.armTick p }] } := by
  intro c v hword hsel hchk hroom
  have hpass : ¬ (!kuWordOk v || (decide (vu v 0 8 = 0x60) && !c.endsOn [kQD v]) ||
      (c.seq.uMode && !decide (vu v 0 8 = 0x60) && rangeInMonitor (kDesc v) 32)) = true := by
    by_cases hop : vu v 0 8 = 0x60
    · simp [hop, hword, hsel hop]
    · simp [hop, hword, hchk hop]
  unfold qxQpushK
  simp only [hgood]
  rw [if_neg hpass, if_neg (Nat.not_le.2 hroom)]
  rfl

theorem qxQop_enters (hgood : (s.core p).structAddr a 64 = .good) :
    let c := s.core p
    let d := c.localBytes a 64
    c.opDescOk d = true → (c.seq.uMode && opNamesMonitor (fun x y => s.physOf x y == some p) d) = false → c.ops.length < 64 →
    qxQop s p w a = s.enters p { c.issued.disarm.structRead a 64 with
      ops := c.ops ++ [{ id := c.freePlace, seq := c.nseq, desc := d, arm := s.armTick p, addr := a, hurt := c.upsetIn a 64 }] } := by
  intro c d hdesc hmon hroom
  unfold qxQop
  simp only [hgood]
  rw [if_neg (by simp only [c, d] at hdesc hmon; simp [hdesc, hmon]), if_neg (Nat.not_le.2 hroom)]
  rfl

/-- The block of a descriptor as it enters its list: a tick that has passed is met at issue (09 R324). -/
def Chip.blockIssued (s : Chip) (p : Nat) (d : List Byte) : BlockDesc :=
  let b := blockDescOf d
  if b.timed then { b with launch := max b.launch (s.localTick p) } else b

/-- Core p with one block more in the list of an engine, and the grant of the block in use. -/
def Core.withBlock (c : Core) (be : Bool) (b : BlockDesc) : Core :=
  Core.withList (c.setGrant b.grant fun g => { g with state := 3 }).issued be (c.blockList be ++ [(c.nseq, b)])

theorem qxBenq_enters (be : Bool) (hgood : (s.core p).structAddr a 32 = .good) :
    let c := s.core p
    let d := c.localBytes a 32
    blockOk c d be = true → c.seq.uMode = false → c.queued be + (blockDescOf d).len ≤ 32 → (if be then c.bwd else c.fwd).length < 8 →
    qxBenq s p be w a = s.enters p (c.withBlock be (s.blockIssued p d)) := by
  intro c d hok hmode hqueued hroom
  unfold qxBenq
  simp only [hgood]
  rw [if_neg (by simp only [c, d] at hok hmode; simp [hok, hmode]), if_neg (Nat.not_lt.2 hqueued), if_neg (Nat.not_le.2 hroom)]
  cases be <;> rfl

end

/-! ### The sequencer of a core that has pushed -/

/-- The read of a structure leaves the sequencer as it is. -/
theorem Core.seq_structRead (c : Core) (a n : Nat) : (c.structRead a n).seq = c.seq := by
  unfold Core.structRead
  split
  · exact Core.unitRd_keep Core.seq (fun _ _ => rfl) (fun _ _ => rfl) (fun _ _ => rfl) c _ n
  · split
    · exact (Core.raise_seq ..).trans (Core.setField_seq ..)
    · rfl

theorem Core.seq_withBlock (c : Core) (be : Bool) (b : BlockDesc) : (c.withBlock be b).seq = c.seq := by cases be <;> rfl

/-! ### The statement -/

/-- Settles O9: each push enters the core that its equation names. -/
theorem pushesEnterTheQueues : Obligations.PushesEnterTheQueues := by
  intro s p rs1 hs hrs1 c a v done
  refine ⟨fun hgood hword hends hroom => ?vector, fun hgood hword hsel hchk hroom => ?kerf, fun hgood hdesc hmon hroom => ?op,
    fun be hgood hok hmode hqueued hroom => ?block⟩
  case vector =>
    exact push_completes hs hrs1 rfl ((execQx_qpushV _ p hrs1).trans (qxQpushV_enters _ p _ a hgood hword hends hroom)) rfl
  case kerf =>
    exact push_completes hs hrs1 rfl ((execQx_qpushK _ p hrs1).trans (qxQpushK_enters _ p _ a hgood hword hsel hchk hroom)) rfl
  case op =>
    refine push_completes hs hrs1 rfl ((execQx_qop _ p hrs1).trans (qxQop_enters _ p _ a hgood hdesc hmon hroom)) ?_
    exact (congrArg Seq.stall (Core.seq_structRead c.issued.disarm a 64) :)
  case block =>
    have hpush := push_completes (i := if be then .benqB p rs1 else .benqF p rs1) hs hrs1 (by cases be <;> rfl)
      ((execQx_benq _ p hrs1 be).trans (qxBenq_enters _ p _ a be hgood hok hmode hqueued hroom))
      (congrArg Seq.stall (Core.seq_withBlock ..))
    cases be <;> exact hpush

end Sys2Proof.Machine
end

section
/-!
PROOFS. The registers of the sequencer, and the queue-extension instructions that are not pushes (08 R254, R262, R265-R272, R276;
09 R332, R333).

Each instruction has one equation, which reads the fields of its word (R263); `qx_sets`, `qx_keeps` and `qx_stalls` say what a
sequencer that retires or stalls then leaves.
-/
namespace Sys2Proof.Machine

/-! ### Integer registers -/

/-- Settles O14: a read after a write of an integer register. -/
theorem registerWriteReads : Obligations.RegisterWriteReads := by
  intro c i j v
  exact ⟨Core.xr_setX c i j v, rfl⟩

/-! ### The words of the instructions (R263) -/

section
variable (s : Chip) (p : Nat) {rd rs1 rs2 : Nat} (hd : rd < 32) (h1 : rs1 < 32) (h2 : rs2 < 32)

theorem execQx_mfence : execQx s p (qxWord 1 3 0 0 0) = qxMfence s p := rfl

theorem execQx_qxret : execQx s p (qxWord 2 3 0 0 0) = qxQxret s p (qxWord 2 3 0 0 0) := rfl

include h1 in
theorem execQx_qfence : execQx s p (qxWord 0 3 0 rs1 0) = qxQfence s p (qxWord 0 3 0 rs1 0) ((s.core p).xr rs1).toNat := by
  obtain ⟨k7, k3, kd, k1, k2⟩ := qxWord_fields 0 3 0 rs1 0 (by decide) (by decide) (by decide) h1 (by decide)
  simp only [execQx, k7, k3, kd, k1, k2]
  rfl

include hd in
theorem execQx_ctbrl : execQx s p (qxWord 0 4 rd 0 0) = qxCtbrl s p rd := by
  obtain ⟨k7, k3, kd, k1, k2⟩ := qxWord_fields 0 4 rd 0 0 (by decide) (by decide) hd (by decide) (by decide)
  simp only [execQx, k7, k3, kd, k1, k2]
  rfl

include hd in
theorem execQx_ctbrh : execQx s p (qxWord 1 4 rd 0 0) = qxCtbrh s p rd := by
  obtain ⟨k7, k3, kd, k1, k2⟩ := qxWord_fields 1 4 rd 0 0 (by decide) (by decide) hd (by decide) (by decide)
  simp only [execQx, k7, k3, kd, k1, k2]
  rfl

include h1 h2 in
theorem execQx_tarm : execQx s p (qxWord 2 4 0 rs1 rs2) = qxTarm s p ((s.core p).xr rs1).toNat ((s.core p).xr rs2).toNat := by
  obtain ⟨k7, k3, kd, k1, k2⟩ := qxWord_fields 2 4 0 rs1 rs2 (by decide) (by decide) (by decide) h1 h2
  simp only [execQx, k7, k3, kd, k1, k2]
  rfl

include hd h1 in
theorem execQx_barv : execQx s p (qxWord 0 5 rd rs1 0) = qxBarv s p (qxWord 0 5 rd rs1 0) rd ((s.core p).xr rs1).toNat := by
  obtain ⟨k7, k3, kd, k1, k2⟩ := qxWord_fields 0 5 rd rs1 0 (by decide) (by decide) hd h1 (by decide)
  simp only [execQx, k7, k3, kd, k1, k2]
  rfl

include h1 h2 in
theorem execQx_bwait : execQx s p (qxWord 1 5 0 rs1 rs2) =
    qxBwait s p (qxWord 1 5 0 rs1 rs2) ((s.core p).xr rs1).toNat ((s.core p).xr rs2).toNat := by
  obtain ⟨k7, k3, kd, k1, k2⟩ := qxWord_fields 1 5 0 rs1 rs2 (by decide) (by decide) (by decide) h1 h2
  simp only [execQx, k7, k3, kd, k1, k2]
  rfl

include hd h1 h2 in
theorem execQx_bpoll : execQx s p (qxWord 2 5 rd rs1 rs2) =
    qxBpoll s p (qxWord 2 5 rd rs1 rs2) rd ((s.core p).xr rs1).toNat ((s.core p).xr rs2).toNat := by
  obtain ⟨k7, k3, kd, k1, k2⟩ := qxWord_fields 2 5 rd rs1 rs2 (by decide) (by decide) hd h1 h2
  simp only [execQx, k7, k3, kd, k1, k2]

include h1 in
theorem execQx_dbell : execQx s p (qxWord 0 6 0 rs1 0) = qxDbell s p (qxWord 0 6 0 rs1 0) ((s.core p).xr rs1).toNat := by
  obtain ⟨k7, k3, kd, k1, k2⟩ := qxWord_fields 0 6 0 rs1 0 (by decide) (by decide) (by decide) h1 (by decide)
  simp only [execQx, k7, k3, kd, k1, k2]
  rfl

include hd h1 h2 in
theorem execQx_wrung : execQx s p (qxWord 1 6 rd rs1 rs2) =
    qxWrung s p (qxWord 1 6 rd rs1 rs2) rd ((s.core p).xr rs1).toNat ((s.core p).xr rs2).toNat := by
  obtain ⟨k7, k3, kd, k1, k2⟩ := qxWord_fields 1 6 rd rs1 rs2 (by decide) (by decide) hd h1 h2
  simp only [execQx, k7, k3, kd, k1, k2]

include hd h1 in
theorem execQx_greq : execQx s p (qxWord 0 7 rd rs1 0) = qxGreq s p (qxWord 0 7 rd rs1 0) rd ((s.core p).xr rs1).toNat := by
  obtain ⟨k7, k3, kd, k1, k2⟩ := qxWord_fields 0 7 rd rs1 0 (by decide) (by decide) hd h1 (by decide)
  simp only [execQx, k7, k3, kd, k1, k2]
  rfl

include hd h1 in
theorem execQx_gstat : execQx s p (qxWord 1 7 rd rs1 0) = qxGstat s p (qxWord 1 7 rd rs1 0) rd ((s.core p).xr rs1).toNat := by
  obtain ⟨k7, k3, kd, k1, k2⟩ := qxWord_fields 1 7 rd rs1 0 (by decide) (by decide) hd h1 (by decide)
  simp only [execQx, k7, k3, kd, k1, k2]
  rfl

include h1 in
theorem execQx_grel : execQx s p (qxWord 2 7 0 rs1 0) = qxGrel s p (qxWord 2 7 0 rs1 0) ((s.core p).xr rs1).toNat := by
  obtain ⟨k7, k3, kd, k1, k2⟩ := qxWord_fields 2 7 0 rs1 0 (by decide) (by decide) (by decide) h1 (by decide)
  simp only [execQx, k7, k3, kd, k1, k2]
  rfl

end

/-! ### Instructions that retire or stall (R276) -/

/-- The stall that a four-byte instruction `w` of core p begins now. -/
def Chip.newStall (s : Chip) (p w : Nat) (cause : StallCause) : Stall :=
  { word := BitVec.ofNat 32 w, len := 4, cause := cause, since := s.cycleNow p, seq := (s.core p).nseq }

section
variable {i : Instr} {s : State} {p f7 f3 rd rs1 rs2 : Nat} (hs : s.sequencing p) (he : exec i s = s.actQx p f7 f3 rd rs1 rs2)
  (hr : rd < 32 ∧ rs1 < 32 ∧ rs2 < 32)
include hs he hr

/-- The instruction changes core p alone, makes it `d`, and retires. -/
theorem qx_retires {m : Chip} {d : Core} {pc : Word} (hx : execQx s.chip p (qxWord f7 f3 rd rs1 rs2) = .ok m pc)
    (hsame : s.chip.sameBut p m) (hcore : m.core p = d) (hstall : d.seq.stall = (s.chip.core p).seq.stall) :
    Completes i s (s.onlyCore p (d.retired pc)) := by
  rw [State.actQx_eq hr.1 hr.2.1 hr.2.2] at he
  subst hcore
  exact qx_completes hs he hx hsame (hstall.trans (Chip.seqRuns_stall hs.2.2))

/-- The instruction sets core p to `d` and retires. -/
theorem qx_sets {d : Core} {pc : Word} (hx : execQx s.chip p (qxWord f7 f3 rd rs1 rs2) = .ok (s.chip.setCore p d) pc)
    (hstall : d.seq.stall = (s.chip.core p).seq.stall) : Completes i s (s.onlyCore p (d.retired pc)) :=
  qx_retires hs he hr hx (Chip.sameBut_setCore s.chip p d) (Chip.core_setCore_self s.chip p d) hstall

/-- The instruction changes nothing and retires. -/
theorem qx_keeps {pc : Word} (hx : execQx s.chip p (qxWord f7 f3 rd rs1 rs2) = .ok s.chip pc) :
    Completes i s (s.onlyCore p ((s.chip.core p).retired pc)) :=
  qx_retires hs he hr hx (Chip.sameBut_refl p s.chip) rfl rfl

/-- The instruction stalls. -/
theorem qx_stalls {cause : StallCause} (hx : execQx s.chip p (qxWord f7 f3 rd rs1 rs2) = .wait cause) :
    Completes i s (s.onlyCore p { s.chip.core p with seq := { (s.chip.core p).seq with
      stall := some (s.chip.newStall p (qxWord f7 f3 rd rs1 rs2) cause) } }) := by
  rw [State.actQx_eq hr.1 hr.2.1 hr.2.2] at he
  have hq := queueCmd_eq (qxWord f7 f3 rd rs1 rs2) hs
  rw [hx] at hq
  refine completes_onlyCore hs.2.1 (State.active_core hs.1) he (hq ▸ Chip.sameBut_onCore _ _ _) ?_
  rw [hq]
  simp only [seqApply, Chip.core_onCore_self, Chip.seqRuns_stall hs.2.2, Option.isSome_none]
  rfl

end

/-! ### Traps and interrupts (R254, R262)

The model writes four CSRs and then the pc, the mode and the stall. `Core.trapped` and `Core.goesTo` are these two parts, so that what
reads one of them is not compared through the other. -/

/-- The sequencer goes on at `pc` in mode `u`, with no stall. -/
def Core.goesTo (c : Core) (pc : Word) (u : Bool) : Core := { c with seq := { c.seq with pc := pc, uMode := u, stall := none } }

/-- The CSRs that a trap writes. -/
def Core.trapped (c : Core) (int : Bool) (cause tval : Nat) : Core :=
  let ms := c.csr csrMstatus
  let ms := Sys2Proof.setField (Sys2Proof.setField (Sys2Proof.setField ms 7 1 (field ms 3 1)) 3 1 0) 11 2 (if c.seq.uMode then 0 else 3)
  (((c.setCsr csrMepc c.seq.pc.toNat).setCsr csrMcause (cause + (if int then 2 ^ 31 else 0))).setCsr csrMtval tval).setCsr csrMstatus ms

theorem Core.trapM_eq (c : Core) (int : Bool) (cause tval : Nat) : c.trapM int cause tval =
    (c.trapped int cause tval).goesTo
      (BitVec.ofNat 32 (field (c.csr csrMtvec) 2 30 * 4 + (if int && bitOf (c.csr csrMtvec) 0 then 4 * cause else 0))) false := rfl

/-- The CSRs that a delegated interrupt writes. -/
def Core.delegated (c : Core) (n : Nat) : Core :=
  ((c.setCsr csrQxepc c.seq.pc.toNat).setCsr csrQxcause n).setCsr csrQxstatus (field (c.csr csrQxstatus) 0 1 * 2)

/-- A core that takes the delegated interrupt `n`. -/
def Core.takeDelegated (c : Core) (n : Nat) : Core :=
  (c.delegated n).goesTo (BitVec.ofNat 32 ((c.delegated n).csr csrQxtvec)) (c.delegated n).seq.uMode

section
variable {γ : Type} (g : Seq → γ) (c : Core)

theorem Core.setCsr_keep (h : ∀ (x : Seq) k, g { x with csr := k } = g x) (n v : Nat) : g (c.setCsr n v).seq = g c.seq := h _ _

theorem Core.goesTo_keep (h : ∀ (x : Seq) pc u, g { x with pc := pc, uMode := u, stall := none } = g x) (pc : Word) (u : Bool) :
    g (c.goesTo pc u).seq = g c.seq := h _ _ _

theorem Core.trapped_keep (h : ∀ (x : Seq) k, g { x with csr := k } = g x) (int : Bool) (cause tval : Nat) :
    g (c.trapped int cause tval).seq = g c.seq := by
  simp only [Core.trapped, Core.setCsr_keep g _ h]

theorem Core.delegated_keep (h : ∀ (x : Seq) k, g { x with csr := k } = g x) (n : Nat) : g (c.delegated n).seq = g c.seq := by
  simp only [Core.delegated, Core.setCsr_keep g _ h]

/-- A trap changes the CSRs, the pc, the mode and the stall of the sequencer alone. -/
theorem Core.trapM_keep (h : ∀ (x : Seq) k, g { x with csr := k } = g x)
    (h' : ∀ (x : Seq) pc u, g { x with pc := pc, uMode := u, stall := none } = g x) (int : Bool) (cause tval : Nat) :
    g (c.trapM int cause tval).seq = g c.seq := by
  rw [Core.trapM_eq, Core.goesTo_keep g _ h', Core.trapped_keep g _ h]

/-- So does a delegated interrupt. -/
theorem Core.takeDelegated_keep (h : ∀ (x : Seq) k, g { x with csr := k } = g x)
    (h' : ∀ (x : Seq) pc u, g { x with pc := pc, uMode := u, stall := none } = g x) (n : Nat) :
    g (c.takeDelegated n).seq = g c.seq := by
  rw [Core.takeDelegated, Core.goesTo_keep g _ h', Core.delegated_keep g _ h]

end

/-! LOCAL_INTERRUPT, by the lowest pending interrupt that reaches the core as its stall leaves it. -/

/-- The lowest of the local interrupts that is pending and reaches the core. -/
def Chip.localPending (s : Chip) (p : Nat) : Option Nat :=
  (List.range 5).find? fun k => bitOf (s.mip p) (16 + k) && (((s.endStall p).core p).intTarget (16 + k)).isSome

section
variable {s : Chip} {p : Nat} (hrun : bitOf (((s.endStall p).core p).reg rSEQ_CTL) 0 = true)

theorem localInterruptCmd_stopped (h : bitOf (((s.endStall p).core p).reg rSEQ_CTL) 0 = false) : localInterruptCmd s p = s := by
  simp only [localInterruptCmd, h, Bool.not_false, if_true]

include hrun

theorem localInterruptCmd_none (hk : s.localPending p = none) : localInterruptCmd s p = s := by
  unfold Chip.localPending at hk
  simp only [localInterruptCmd, hrun, hk, Bool.not_true, Bool.false_eq_true, if_false]

theorem localInterruptCmd_delegated {k : Nat} (hk : s.localPending p = some k)
    (ht : ((s.endStall p).core p).intTarget (16 + k) = some true) :
    localInterruptCmd s p = s.setCore p (((s.endStall p).core p).takeDelegated (16 + k)) := by
  unfold Chip.localPending at hk
  simp only [localInterruptCmd, hrun, hk, ht, if_true, Bool.not_true, Bool.false_eq_true, if_false]
  rfl

theorem localInterruptCmd_monitor {k : Nat} (hk : s.localPending p = some k)
    (ht : ((s.endStall p).core p).intTarget (16 + k) ≠ some true) :
    localInterruptCmd s p = s.setCore p (((s.endStall p).core p).trapM true (16 + k) 0) := by
  unfold Chip.localPending at hk
  simp only [localInterruptCmd, hrun, hk, ht, Bool.not_true, Bool.false_eq_true, if_false]

end

/-- What LOCAL_INTERRUPT can do: nothing, or the core takes a delegated interrupt or one of the monitor. -/
theorem localInterruptCmd_cases (s : Chip) (p : Nat) :
    localInterruptCmd s p = s ∨
      ∃ n, localInterruptCmd s p = s.setCore p (((s.endStall p).core p).takeDelegated n) ∨
        localInterruptCmd s p = s.setCore p (((s.endStall p).core p).trapM true n 0) := by
  by_cases hrun : bitOf (((s.endStall p).core p).reg rSEQ_CTL) 0 = true
  · cases hk : s.localPending p with
    | none => exact .inl (localInterruptCmd_none hrun hk)
    | some k =>
      by_cases ht : ((s.endStall p).core p).intTarget (16 + k) = some true
      · exact .inr ⟨_, .inl (localInterruptCmd_delegated hrun hk ht)⟩
      · exact .inr ⟨_, .inr (localInterruptCmd_monitor hrun hk ht)⟩
  · exact .inl (localInterruptCmd_stopped (Bool.eq_false_of_not_eq_true hrun))

/-! ### The time base (R267, R268) -/

/-- Neither a trap nor an interrupt changes the upper half that CTBRL has latched. -/
theorem tbBuf_localInterruptCmd {s : Chip} {p : Nat} (hstall : (s.core p).seq.stall = none) :
    s.sameBut p (localInterruptCmd s p) ∧ ((localInterruptCmd s p).core p).seq.tbBuf = (s.core p).seq.tbBuf := by
  have hcore := Chip.endStall_core hstall
  rcases localInterruptCmd_cases s p with h | ⟨n, h | h⟩
  · rw [h]
    exact ⟨Chip.sameBut_refl p s, rfl⟩
  · rw [h, hcore, Chip.core_setCore_self]
    exact ⟨Chip.sameBut_setCore s p _, Core.takeDelegated_keep Seq.tbBuf _ (fun _ _ => rfl) (fun _ _ _ => rfl) n⟩
  · rw [h, hcore, Chip.core_setCore_self]
    exact ⟨Chip.sameBut_setCore s p _, Core.trapM_keep Seq.tbBuf _ (fun _ _ => rfl) (fun _ _ _ => rfl) true n 0⟩

/-- Settles O6: each instruction sets core p as its equation says; an interrupt leaves the buffer by `tbBuf_localInterruptCmd`. -/
theorem timeBaseInstructions : Obligations.TimeBaseInstructions := by
  refine ⟨rfl, fun s p rd rs1 rs2 hs hd h1 h2 => ?_⟩
  intro c now lo
  refine ⟨?low, ?high, ?interrupt, Core.trapM_keep Seq.tbBuf c (fun _ _ => rfl) fun _ _ _ => rfl, ?arm⟩
  case low => exact qx_sets hs rfl ⟨hd, by decide⟩ (execQx_ctbrl _ p hd) (Core.setX_stall ..)
  case high => exact qx_sets hs rfl ⟨hd, by decide⟩ (execQx_ctbrh _ p hd) (Core.setX_stall ..)
  case interrupt =>
    obtain ⟨hsame, hbuf⟩ := tbBuf_localInterruptCmd (Chip.seqRuns_stall hs.2.2)
    exact (completes_onlyCore hs.2.1 (State.active_core hs.1) rfl hsame rfl).imp fun t ht =>
      (State.onlyCore_keep (·.seq.tbBuf) (fun _ _ _ _ => rfl) (fun _ _ _ => rfl) (fun _ _ => rfl) ht).trans hbuf
  case arm => exact qx_sets hs rfl ⟨by decide, h1, h2⟩ (execQx_tarm _ p h1 h2) rfl

/-! ### Fences and QXRET (R262, R265, R266) -/

/-- Whatever reads no register of the window reads the sequencer as before. -/
theorem State.onlyCore_seq {s t : State} {p : Nat} {c : Core} (h : s.onlyCore p c t) : (t.chip.core p).seq = c.seq :=
  State.onlyCore_keep Core.seq (fun _ _ _ _ => rfl) (fun _ _ _ => rfl) (fun _ _ => rfl) h

theorem qxWord_lt {f7 f3 rd rs1 rs2 : Nat} (h7 : f7 < 128) (h3 : f3 < 8) (hd : rd < 32) (h1 : rs1 < 32) (h2 : rs2 < 32) :
    qxWord f7 f3 rd rs1 rs2 < 2 ^ 32 := by
  unfold qxWord
  omega

/-- A four-byte word of the custom-0 opcode is a queue-extension instruction. -/
theorem execFetched_qxWord (s : Chip) (p f7 f3 rd rs1 rs2 : Nat) :
    execFetched s p (qxWord f7 f3 rd rs1 rs2) 4 = execQx s p (qxWord f7 f3 rd rs1 rs2) := by
  have hop : field (qxWord f7 f3 rd rs1 rs2) 0 7 = 0x0B := by
    simp only [field, qxWord, Nat.shiftRight_zero]
    omega
  simp only [execFetched, execRv, hop, show ¬ (4 = 2) by decide, if_false]

/-- A stalled QFENCE that waits for nothing more retires. -/
theorem stallRetireCmd_qfence {s : Chip} {p rs1 : Nat} {x : Stall} (h1 : rs1 < 32) (hrun : bitOf ((s.core p).reg rSEQ_CTL) 0 = true)
    (hstall : (s.core p).seq.stall = some x) (hword : x.word = BitVec.ofNat 32 (qxWord 0 3 0 rs1 0)) (hlen : x.len = 4)
    (hmask : ((s.core p).xr rs1).toNat < 32) (hopen : (s.core p).fenceOpen ((s.core p).xr rs1).toNat = false) :
    stallRetireCmd s p = seqApply s p (qxWord 0 3 0 rs1 0) 4 (.ok s (s.pcNext p)) := by
  have hw : x.word.toNat = qxWord 0 3 0 rs1 0 := by
    rw [hword, BitVec.toNat_ofNat]
    exact Nat.mod_eq_of_lt (qxWord_lt (by decide) (by decide) (by decide) h1 (by decide))
  have hret : qxQfence s p (qxWord 0 3 0 rs1 0) ((s.core p).xr rs1).toNat = .ok s (s.pcNext p) := by
    rw [qxQfence, if_neg (Nat.not_le.2 hmask), hopen, if_neg (by decide)]
  simp only [stallRetireCmd, hrun, hstall, hw, hlen, execFetched_qxWord, execQx_qfence s p h1, hret, Bool.not_true, Bool.false_eq_true,
    if_false]

/-- A core whose stall `x` has ended `n` cycles after its begin (R276). -/
def Core.stallEnded (c : Core) (n : Nat) : Core := { c.bump rSEQ_STALL_CNT n with seq := { c.seq with stall := none } }

theorem Chip.endStall_core_some {s : Chip} {p : Nat} {x : Stall} (h : (s.core p).seq.stall = some x) :
    (s.endStall p).core p = (s.core p).stallEnded (s.cycleNow p - x.since) := by
  unfold Chip.endStall
  rw [Chip.core_onCore_self]
  simp only [h]
  rfl

/-- Settles O7: each instruction retires or stalls by its equation; the stalled fence is `stallRetireCmd_qfence`. -/
theorem fencesAndReturn : Obligations.FencesAndReturn := by
  refine ⟨fun s p rs1 hs h1 => ?runs, fun s p rs1 x ha hp h1 => ?stalled⟩
  case runs =>
    intro c
    refine ⟨fun hmask hopen => ?closed, fun hmask hopen => ?waits, fun hopen => ?memory, fun hmode => ?ret⟩
    case closed =>
      refine qx_keeps hs rfl ⟨by decide, h1, by decide⟩ ((execQx_qfence _ p h1).trans ?_)
      rw [qxQfence, if_neg (Nat.not_le.2 hmask), hopen, if_neg (by decide)]
      rfl
    case waits =>
      have hx : qxQfence s.chip p (qxWord 0 3 0 rs1 0) (c.xr rs1).toNat = .wait .qfence := by
        rw [qxQfence, if_neg (Nat.not_le.2 hmask), if_pos hopen]
      refine (qx_stalls hs rfl ⟨by decide, h1, by decide⟩ ((execQx_qfence _ p h1).trans hx)).imp fun t ht =>
        ⟨State.onlyCore_coreOnly ht, ?_⟩
      rw [State.onlyCore_seq ht]
      exact ⟨rfl, rfl, rfl⟩
    case memory =>
      refine qx_keeps hs rfl (by decide) ((execQx_mfence _ p).trans ?_)
      rw [qxMfence, hopen, if_neg (by decide)]
      rfl
    case ret =>
      refine qx_sets hs rfl (by decide) ((execQx_qxret _ p).trans ?_) rfl
      rw [qxQxret, hmode, if_neg (by decide)]
  case stalled =>
    intro c hrun hstall hword hlen hmask hopen
    have hcmd := stallRetireCmd_qfence h1 hrun hstall hword hlen hmask hopen
    have hcore : (stallRetireCmd s.chip p).core p = (c.stallEnded (s.chip.cycleNow p - x.since)).retired (c.seq.pc + 4) := by
      rw [hcmd, seqApply, Chip.core_onCore_self, Chip.endStall_core_some hstall]
      rfl
    have hsame : s.chip.sameBut p (stallRetireCmd s.chip p) :=
      hcmd ▸ Chip.sameBut_trans (Chip.endStall_sameBut _ p) (Chip.sameBut_onCore _ _ _)
    refine (completes_onlyCore hp (State.active_core ha) rfl hsame hcore).imp fun t ht => ⟨State.onlyCore_coreOnly ht, ?_⟩
    rw [State.onlyCore_seq ht]
    refine ⟨rfl, rfl, ?_⟩
    have hset : ((c.stallEnded (s.chip.cycleNow p - x.since)).retired (c.seq.pc + 4)).SettlesTo (t.chip.core p) :=
      ht.2.2 ▸ Core.SettlesTo.of_settled _ _ _
    exact (hset.reg (by decide)).trans (Core.reg_setReg_self ..)

end Sys2Proof.Machine
end

section
/-!
PROOFS. The barrier instructions (08 R269; 09 R332, R333).

BARV counts its arrival, sends it to the local home and returns the generation: `Core.arrived`, `Core.sends` and `Core.joins` are
these three changes of its core.
-/
namespace Sys2Proof.Machine

/-! ### Barriers (R269; 09 R332, R333) -/

/-- What a command leaves of core p. -/
theorem State.onlyCore_settles {s t : State} {p : Nat} {c : Core} (h : s.onlyCore p c t) : c.SettlesTo (t.chip.core p) :=
  h.2.2 ▸ Core.SettlesTo.of_settled _ _ _

/-- An integer register is read from the sequencer alone. -/
theorem Core.xr_congr {c d : Core} (h : d.seq.x = c.seq.x) (i : Nat) : d.xr i = c.xr i := by
  unfold Core.xr
  rw [h]

/-- The packet of an arrival leaves the core if its local home is mapped. -/
def Core.sends (c : Core) (mapped : Bool) (k : Packet) : Core := if mapped then { c with out := c.out ++ [k] } else c

theorem Core.sends_keep {γ : Type} (g : Core → γ) (h : ∀ (c : Core) l, g { c with out := l } = g c) (c : Core) (mapped : Bool)
    (k : Packet) : g (c.sends mapped k) = g c := by
  cases mapped
  · rfl
  · exact h _ _

theorem Core.length_out_sends (c : Core) (mapped : Bool) (k : Packet) :
    (c.sends mapped k).out.length = c.out.length + if mapped then 1 else 0 := by
  cases mapped
  · rfl
  · exact List.length_append

theorem Chip.inject_self (s : Chip) (p x y : Nat) (k : Packet) : s.sameBut p (s.inject p s.id x y k) ∧
    (s.inject p s.id x y k).core p = (s.core p).sends (s.physOf x y).isSome (s.address p s.id x y k) := by
  unfold Chip.inject
  cases h : s.physOf x y with
  | none => exact ⟨by simpa using Chip.sameBut_refl p s, by simp [Core.sends]⟩
  | some q => exact ⟨by simpa using Chip.sameBut_onCore s p _, by simp [Core.sends]⟩

/-- A core whose next arrival at barrier `b` is counted. -/
def Core.arrived (c : Core) (b : Nat) : Core := c.setField (rBAR_STAT b) 0 32 (barArr c b + 1)

theorem barCfg_arrived (c : Core) (b : Nat) : barCfg (c.arrived b) b = barCfg c b :=
  Core.reg_setField_ne c (by unfold rBAR_CFG rBAR_STAT; omega) _ _ _

theorem barArr_arrived (c : Core) (b : Nat) : barArr (c.arrived b) b = (barArr c b + 1) % 2 ^ 32 := by
  unfold barArr Core.arrived
  rw [Core.reg_setField_self, field_setField]
  rfl

/-- An arrival that is not four generations ahead goes to the local home at once. -/
theorem Chip.barArrive_sends (s : Chip) (p : Nat) {b : Nat} (hroom : barArr (s.core p) b < barDone (s.core p) b + 4) :
    s.sameBut p (s.barArrive p b) ∧ ∃ k, (s.barArrive p b).core p =
      ((s.core p).arrived b).sends (s.physOf (field (barCfg (s.core p) b) 0 4) (field (barCfg (s.core p) b) 4 4)).isSome k := by
  have heq : s.barArrive p b = (s.setCore p ((s.core p).arrived b)).barSend p b (barArr (s.core p) b) := by
    simp only [Chip.barArrive, decide_eq_false (Nat.not_le.2 hroom), Bool.false_eq_true, if_false]
    rfl
  rw [heq, Chip.barSend, Chip.core_setCore_self, barCfg_arrived]
  obtain ⟨hsame, hcore⟩ := Chip.inject_self (s.setCore p ((s.core p).arrived b)) p (field (barCfg (s.core p) b) 0 4)
    (field (barCfg (s.core p) b) 4 4) (barPacket 7 b (barArr (s.core p) b) false)
  rw [Chip.core_setCore_self] at hcore
  exact ⟨Chip.sameBut_trans (Chip.sameBut_setCore s p _) hsame, _, hcore⟩

/-- A core that has returned generation `g` of barrier `b` to its program. -/
def Core.joins (c : Core) (b g rd : Nat) : Core :=
  (c.setBarrier b { c.barrier b with own := g + 1 }).setX rd (BitVec.ofNat 32 g)

theorem Core.xr_joins (c : Core) (b g rd i : Nat) :
    (c.joins b g rd).xr i = if i = rd ∧ rd ≠ 0 then BitVec.ofNat 32 g else c.xr i := Core.xr_setX ..

theorem Core.stall_joins (c : Core) (b g rd : Nat) : (c.joins b g rd).seq.stall = c.seq.stall := Core.setX_stall ..

theorem barrier_setX (c : Core) (i b : Nat) (v : Word) : (c.setX i v).barrier b = c.barrier b :=
  Core.setX_keep (·.barrier b) (fun _ _ => rfl) c i v

/-- What BARV leaves of its core. -/
theorem barv_joins {c d : Core} {b g rd : Nat} {mapped : Bool} {k : Packet} {pc : Word} (hb : b < 16)
    (h : ((((c.arrived b).sends mapped k).joins b g rd).retired pc).SettlesTo d) :
    (∀ i, d.xr i = if i = rd ∧ rd ≠ 0 then BitVec.ofNat 32 g else c.xr i) ∧ barArr d b = (barArr c b + 1) % 2 ^ 32 ∧
      (d.barrier b).own = g + 1 ∧ d.out.length = c.out.length + (if mapped then 1 else 0) ∧ d.seq.pc = pc := by
  have hseq : d.seq = ((((c.arrived b).sends mapped k).joins b g rd).retired pc).seq := h.keep Core.seq fun _ _ => rfl
  refine ⟨fun i => ?_, ?_, ?_, ?_, congrArg Seq.pc hseq⟩
  · rw [Core.xr_congr (congrArg Seq.x hseq)]
    refine (Core.xr_joins ..).trans ?_
    rw [Core.xr_congr (congrArg Seq.x (Core.sends_keep Core.seq (fun _ _ => rfl) (c.arrived b) mapped k))]
    rfl
  · have hreg : d.reg (rBAR_STAT b) = (c.arrived b).reg (rBAR_STAT b) := by
      rw [h.reg (by unfold rBAR_STAT rDVT_PREF_CNT; omega)]
      refine (Core.setX_keep (·.reg (rBAR_STAT b)) (fun _ _ => rfl) _ rd _).trans ?_
      exact Core.sends_keep (·.reg (rBAR_STAT b)) (fun _ _ => rfl) _ mapped k
    rw [barArr, hreg]
    exact barArr_arrived c b
  · rw [h.keep (·.barrier b) fun _ _ => rfl]
    refine (congrArg Barrier.own (barrier_setX ..)).trans ?_
    rw [Core.barrier_setBarrier]
  · rw [h.keep Core.out fun _ _ => rfl]
    refine (congrArg List.length (Core.setX_keep Core.out (fun _ _ => rfl) _ rd _)).trans ?_
    exact Core.length_out_sends (c.arrived b) mapped k

/-! What the three instructions answer. -/

/-- A core whose program has seen generation `g` of barrier `b` complete: its notice is for the next one, or fires at once. -/
def Core.polled (c : Core) (b g : Nat) : Core :=
  let fired := decide (barDone c b > g + 1)
  c.setBarrier b { c.barrier b with fired := fired, notice := if fired then none else some (g + 1) }

section
variable {s : Chip} {p b : Nat} (hb : b < 16) (w rd : Nat)

section
variable {g : Nat} (hown : (s.core p).genAbove b g = false)
include hb hown

theorem qxBwait_passes (hdone : g < barDone (s.core p) b) : qxBwait s p w b g = .ok s (s.pcNext p) := by
  rw [qxBwait, hown, if_neg (not_or.2 ⟨Nat.not_le.2 hb, Bool.false_ne_true⟩), if_neg (Nat.not_le.2 hdone)]

theorem qxBpoll_open (hdone : barDone (s.core p) b ≤ g) : qxBpoll s p w rd b g = .ok (s.setCore p ((s.core p).setX rd 0)) (s.pcNext p) := by
  rw [qxBpoll, hown, if_neg (not_or.2 ⟨Nat.not_le.2 hb, Bool.false_ne_true⟩), if_pos hdone]

theorem qxBpoll_complete (hdone : g < barDone (s.core p) b) :
    qxBpoll s p w rd b g = .ok (s.setCore p (((s.core p).polled b g).setX rd 1)) (s.pcNext p) := by
  rw [qxBpoll, hown, if_neg (not_or.2 ⟨Nat.not_le.2 hb, Bool.false_ne_true⟩), if_neg (Nat.not_le.2 hdone)]
  rfl

end

include hb in
theorem qxBarv_joins (hvalid : barValid (s.core p) b = true) (hroom : barArr (s.core p) b < barDone (s.core p) b + 4) :
    ∃ m pc k, qxBarv s p w rd b = .ok m pc ∧ pc = s.pcNext p ∧ s.sameBut p m ∧
      m.core p = (((s.core p).arrived b).sends
        (s.physOf (field (barCfg (s.core p) b) 0 4) (field (barCfg (s.core p) b) 4 4)).isSome k).joins b (barArr (s.core p) b) rd := by
  obtain ⟨hsame, k, hcore⟩ := Chip.barArrive_sends s p hroom
  refine ⟨(s.barArrive p b).onCore p fun e => e.joins b (barArr (s.core p) b) rd, (s.barArrive p b).pcNext p, k, ?_, ?_,
    Chip.sameBut_trans hsame (Chip.sameBut_onCore _ _ _), ?_⟩
  · rw [qxBarv, hvalid, if_neg (not_or.2 ⟨Nat.not_le.2 hb, Bool.true_eq_false.mp⟩)]
    rfl
  · rw [Chip.pcNext, hcore]
    exact congrArg (·.pc + 4) (Core.sends_keep Core.seq (fun _ _ => rfl) _ _ k)
  · rw [Chip.core_onCore_self, hcore]

end

/-- Settles O8: BWAIT and BPOLL by the generation's completion, BARV by `barv_joins`. -/
theorem barrierInstructions : Obligations.BarrierInstructions := by
  intro s p rd rs1 rs2 hs hd h1 h2 c b g hb
  refine ⟨fun hown hdone => ⟨?passes, ?complete⟩, fun hown hdone => ?pending, fun hvalid hroom => ?arrives⟩
  case passes => exact qx_keeps hs rfl ⟨by decide, h1, h2⟩ ((execQx_bwait _ p h1 h2).trans (qxBwait_passes hb _ hown hdone))
  case complete =>
    refine (qx_sets hs rfl ⟨hd, h1, h2⟩ ((execQx_bpoll _ p hd h1 h2).trans (qxBpoll_complete hb _ rd hown hdone))
      (Core.setX_stall ..)).imp fun t ht => ⟨State.onlyCore_coreOnly ht, fun i => ?_, congrArg Seq.pc (State.onlyCore_seq ht)⟩
    rw [Core.xr_congr (congrArg Seq.x (State.onlyCore_seq ht))]
    exact Core.xr_setX ..
  case pending =>
    exact qx_sets hs rfl ⟨hd, h1, h2⟩ ((execQx_bpoll _ p hd h1 h2).trans (qxBpoll_open hb _ rd hown hdone)) (Core.setX_stall ..)
  case arrives =>
    obtain ⟨m, _, k, hx, rfl, hsame, hcore⟩ := qxBarv_joins hb (qxWord 0 5 rd rs1 0) rd hvalid hroom
    have hstall := congrArg Seq.stall (Core.sends_keep Core.seq (fun _ _ => rfl) (c.arrived b)
      (s.chip.physOf (field (barCfg c b) 0 4) (field (barCfg c b) 4 4)).isSome k)
    exact (qx_retires hs rfl ⟨hd, h1, by decide⟩ ((execQx_barv _ p hd h1).trans hx) hsame hcore
      ((Core.stall_joins ..).trans hstall)).imp fun t ht =>
        ⟨State.onlyCore_coreOnly ht, barv_joins hb (State.onlyCore_settles ht)⟩

end Sys2Proof.Machine
end

section
/-!
PROOFS. WRUNG, ADDI, and the traps that an illegal instruction takes (08 R254, R255, R263, R271).

`Core.Trapped` says once what a trap into M-mode writes and what it leaves.
-/
namespace Sys2Proof.Machine

/-! ### WRUNG and illegal instructions (R263, R271) -/

/-- A core that traps: an exception of the program raises its event (R577). -/
def Core.excepts (c : Core) (cause tval : Nat) : Core :=
  if c.seq.uMode then (c.trapM false cause tval).raise evProgram (cause + c.seq.pc.toNat * 2 ^ 32) else c.trapM false cause tval

theorem Core.seq_excepts (c : Core) (cause tval : Nat) : (c.excepts cause tval).seq = (c.trapM false cause tval).seq := by
  unfold Core.excepts
  split
  · exact Core.raise_seq ..
  · rfl

theorem Core.excepts_monitor {c : Core} (h : c.seq.uMode = false) (cause tval : Nat) : c.excepts cause tval = c.trapM false cause tval := by
  rw [Core.excepts, h, if_neg Bool.false_ne_true]

/-- A queue-extension instruction that traps, in either mode. -/
theorem qx_excepts {i : Instr} {s : State} {p f7 f3 rd rs1 rs2 cause tval : Nat} (hs : s.sequencing p)
    (he : exec i s = s.actQx p f7 f3 rd rs1 rs2) (hr : rd < 32 ∧ rs1 < 32 ∧ rs2 < 32)
    (hx : execQx s.chip p (qxWord f7 f3 rd rs1 rs2) = .trap s.chip cause tval) :
    Completes i s (s.onlyCore p ((s.chip.core p).excepts cause tval)) := by
  rw [State.actQx_eq hr.1 hr.2.1 hr.2.2] at he
  obtain ⟨hsame, hcore⟩ := seqApply_trap (w := qxWord f7 f3 rd rs1 rs2) (len := 4) (cause := cause) (tval := tval)
    (Chip.sameBut_refl p s.chip) (Chip.seqRuns_stall hs.2.2)
  have hq := queueCmd_eq (qxWord f7 f3 rd rs1 rs2) hs
  rw [hx] at hq
  exact completes_onlyCore hs.2.1 (State.active_core hs.1) he (hq ▸ hsame) (hq ▸ hcore)

/-- A CSR is read from the sequencer alone. -/
theorem Core.csr_congr {c d : Core} (h : d.seq.csr = c.seq.csr) (n : Nat) : d.csr n = c.csr n := by
  unfold Core.csr
  rw [h]

theorem Core.csr_goesTo (c : Core) (pc : Word) (u : Bool) (n : Nat) : (c.goesTo pc u).csr n = c.csr n := Core.csr_congr rfl n

/-- What a trap writes. -/
structure Core.Trapped (c d : Core) (cause tval : Nat) : Prop where
  mepc : d.csr csrMepc = c.seq.pc.toNat
  mcause : d.csr csrMcause = cause
  mtval : d.csr csrMtval = tval
  mstatus : d.csr csrMstatus = Sys2Proof.setField (Sys2Proof.setField (Sys2Proof.setField (c.csr csrMstatus) 7 1 (field (c.csr csrMstatus) 3 1)) 3 1 0) 11 2
    (if c.seq.uMode then 0 else 3)
  pc : d.seq.pc = BitVec.ofNat 32 (field (c.csr csrMtvec) 2 30 * 4)
  mode : d.seq.uMode = false
  x : d.seq.x = c.seq.x

theorem Core.trapped_trapM (c : Core) (cause tval : Nat) : c.Trapped (c.trapM false cause tval) cause tval := by
  have hx := Core.trapM_keep Seq.x c (fun _ _ => rfl) (fun _ _ _ => rfl) false cause tval
  rw [Core.trapM_eq] at hx ⊢
  refine ⟨?_, ?_, ?_, ?_, ?_, rfl, hx⟩
  · simp [Core.csr_goesTo, Core.trapped, Core.csr_setCsr]
  · simp [Core.csr_goesTo, Core.trapped, Core.csr_setCsr]
  · simp [Core.csr_goesTo, Core.trapped, Core.csr_setCsr]
  · simp [Core.csr_goesTo, Core.trapped, Core.csr_setCsr]
  · simp [Core.goesTo]

theorem Core.Trapped.congr {c d e : Core} {cause tval : Nat} (h : c.Trapped d cause tval) (he : e.seq = d.seq) :
    c.Trapped e cause tval := by
  have hcsr (n : Nat) : e.csr n = d.csr n := Core.csr_congr (congrArg Seq.csr he) n
  exact ⟨(hcsr _).trans h.mepc, (hcsr _).trans h.mcause, (hcsr _).trans h.mtval, (hcsr _).trans h.mstatus,
    (congrArg Seq.pc he).trans h.pc, (congrArg Seq.uMode he).trans h.mode, (congrArg Seq.x he).trans h.x⟩

/-- What a command leaves of a core that traps. -/
theorem State.onlyCore_trapped {s t : State} {p cause tval : Nat} {c : Core} (h : s.onlyCore p (c.excepts cause tval) t) :
    c.Trapped (t.chip.core p) cause tval :=
  (Core.trapped_trapM c cause tval).congr ((State.onlyCore_seq h).trans (Core.seq_excepts c cause tval))

/-- Settles O10: WRUNG retires with the rung, or is an illegal instruction. -/
theorem wrungReturnsTheRung : Obligations.WrungReturnsTheRung := by
  intro s p rd rs1 rs2 hs hd h1 h2 c ch l
  refine ⟨fun hch hl => ?rung, fun hbad => ?illegal⟩
  case rung =>
    refine qx_sets hs rfl ⟨hd, h1, h2⟩ ((execQx_wrung _ p hd h1 h2).trans ?_) (Core.setX_stall ..)
    rw [qxWrung, if_neg (not_or.2 ⟨Nat.not_le.2 hch, Nat.not_le.2 hl⟩)]
    rfl
  case illegal =>
    have hx : qxWrung s.chip p (qxWord 1 6 rd rs1 rs2) rd ch l = .trap s.chip illegalCause (qxWord 1 6 rd rs1 rs2) := by
      rw [qxWrung, if_pos hbad]
    refine (qx_excepts hs rfl ⟨hd, h1, h2⟩ ((execQx_wrung _ p hd h1 h2).trans hx)).imp fun t ht => ?_
    have htrap := State.onlyCore_trapped ht
    exact ⟨State.onlyCore_coreOnly ht, htrap.mcause, htrap.mepc, htrap.mode, htrap.x⟩

/-! ### Instructions of the RISC-V set (R254) and interrupts (R262, R577) -/

theorem addi_fields {rd rs1 imm : Nat} (hd : rd < 32) (h1 : rs1 < 32) (hi : imm < 4096) :
    let w := imm * 2 ^ 20 + rs1 * 2 ^ 15 + rd * 2 ^ 7 + 0x13
    field w 0 7 = 0x13 ∧ field w 7 5 = rd ∧ field w 12 3 = 0 ∧ field w 15 5 = rs1 ∧ field w 20 12 = imm := by
  simp only [field, Nat.shiftRight_eq_div_pow]
  refine ⟨?_, ?_, ?_, ?_, ?_⟩ <;> omega

theorem execFetched_addi (s : Chip) (p : Nat) {rd rs1 imm : Nat} (hd : rd < 32) (h1 : rs1 < 32) (hi : imm < 4096) :
    execFetched s p (imm * 2 ^ 20 + rs1 * 2 ^ 15 + rd * 2 ^ 7 + 0x13) 4 =
      .ok (s.setCore p ((s.core p).setX rd ((s.core p).xr rs1 + BitVec.ofInt 32 (signedOf 12 imm)))) ((s.core p).seq.pc + 4) := by
  obtain ⟨kop, kd, k3, k1, ki⟩ := addi_fields hd h1 hi
  have hok : opImmOk (imm * 2 ^ 20 + rs1 * 2 ^ 15 + rd * 2 ^ 7 + 0x13) = true := by simp only [opImmOk, k3]
  simp only [execFetched, execRv, kop, kd, k3, k1, ki, hok, immI, aluOp, show ¬ (4 = 2) by decide, show ¬ (0 = 1 ∨ 0 = 5) by decide,
    if_false, if_true, decide_false, Bool.false_and, Bool.false_eq_true,
    BitVec.ofNat_eq_ofNat]

/-- Settles O12: ADDI sets core p and retires. -/
theorem addiExecutes : Obligations.AddiExecutes := by
  intro s p rd rs1 imm hs hd h1 hi c hf
  have hcore := Chip.core_setCore_self s.chip p (c.setX rd (c.xr rs1 + BitVec.ofInt 32 (signedOf 12 imm)))
  have h := rv_completes hs hf (execFetched_addi s.chip p hd h1 hi) (Chip.sameBut_setCore s.chip p _)
    (by rw [hcore, Core.setX_stall]; exact Chip.seqRuns_stall hs.2.2)
  rwa [hcore] at h

end Sys2Proof.Machine
end

section
/-!
PROOFS. Traps of the program and delegated interrupts (08 R254, R262, R577).
-/
namespace Sys2Proof.Machine

theorem execFetched_ecall (s : Chip) (p : Nat) (hmode : (s.core p).seq.uMode = true) : execFetched s p 0x73 4 = .trap s 8 0 := by
  have hop : field 0x73 0 7 = 0x73 ∧ field 0x73 7 5 = 0 ∧ field 0x73 12 3 = 0 ∧ field 0x73 15 5 = 0 ∧ field 0x73 20 12 = 0 := by decide
  obtain ⟨kop, kd, k3, k1, ki⟩ := hop
  simp only [execFetched, execRv, execSystem, kop, kd, k3, k1, ki, hmode, show ¬ (4 = 2) by decide, if_false, if_true, ne_eq,
    not_true_eq_false, or_self]

/-- The fields of mstatus that a trap of the program leaves. -/
theorem Core.Trapped.mstatus_fields {c d : Core} {cause tval : Nat} (h : c.Trapped d cause tval) (hmode : c.seq.uMode = true) :
    field (d.csr csrMstatus) 11 2 = 0 ∧ field (d.csr csrMstatus) 3 1 = 0 ∧
      field (d.csr csrMstatus) 7 1 = field (c.csr csrMstatus) 3 1 := by
  rw [h.mstatus, hmode, if_pos rfl]
  refine ⟨field_setField .., ?_, ?_⟩
  · rw [field_setField_below _ _ _ _ _ _ (by decide), field_setField]
    rfl
  · rw [field_setField_below _ _ _ _ _ _ (by decide), field_setField_above _ _ _ _ _ _ (by decide), field_setField]
    exact Nat.mod_eq_of_lt (field_lt ..)

/-- What a delegated interrupt writes. -/
theorem Core.delegated_takeDelegated (c : Core) (n : Nat) :
    (c.takeDelegated n).csr csrQxepc = c.seq.pc.toNat ∧ (c.takeDelegated n).csr csrQxcause = n ∧
      (c.takeDelegated n).csr csrQxstatus = field (c.csr csrQxstatus) 0 1 * 2 ∧
      (c.takeDelegated n).seq.pc = BitVec.ofNat 32 (c.csr csrQxtvec) ∧ (c.takeDelegated n).seq.uMode = c.seq.uMode ∧
      (c.takeDelegated n).seq.x = c.seq.x := by
  refine ⟨?_, ?_, ?_, ?_, ?_, Core.takeDelegated_keep Seq.x c (fun _ _ => rfl) (fun _ _ _ => rfl) n⟩
  · simp [Core.takeDelegated, Core.csr_goesTo, Core.delegated, Core.csr_setCsr]
  · simp [Core.takeDelegated, Core.csr_goesTo, Core.delegated, Core.csr_setCsr]
  · simp [Core.takeDelegated, Core.csr_goesTo, Core.delegated, Core.csr_setCsr]
  · simp [Core.takeDelegated, Core.goesTo, Core.delegated, Core.csr_setCsr]
  · exact Core.delegated_keep Seq.uMode c (fun _ _ => rfl) n

/-- The lowest interrupt that is pending and reaches the core. -/
theorem Chip.localPending_eq {s : Chip} {p k : Nat} (hstall : (s.core p).seq.stall = none) (hk : k < 5)
    (hpend : bitOf (s.mip p) (16 + k) = true) (hto : ((s.core p).intTarget (16 + k)).isSome = true)
    (hlow : ∀ j, j < k → (bitOf (s.mip p) (16 + j) && ((s.core p).intTarget (16 + j)).isSome) = false) :
    s.localPending p = some k := by
  unfold Chip.localPending
  rw [Chip.endStall_core hstall, List.find?_range_eq_some]
  exact ⟨by rw [hpend, hto]; rfl, List.mem_range.2 hk, fun j hj => by rw [hlow j hj]; rfl⟩

/-- Settles O13: an ECALL and a QXRET in M-mode trap, and a delegated interrupt is taken by `localInterruptCmd_delegated`. -/
theorem trapsEnterTheMonitor : Obligations.TrapsEnterTheMonitor := by
  refine ⟨fun s p hs => ?ecall, fun s p hs hmode => ?qxret, fun s p k ha hp => ?interrupt⟩
  case ecall =>
    intro c hmode hf
    refine (rv_traps hs hf (execFetched_ecall s.chip p hmode)).imp fun t ht => ⟨State.onlyCore_coreOnly ht, ?_⟩
    have htrap : c.Trapped (t.chip.core p) 8 0 := State.onlyCore_trapped ht
    obtain ⟨hmpp, hmie, hmpie⟩ := htrap.mstatus_fields hmode
    refine ⟨htrap.mepc, htrap.mcause, htrap.mtval, hmpp, hmie, hmpie, htrap.mode, htrap.pc, htrap.x, ?_⟩
    have hraised := (State.onlyCore_settles ht).keep Core.raised fun _ _ => rfl
    rw [if_pos hmode] at hraised
    exact hraised
  case qxret =>
    rw [← Core.excepts_monitor hmode]
    refine qx_excepts hs rfl (by decide) ((execQx_qxret _ p).trans ?_)
    rw [qxQxret, hmode, if_pos (by decide)]
  case interrupt =>
    intro c hrun hstall hk hpend hto hlow
    have hcore := Chip.endStall_core hstall
    have hcmd := localInterruptCmd_delegated (hcore ▸ hrun)
      (Chip.localPending_eq hstall (by omega) hpend (by rw [hto]; rfl) hlow) (hcore ▸ hto)
    rw [hcore] at hcmd
    refine (completes_onlyCore hp (State.active_core ha) rfl (hcmd ▸ Chip.sameBut_setCore _ _ _)
      (hcmd ▸ Chip.core_setCore_self _ _ _)).imp fun t ht => ⟨State.onlyCore_coreOnly ht, ?_⟩
    have hseq := State.onlyCore_seq ht
    have hcsr (n : Nat) := Core.csr_congr (congrArg Seq.csr hseq) n
    rw [hcsr, hcsr, hcsr, hseq]
    exact c.delegated_takeDelegated (16 + k)

end Sys2Proof.Machine
end

section
/-!
PROOFS. Free grant handles, and instructions that change the part beside their core (08 R272).
-/
namespace Sys2Proof.Machine

/-! ### Grants (R272)

Handles go round from 1 to 65,535 (`handleAt`); the first of the order that is not outstanding is taken. -/

/-- The handle `k` places after `h` in the order of R272. -/
def handleAt (h k : Nat) : Nat := (h - 1 + k) % 65535 + 1

theorem handleAt_inj {h i j : Nat} (hi : i < 65535) (hj : j < 65535) (he : handleAt h i = handleAt h j) : i = j := by
  unfold handleAt at he
  omega

/-- The search answers a handle of the order, which is free unless every one before it is outstanding. -/
theorem Core.nextFree_eq (c : Core) (n h : Nat) (h1 : 1 ≤ h) (h2 : h < 65536) :
    ∃ k ≤ n, c.nextFree n h = handleAt h k ∧ (∀ j < k, ∃ g ∈ c.grants, g.handle = handleAt h j) ∧
      (k < n → ∀ g ∈ c.grants, g.handle ≠ handleAt h k) := by
  induction n generalizing h with
  | zero => exact ⟨0, le_rfl, by simp only [Core.nextFree, handleAt]; omega, by simp, by simp⟩
  | succ n ih =>
    have hself : handleAt h 0 = h := by unfold handleAt; omega
    by_cases hany : c.grants.any (fun g => g.handle == h) = true
    · let h' := if h = 65535 then 1 else h + 1
      have hsucc (j : Nat) : handleAt h' j = handleAt h (j + 1) := by simp only [h', handleAt]; split <;> omega
      obtain ⟨k, hk, heq, hall, hfree⟩ := ih h' (by simp only [h']; split <;> omega) (by simp only [h']; split <;> omega)
      refine ⟨k + 1, by omega, ?_, fun j hj => ?_, fun hlt => ?_⟩
      · rw [Core.nextFree, if_pos hany, heq, hsucc]
      · cases j with
        | zero => rw [hself]; simpa using hany
        | succ j => rw [← hsucc]; exact hall j (by omega)
      · rw [← hsucc]; exact hfree (by omega)
    · refine ⟨0, by omega, ?_, by simp, fun _ g hg he => hany ?_⟩
      · rw [Core.nextFree, if_neg hany, hself]
      · exact List.any_eq_true.2 ⟨g, hg, by rw [he, hself]; exact beq_self_eq_true h⟩

/-- With fewer grants than places searched a free handle is found. -/
theorem Core.nextFree_free (c : Core) {n h : Nat} (h1 : 1 ≤ h) (h2 : h < 65536) (hn : n ≤ 65535) (hlen : c.grants.length < n) :
    1 ≤ c.nextFree n h ∧ c.nextFree n h < 65536 ∧ ∀ g ∈ c.grants, g.handle ≠ c.nextFree n h := by
  obtain ⟨k, hk, heq, hall, hfree⟩ := c.nextFree_eq n h h1 h2
  have hused : ((List.range k).map (handleAt h)) ⊆ c.grants.map (·.handle) := by
    intro x hx
    obtain ⟨j, hj, rfl⟩ := List.mem_map.1 hx
    obtain ⟨g, hg, he⟩ := hall j (List.mem_range.1 hj)
    exact List.mem_map.2 ⟨g, hg, he⟩
  have hnodup : ((List.range k).map (handleAt h)).Nodup :=
    List.Nodup.map_on (fun i hi j hj he => handleAt_inj (by have := List.mem_range.1 hi; omega) (by have := List.mem_range.1 hj; omega) he)
      List.nodup_range
  have hcount := (List.subperm_of_subset hnodup hused).length_le
  simp only [List.length_map, List.length_range] at hcount
  rw [heq]
  exact ⟨by unfold handleAt; omega, by unfold handleAt; omega, hfree (by omega)⟩

/-! A grant changes the part beside its core: what a queue-extension instruction that retires leaves of it. -/

/-- The instruction makes core p `d` and retires; of the rest of the part nothing changes beside what it has done to `m`. -/
theorem qx_retires_chip {i : Instr} {s : State} {p f7 f3 rd rs1 rs2 : Nat} {m : Chip} {d : Core} {pc : Word} (hs : s.sequencing p)
    (he : exec i s = s.actQx p f7 f3 rd rs1 rs2) (hr : rd < 32 ∧ rs1 < 32 ∧ rs2 < 32)
    (hx : execQx s.chip p (qxWord f7 f3 rd rs1 rs2) = .ok m pc) (hcore : m.core p = d)
    (hstall : d.seq.stall = (s.chip.core p).seq.stall) :
    Completes i s fun t => (d.retired pc).SettlesTo (t.chip.core p) ∧ (∀ q, q ≠ p → t.chip.core q = m.core q) ∧
      t.chip.en = m.en ∧ t.chip.regs = m.regs ∧ t.chip.hbm = m.hbm := by
  rw [State.actQx_eq hr.1 hr.2.1 hr.2.2] at he
  have hq := queueCmd_eq (qxWord f7 f3 rd rs1 rs2) hs
  rw [hx] at hq
  obtain ⟨hsame, hret⟩ := seqApply_ok s.chip (w := qxWord f7 f3 rd rs1 rs2) (len := 4) (pc := pc) (Chip.sameBut_refl p m)
    (by rw [hcore, hstall]; exact Chip.seqRuns_stall hs.2.2)
  obtain ⟨hothers, hrest⟩ := hsame
  rw [hcore] at hret
  rw [← hq] at hret hothers hrest
  refine ⟨_, he.trans (State.actCore_next hs.2.1 (State.active_core hs.1) _), ?_, fun q hq => ?_, ?_, ?_, ?_⟩
  · show Core.SettlesTo _ ((s.chip.settleCore _ p).core p)
    rw [Chip.settleCore_core, hret]
    exact Core.SettlesTo.of_settled _ _ _
  · exact (Chip.core_settleCore_ne _ _ hq).trans (hothers q hq)
  · exact (Chip.settleCore_en _ _ p).trans (by rw [hrest])
  · exact (Chip.settleCore_regs _ _ p).trans (by rw [hrest])
  · exact (Chip.settleCore_hbm _ _ p).trans (by rw [hrest])

end Sys2Proof.Machine
end

section
/-!
PROOFS. The grant instructions and DBELL (08 R270, R272; 12 R413, R446).
-/
namespace Sys2Proof.Machine

/-- A core with a grant requested under handle `h`, which register `rd` has. -/
def Core.requests (c : Core) (h nj rd : Nat) : Core :=
  Core.setX { c with grants := c.grants ++ [{ handle := h, state := 1, nj := nj }], nextHandle := if h = 65535 then 1 else h + 1 } rd
    (BitVec.ofNat 32 h)

theorem Core.grants_requests (c : Core) (h nj rd : Nat) :
    (c.requests h nj rd).grants = c.grants ++ [{ handle := h, state := 1, nj := nj }] :=
  Core.setX_keep Core.grants (fun _ _ => rfl) _ rd _

theorem Core.xr_requests (c : Core) (h nj rd i : Nat) :
    (c.requests h nj rd).xr i = if i = rd ∧ rd ≠ 0 then BitVec.ofNat 32 h else c.xr i := Core.xr_setX ..

theorem Core.stall_requests (c : Core) (h nj rd : Nat) : (c.requests h nj rd).seq.stall = c.seq.stall := Core.setX_stall ..

/-- The part once core p has requested `nj` under handle `h`. -/
def Chip.requests (s : Chip) (p h nj rd : Nat) : Chip :=
  { s.setCore p ((s.core p).requests h nj rd) with en := { s.en with sent := s.en.sent ++ [{ p := p, handle := h, nj := nj }] } }

theorem Chip.core_requests (s : Chip) (p h nj rd q : Nat) :
    (s.requests p h nj rd).core q = if q = p then (s.core p).requests h nj rd else s.core q := Chip.core_setCore ..

theorem qxGreq_requests {s : Chip} {p nj : Nat} (w rd : Nat) (hnj : nj ≠ 0) (hroom : (s.core p).openGrants < 64) :
    qxGreq s p w rd nj = .ok (s.requests p ((s.core p).nextFree 65 (s.core p).nextHandle) nj rd) (s.pcNext p) := by
  unfold qxGreq
  simp only [if_neg hnj, if_neg (Nat.not_le.2 hroom)]
  congr 1
  show (s.requests p _ nj rd).pcNext p = s.pcNext p
  rw [Chip.pcNext, Chip.core_requests, if_pos rfl]
  exact congrArg (· + 4) (Core.setX_pc ..)

/-! ### Doorbells (R270; 12 R413, R446) -/

theorem andNot32_zero {a : Nat} (h : a < 2 ^ 32) : andNot32 a 0 = a := by
  show a &&& (2 ^ 32 - 1) = a
  exact Nat.and_two_pow_sub_one_of_lt_two_pow h

theorem Chip.mbxSide_seqAgent (s : Chip) (p : Nat) : s.mbxSide (.core p) (s.seqAgent p) 0 = some false := by
  unfold Chip.seqAgent
  split <;> exact if_pos rfl

/-- The program rings the lower 16 doorbells, the monitor all of them. -/
theorem userBits_seqAgent {s : Chip} {p ch : Nat} (hch : ch < 32) (huser : (s.core p).seq.uMode = true → ch < 16) :
    userBits (.core p) (s.seqAgent p) (2 ^ ch) = 2 ^ ch := by
  unfold Chip.seqAgent
  split
  · exact Nat.mod_eq_of_lt (Nat.pow_lt_pow_right (by decide) (huser ‹_›))
  · exact Nat.mod_eq_of_lt (Nat.pow_lt_pow_right (by decide) hch)

/-- A core's sequencer sets one bit of its doorbell register. -/
theorem mbxDbCmd_seqAgent {s : Chip} {p ch : Nat} (hch : ch < 32) (huser : (s.core p).seq.uMode = true → ch < 16)
    (hreg : (s.core p).reg 0x80000 < 2 ^ 32) : mbxDbCmd s (.core p) false (s.seqAgent p) 0 (2 ^ ch) 0 =
      s.setCore p ((s.core p).setReg 0x80000 ((s.core p).reg 0x80000 ||| 2 ^ ch)) := by
  unfold mbxDbCmd
  simp only [Chip.mbxSide_seqAgent, userBits_seqAgent hch huser, beq_self_eq_true, if_true]
  have hset : (2 : Nat) ^ ch % 2 ^ 32 = 2 ^ ch := Nat.mod_eq_of_lt (Nat.pow_lt_pow_right (by decide) hch)
  have hkeep : andNot32 (s.mbxRd (.core p) 0) 0 = (s.core p).reg 0x80000 := andNot32_zero hreg
  simp only [Chip.doorbell, Chip.notify, Bool.false_eq_true, if_false, hset, hkeep]
  rfl

/-- Settles O11: GREQ requests under a free handle, GSTAT and GREL answer by the handle's state, and DBELL sets its bit. -/
theorem grantAndDoorbellInstructions : Obligations.GrantAndDoorbellInstructions := by
  refine ⟨fun s p rd rs1 hs hd h1 => ?grants, fun s p rs1 hs h1 => ?doorbell⟩
  case grants =>
    intro c v
    refine ⟨fun hnj hlen hnext hnext0 => ?request, fun hv => ?state, fun hv hst => ?release, fun hv hst hmode => ?refused⟩
    case request =>
      obtain ⟨hlow, hhigh, hfree⟩ := c.nextFree_free (Nat.pos_of_ne_zero hnext0) hnext (by decide) (Nat.lt_succ_of_lt hlen)
      have hopen : c.openGrants < 64 := Nat.lt_of_le_of_lt (List.length_filter_le ..) hlen
      refine (qx_retires_chip hs rfl ⟨hd, h1, by decide⟩ ((execQx_greq _ p hd h1).trans (qxGreq_requests _ rd hnj hopen))
        ((Chip.core_requests ..).trans (if_pos rfl)) (Core.stall_requests ..)).imp fun t ⟨hset, hothers, hen, hregs, hhbm⟩ =>
          ⟨_, hlow, hhigh, hfree, ?_, fun i => ?_, congrArg Energy.sent hen, fun q hq => ?_, hregs, hhbm⟩
      · exact (hset.keep Core.grants fun _ _ => rfl).trans (Core.grants_requests ..)
      · rw [Core.xr_congr (congrArg Seq.x (hset.keep Core.seq fun _ _ => rfl))]
        exact Core.xr_requests ..
      · rw [hothers q hq, Chip.core_requests, if_neg hq]
    case state =>
      refine qx_sets hs rfl ⟨hd, h1, by decide⟩ ((execQx_gstat _ p hd h1).trans ?_) (Core.setX_stall ..)
      rw [qxGstat, if_neg (Nat.not_le.2 hv)]
      rfl
    case release =>
      obtain ⟨gr, hcore, hspent, hothers, hhbm⟩ := releaseGrant_keep s.chip p v
      have hx : qxGrel s.chip p (qxWord 2 7 0 rs1 0) v = .ok (s.chip.releaseGrant p v) (c.seq.pc + 4) := by
        unfold qxGrel
        rw [if_neg (not_or.2 ⟨Nat.not_le.2 hv, not_not.2 hst⟩)]
        rfl
      refine (qx_retires_chip hs rfl ⟨by decide, h1, by decide⟩ ((execQx_grel _ p h1).trans hx) hcore rfl).imp
        fun t ⟨hset, hrest, _, _, hmem⟩ => ⟨?_, hset.keep (·.seq.pc) fun _ _ => rfl, fun q hq => (hrest q hq).trans (hothers q hq),
          hmem.trans hhbm⟩
      exact (hset.keep (·.grantState v) fun _ _ => rfl).trans hspent
    case refused =>
      rw [← Core.excepts_monitor hmode]
      refine qx_excepts hs rfl ⟨by decide, h1, by decide⟩ ((execQx_grel _ p h1).trans ?_)
      unfold qxGrel
      rw [if_pos (.inr (by simp only [v, c] at hst; omega))]
  case doorbell =>
    intro c ch hch huser hopen hreg
    refine qx_sets hs rfl ⟨by decide, h1, by decide⟩ ((execQx_dbell _ p h1).trans ?_) rfl
    rw [qxDbell, if_neg (not_or.2 ⟨Nat.not_le.2 hch, fun h => Nat.not_le.2 (huser h.1) h.2⟩), hopen, if_neg Bool.false_ne_true,
      mbxDbCmd_seqAgent hch huser hreg]
    rfl

end Sys2Proof.Machine
end

section
/-!
PROOFS. Time runs on: what the engines and timers leave of a core, and how far the time base counts (09 R318).
-/
namespace Sys2Proof.Machine

/-! ### What time leaves of a core -/

/-- What `g` reads of a core stays as time runs on: registers outside the engines' blocks, and neither waiting work, engines nor
the progress timer. -/
structure KeptInTime {γ : Type} (g : Core → γ) : Prop where
  reg : ∀ (c : Core) (a v : Nat), 0x10000 ≤ a → g (c.setReg a v) = g c
  work : ∀ (c : Core) ops vuQ ku fwd bwd fe be,
    g { c with ops := ops, vuQ := vuQ, ku := ku, fwd := fwd, bwd := bwd, fe := fe, be := be } = g c
  timer : ∀ (c : Core) n b, g { c with progAt := n, progStopped := b } = g c

namespace KeptInTime

theorem store : KeptInTime Core.store := ⟨fun _ _ _ _ => rfl, fun _ _ _ _ _ _ _ _ => rfl, fun _ _ _ => rfl⟩

theorem lowReg {a : Nat} (ha : a < 0x10000) : KeptInTime (·.reg a) :=
  ⟨fun c b v hb => (Core.reg_setReg c b v a).trans (if_neg (by omega)), fun _ _ _ _ _ _ _ _ => rfl, fun _ _ _ => rfl⟩

variable {γ : Type} {g : Core → γ} (hg : KeptInTime g)
include hg

theorem setEng (c : Core) (be : Bool) (e : Eng) : g (c.setEng be e) = g c := by
  cases be
  · exact hg.work c c.ops c.vuQ c.ku c.fwd c.bwd e c.be
  · exact hg.work c c.ops c.vuQ c.ku c.fwd c.bwd c.fe e

theorem recordHazard (be : Bool) (tick iofs kind reg row iter : Nat) (c : Core) :
    g (Machine.recordHazard be tick iofs kind reg row iter c) = g c := by
  have hbase : 0x10000 ≤ engBase be := by cases be <;> decide
  have hbump := hg.reg c (engBase be + 0x68) ((c.reg (engBase be + 0x68) + 1) % 2 ^ 64) (by omega)
  unfold Machine.recordHazard
  extract_lets b d st
  split
  · exact (hg.reg _ _ _ (by omega)).trans hbump
  · exact (hg.reg _ _ _ (by omega)).trans ((hg.reg _ _ _ (by omega)).trans hbump)

theorem runEng (c : Core) (be : Bool) (tk : Nat → Nat) (cyc : Nat) : g (c.runEng be tk cyc) = g c := by
  unfold Core.runEng Core.hazardsTo
  exact (foldl_keep g _ (fun c h => hg.recordHazard _ _ _ _ _ _ _ c) _ _).trans ((hg.setEng _ be _).trans (hg.setEng c be _))

theorem coreRun (s : Chip) (p t0 q : Nat) : g ((s.coreRun p t0).core q) = g (s.core q) := by
  unfold Chip.coreRun Core.runEngines
  rw [Chip.core_setCore]
  split
  · subst q
    exact (hg.runEng ..).trans ((hg.runEng ..).trans (hg.work (s.core p) ..))
  · rfl

theorem progTicks (s : Chip) (n q : Nat) : g ((s.progTicks n).core q) = g (s.core q) := by
  have hon (s : Chip) (p : Nat) (f : Core → Core) (hf : ∀ c, g (f c) = g c) : g ((s.onCore p f).core q) = g (s.core q) := by
    rw [Chip.core_onCore]
    split
    · subst q
      exact hf _
    · rfl
  unfold Chip.progTicks
  split
  · rfl
  · refine foldl_keep (fun s : Chip => g (s.core q)) _ (fun s x => ?_) _ _
    dsimp only
    split
    · exact hon _ _ _ fun c => hg.timer c c.progAt true
    · split
      · exact hon _ _ _ fun c => hg.timer c (c.progAt + n) c.progStopped
      · rfl

theorem ctbRun (s : Chip) (n q : Nat) : g ((s.ctbRun n).core q) = g (s.core q) := by
  by_cases h : s.ticking = true
  · rw [Chip.ctbRun_eq s n h]
    exact (foldl_keep (fun s : Chip => g (s.core q)) _ (fun s p => hg.coreRun s p _ q) _ _).trans (hg.progTicks _ _ q)
  · unfold Chip.ctbRun
    rw [if_pos (by simp [h])]
    split <;> rfl

theorem runTo (s : Chip) (t q : Nat) : g ((s.runTo t).core q) = g (s.core q) := by
  unfold Chip.runTo
  split
  · rfl
  · exact hg.ctbRun s _ q

end KeptInTime

/-! ### How far the time base counts -/

theorem State.up.ticking {s : State} (h : s.up) : s.chip.ticking = true := by
  obtain ⟨hpower, hrst⟩ := h
  unfold Chip.ticking
  rcases hpower with hp | hp <;> rw [hp, hrst] <;> rfl

theorem Chip.hbm_ctbRun (s : Chip) (n : Nat) : (s.ctbRun n).hbm = s.hbm :=
  Chip.ctbRun_keep Chip.hbm (fun _ _ _ => rfl) (fun _ _ _ _ => rfl) (fun _ _ => rfl) s n

theorem Chip.hbm_runTo (s : Chip) (t : Nat) : (s.runTo t).hbm = s.hbm := by
  unfold Chip.runTo
  split
  · rfl
  · exact Chip.hbm_ctbRun s _

theorem Chip.now_ctbRun {s : Chip} (n : Nat) (h : s.ticking = true) :
    (s.ctbRun n).now = (s.now + (s.trimSum n / 2 ^ 32).toNat) % 2 ^ 64 :=
  (Chip.ctbRun_reg s n _ h).trans (Chip.ctbAdd_now ..)

/-- The least count of cycles of `rate` that covers `x`. -/
theorem ceilDiv_mul_bounds {x rate : Nat} (h : 0 < rate) : x ≤ ceilDiv x rate * rate ∧ ceilDiv x rate * rate < x + rate := by
  unfold ceilDiv
  have hle := Nat.div_mul_le_self (x + rate - 1) rate
  have hlt := Nat.lt_div_mul_add (a := x + rate - 1) h
  omega

/-- The cycles up to a tick `d` ticks ahead add `d` ticks, or one more. -/
theorem Chip.trimSum_cyclesFor {s : Chip} {d : Nat} (htrim : s.trimOk) (hd : 0 < d) :
    d ≤ (s.trimSum (s.cyclesFor d) / 2 ^ 32).toNat ∧ (s.trimSum (s.cyclesFor d) / 2 ^ 32).toNat ≤ d + 1 := by
  obtain ⟨hfrac, hhi, hlo⟩ := htrim
  unfold Chip.trimSum Chip.cyclesFor
  dsimp only
  generalize signedOf 32 (field (s.reg rCTB_TRIM) 0 32) = r at hhi hlo ⊢
  obtain ⟨rate, hrate⟩ : ∃ rate : Nat, (2 : Int) ^ 32 + r = rate := ⟨(2 ^ 32 + r).toNat, by omega⟩
  rw [hrate, Int.toNat_natCast]
  obtain ⟨hge, hlt⟩ := ceilDiv_mul_bounds (x := d * 2 ^ 32 - s.ctbFrac) (rate := rate) (by omega)
  generalize ceilDiv (d * 2 ^ 32 - s.ctbFrac) rate = n at hge hlt ⊢
  rw [← Nat.cast_mul]
  generalize n * rate = m at hge hlt ⊢
  omega

/-- Time that runs on to tick `t` reaches it. -/
theorem Chip.le_now_runTo {s : Chip} {t : Nat} (htick : s.ticking = true) (htrim : s.trimOk)
    (ht : t < 2 ^ 63) : t ≤ (s.runTo t).now := by
  unfold Chip.runTo
  split
  · omega
  · rename_i hlate
    obtain ⟨hlow, hhigh⟩ := Chip.trimSum_cyclesFor htrim (d := t - s.now) (by omega)
    rw [Chip.now_ctbRun _ htick]
    omega

/-- A trim adjustment is the next cycle on which the fractional sum carries or borrows: it counts one. -/
theorem Chip.trimSum_adjust {s : Chip} (htrim : s.trimOk) :
    let r := signedOf 32 (field (s.reg rCTB_TRIM) 0 32)
    (0 < r → (s.trimSum (ceilDiv (2 ^ 32 - s.ctbFrac) r.toNat) / 2 ^ 32 - ceilDiv (2 ^ 32 - s.ctbFrac) r.toNat).natAbs = 1) ∧
    (r < 0 → (s.trimSum (s.ctbFrac / (-r).toNat + 1) / 2 ^ 32 - ((s.ctbFrac / (-r).toNat + 1 : Nat) : Int)).natAbs = 1) := by
  obtain ⟨hfrac, hhi, hlo⟩ := htrim
  unfold Chip.trimSum
  generalize signedOf 32 (field (s.reg rCTB_TRIM) 0 32) = r at hhi hlo ⊢
  refine ⟨fun hpos => ?_, fun hneg => ?_⟩
  · obtain ⟨k, rfl⟩ := Int.eq_ofNat_of_zero_le hpos.le
    rw [Int.toNat_natCast]
    obtain ⟨hge, hlt⟩ := ceilDiv_mul_bounds (x := 2 ^ 32 - s.ctbFrac) (rate := k) (by omega)
    generalize ceilDiv (2 ^ 32 - s.ctbFrac) k = n at hge hlt ⊢
    rw [mul_add, ← Nat.cast_mul]
    generalize n * k = m at hge hlt ⊢
    omega
  · obtain ⟨k, hk⟩ := Int.eq_ofNat_of_zero_le (neg_nonneg.2 hneg.le)
    obtain rfl : r = -(k : Int) := by omega
    rw [neg_neg, Int.toNat_natCast]
    have hle := Nat.div_mul_le_self s.ctbFrac k
    have hlt := Nat.lt_div_mul_add (a := s.ctbFrac) (b := k) (by omega)
    generalize s.ctbFrac / k = n at hle hlt ⊢
    have hsplit : ((n + 1 : Nat) : Int) * (2 ^ 32 + -(k : Int)) = (n + 1 : Nat) * 2 ^ 32 - ((n * k : Nat) : Int) - k := by
      push_cast
      ring
    rw [hsplit]
    generalize n * k = m at hle hlt ⊢
    omega

end Sys2Proof.Machine
end

section
/-!
PROOFS. Holdover, the trim adjustment, the compare interrupt and the IEEE 1588 message (08 R261; 09 R318, R322; 17 R567).
-/
namespace Sys2Proof.Machine

theorem bitOf_eq_field (x i : Nat) : field x i 1 = b2n (bitOf x i) := by
  simp only [field, bitOf, Nat.shiftRight_eq_div_pow, pow_one, Nat.testBit_eq_decide_div_mod_eq]
  have h : x / 2 ^ i % 2 < 2 := Nat.mod_lt _ (by decide)
  interval_cases x / 2 ^ i % 2 <;> rfl

/-- A command of the always-on domain that changes the part by `f`. -/
theorem completes_always {i : Instr} {s : State} {post : State → Prop} (f : Chip → Chip) (he : exec i s = s.act .always f)
    (hpost : post { s with chip := f s.chip }) : Completes i s post :=
  ⟨_, he.trans (State.act_next rfl f), hpost⟩

/-! ### Holdover (R322) -/

theorem refclkLossCmd_enters {s : Chip} (htick : s.ticking = true) (hin : bitOf (s.reg rCTB_STAT) 1 = false) :
    refclkLossCmd s = { (s.setField rCTB_STAT 0 3 2).raise evHoldover 0 0 with holdAt := s.now } := by
  rw [refclkLossCmd, htick, hin]
  rfl

theorem refclkLossCmd_regs {s : Chip} (htick : s.ticking = true) (hin : bitOf (s.reg rCTB_STAT) 1 = false) :
    (refclkLossCmd s).regs = (s.setReg rCTB_STAT (Sys2Proof.setField (s.reg rCTB_STAT) 0 3 2)).regs := by
  rw [refclkLossCmd_enters htick hin]
  rfl

theorem refclkLossCmd_stat {s : Chip} (htick : s.ticking = true) (hin : bitOf (s.reg rCTB_STAT) 1 = false) :
    field ((refclkLossCmd s).reg rCTB_STAT) 0 3 = 2 := by
  rw [Chip.reg, refclkLossCmd_regs htick hin]
  exact (congrArg (field · 0 3) (Chip.reg_setReg_self s rCTB_STAT _)).trans (field_setField _ 0 3 2)

/-- CTB_STAT after a relock from `x`: bit 1 gives way to bit 0, the relocks are counted, and bit 2 is the master's. -/
def relockStat (x : Nat) : Nat :=
  let y := setField x 0 2 1
  let z := setField y 16 16 (min (field y 16 16 + 1) (2 ^ 16 - 1))
  setField z 2 1 (field z 3 1)

theorem relockStat_fields (x : Nat) : field (relockStat x) 0 2 = 1 ∧
    field (relockStat x) 16 16 = min (field x 16 16 + 1) (2 ^ 16 - 1) ∧ bitOf (relockStat x) 2 = bitOf x 3 := by
  unfold relockStat
  dsimp only
  refine ⟨?_, ?_, ?_⟩
  · rw [field_setField_below _ _ _ _ _ _ (by decide), field_setField_below _ _ _ _ _ _ (by decide), field_setField]
    rfl
  · rw [field_setField_above _ _ _ _ _ _ (by decide), field_setField, field_setField_above _ _ _ _ _ _ (by decide)]
    exact Nat.mod_eq_of_lt (by omega)
  · rw [field_setField_below _ 16 16 _ 3 1 (by decide), field_setField_above _ 0 2 _ 3 1 (by decide), bitOf_eq_field,
      bitOf_setField_self]

theorem holdoverRelockCmd_reg {s : Chip} (hin : bitOf (s.reg rCTB_STAT) 1 = true) (hnow : s.now ≤ s.holdAt + holdoverTicks) :
    (holdoverRelockCmd s).reg rCTB_STAT = relockStat (s.reg rCTB_STAT) ∧ (holdoverRelockCmd s).cores = s.cores := by
  unfold holdoverRelockCmd
  rw [hin, if_neg (not_or.2 ⟨by decide, Nat.not_lt.2 hnow⟩)]
  refine ⟨?_, rfl⟩
  simp only [Chip.setField, Chip.countTo, Chip.reg_setReg_self]
  rfl

theorem holdoverTimeoutCmd_eq {s : Chip} (hin : bitOf (s.reg rCTB_STAT) 1 = true) :
    holdoverTimeoutCmd s = (s.runTo (s.holdAt + holdoverTicks)).raise evTbFail 0 0 := by
  rw [holdoverTimeoutCmd, hin]
  rfl

theorem Chip.now_raise (s : Chip) (ev inst detail : Nat) : (s.raise ev inst detail).now = s.now := rfl

theorem Chip.mem_raised_raise (s : Chip) (ev inst detail : Nat) : (ev, inst, detail) ∈ (s.raise ev inst detail).raised :=
  List.mem_append_right _ (List.mem_singleton.2 rfl)

theorem Chip.hbm_raise (s : Chip) (ev inst detail : Nat) : (s.raise ev inst detail).hbm = s.hbm := rfl

theorem holdover_lt {t : Nat} (ht : t < 2 ^ 62) : t + holdoverTicks < 2 ^ 63 :=
  Nat.lt_of_lt_of_le (Nat.add_lt_add_right ht _) (by decide)

theorem holdoverTimeoutCmd_spec {s : Chip} (htick : s.ticking = true) (htrim : s.trimOk) (hin : bitOf (s.reg rCTB_STAT) 1 = true)
    (hhold : s.holdAt < 2 ^ 62) :
    (evTbFail, 0, 0) ∈ (holdoverTimeoutCmd s).raised ∧ s.holdAt + holdoverTicks ≤ (holdoverTimeoutCmd s).now ∧
      (holdoverTimeoutCmd s).hbm = s.hbm := by
  rw [holdoverTimeoutCmd_eq hin, Chip.now_raise]
  exact ⟨Chip.mem_raised_raise .., Chip.le_now_runTo htick htrim (holdover_lt hhold), (Chip.hbm_raise ..).trans (Chip.hbm_runTo ..)⟩

/-! ### The trim adjustment (R318) -/

theorem trimAdjustCmd_counts {s : Chip} (htick : s.ticking = true) (htrim : s.trimOk)
    (hr : signedOf 32 (field (s.reg rCTB_TRIM) 0 32) ≠ 0) :
    (trimAdjustCmd s).reg rCTB_ADJ_CNT = (s.reg rCTB_ADJ_CNT + 1) % 2 ^ 64 ∧ (trimAdjustCmd s).hbm = s.hbm := by
  obtain ⟨hplus, hminus⟩ := Chip.trimSum_adjust htrim
  have hcount (n : Nat) (h : (s.trimSum n / 2 ^ 32 - n).natAbs = 1) :
      (s.ctbRun n).reg rCTB_ADJ_CNT = (s.reg rCTB_ADJ_CNT + 1) % 2 ^ 64 := by
    rw [Chip.ctbRun_reg s n _ htick, Chip.ctbAdd_adj, h]
  rcases lt_or_gt_of_ne hr with hneg | hpos
  · rw [trimAdjustCmd, if_neg (by omega), if_pos hneg]
    exact ⟨hcount _ (hminus hneg), Chip.hbm_ctbRun ..⟩
  · rw [trimAdjustCmd, if_pos hpos]
    exact ⟨hcount _ (hplus hpos), Chip.hbm_ctbRun ..⟩

/-! ### The compare interrupt (08 R261) -/

theorem bitOf_mip_compare (s : Chip) (p : Nat) :
    bitOf (s.mip p) 19 = decide (s.localTick p ≥ (s.core p).reg rSEQ_CTBCMP) := by
  have hbits : ∀ a b c d e : Bool,
      bitOf (b2n a * 2 ^ 16 + b2n b * 2 ^ 17 + b2n c * 2 ^ 18 + b2n d * 2 ^ 19 + b2n e * 2 ^ 20) 19 = d := by decide
  exact hbits _ _ _ _ _

theorem Chip.le_localTick {s : Chip} {p t : Nat} (h : Chip.dueLocal p t ≤ s.now) : t ≤ s.localTick p := by
  unfold Chip.dueLocal at h
  unfold Chip.localTick
  omega

theorem Chip.now_settleCore (s m : Chip) (p : Nat) : (s.settleCore m p).now = m.now :=
  congrArg (fun l => Map.get chipReset l rCTB_NOW) (Chip.settleCore_regs s m p)

/-- What core p and the others keep once the compare interrupt is pending. -/
theorem settleCore_ctbcmpMatch {s : Chip} {p : Nat} (htick : s.ticking = true) (htrim : s.trimOk)
    (hcmp : (s.core p).reg rSEQ_CTBCMP < 2 ^ 62) :
    let t := s.settleCore (ctbcmpMatchCmd s p) p
    bitOf (t.mip p) 19 = true ∧ t.hbm = s.hbm ∧ ∀ q, (t.core q).store = (s.core q).store := by
  intro t
  have hdue : Chip.dueLocal p ((s.core p).reg rSEQ_CTBCMP) < 2 ^ 63 := by unfold Chip.dueLocal; omega
  have hreach := Chip.le_now_runTo htick htrim hdue
  have hreg : (t.core p).reg rSEQ_CTBCMP = (s.core p).reg rSEQ_CTBCMP := by
    simp only [t, Chip.settleCore_core]
    exact ((Core.SettlesTo.of_settled _ _ _).reg (by decide)).trans ((KeptInTime.lowReg (by decide)).runTo s _ p)
  refine ⟨?_, (Chip.settleCore_hbm ..).trans (Chip.hbm_runTo ..), fun q => ?_⟩
  · rw [bitOf_mip_compare, hreg]
    exact decide_eq_true (Chip.le_localTick (hreach.trans_eq (Chip.now_settleCore ..).symm))
  · refine Eq.trans ?_ (KeptInTime.store.runTo s (Chip.dueLocal p ((s.core p).reg rSEQ_CTBCMP)) q)
    by_cases hq : q = p
    · subst q
      exact settle_keep Core.store (fun _ _ _ _ => rfl) (fun _ _ _ => rfl) (fun _ _ => rfl) s _ p
    · exact congrArg Core.store (Chip.core_settleCore_ne s _ hq)

/-! ### IEEE 1588 (17 R567) -/

/-- A trim of the model's free choice lies within the bounds (log 13). -/
theorem signedOf_trim {k : Nat} (hk : k < 1717987) :
    -858993 ≤ signedOf 32 (wrapInt 32 ((k : Int) - 858993)) ∧ signedOf 32 (wrapInt 32 ((k : Int) - 858993)) ≤ 858993 := by
  unfold signedOf wrapInt
  split <;> omega

/-- The part with the time of a message and of its arrival. -/
def Chip.stamped (s : Chip) (port : Nat) (time : DWord) : Chip := { s with ts := { s.ts with ptp := some (port, s.now, time.toNat) } }

section
variable {s : Chip} {port : Nat} (hport : port < 2) (time : DWord)
include hport

theorem ptpCmd_sets (hready : s.pins.power = .ready) (hmaster : bitOf (s.reg rCTB_STAT) 3 = true) :
    ptpCmd s port (some time) = (s.stamped port time).setReg rCTB_TRIM
      (wrapInt 32 ((Config.free s.now 3 % 1717987 : Nat) - 858993 : Int)) := by
  rw [ptpCmd, if_neg (Nat.not_le.2 hport)]
  exact if_pos (Bool.and_eq_true_iff.2 ⟨beq_iff_eq.2 hready, hmaster⟩)

theorem ptpCmd_stamps (h : ¬ (s.pins.power = .ready ∧ bitOf (s.reg rCTB_STAT) 3 = true)) :
    ptpCmd s port (some time) = s.stamped port time := by
  rw [ptpCmd, if_neg (Nat.not_le.2 hport)]
  exact if_neg fun hand => h ((Bool.and_eq_true_iff.1 hand).imp_left beq_iff_eq.1)

end

/-- A message changes the parts that O41 names only. -/
theorem ptpCmd_spec (s : Chip) {port : Nat} (hport : port < 2) (time : DWord) :
    let t := ptpCmd s port (some time)
    t.cores = s.cores ∧ t.hbm = s.hbm ∧ (∀ a, a ≠ rCTB_TRIM → t.reg a = s.reg a) ∧
    (s.pins.power = .ready → bitOf (s.reg rCTB_STAT) 3 = true →
      -858993 ≤ signedOf 32 (t.reg rCTB_TRIM) ∧ signedOf 32 (t.reg rCTB_TRIM) ≤ 858993) ∧
    (¬ (s.pins.power = .ready ∧ bitOf (s.reg rCTB_STAT) 3 = true) → t.reg rCTB_TRIM = s.reg rCTB_TRIM) := by
  intro t
  by_cases hmaster : s.pins.power = .ready ∧ bitOf (s.reg rCTB_STAT) 3 = true
  · have ht : t = _ := ptpCmd_sets hport time hmaster.1 hmaster.2
    rw [ht]
    refine ⟨rfl, rfl, fun a ha => (Chip.reg_setReg ..).trans (if_neg ha), fun _ _ => ?_, fun h => absurd hmaster h⟩
    rw [Chip.reg_setReg_self]
    exact signedOf_trim (Nat.mod_lt _ (by decide))
  · have ht : t = _ := ptpCmd_stamps hport time hmaster
    rw [ht]
    exact ⟨rfl, rfl, fun _ _ => rfl, fun h1 h2 => absurd ⟨h1, h2⟩ hmaster, fun _ => rfl⟩

/-- Settles O41: each event is its command on the part; the counts are those of `Chip.le_now_runTo` and `Chip.trimSum_adjust`. -/
theorem timeBaseEvents : Obligations.TimeBaseEvents := by
  refine ⟨fun s p hup htrim hnow => ?counts, fun s port time ha hport => ?ptp⟩
  case counts =>
    intro c r
    have htick := hup.ticking
    refine ⟨fun hin => ?loss, fun hin hsoon => ?relock, fun hin hhold => ?timeout, fun hr => ?adjust, fun hp hhold hcmp => ?compare⟩
    case loss =>
      refine completes_always refclkLossCmd rfl ?_
      refine ⟨refclkLossCmd_stat htick hin, ?_⟩
      rw [refclkLossCmd_enters htick hin]
      exact ⟨rfl, rfl, rfl, rfl⟩
    case relock =>
      refine completes_always holdoverRelockCmd rfl ?_
      obtain ⟨hreg, hcores⟩ := holdoverRelockCmd_reg hin hsoon
      obtain ⟨hlow, hcount, hmaster⟩ := relockStat_fields (c.reg rCTB_STAT)
      rw [hreg]
      exact ⟨hlow, hcount, hmaster, hcores⟩
    case timeout => exact completes_always holdoverTimeoutCmd rfl (holdoverTimeoutCmd_spec htick htrim hin hhold)
    case adjust => exact completes_always trimAdjustCmd rfl (trimAdjustCmd_counts htick htrim hr)
    case compare =>
      exact ⟨_, State.actCore_next hp (State.active_core ⟨hup, hhold⟩) _, settleCore_ctbcmpMatch htick htrim hcmp⟩
  case ptp =>
    exact ⟨_, State.act_next (State.active_core ha) (ptpCmd · port (some time)), ptpCmd_spec s.chip hport time⟩

end Sys2Proof.Machine
end

section
/-!
PROOFS. A written register bit by bit (00 R12, R13), and the row of a register among the rows near it.

A row's fields that stand in order write each bit by their own access type, whatever the others do. A row that ends below a range of
addresses, or begins above it, holds no register of the range, so that only the rows near an address are left to look at.
-/
namespace Sys2Proof.Machine

/-! ### Fields by their access types -/

/-- A bit of a field after a write: `o` is its old value, `w` the written one. -/
def Access.bit (locked : Bool) (a : Access) (o w : Bool) : Bool :=
  match a with
  | .ro => o
  | .rw => w
  | .w1s => o || w
  | .w1c => o && !w
  | .wo => false
  | .rwl => if locked then o else w

/-- A field after a write. -/
def RegField.written (locked : Bool) (old w : Nat) (f : RegField) : Nat :=
  match f.acc with
  | .ro => field old f.lo f.n
  | .rw => field w f.lo f.n
  | .w1s => field old f.lo f.n ||| field w f.lo f.n
  | .w1c => field old f.lo f.n &&& (2 ^ f.n - 1 - field w f.lo f.n)
  | .wo => 0
  | .rwl => if locked then field old f.lo f.n else field w f.lo f.n

theorem fieldWrite_eq (locked : Bool) (old w acc : Nat) (f : RegField) :
    fieldWrite locked old w acc f = acc + f.written locked old w * 2 ^ f.lo := rfl

theorem testBit_field {x lo n i : Nat} (hi : i < n) : (field x lo n).testBit i = bitOf x (lo + i) := by
  rw [field, Nat.testBit_mod_two_pow, Nat.testBit_shiftRight, decide_eq_true hi, Bool.true_and, bitOf]

theorem RegField.written_lt (locked : Bool) (old w : Nat) (f : RegField) : f.written locked old w < 2 ^ f.n := by
  unfold RegField.written
  split
  case h_1 | h_2 => exact field_lt ..
  case h_3 => exact Nat.or_lt_two_pow (field_lt ..) (field_lt ..)
  case h_4 => exact Nat.lt_of_le_of_lt Nat.and_le_left (field_lt ..)
  case h_5 => exact Nat.two_pow_pos _
  case h_6 => split <;> exact field_lt ..

theorem RegField.testBit_written (locked : Bool) (old w : Nat) (f : RegField) {i : Nat} (hi : i < f.n) :
    (f.written locked old w).testBit i = Access.bit locked f.acc (bitOf old (f.lo + i)) (bitOf w (f.lo + i)) := by
  unfold RegField.written Access.bit
  split
  case h_1 | h_2 => exact testBit_field hi
  case h_3 => rw [Nat.testBit_or, testBit_field hi, testBit_field hi]
  case h_4 =>
    rw [Nat.testBit_and, testBit_field hi, Nat.sub_sub, Nat.add_comm 1, Nat.testBit_two_pow_sub_succ (field_lt ..), testBit_field hi,
      decide_eq_true hi, Bool.true_and]
  case h_5 => exact Nat.zero_testBit i
  case h_6 => split <;> exact testBit_field hi

/-- Do the fields stand in order, from bit `lo` up? -/
def fieldsFrom : Nat → List RegField → Bool
  | _, [] => true
  | lo, f :: fs => decide (lo ≤ f.lo) && fieldsFrom (f.lo + f.n) fs

/-- Bit `k` of `acc + x 2^lo`, for `acc` below bit `lo`. -/
theorem bitOf_add_mul {acc x lo k : Nat} (hacc : acc < 2 ^ lo) : bitOf (acc + x * 2 ^ lo) k = if k < lo then bitOf acc k else bitOf x (k - lo) := by
  rw [Nat.add_comm, Nat.mul_comm]
  exact Nat.testBit_two_pow_mul_add x hacc k

theorem fieldWrite_lt {locked : Bool} {old w acc lo : Nat} {f : RegField} (hacc : acc < 2 ^ lo) (hlo : lo ≤ f.lo) :
    fieldWrite locked old w acc f < 2 ^ (f.lo + f.n) := by
  have hlow : acc < 2 ^ f.lo := hacc.trans_le (Nat.pow_le_pow_right Nat.two_pos hlo)
  have htop : f.written locked old w + 1 ≤ 2 ^ f.n := f.written_lt locked old w
  calc acc + f.written locked old w * 2 ^ f.lo < (f.written locked old w + 1) * 2 ^ f.lo := by rw [Nat.succ_mul]; omega
    _ ≤ 2 ^ f.n * 2 ^ f.lo := Nat.mul_le_mul_right _ htop
    _ = 2 ^ (f.lo + f.n) := by rw [← Nat.pow_add, Nat.add_comm]

/-- The fields from `lo` up leave the bits below. -/
theorem bitOf_foldWrite_below (locked : Bool) (old w : Nat) : ∀ (fs : List RegField) (lo acc k : Nat), fieldsFrom lo fs = true →
    acc < 2 ^ lo → k < lo → bitOf (fs.foldl (fieldWrite locked old w) acc) k = bitOf acc k
  | [], _, _, _, _, _, _ => rfl
  | f :: fs, lo, acc, k, hfs, hacc, hk => by
    obtain ⟨hlo, hrest⟩ := Bool.and_eq_true_iff.1 hfs
    have hlo := of_decide_eq_true hlo
    rw [List.foldl_cons, bitOf_foldWrite_below locked old w fs _ _ k hrest (fieldWrite_lt hacc hlo) (by omega), fieldWrite_eq,
      bitOf_add_mul (hacc.trans_le (Nat.pow_le_pow_right Nat.two_pos hlo)), if_pos (by omega)]

theorem bitOf_foldWrite (locked : Bool) (old w : Nat) {f : RegField} {k : Nat} (hk : f.lo ≤ k ∧ k < f.lo + f.n) :
    ∀ (fs : List RegField) (lo acc : Nat), fieldsFrom lo fs = true → acc < 2 ^ lo → f ∈ fs →
      bitOf (fs.foldl (fieldWrite locked old w) acc) k = Access.bit locked f.acc (bitOf old k) (bitOf w k)
  | g :: fs, lo, acc, hfs, hacc, hf => by
    obtain ⟨hlo, hrest⟩ := Bool.and_eq_true_iff.1 hfs
    have hlo := of_decide_eq_true hlo
    have hlt := fieldWrite_lt (locked := locked) (old := old) (w := w) hacc hlo
    rw [List.foldl_cons]
    rcases List.mem_cons.1 hf with rfl | hf
    · rw [bitOf_foldWrite_below locked old w fs _ _ k hrest hlt hk.2, fieldWrite_eq,
        bitOf_add_mul (hacc.trans_le (Nat.pow_le_pow_right Nat.two_pos hlo)), if_neg (by omega)]
      have hbit := f.testBit_written locked old w (i := k - f.lo) (by omega)
      rwa [Nat.add_sub_cancel' hk.1] at hbit
    · exact bitOf_foldWrite locked old w hk fs _ _ hrest hlt hf

/-- Bit `k` of the row lies in a field of access type `a`. -/
def RegRow.bitIs (r : RegRow) (a : Access) (k : Nat) : Bool :=
  fieldsFrom 0 r.fields && r.fields.any fun f => decide (f.lo ≤ k ∧ k < f.lo + f.n ∧ f.acc = a)

theorem bitOf_regWrite {r : RegRow} {a : Access} {k : Nat} (h : r.bitIs a k = true) (locked : Bool) (old w : Nat) :
    bitOf (regWrite locked r old w) k = Access.bit locked a (bitOf old k) (bitOf w k) := by
  obtain ⟨hfs, hany⟩ := Bool.and_eq_true_iff.1 h
  obtain ⟨f, hf, hk⟩ := List.any_eq_true.1 hany
  obtain ⟨hlo, hhi, rfl⟩ := of_decide_eq_true hk
  exact bitOf_foldWrite locked old w ⟨hlo, hhi⟩ r.fields 0 0 hfs Nat.one_pos hf

theorem field_congr {x y lo n : Nat} (h : ∀ i, i < n → bitOf x (lo + i) = bitOf y (lo + i)) : field x lo n = field y lo n := by
  refine Nat.eq_of_testBit_eq fun i => ?_
  by_cases hi : i < n
  · rw [testBit_field hi, testBit_field hi, h i hi]
  · have high (z : Nat) : (field z lo n).testBit i = false :=
      Nat.testBit_lt_two_pow ((field_lt ..).trans_le (Nat.pow_le_pow_right Nat.two_pos (Nat.not_lt.1 hi)))
    rw [high, high]

/-- Bits that may be written hold what is written. -/
theorem field_regWrite {r : RegRow} {lo n : Nat} (h : ∀ i, i < n → r.bitIs .rw (lo + i) = true) (locked : Bool) (old w : Nat) :
    field (regWrite locked r old w) lo n = field w lo n :=
  field_congr fun i hi => bitOf_regWrite (h i hi) locked old w

/-- A row of one field that may be written. -/
theorem regWrite_one {r : RegRow} {n : Nat} (h : r.fields = [⟨0, n, .rw⟩]) (locked : Bool) (old w : Nat) :
    regWrite locked r old w = field w 0 n := by
  rw [regWrite, h, List.foldl_cons, List.foldl_nil, fieldWrite_eq, Nat.zero_add, Nat.pow_zero, Nat.mul_one]
  rfl

/-! ### The rows near an address -/

/-- May the row hold a register from `lo` to `hi`? -/
def RegRow.near (lo hi : Nat) (r : RegRow) : Bool :=
  decide (r.base ≤ hi) && decide (lo ≤ r.base + (r.c1 - 1) * r.s1 + (r.c2 - 1) * r.s2)

theorem RegRow.near_of_hit {r : RegRow} {a lo hi : Nat} (h : r.hit a = true) (hlo : lo ≤ a) (hhi : a ≤ hi) : r.near lo hi = true := by
  simp only [RegRow.hit, Bool.and_eq_true, decide_eq_true_eq] at h
  obtain ⟨hbase, ⟨hi1, hj⟩, he⟩ := h
  set i := if r.s1 = 0 then 0 else (a - r.base) / r.s1
  set j := if r.s2 = 0 then 0 else (a - r.base - i * r.s1) / r.s2
  have hrow := Nat.mul_le_mul_right r.s1 (Nat.le_sub_one_of_lt hi1)
  have hcol := Nat.mul_le_mul_right r.s2 (Nat.le_sub_one_of_lt hj)
  simp only [RegRow.near, Bool.and_eq_true, decide_eq_true_eq]
  omega

theorem findReg_near {a : Nat} (lo hi : Nat) (hlo : lo ≤ a) (hhi : a ≤ hi) (rs : List RegRow) :
    findReg rs a = findReg (rs.filter (RegRow.near lo hi)) a := by
  unfold findReg
  rw [List.find?_filter]
  congr 1
  funext r
  cases h : r.hit a with
  | false => simp
  | true => simp [RegRow.near_of_hit h hlo hhi]

end Sys2Proof.Machine
end

section
/-!
PROOFS. Plain registers of a core's control window (03 R113, R573; 06 R206, R207; 08 R261, R294; 09 R335; 10 R367; 13 R472).
-/
namespace Sys2Proof.Machine

/-! ### The rows -/

def rowFcsr : RegRow := ⟨0x30000, 0, 1, 0, 1, 32, 0,
  [⟨0, 3, .rw⟩, ⟨3, 1, .w1c⟩, ⟨4, 1, .w1c⟩, ⟨5, 1, .w1c⟩, ⟨6, 1, .w1c⟩, ⟨7, 1, .w1c⟩, ⟨8, 24, .ro⟩]⟩
def rowCtbcmp : RegRow := ⟨0x18, 0, 1, 0, 1, 64, 0xffffffffffffffff, [⟨0, 64, .rw⟩]⟩
def rowSctHist : RegRow := ⟨0x60040, 0x100, 64, 4, 16, 32, 0, [⟨0, 32, .rw⟩]⟩
def rowSctLink : RegRow := ⟨0x60010, 0x100, 64, 0, 1, 64, 0,
  [⟨0, 4, .rw⟩, ⟨4, 4, .rw⟩, ⟨8, 12, .rw⟩, ⟨20, 6, .rw⟩, ⟨26, 5, .ro⟩, ⟨31, 1, .rw⟩, ⟨32, 32, .ro⟩]⟩
def rowSctShlist : RegRow := ⟨0x60018, 0x100, 64, 0, 1, 64, 0, [⟨0, 22, .rw⟩, ⟨22, 10, .ro⟩, ⟨32, 13, .rw⟩, ⟨45, 19, .ro⟩]⟩
def rowBarCfg : RegRow := ⟨0x2000, 0x40, 16, 0, 1, 64, 0,
  [⟨0, 4, .rw⟩, ⟨4, 4, .rw⟩, ⟨8, 9, .rw⟩, ⟨17, 1, .rw⟩, ⟨18, 12, .rw⟩, ⟨30, 2, .ro⟩, ⟨32, 13, .rw⟩, ⟨45, 19, .ro⟩]⟩
def rowLtCfg : RegRow := ⟨0x50000, 0x40, 1024, 0, 1, 32, 0x2000800,
  [⟨0, 1, .rw⟩, ⟨1, 1, .rw⟩, ⟨2, 2, .rw⟩, ⟨4, 2, .rw⟩, ⟨6, 8, .rw⟩, ⟨14, 8, .rw⟩, ⟨22, 4, .rw⟩, ⟨26, 6, .ro⟩]⟩

theorem findReg_ctbcmp : findReg coreRegs rSEQ_CTBCMP = some rowCtbcmp := by decide
theorem findReg_sctLink {n : Nat} (hn : n < 64) : findReg coreRegs (rSCT_LINK n) = some rowSctLink := by revert n; decide
theorem findReg_sctShlist {n : Nat} (hn : n < 64) : findReg coreRegs (rSCT_SHLIST n) = some rowSctShlist := by revert n; decide
theorem findReg_barCfg {n : Nat} (hn : n < 16) : findReg coreRegs (rBAR_CFG n) = some rowBarCfg := by revert n; decide

theorem findReg_cons_miss {r : RegRow} {rs : List RegRow} {a : Nat} (h : r.hit a = false) : findReg (r :: rs) a = findReg rs a :=
  List.find?_cons_of_neg (by simp [h])

theorem findReg_cons_hit {r : RegRow} {rs : List RegRow} {a : Nat} (h : r.hit a = true) : findReg (r :: rs) a = some r :=
  List.find?_cons_of_pos h

theorem rowLtCfg_hit {l : Nat} (hl : l < 1024) : rowLtCfg.hit (rLT_CFG l) = true := by
  simp only [RegRow.hit, rowLtCfg, rLT_CFG, Bool.and_eq_true, decide_eq_true_eq, if_pos, OfNat.ofNat_ne_zero, if_false]
  exact ⟨decide_eq_true (by omega), by omega⟩

theorem findReg_ltCfg {l : Nat} (hl : l < 1024) : findReg coreRegs (rLT_CFG l) = some rowLtCfg := by
  obtain ⟨rs, hrs⟩ : ∃ rs, coreRegs.filter (RegRow.near 0x50000 0x5FFFF) = rowLtCfg :: rs := ⟨_, rfl⟩
  rw [findReg_near 0x50000 0x5FFFF (by unfold rLT_CFG; omega) (by unfold rLT_CFG; omega), hrs, findReg_cons_hit (rowLtCfg_hit hl)]

/-- The rows of the tracker slots that the table has before the history: their registers lie below its ones in a slot. -/
theorem findReg_sctHist {n b : Nat} (hn : n < 64) (hb : b < 16) : findReg coreRegs (rSCT_HIST n b) = some rowSctHist := by
  obtain ⟨r0, r1, r2, r3, rs, hrs, hlow⟩ : ∃ r0 r1 r2 r3 rs,
      coreRegs.filter (RegRow.near 0x60040 0x63FFF) = r0 :: r1 :: r2 :: r3 :: rowSctHist :: rs ∧
        ∀ r ∈ [r0, r1, r2, r3], 0x60000 ≤ r.base ∧ r.base < 0x60040 ∧ r.s1 = 0x100 ∧ r.s2 = 0 := ⟨_, _, _, _, _, rfl, by decide⟩
  have hmiss (r) (h : r ∈ [r0, r1, r2, r3]) : r.hit (rSCT_HIST n b) = false := by
    obtain ⟨hlo, hhi, hs1, hs2⟩ := hlow r h
    simp [RegRow.hit, hs1, hs2, rSCT_HIST]
    omega
  have hhit : rowSctHist.hit (rSCT_HIST n b) = true := by
    simp only [RegRow.hit, rowSctHist, rSCT_HIST, Bool.and_eq_true, decide_eq_true_eq, OfNat.ofNat_ne_zero, if_false]
    exact ⟨decide_eq_true (by omega), by omega⟩
  rw [findReg_near 0x60040 0x63FFF (by unfold rSCT_HIST; omega) (by unfold rSCT_HIST; omega), hrs,
    findReg_cons_miss (hmiss _ (by simp)), findReg_cons_miss (hmiss _ (by simp)),
    findReg_cons_miss (hmiss _ (by simp)), findReg_cons_miss (hmiss _ (by simp)), findReg_cons_hit hhit]

/-! ### Writes reach the register's rule -/

section
variable {s : Chip} {who : Agent} {p n b l : Nat} (v : Nat)

section
variable (hr : reaches who p = true)
include hr

theorem Chip.coreWrite_fcsr :
    s.coreWrite who p rVU_FCSR v = s.onCore p fun c => c.fcsrWrite v (regWrite false rowFcsr (c.reg rVU_FCSR) v) := by
  unfold Chip.coreWrite; rw [hr]; rfl

theorem Chip.coreWrite_ctbcmp :
    s.coreWrite who p rSEQ_CTBCMP v = s.onCore p fun c => c.setReg rSEQ_CTBCMP (regWrite false rowCtbcmp (c.reg rSEQ_CTBCMP) v) := by
  unfold Chip.coreWrite; rw [hr]; rfl

theorem Chip.coreWrite_progLimit :
    s.coreWrite who p rPROG_LIMIT v = if isSteward who then progLimitCmd s p v else s := by
  unfold Chip.coreWrite; rw [hr]; rfl

theorem Chip.coreWrite_vrRd : s.coreWrite who p rKRF_VR_RD v = s.onCore p fun c => vrRdWrite c v := by
  unfold Chip.coreWrite; rw [hr]; rfl

/-- History, links and shard lists: their rows lie above the kerf unit's registers. -/
theorem Chip.coreWrite_quiet {a : Nat} {r : RegRow} (hf : findReg coreRegs a = some r) (hbase : r ∈ [rowSctHist, rowSctLink, rowSctShlist])
    (ha : 0x60000 ≤ a) (hclamp : a ≠ rCLAMP_CLR) : s.coreWrite who p a v = sctQuietWrite s who p a v := by
  have hk := krfOwn_eq_false (a := a) (.inr ha)
  have hne (x : Nat) (hx : x < 0x60000) : a ≠ x := by omega
  have hrows : ∀ r ∈ [rowSctHist, rowSctLink, rowSctShlist], (r.base = rSCT_HIST 0 0 ∨ r.base = rSCT_LINK 0 ∨ r.base = rSCT_SHLIST 0) ∧
      ∀ x ∈ [rQE_CFG 0, rQE_STAT 0, rRS_KEY 0, rRS_CTR 0, rSCT_CFG 0, rSCT_SCALE 0], r.base ≠ x := by decide
  obtain ⟨hrow, hothers⟩ := hrows r hbase
  simp only [List.forall_mem_cons, List.not_mem_nil, false_implies, implies_true, and_true] at hothers
  simp (disch := decide) [Chip.coreWrite, hr, hf, hk, hne, hclamp, hrow, hothers]

theorem Chip.coreWrite_sctHist (hn : n < 64) (hb : b < 16) :
    s.coreWrite who p (rSCT_HIST n b) v = sctQuietWrite s who p (rSCT_HIST n b) v :=
  Chip.coreWrite_quiet v hr (findReg_sctHist hn hb) (by decide) (by unfold rSCT_HIST; omega) (by unfold rSCT_HIST rCLAMP_CLR; omega)

theorem Chip.coreWrite_sctLink (hn : n < 64) : s.coreWrite who p (rSCT_LINK n) v = sctQuietWrite s who p (rSCT_LINK n) v :=
  Chip.coreWrite_quiet v hr (findReg_sctLink hn) (by decide) (by unfold rSCT_LINK; omega) (by unfold rSCT_LINK rCLAMP_CLR; omega)

theorem Chip.coreWrite_sctShlist (hn : n < 64) : s.coreWrite who p (rSCT_SHLIST n) v = sctQuietWrite s who p (rSCT_SHLIST n) v :=
  Chip.coreWrite_quiet v hr (findReg_sctShlist hn) (by decide) (by unfold rSCT_SHLIST; omega) (by unfold rSCT_SHLIST rCLAMP_CLR; omega)

theorem Chip.coreWrite_barCfg (hb : b < 16) : s.coreWrite who p (rBAR_CFG b) v = barRegWrite s who p (rBAR_CFG b) v := by
  have hk := krfOwn_eq_false (a := rBAR_CFG b) (by unfold rBAR_CFG; omega)
  have hne (x : Nat) (hx : x < 0x2000 ∨ 0x2400 ≤ x) : rBAR_CFG b ≠ x := by unfold rBAR_CFG; omega
  have hlt : ¬ (rLT_CFG 0 ≤ rBAR_CFG b ∧ rBAR_CFG b < rLT_CFG 1024) := by unfold rBAR_CFG rLT_CFG; omega
  simp (disch := decide) [Chip.coreWrite, hr, findReg_barCfg hb, rowBarCfg, hk, hne, hlt,
    rQE_CFG, rQE_STAT, rRS_KEY, rRS_CTR, rSCT_CFG, rSCT_SCALE, rSCT_HIST, rSCT_LINK,
    rSCT_SHLIST]

end

theorem krfOwn_ltCfg (hl : l < 1024) : krfOwn (rLT_CFG l) = true := by
  have hne : rLT_CFG l ≠ rKRF_VR_RD := by unfold rLT_CFG rKRF_VR_RD; omega
  have h0 : rLT_CFG 0 ≤ rLT_CFG l := by unfold rLT_CFG; omega
  have h1 : rLT_CFG l < rLT_CFG 1024 := by unfold rLT_CFG; omega
  simp [krfOwn, hne, h0, h1]

theorem Chip.coreWrite_ltCfg (hw : isSteward who = true) (hl : l < 1024) : s.coreWrite who p (rLT_CFG l) v =
    s.onCore p fun c => ltWrite c l (rLT_CFG l) (regWrite false rowLtCfg (c.reg (rLT_CFG l)) v) := by
  have hne (x : Nat) (hx : x < 0x50000 ∨ 0x60000 ≤ x) : rLT_CFG l ≠ x := by unfold rLT_CFG; omega
  have hlt : rLT_CFG 0 ≤ rLT_CFG l ∧ rLT_CFG l < rLT_CFG 1024 := by unfold rLT_CFG; omega
  simp (disch := decide) [Chip.coreWrite, reaches_of_isSteward hw, hw, findReg_ltCfg hl, rowLtCfg, hne, hlt,
    rQE_CFG, rQE_STAT, rRS_KEY, rRS_CTR, rSCT_CFG,
    rSCT_SCALE, rSCT_HIST, rSCT_LINK, rSCT_SHLIST]

theorem Chip.coreWrite_ltCfg_program (hw : isSteward who = false) (hl : l < 1024) : s.coreWrite who p (rLT_CFG l) v = s := by
  simp [Chip.coreWrite, findReg_ltCfg hl, krfOwn_ltCfg hl, hw]

end

end Sys2Proof.Machine
end

section
/-!
PROOFS. What a write of a plain register leaves (03 R113, R573; 06 R206, R207; 08 R261, R294; 09 R335; 10 R367; 13 R472).
-/
namespace Sys2Proof.Machine

/-! ### The rules of the registers -/

section
variable {s : Chip} {who : Agent} {p a : Nat} {v : Nat}

theorem sctQuietWrite_eq {r : RegRow} (hw : isSteward who = true) (hjob : s.running = false) (hr : findReg coreRegs a = some r) :
    sctQuietWrite s who p a v = s.onCore p fun c => c.setReg a (regWrite false r (c.reg a) v) := by
  rw [sctQuietWrite, hw, hjob, hr]
  rfl

theorem regWrite_ctbcmp (old : Nat) (hv : v < 2 ^ 64) : regWrite false rowCtbcmp old v = v :=
  (regWrite_one rfl false old v).trans (Nat.mod_eq_of_lt hv)

theorem sctQuietWrite_refused (h : isSteward who = false ∨ s.running = true) : sctQuietWrite s who p a v = s := by
  rw [sctQuietWrite]
  exact if_pos (by simpa using h)

theorem barRegWrite_eq {b : Nat} (hw : isSteward who = true) (hjob : s.running = false) (hb : b < 16) (hcount : field v 8 9 ≠ 0)
    (hcountMax : field v 8 9 ≤ 256) (hlen : field v 32 13 ≠ 0) (hlenMax : field v 32 13 ≤ 4096) :
    barRegWrite s who p (rBAR_CFG b) v = s.onCore p fun c => c.setReg (rBAR_CFG b) (regWrite false rowBarCfg (c.reg (rBAR_CFG b)) v) := by
  rw [barRegWrite, hw, hjob, findReg_barCfg hb]
  refine if_neg (not_and.2 fun _ => ?_)
  omega

theorem barRegWrite_refused (h : isSteward who = false ∨ s.running = true) : barRegWrite s who p a v = s := by
  rw [barRegWrite]
  exact if_pos (by simpa using h)

end

/-- A write of LT_CFG is taken if its rungs up to TOP are in order and POS is one of them. -/
theorem ltWrite_cfg (c : Core) (l x : Nat) : ltWrite c l (rLT_CFG l) x =
    if rungsOk (c.reg (rLT_RUNGS l)) (field x 2 2) = true ∧ field x 4 2 ≤ field x 2 2 then c.setReg (rLT_CFG l) x else c := by
  simp [ltWrite]

theorem field_field (v : Nat) {m lo n : Nat} (h : lo + n ≤ m) : field (field v 0 m) lo n = field v lo n :=
  field_congr fun i hi => by rw [bitOf, testBit_field (by omega), Nat.zero_add]

theorem bitOf_setField_above {x lo n v i : Nat} (h : lo + n ≤ i) : bitOf (setField x lo n v) i = bitOf x i := by
  have hbit (y : Nat) : (field y i 1).testBit 0 = bitOf y i := testBit_field Nat.one_pos
  rw [← hbit, field_setField_above _ _ _ _ _ _ h, hbit]

/-- The value that a write of VU_FCSR leaves (02 R66, R67). -/
def fcsrAfter (old v : Nat) : Nat :=
  let w := regWrite false rowFcsr old v
  if field v 0 3 ≥ 5 then Sys2Proof.setField w 0 3 (field old 0 3) else w

theorem fcsrAfter_fields (old v : Nat) :
    field (fcsrAfter old v) 0 3 = (if field v 0 3 ≤ 4 then field v 0 3 else field old 0 3) ∧
      ∀ k, 3 ≤ k → k < 8 → bitOf (fcsrAfter old v) k = (bitOf old k && !bitOf v k) := by
  have hmode : field (regWrite false rowFcsr old v) 0 3 = field v 0 3 := field_regWrite (by decide) ..
  have hflag (k : Nat) (hk : 3 ≤ k) (hk' : k < 8) : bitOf (regWrite false rowFcsr old v) k = (bitOf old k && !bitOf v k) :=
    bitOf_regWrite (a := .w1c) (by clear hmode; interval_cases k <;> decide) ..
  unfold fcsrAfter
  split
  case isTrue h =>
    refine ⟨?_, fun k hk hk' => ?_⟩
    · rw [field_setField, if_neg (by omega)]
      exact Nat.mod_eq_of_lt (field_lt ..)
    · rw [bitOf_setField_above hk, hflag k hk hk']
  case isFalse h => exact ⟨by rw [if_pos (by omega), hmode], hflag⟩

/-! ### The verdict ring -/

theorem vrFlush_rd (n : Nat) : ∀ c : Core, (vrFlush n c).reg rKRF_VR_RD = c.reg rKRF_VR_RD := by
  induction n with
  | zero => exact fun _ => rfl
  | succ n ih =>
    intro c
    unfold vrFlush
    split
    · rfl
    · extract_lets wr
      split
      · rfl
      · exact (ih _).trans ((Core.reg_setReg ..).trans (if_neg (by decide)))

theorem vrSettle_rd (c : Core) : (vrSettle c).reg rKRF_VR_RD = c.reg rKRF_VR_RD := by
  have hflush := vrFlush_rd c.vrHeld.length c
  unfold vrSettle
  extract_lets e
  split <;> exact hflush

/-- With no record held, only the interrupt of an empty ring drops. -/
theorem vrSettle_of_none_held {c : Core} (h : c.vrHeld = []) :
    vrSettle c = if c.reg rKRF_VR_RD = c.reg rKRF_VR_WR then { c with kverd := false } else c := by
  have hflush : vrFlush c.vrHeld.length c = c := by rw [h]; rfl
  simp only [vrSettle, hflush]

theorem vrRdWrite_of_none_held {c : Core} (v : Nat) (h : c.vrHeld = []) :
    (vrRdWrite c v).reg rKRF_VR_WR = c.reg rKRF_VR_WR ∧
      (vrRdWrite c v).kverd = (c.kverd && decide (v % 64 ≠ c.reg rKRF_VR_WR)) := by
  have hwr : (c.setReg rKRF_VR_RD (v % 64)).reg rKRF_VR_WR = c.reg rKRF_VR_WR := (Core.reg_setReg ..).trans (if_neg (by decide))
  have hnone : (c.setReg rKRF_VR_RD (v % 64)).vrHeld = [] := h
  rw [vrRdWrite, vrSettle_of_none_held hnone, Core.reg_setReg_self, hwr]
  split
  case isTrue hempty => exact ⟨hwr, by rw [decide_eq_false (not_not_intro hempty), Bool.and_false]⟩
  case isFalse hfull => exact ⟨hwr, by rw [decide_eq_true hfull, Bool.and_true]; rfl⟩

/-! ### The stash registers -/

section
variable {s : Chip} {p v : Nat} (hp : p < nCores)
include hp

theorem sthWriteCmd_wm : sthWriteCmd s p 0x18 v false =
    if field v 20 20 < field v 0 20 ∧ field v 0 20 ≤ sthRing s p then s.setSth p rSTH_WM (field v 0 40) else s.sthErr p 0 5 := by
  rw [sthWriteCmd, if_neg (by simp [Nat.not_le.2 hp])]
  simp

theorem sthWriteCmd_cfg : sthWriteCmd s p 0x20 v false = s.setSth p rSTH_CFG (field v 0 21) := by
  rw [sthWriteCmd, if_neg (by simp [Nat.not_le.2 hp])]
  simp

end

theorem sthErr_bit (s : Chip) (p : Nat) : bitOf ((s.sthErr p 0 5).sth p rSTH_ERR) 63 = true := by
  rw [Chip.sthErr, Chip.sth, Chip.setSth, Chip.reg_setReg_self]
  split
  case isTrue h => rwa [bitOf_setField_above (by decide)]
  case isFalse => decide

/-! ### The commands -/

theorem Chip.sameBut_regs {p : Nat} {s m : Chip} (h : s.sameBut p m) : m.regs = s.regs := by rw [h.2]


section
variable {i : Instr} {s : State} {p a v : Nat} {who : Agent} (hp : p < nCores) (ha : s.awake)
include hp ha

/-- A write of a window register whose rule sets the register to `x` of the core. -/
theorem completes_setReg {post : Nat → Prop} (x : Core → Nat) (hv : v < 2 ^ 64)
    (hw : s.chip.coreWrite who p a v = s.chip.onCore p fun c => c.setReg a (x c))
    (he : exec i s = s.actCore .core p fun m => m.coreWrite who p a (v % 2 ^ 64)) (hpost : post (x (s.chip.core p))) :
    Completes i s fun t => ∃ x, post x ∧ s.onlyCore p ((s.chip.core p).setReg a x) t :=
  (completes_coreWrite _ hp ha hv hw he).imp fun _ ht => ⟨_, hpost, ht⟩

/-- A write that its rule refuses. -/
theorem completes_refused (hv : v < 2 ^ 64) (hw : s.chip.coreWrite who p a v = s.chip)
    (he : exec i s = s.actCore .core p fun m => m.coreWrite who p a (v % 2 ^ 64)) :
    Completes i s (s.onlyCore p (s.chip.core p)) := by
  rw [Nat.mod_eq_of_lt hv] at he
  exact completes_onlyCore hp (State.active_core ha) he (hw.symm ▸ Chip.sameBut_refl ..) (congrArg (·.core p) hw)

/-- What a write of a stash register leaves in the part's registers and in memory. -/
theorem completes_sthWrite {off : Nat} {m : Chip} {post : State → Prop} (hw : isSteward who = true) (hjob : s.chip.running = false)
    (hm : sthWriteCmd s.chip p off v false = m)
    (hpost : ∀ t, t.pending = s.pending → (∀ b, t.chip.reg b = m.reg b) → t.chip.hbm = m.hbm → post t) :
    Completes (.sthCfgWrite who p off v) s post := by
  have hf : (if isSteward who then sthWriteCmd s.chip p off v s.chip.running else s.chip) = m := by rw [if_pos hw, hjob, hm]
  refine ⟨_, State.actCore_next hp (State.active_core ha) _, hpost _ rfl (fun b => ?_) ?_⟩
  · exact congrArg (Map.get chipReset · b) ((Chip.settleCore_regs ..).trans (congrArg Chip.regs hf))
  · exact (Chip.settleCore_hbm ..).trans (congrArg Chip.hbm hf)

theorem completes_sthWrite_refused {off : Nat} (h : isSteward who = false ∨ s.chip.running = true) :
    Completes (.sthCfgWrite who p off v) s (s.onlyCore p (s.chip.core p)) := by
  have hf : (if isSteward who then sthWriteCmd s.chip p off v s.chip.running else s.chip) = s.chip := by
    split
    case isTrue hw => exact if_pos (Or.inl (h.resolve_left (by simp [hw])))
    case isFalse => rfl
  exact completes_onlyCore hp (State.active_core ha) rfl (hf.symm ▸ Chip.sameBut_refl ..) (congrArg (·.core p) hf)

end

end Sys2Proof.Machine
end

section
/-!
PROOFS. The plain registers of a core's control window hold what is written (O31).
-/
namespace Sys2Proof.Machine

section
variable {s : State} {p v n b l : Nat} {who : Agent} (ha : s.awake) (hp : p < nCores) (hv : v < 2 ^ 64)
include ha hp hv

theorem vuFcsrWrite_completes (hr : reaches who p = true) : Completes (.vuFcsrWrite who p v) s fun t => ∃ x,
    (field x 0 3 = (if field v 0 3 ≤ 4 then field v 0 3 else field ((s.chip.core p).reg rVU_FCSR) 0 3) ∧
      ∀ k, 3 ≤ k → k < 8 → bitOf x k = (bitOf ((s.chip.core p).reg rVU_FCSR) k && !bitOf v k)) ∧
    s.onlyCore p ((s.chip.core p).setReg rVU_FCSR x) t :=
  completes_setReg hp ha (fun c => fcsrAfter (c.reg rVU_FCSR) v) hv (Chip.coreWrite_fcsr v hr) rfl (fcsrAfter_fields _ v)

theorem seqCtbcmpWrite_completes (hr : reaches who p = true) : Completes (.seqCtbcmpWrite who p v) s fun t => ∃ x, x = v ∧
    s.onlyCore p ((s.chip.core p).setReg rSEQ_CTBCMP x) t :=
  completes_setReg hp ha _ hv (Chip.coreWrite_ctbcmp v hr) rfl (regWrite_ctbcmp _ hv)

theorem progLimitWrite_completes (hw : isSteward who = true)
    (hlimit : field v 0 26 = 0 ∨ 1000 ≤ field v 0 26 ∧ field v 0 26 ≤ 60000000) :
    Completes (.progLimitWrite who p v) s fun t => ∃ x, x = field v 0 26 ∧ s.onlyCore p ((s.chip.core p).setReg rPROG_LIMIT x) t := by
  have hok : progLimitOk v = true := by simpa [progLimitOk] using hlimit
  refine completes_setReg hp ha (fun _ => field v 0 26) hv ?_ rfl rfl
  rw [Chip.coreWrite_progLimit v (reaches_of_isSteward hw p), if_pos hw, progLimitCmd, if_pos hok]

/-! ### Registers that only a Steward writes, and only while the job does not run -/

section
variable (hw : isSteward who = true) (hjob : s.chip.running = false)
include hw hjob

theorem sctHistWrite_completes (hn : n < 64) (hb : b < 16) : Completes (.sctHistWrite who p n b v) s fun t => ∃ x,
    x = field v 0 32 ∧ s.onlyCore p ((s.chip.core p).setReg (rSCT_HIST n b) x) t := by
  have hwrite := Chip.coreWrite_sctHist (s := s.chip) v (reaches_of_isSteward hw p) hn hb
  rw [sctQuietWrite_eq hw hjob (findReg_sctHist hn hb)] at hwrite
  exact completes_setReg hp ha _ hv hwrite (if_pos ⟨hn, hb⟩) (regWrite_one rfl ..)

theorem sctShlistWrite_completes (hn : n < 64) : Completes (.sctLinkWrite who p n true v) s fun t => ∃ x,
    (field x 0 22 = field v 0 22 ∧ field x 32 13 = field v 32 13) ∧ s.onlyCore p ((s.chip.core p).setReg (rSCT_SHLIST n) x) t := by
  have hwrite := Chip.coreWrite_sctShlist (s := s.chip) v (reaches_of_isSteward hw p) hn
  rw [sctQuietWrite_eq hw hjob (findReg_sctShlist hn)] at hwrite
  exact completes_setReg hp ha _ hv hwrite (if_pos hn) ⟨field_regWrite (by decide) .., field_regWrite (by decide) ..⟩

theorem sctLinkWrite_completes (hn : n < 64) : Completes (.sctLinkWrite who p n false v) s fun t => ∃ x,
    (field x 0 26 = field v 0 26 ∧ bitOf x 31 = bitOf v 31) ∧ s.onlyCore p ((s.chip.core p).setReg (rSCT_LINK n) x) t := by
  have hwrite := Chip.coreWrite_sctLink (s := s.chip) v (reaches_of_isSteward hw p) hn
  rw [sctQuietWrite_eq hw hjob (findReg_sctLink hn)] at hwrite
  exact completes_setReg hp ha _ hv hwrite (if_pos hn) ⟨field_regWrite (by decide) .., bitOf_regWrite (a := .rw) (by decide) ..⟩

theorem barCfgWrite_completes (hb : b < 16) (hcount : field v 8 9 ≠ 0) (hcountMax : field v 8 9 ≤ 256) (hlen : field v 32 13 ≠ 0)
    (hlenMax : field v 32 13 ≤ 4096) : Completes (.barCfgWrite who p b v) s fun t => ∃ x,
    (field x 0 30 = field v 0 30 ∧ field x 32 13 = field v 32 13) ∧ s.onlyCore p ((s.chip.core p).setReg (rBAR_CFG b) x) t := by
  have hwrite := Chip.coreWrite_barCfg (s := s.chip) v (reaches_of_isSteward hw p) hb
  rw [barRegWrite_eq hw hjob hb hcount hcountMax hlen hlenMax] at hwrite
  exact completes_setReg hp ha _ hv hwrite (if_pos hb) ⟨field_regWrite (by decide) .., field_regWrite (by decide) ..⟩

end

/-- Another agent, or a job that runs. -/
theorem quietWrites_refused (hr : reaches who p = true) (h : isSteward who = false ∨ s.chip.running = true) (hn : n < 64) (hb : b < 16) :
    ∀ i ∈ [Instr.sctHistWrite who p n b v, .sctLinkWrite who p n true v, .sctLinkWrite who p n false v, .barCfgWrite who p b v],
      Completes i s (s.onlyCore p (s.chip.core p)) := by
  simp only [List.forall_mem_cons, List.not_mem_nil, false_implies, implies_true, and_true]
  exact ⟨completes_refused hp ha hv ((Chip.coreWrite_sctHist v hr hn hb).trans (sctQuietWrite_refused h)) (if_pos ⟨hn, hb⟩),
    completes_refused hp ha hv ((Chip.coreWrite_sctShlist v hr hn).trans (sctQuietWrite_refused h)) (if_pos hn),
    completes_refused hp ha hv ((Chip.coreWrite_sctLink v hr hn).trans (sctQuietWrite_refused h)) (if_pos hn),
    completes_refused hp ha hv ((Chip.coreWrite_barCfg v hr hb).trans (barRegWrite_refused h)) (if_pos hb)⟩

/-! ### The verdict ring and the layer table -/

theorem krfVrRdWrite_completes (hr : reaches who p = true) : Completes (.krfVrRdWrite who p v) s fun t => s.coreOnly p t ∧
    (t.chip.core p).reg rKRF_VR_RD = v % 64 ∧
    ((s.chip.core p).vrHeld = [] → (t.chip.core p).reg rKRF_VR_WR = (s.chip.core p).reg rKRF_VR_WR ∧
      (t.chip.core p).kverd = ((s.chip.core p).kverd && decide (v % 64 ≠ (s.chip.core p).reg rKRF_VR_WR))) := by
  refine (completes_coreWrite _ hp ha hv (Chip.coreWrite_vrRd v hr) rfl).imp fun t ht => ?_
  have hset := State.onlyCore_settles ht
  refine ⟨State.onlyCore_coreOnly ht, ?_, fun hnone => ?_⟩
  · rw [hset.reg (by decide), vrRdWrite, vrSettle_rd, Core.reg_setReg_self]
  · rw [hset.reg (by decide), hset.keep Core.kverd fun _ _ => rfl]
    exact vrRdWrite_of_none_held v hnone

theorem ltCfgWrite_completes (hl : l < 1024) (hw : isSteward who = true)
    (hrungs : rungsOk ((s.chip.core p).reg (rLT_RUNGS l)) (field v 2 2) = true) (hpos : field v 4 2 ≤ field v 2 2) :
    Completes (.ltCfgWrite who p l v) s fun t => ∃ x, s.onlyCore p ((s.chip.core p).setReg (rLT_CFG l) x) t ∧
      field x 2 2 = field v 2 2 ∧ field x 4 2 = field v 4 2 ∧ bitOf x 0 = bitOf v 0 := by
  refine (completes_coreWrite (i := .ltCfgWrite who p l v) _ hp ha hv (Chip.coreWrite_ltCfg v hw hl) (if_pos hl)).imp fun t ht => ?_
  have htop : field (regWrite false rowLtCfg ((s.chip.core p).reg (rLT_CFG l)) v) 2 2 = field v 2 2 := field_regWrite (by decide) ..
  have hnow : field (regWrite false rowLtCfg ((s.chip.core p).reg (rLT_CFG l)) v) 4 2 = field v 4 2 := field_regWrite (by decide) ..
  rw [ltWrite_cfg, htop, hnow, if_pos ⟨hrungs, hpos⟩] at ht
  exact ⟨_, ht, htop, hnow, bitOf_regWrite (a := .rw) (by decide) ..⟩

theorem ltCfgWrite_refused (hl : l < 1024) (h : isSteward who = false ∨
    rungsOk ((s.chip.core p).reg (rLT_RUNGS l)) (field v 2 2) = false ∨ field v 2 2 < field v 4 2) :
    Completes (.ltCfgWrite who p l v) s (s.onlyCore p (s.chip.core p)) := by
  cases hw : isSteward who with
  | false => exact completes_refused hp ha hv (Chip.coreWrite_ltCfg_program v hw hl) (if_pos hl)
  | true =>
    have hcore := completes_coreWrite (i := .ltCfgWrite who p l v) _ hp ha hv (Chip.coreWrite_ltCfg v hw hl) (if_pos hl)
    have htop : field (regWrite false rowLtCfg ((s.chip.core p).reg (rLT_CFG l)) v) 2 2 = field v 2 2 := field_regWrite (by decide) ..
    have hnow : field (regWrite false rowLtCfg ((s.chip.core p).reg (rLT_CFG l)) v) 4 2 = field v 4 2 := field_regWrite (by decide) ..
    have hbad : ¬ (rungsOk ((s.chip.core p).reg (rLT_RUNGS l)) (field v 2 2) = true ∧ field v 4 2 ≤ field v 2 2) := by
      rintro ⟨hrungs, hpos⟩
      simp [hw, hrungs, Nat.not_lt.2 hpos] at h
    rwa [ltWrite_cfg, htop, hnow, if_neg hbad] at hcore

end

/-! ### The stash registers -/

section
variable {s : State} {p v : Nat} {who : Agent} (ha : s.awake) (hp : p < nCores) (hw : isSteward who = true) (hjob : s.chip.running = false)
include ha hp hw hjob

theorem sthWm_completes (hlow : field v 20 20 < field v 0 20) (hring : field v 0 20 ≤ sthRing s.chip p) :
    Completes (.sthCfgWrite who p 0x18 v) s fun t => t.pending = s.pending ∧ sthHwm t.chip p = field v 0 20 ∧
      sthLwm t.chip p = field v 20 20 ∧ sthRing t.chip p = sthRing s.chip p ∧ t.chip.hbm = s.chip.hbm := by
  refine completes_sthWrite hp ha hw hjob ((sthWriteCmd_wm hp).trans (if_pos ⟨hlow, hring⟩)) fun t hq hreg hhbm => ⟨hq, ?_, ?_, ?_, hhbm⟩
  · rw [sthHwm, Chip.sth, hreg, Chip.setSth, Chip.reg_setReg_self, field_field _ (by decide)]
  · rw [sthLwm, Chip.sth, hreg, Chip.setSth, Chip.reg_setReg_self, field_field _ (by decide)]
  · have hne : rSTH_SIZE (dieOf p) (stashOf p) ≠ rSTH_WM (dieOf p) (stashOf p) := by unfold rSTH_SIZE rSTH_WM; omega
    rw [sthRing, Chip.sth, hreg, Chip.setSth, Chip.reg_setReg, if_neg hne, sthRing, Chip.sth]

theorem sthWm_inverted (hlow : field v 0 20 ≤ field v 20 20) :
    Completes (.sthCfgWrite who p 0x18 v) s fun t => t.pending = s.pending ∧ sthHwm t.chip p = sthHwm s.chip p ∧
      sthLwm t.chip p = sthLwm s.chip p ∧ bitOf (t.chip.sth p rSTH_ERR) 63 = true := by
  have hbad : ¬ (field v 20 20 < field v 0 20 ∧ field v 0 20 ≤ sthRing s.chip p) := fun h => Nat.not_lt.2 hlow h.1
  refine completes_sthWrite hp ha hw hjob ((sthWriteCmd_wm hp).trans (if_neg hbad)) fun t hq hreg _ => ?_
  have hwm : t.chip.sth p rSTH_WM = s.chip.sth p rSTH_WM := by
    have hne : rSTH_WM (dieOf p) (stashOf p) ≠ rSTH_ERR (dieOf p) (stashOf p) := by unfold rSTH_ERR rSTH_WM; omega
    rw [Chip.sth, hreg, Chip.sthErr, Chip.setSth, Chip.reg_setReg, if_neg hne, Chip.sth]
  refine ⟨hq, by rw [sthHwm, hwm, sthHwm], by rw [sthLwm, hwm, sthLwm], ?_⟩
  rw [Chip.sth, hreg]
  exact sthErr_bit s.chip p

theorem sthCfg_completes :
    Completes (.sthCfgWrite who p 0x20 v) s fun t => t.pending = s.pending ∧ t.chip.sth p rSTH_CFG = v % 2 ^ 21 ∧ t.chip.hbm = s.chip.hbm := by
  refine completes_sthWrite hp ha hw hjob (sthWriteCmd_cfg hp) fun t hq hreg hhbm => ⟨hq, ?_, hhbm⟩
  rw [Chip.sth, hreg, Chip.setSth, Chip.reg_setReg_self, field, Nat.shiftRight_zero]

end

/-! ### The statement -/

/-- Settles O31: a write that its rule takes sets its register, whose bits are those of `bitOf_regWrite`; one that it refuses leaves the core. -/
theorem coreRegistersHoldWhatIsWritten : Obligations.CoreRegistersHoldWhatIsWritten := by
  refine ⟨?plain, ?tables⟩
  case plain =>
    intro s p v n b who ha hp hv hr c job only
    have hrunning : s.chip.running = true ↔ job := beq_iff_eq
    refine ⟨vuFcsrWrite_completes ha hp hv hr, seqCtbcmpWrite_completes ha hp hv hr, fun hw hjob => ?_, fun hw hlimit => ?_,
      fun h hn hb => quietWrites_refused ha hp hv hr (h.imp_right hrunning.2) hn hb⟩
    · have hquiet : s.chip.running = false := Bool.eq_false_iff.2 fun h => hjob (hrunning.1 h)
      exact ⟨fun hn hb => sctHistWrite_completes ha hp hv hw hquiet hn hb, fun hn => sctShlistWrite_completes ha hp hv hw hquiet hn,
        fun hn => sctLinkWrite_completes ha hp hv hw hquiet hn,
        fun hb hcount hcountMax hlen hlenMax => barCfgWrite_completes ha hp hv hw hquiet hb hcount hcountMax hlen hlenMax⟩
    · exact progLimitWrite_completes ha hp hv hw hlimit
  case tables =>
    intro s p l v who ha hp hl hv hr c
    refine ⟨krfVrRdWrite_completes ha hp hv hr, fun hw hrungs hpos => ltCfgWrite_completes ha hp hv hl hw hrungs hpos,
      fun h => ltCfgWrite_refused ha hp hv hl h, fun hw hjob => ?_, fun h => ?_⟩
    · exact ⟨fun hlow hring => sthWm_completes ha hp hw hjob hlow hring, fun hlow => sthWm_inverted ha hp hw hjob hlow,
        sthCfg_completes ha hp hw hjob⟩
    · exact (completes_sthWrite_refused hp ha h).imp fun t ht => ⟨ht.1, Chip.sameBut_regs ht.2.1, State.onlyCore_coreOnly ht⟩

end Sys2Proof.Machine
end

section
/-!
PROOFS. Sequencer control, SRAM aliases and 64-bit access through the window (00 R14; 08 R259, R298, R299).
-/
namespace Sys2Proof.Machine

theorem findReg_ctbcmpHigh : findReg coreRegs (rSEQ_CTBCMP + 4) = none := by decide

theorem Chip.reaches_seqAgent (s : Chip) (p : Nat) : reaches (s.seqAgent p) p = true := by
  unfold Chip.seqAgent
  cases (s.core p).seq.uMode <;> simp [reaches, isSeqOf]

/-! ### RUN (R259, R299) -/

/-- The core after a write of RUN. -/
def Core.runSet (c : Core) (v : Nat) : Core :=
  let d := c.setReg rSEQ_CTL (field v 0 1)
  if bitOf v 0 && !bitOf (c.reg rSEQ_CTL) 0 then d.startMonitor else d

theorem Chip.coreWrite_seqCtl (s : Chip) {who : Agent} (hw : isSteward who = true) (p v : Nat) :
    s.coreWrite who p rSEQ_CTL v = seqCtlCmd s who p v := by
  unfold Chip.coreWrite; rw [reaches_of_isSteward hw p]; rfl

theorem seqCtlCmd_sets (s : Chip) {who : Agent} (hw : isSteward who = true) (p v : Nat) :
    s.sameBut p (seqCtlCmd s who p v) ∧ (seqCtlCmd s who p v).core p = (s.core p).runSet v := by
  have hset := Chip.sameBut_onCore s p fun c => c.setReg rSEQ_CTL (field v 0 1)
  have hcore : (s.onCore p fun c => c.setReg rSEQ_CTL (field v 0 1)).core p = (s.core p).setReg rSEQ_CTL (field v 0 1) :=
    Chip.core_onCore_self ..
  simp only [seqCtlCmd, Core.runSet, hw, Bool.not_true, Bool.false_eq_true, if_false]
  split
  · exact ⟨Chip.sameBut_trans hset (Chip.sameBut_onCore ..), by rw [Chip.core_onCore_self, hcore]⟩
  · exact ⟨hset, hcore⟩

theorem Core.startMonitor_reg {c : Core} (h : c.reg rSEQ_CTL = 1) : c.startMonitor.reg rSEQ_CTL = 1 := by
  have hreg : c.startMonitor.reg rSEQ_CTL = (c.setField rSEQ_CTL 0 1 1).reg rSEQ_CTL := rfl
  rw [hreg, Core.setField, Core.reg_setReg_self, h]
  rfl

theorem Core.runSet_reg (c : Core) (v : Nat) : (c.runSet v).reg rSEQ_CTL = field v 0 1 := by
  unfold Core.runSet
  extract_lets d
  have hd : d.reg rSEQ_CTL = field v 0 1 := Core.reg_setReg_self ..
  split
  case isTrue h =>
    have hone : field v 0 1 = 1 := by rw [bitOf_eq_field, (Bool.and_eq_true_iff.1 h).1]; rfl
    rw [hone]
    exact Core.startMonitor_reg (hd.trans hone)
  case isFalse => exact hd

/-- Rising, RUN starts the monitor; else the sequencer stays as it is. -/
theorem Core.runSet_seq (c : Core) (v : Nat) :
    if bitOf v 0 = true ∧ bitOf (c.reg rSEQ_CTL) 0 = false then
      (c.runSet v).seq.pc = 0xE000#32 ∧ (c.runSet v).seq.uMode = false ∧ (c.runSet v).seq.stall = none
    else (c.runSet v).seq = c.seq := by
  by_cases h : bitOf v 0 = true ∧ bitOf (c.reg rSEQ_CTL) 0 = false
  · have hstart : c.runSet v = (c.setReg rSEQ_CTL (field v 0 1)).startMonitor := if_pos (by rw [h.1, h.2]; rfl)
    rw [if_pos h, hstart]
    exact ⟨rfl, rfl, rfl⟩
  · have hstay : c.runSet v = c.setReg rSEQ_CTL (field v 0 1) := if_neg (by simpa using h)
    rw [if_neg h, hstay]
    rfl

theorem Core.runSet_store (c : Core) (v : Nat) : (c.runSet v).store = c.store := by
  unfold Core.runSet
  extract_lets d
  split <;> rfl

/-! ### SRAM aliases (R259) -/

section
variable {s : Chip} {who : Agent} {p off : Nat} {data : List Byte}

/-- A Steward's write into an alias of a stopped core. -/
theorem sramAliasCmd_eq (hw : isSteward who = true) (hstop : (s.core p).fenced = true ∨ bitOf ((s.core p).reg rSEQ_CTL) 0 = false)
    (hlen : off + data.length ≤ 0x20000) :
    let c := s.core p
    let lo := if off < 0x10000 then data.take (0x10000 - off) else []
    let hi := if off < 0x10000 then data.drop (0x10000 - off) else data
    sramAliasCmd s who p off data = s.setCore p
      { c with seq := { c.seq with iram := Bytes.wrN c.seq.iram off lo, dram := Bytes.wrN c.seq.dram (max off 0x10000) hi } } :=
  if_neg (by rcases hstop with h | h <;> simp [hw, h, Nat.not_lt.2 hlen])

/-- The core with bytes in its instruction SRAM, and with bytes in its data SRAM. -/
def Core.iramSet (off : Nat) (data : List Byte) (c : Core) : Core := { c with seq := { c.seq with iram := Bytes.wrN c.seq.iram off data } }
def Core.dramSet (off : Nat) (data : List Byte) (c : Core) : Core := { c with seq := { c.seq with dram := Bytes.wrN c.seq.dram off data } }

theorem sramAliasCmd_iram (hw : isSteward who = true) (hstop : (s.core p).fenced = true ∨ bitOf ((s.core p).reg rSEQ_CTL) 0 = false)
    (hend : off + data.length ≤ 0x10000) : sramAliasCmd s who p off data = s.onCore p (Core.iramSet off data) := by
  have hlo : (if off < 0x10000 then data.take (0x10000 - off) else []) = data := by
    split
    · exact List.take_of_length_le (by omega)
    · exact (List.length_eq_zero_iff.1 (by omega)).symm
  have hhi : (if off < 0x10000 then data.drop (0x10000 - off) else data) = [] := by
    split
    · exact List.drop_of_length_le (by omega)
    · exact List.length_eq_zero_iff.1 (by omega)
  rw [sramAliasCmd_eq hw hstop (by omega), hlo, hhi]
  rfl

theorem sramAliasCmd_dram (hw : isSteward who = true) (hstop : (s.core p).fenced = true ∨ bitOf ((s.core p).reg rSEQ_CTL) 0 = false)
    (hbegin : 0x10000 ≤ off) (hend : off + data.length ≤ 0x20000) : sramAliasCmd s who p off data = s.onCore p (Core.dramSet off data) := by
  rw [sramAliasCmd_eq hw hstop hend, if_neg (Nat.not_lt.2 hbegin), if_neg (Nat.not_lt.2 hbegin), max_eq_left hbegin]
  rfl

end

/-! ### The port's latches (R298) -/

theorem windowReg_ctbcmp : windowReg rSEQ_CTBCMP = some (rSEQ_CTBCMP, 64) := by decide

theorem windowReg_ctbcmpHigh : windowReg (rSEQ_CTBCMP + 4) = some (rSEQ_CTBCMP, 64) := by decide

section
variable (s : Chip) (p v : Nat)

theorem windowPairCmd_storeLow : windowPairCmd s p true rSEQ_CTBCMP v =
    s.onCore p fun c => { c with seq := { c.seq with held := some (rSEQ_CTBCMP, BitVec.ofNat 32 v) } } := by
  rw [windowPairCmd, windowReg_ctbcmp]
  dsimp only
  rw [if_pos rfl, Chip.portStore, windowReg_ctbcmp]
  rfl

/-- The core without the held word. -/
def Core.unheld (c : Core) : Core := { c with seq := { c.seq with held := none } }

theorem windowPairCmd_storeHigh {lo : Word} (hheld : (s.core p).seq.held = some (rSEQ_CTBCMP, lo)) :
    windowPairCmd s p true (rSEQ_CTBCMP + 4) v =
      (s.onCore p Core.unheld).coreWrite (s.seqAgent p) p rSEQ_CTBCMP (lo.toNat + v % 2 ^ 32 * 2 ^ 32) := by
  rw [windowPairCmd, windowReg_ctbcmpHigh]
  dsimp only
  rw [if_pos rfl, Chip.portStore, windowReg_ctbcmpHigh]
  dsimp only
  rw [if_neg (by decide), if_neg (by decide), hheld]
  rfl

theorem Chip.coreRd_ctbcmp : s.coreRd p rSEQ_CTBCMP = (s.core p).reg rSEQ_CTBCMP := by
  rw [Chip.coreRd, findReg_ctbcmp]
  rfl

/-- The core with the upper half of a register read in the port's latch. -/
def Core.latched (c : Core) (v : Nat) : Core := { c with seq := { c.seq with latch := BitVec.ofNat 32 (v / 2 ^ 32) } }

theorem windowPairCmd_loadLow : windowPairCmd s p false rSEQ_CTBCMP v =
    (s.onCore p fun c => c.latched ((s.core p).reg rSEQ_CTBCMP)).emit (.value ((s.core p).reg rSEQ_CTBCMP % 2 ^ 32)) := by
  rw [windowPairCmd, windowReg_ctbcmp]
  dsimp only
  rw [if_neg (by decide), Chip.portLoad, windowReg_ctbcmp]
  dsimp only
  rw [if_neg (by decide), if_pos rfl, Chip.coreRd_ctbcmp]
  rfl

end

/-! ### REGISTER_WRITE (00 R14) -/

/-- An access that no register of the rows takes: of another width than 32 or 64, unaligned, or of the upper half of a 64-bit register. -/
abbrev BadAccess (rows : List RegRow) (a width : Nat) : Prop :=
  (width ≠ 32 ∧ width ≠ 64) ∨ a % (width / 8) ≠ 0 ∨ (width = 32 ∧ upperHalf rows a = true)

section
variable (s : Chip) {who : Agent} {p a width : Nat} (v : Nat) (hp : p < nCores) (hr : reaches who p = true)
include hp hr

theorem registerWriteCmd_error {r : RegRow} (hf : findReg coreRegs a = some r) (hbad : BadAccess coreRegs a width ∨ r.width ≠ width) :
    registerWriteCmd s who p a width v = s.regError who := by
  simp only [registerWriteCmd, if_pos hp, hf, hr, Option.isSome_some, if_true]
  exact if_pos (decide_eq_true hbad)

theorem registerWriteCmd_writes {r : RegRow} (hf : findReg coreRegs a = some r) (hgood : ¬ (BadAccess coreRegs a width ∨ r.width ≠ width)) :
    registerWriteCmd s who p a width v = s.coreWrite who p a (v % 2 ^ width) := by
  simp only [registerWriteCmd, if_pos hp, hf, hr, Option.isSome_some, if_true]
  exact if_neg fun h => hgood (of_decide_eq_true h)

theorem registerWriteCmd_missed (hf : findReg coreRegs a = none) (hbad : BadAccess coreRegs a width) :
    registerWriteCmd s who p a width v = s.regError who := by
  simp only [registerWriteCmd, if_pos hp, hf, hr, Option.isSome_some, if_true]
  exact if_pos hbad

end

theorem registerWriteCmd_ctbcmp (s : Chip) {who : Agent} {p v : Nat} (hp : p < nCores) (hr : reaches who p = true) (hv : v < 2 ^ 64) :
    registerWriteCmd s who p rSEQ_CTBCMP 64 v = s.onCore p fun c => c.setReg rSEQ_CTBCMP v := by
  rw [registerWriteCmd_writes _ _ hp hr findReg_ctbcmp (by decide), Nat.mod_eq_of_lt hv, Chip.coreWrite_ctbcmp _ hr]
  simp only [regWrite_ctbcmp _ hv]

/-- Accesses of SEQ_CTBCMP of another width or alignment. -/
theorem registerWriteCmd_ctbcmp_error (s : Chip) {who : Agent} {p : Nat} (v : Nat) (hp : p < nCores) (hr : reaches who p = true) :
    ∀ x ∈ [(16, 0), (32, 0), (64, 4), (32, 4)], registerWriteCmd s who p (rSEQ_CTBCMP + x.2) x.1 v = s.regError who := by
  simp only [List.forall_mem_cons, List.not_mem_nil, false_implies, implies_true, and_true, Nat.add_zero]
  exact ⟨registerWriteCmd_error _ _ hp hr findReg_ctbcmp (by decide), registerWriteCmd_error _ _ hp hr findReg_ctbcmp (by decide),
    registerWriteCmd_missed _ _ hp hr findReg_ctbcmpHigh (by decide), registerWriteCmd_missed _ _ hp hr findReg_ctbcmpHigh (by decide)⟩

/-- An access error goes to the Stewards or to the core, and changes no register of the core. -/
theorem regError_spec (s : Chip) {who : Agent} {p : Nat} (hr : reaches who p = true) :
    (s.core p).regsKept ((s.regError who).core p) ∧
      if isSteward who then (s.regError who).raised = s.raised ++ [(evControl, 0, 0)]
      else ((s.regError who).core p).raised = (s.core p).raised ++ [(evAccess, 0)] := by
  have hcore : (s.onCore p fun c => c.raise evAccess 0).core p = (s.core p).raise evAccess 0 := Chip.core_onCore_self ..
  cases who with
  | seqU q | seqM q =>
    obtain rfl : q = p := by simpa [reaches, isSeqOf, isSteward] using hr
    refine ⟨?_, ?_⟩
    · rw [Chip.regError, hcore]
      exact fun _ _ => rfl
    · rw [Chip.regError, hcore]
      rfl
  | stewardA | stewardB => exact ⟨fun _ _ => rfl, rfl⟩
  | security | accountant | alwaysOn | client => exact absurd hr (by simp [reaches, isSeqOf, isSteward])

/-! ### The commands -/

theorem Chip.settleCore_settles (u m : Chip) (p : Nat) : (m.core p).SettlesTo ((u.settleCore m p).core p) := by
  rw [Chip.settleCore_core]
  exact Core.SettlesTo.of_settled ..

section
variable {s : State} {p v off : Nat} {w : Word} {who : Agent} {data : List Byte} (ha : s.awake)
include ha

/-- REGISTER_WRITE where hold mode is off: no more than its command. -/
theorem registerWrite_completes {a width : Nat} {post : State → Prop}
    (hpost : post { s with chip := registerWriteCmd s.chip who p a width v }) : Completes (.registerWrite who p a width v) s post := by
  have hf : (if s.chip.hold && !heldReg p a then s.chip else registerWriteCmd s.chip who p a width v) = registerWriteCmd s.chip who p a width v :=
    if_neg (by simp [ha.2])
  exact ⟨_, State.act_next (State.active_held ha.1) fun m => if m.hold && !heldReg p a then m else registerWriteCmd m who p a width v,
    by rwa [hf]⟩

theorem registerWrite_reports {a width : Nat} (hr : reaches who p = true)
    (hcmd : registerWriteCmd s.chip who p a width v = s.chip.regError who) :
    Completes (.registerWrite who p a width v) s fun t => t.pending = s.pending ∧ (s.chip.core p).regsKept (t.chip.core p) ∧
      (if isSteward who then t.chip.raised = s.chip.raised ++ [(evControl, 0, 0)]
        else (t.chip.core p).raised = (s.chip.core p).raised ++ [(evAccess, 0)]) :=
  registerWrite_completes ha (by rw [hcmd]; exact ⟨rfl, regError_spec s.chip hr⟩)

variable (hp : p < nCores)
include hp

theorem seqCtlWrite_completes (hw : isSteward who = true) (hv : v < 2 ^ 64) : Completes (.seqCtlWrite who p v) s fun t => s.coreOnly p t ∧
    (t.chip.core p).reg rSEQ_CTL = field v 0 1 ∧ (t.chip.core p).store = (s.chip.core p).store ∧
    (if bitOf v 0 = true ∧ bitOf ((s.chip.core p).reg rSEQ_CTL) 0 = false then (t.chip.core p).seq.pc = 0xE000#32 ∧
      (t.chip.core p).seq.uMode = false ∧ (t.chip.core p).seq.stall = none else (t.chip.core p).seq = (s.chip.core p).seq) := by
  have hwrite : s.chip.coreWrite who p rSEQ_CTL (v % 2 ^ 64) = seqCtlCmd s.chip who p v := by
    rw [Nat.mod_eq_of_lt hv, Chip.coreWrite_seqCtl s.chip hw]
  obtain ⟨hsame, hcore⟩ := seqCtlCmd_sets s.chip hw p v
  refine (completes_onlyCore hp (State.active_core ha) rfl (hwrite ▸ hsame) (hwrite ▸ hcore)).imp fun t ht => ?_
  have hset := State.onlyCore_settles ht
  refine ⟨State.onlyCore_coreOnly ht, ?_, ?_, ?_⟩
  · rw [hset.reg (by decide), Core.runSet_reg]
  · rw [hset.keep Core.store fun _ _ => rfl, Core.runSet_store]
  · rw [hset.keep Core.seq fun _ _ => rfl]
    exact Core.runSet_seq ..

theorem sramAliasWrite_completes (f : Core → Core) (hf : sramAliasCmd s.chip who p off data = s.chip.onCore p f) :
    Completes (.sramAliasWrite who p off data) s (s.onlyCore p (f (s.chip.core p))) :=
  completes_onlyCore hp (State.active_core ha) rfl (hf ▸ Chip.sameBut_onCore ..) (hf ▸ Chip.core_onCore_self ..)

theorem windowStoreLow_completes : Completes (.windowPairAccess p true rSEQ_CTBCMP w) s
    (s.onlyCore p { s.chip.core p with seq := { (s.chip.core p).seq with held := some (rSEQ_CTBCMP, w) } }) := by
  have hcmd := windowPairCmd_storeLow s.chip p w.toNat
  rw [BitVec.ofNat_toNat, BitVec.setWidth_eq] at hcmd
  exact completes_onlyCore hp (State.active_core ha) rfl (hcmd ▸ Chip.sameBut_onCore ..) (hcmd ▸ Chip.core_onCore_self ..)

theorem windowStoreHigh_completes {lo : Word} (hheld : (s.chip.core p).seq.held = some (rSEQ_CTBCMP, lo)) :
    Completes (.windowPairAccess p true (rSEQ_CTBCMP + 4) w) s fun t => s.coreOnly p t ∧
      (t.chip.core p).reg rSEQ_CTBCMP = lo.toNat + w.toNat * 2 ^ 32 ∧ (t.chip.core p).seq.held = none := by
  have hlt : lo.toNat + w.toNat * 2 ^ 32 < 2 ^ 64 := by omega
  have hcmd := windowPairCmd_storeHigh s.chip p w.toNat hheld
  rw [Nat.mod_eq_of_lt w.isLt, Chip.coreWrite_ctbcmp _ (Chip.reaches_seqAgent ..)] at hcmd
  have hsame := Chip.sameBut_trans (Chip.sameBut_onCore s.chip p Core.unheld)
    (Chip.sameBut_onCore _ p fun c => c.setReg rSEQ_CTBCMP (regWrite false rowCtbcmp (c.reg rSEQ_CTBCMP) (lo.toNat + w.toNat * 2 ^ 32)))
  have hcore : (windowPairCmd s.chip p true (rSEQ_CTBCMP + 4) w.toNat).core p =
      (s.chip.core p).unheld.setReg rSEQ_CTBCMP (lo.toNat + w.toNat * 2 ^ 32) := by
    rw [hcmd, Chip.core_onCore_self, regWrite_ctbcmp _ hlt, Chip.core_onCore_self]
  refine (completes_onlyCore hp (State.active_core ha) rfl (hcmd ▸ hsame) hcore).imp fun t ht => ?_
  have hset := State.onlyCore_settles ht
  refine ⟨State.onlyCore_coreOnly ht, ?_, ?_⟩
  · rw [hset.reg (by decide), Core.reg_setReg_self]
  · rw [hset.keep Core.seq fun _ _ => rfl]
    rfl

theorem windowLoadLow_completes : Completes (.windowPairAccess p false rSEQ_CTBCMP w) s fun t => t.pending = s.pending ∧
    t.chip.outs = .value ((s.chip.core p).reg rSEQ_CTBCMP % 2 ^ 32) :: s.chip.outs ∧
    (t.chip.core p).seq.latch = BitVec.ofNat 32 ((s.chip.core p).reg rSEQ_CTBCMP / 2 ^ 32) ∧
    (s.chip.core p).regsKept (t.chip.core p) ∧ (∀ q, q ≠ p → t.chip.core q = s.chip.core q) := by
  refine ⟨_, State.actCore_next hp (State.active_core ha) _, rfl, ?_⟩
  rw [windowPairCmd_loadLow]
  set m := (s.chip.onCore p fun c => c.latched ((s.chip.core p).reg rSEQ_CTBCMP)).emit (.value ((s.chip.core p).reg rSEQ_CTBCMP % 2 ^ 32))
  have hcore : m.core p = (s.chip.core p).latched ((s.chip.core p).reg rSEQ_CTBCMP) :=
    Chip.core_onCore_self s.chip p fun c => c.latched ((s.chip.core p).reg rSEQ_CTBCMP)
  have hset := Chip.settleCore_settles s.chip m p
  rw [hcore] at hset
  refine ⟨Chip.settleCore_outs .., ?_, fun a ha => hset.reg ha, fun q hq => ?_⟩
  · rw [hset.keep (·.seq.latch) fun _ _ => rfl]
    rfl
  · exact (Chip.core_settleCore_ne _ _ hq).trans ((Chip.core_setCore s.chip p _ q).trans (if_neg hq))

end

/-! ### The statement -/

/-- Settles O33: each access is one command, whose effect its equation above says. -/
theorem windowAccess : Obligations.WindowAccess := by
  intro s p v off w who data ha hp hv c
  refine ⟨fun hw => seqCtlWrite_completes ha hp hw hv, fun hw hstop => ⟨fun hend => ?_, fun hbegin hend => ?_⟩,
    windowStoreLow_completes ha hp, fun lo hheld => windowStoreHigh_completes ha hp hheld, windowLoadLow_completes ha hp,
    fun hr => ⟨?reports, ?writes⟩⟩
  · exact sramAliasWrite_completes ha hp (Core.iramSet off data) (sramAliasCmd_iram hw hstop hend)
  · exact sramAliasWrite_completes ha hp (Core.dramSet off data) (sramAliasCmd_dram hw hstop hbegin hend)
  case reports => exact fun x hx => registerWrite_reports ha hr (registerWriteCmd_ctbcmp_error s.chip v hp hr x hx)
  case writes => exact registerWrite_completes ha ⟨rfl, registerWriteCmd_ctbcmp s.chip hp hr hv⟩

end Sys2Proof.Machine
end

section
/-!
PROOFS. RED adds FP32 items element by element (08 R285).
-/
namespace Sys2Proof.Machine

/-! ### A started operation and its result -/

/-- An operation whose result writes no tile changes its place alone. -/
theorem started_of_no_tile {c : Core} (t : TOp) {r : OpResult} (h : r.tile = none) :
    c.started t r = c.setOp { t with phase := .started, res := t.resultOf r } := by
  unfold Core.started
  rw [h]
  rfl

/-- An item of an operation whose descriptor was hurt carries cause R. -/
def OutItem.hurtBy (o : OutItem) (hurt : Bool) : OutItem := if hurt then { o with poison := o.poison ||| poisonR } else o

theorem resultOf_item (t : TOp) (o : OutItem) : (t.resultOf { items := [o] }).items = [o.hurtBy t.hurt] := by
  unfold TOp.resultOf OutItem.hurtBy
  cases t.hurt <;> rfl

theorem OutItem.hurtBy_keep {γ : Type} (g : OutItem → γ) (h : ∀ (o : OutItem) x, g { o with poison := x } = g o) (o : OutItem) (hurt : Bool) :
    g (o.hurtBy hurt) = g o := by
  cases hurt
  · rfl
  · exact h o _

theorem OutItem.hurtBy_poison (o : OutItem) (hurt : Bool) : (o.hurtBy hurt).poison = o.poison ||| if hurt then poisonR else 0 := by
  cases hurt
  · exact (BitVec.or_zero).symm
  · rfl

/-! ### The registers that taking items leaves -/

theorem Core.reg_unitRd (c : Core) {r : Nat} (hr : r ≠ rSEQ_ECC) (a n : Nat) : (c.unitRd a n).reg r = c.reg r :=
  Core.unitRd_keep (·.reg r) (fun _ _ => rfl) (fun _ _ => rfl) (fun c v => (Core.reg_setReg c rSEQ_ECC v r).trans (if_neg hr)) c a n

theorem Core.reg_pop (c : Core) {r : Nat} (hr : r ≠ rSEQ_ECC) (n : Nat) : (c.pop n).reg r = c.reg r := Core.reg_unitRd c hr _ _

theorem Core.reg_takeItems {r : Nat} (hr : r ≠ rSEQ_ECC) (ns : List Nat) : ∀ c : Core, (c.takeItems ns).2.reg r = c.reg r := by
  induction ns with
  | nil => exact fun _ => rfl
  | cons n ns ih => exact fun c => (ih (c.pop n)).trans (c.reg_pop hr n)

/-! ### The sum -/

/-- The item of the sum. -/
def redSum (d : List Byte) (slot : Nat) (tag : Word) (a b : OutItem) : OutItem :=
  { q := dQD d, slot := slot, tag := tag, poison := a.poison ||| b.poison, fmt := 0x0C, nelem := a.nelem
    payload := wideBytes 4 ((a.elems.zip b.elems).map fun x => engAdd fp32 (fp32.decode x.1) (fp32.decode x.2)) }

section
variable {c c1 : Core} {t : TOp} {a b : OutItem} {ha hb : Bool} (htake : c.takeItems [dQA t.desc, dQB t.desc] = ([(a, ha), (b, hb)], c1))
include htake

/-- Two items of FP32 and of one length. -/
theorem redStart_sums (hgood : ha = false ∧ hb = false ∧ a.fmt = 0x0C ∧ b.fmt = 0x0C ∧ a.nelem = b.nelem) :
    ∃ slot tag, redStart c t = ((c1.reserve (dQD t.desc) t.seq).1).started t { items := [redSum t.desc slot tag a b] } := by
  obtain ⟨hfa, hfb, hda, hdb, hlen⟩ := hgood
  unfold redStart
  dsimp only
  rw [htake]
  exact ⟨_, _, if_neg (by simp [hfa, hfb, hda, hdb, hlen])⟩

theorem redStart_refuses (hbad : ¬ (ha = false ∧ hb = false ∧ a.fmt = 0x0C ∧ b.fmt = 0x0C ∧ a.nelem = b.nelem)) :
    ∃ slot tag, redStart c t = ((c1.reserve (dQD t.desc) t.seq).1.raise evFormat 0).started t
      { items := [(c1.reserve (dQD t.desc) t.seq).1.zeroOut (dQD t.desc) slot 0x0C 0x3F800000 a.nelem 0 tag (a.poison ||| b.poison)] } := by
  unfold redStart
  dsimp only
  rw [htake]
  refine ⟨_, _, if_pos ?_⟩
  by_contra h
  exact hbad (by simpa [and_assoc] using h)

end

/-- The FP32 item of a format error: zeros, as many as the slot holds, or none. -/
theorem zeroOut_fp32 (c : Core) (q slot scale ne entry : Nat) (tag : Word) (p : BitVec 2) :
    let o := c.zeroOut q slot 0x0C scale ne entry tag p
    o.fmt = 0x0C ∧ o.poison = p ||| poisonR ∧ o.nelem = (if 4 * ne ≤ c.qbytes q then ne else 0) ∧ ∀ x ∈ o.payload, x = 0 := by
  have hwide : fmtIsNarrow (fmtOf 0x0C) = false := rfl
  have hwidth : fmtWidth (fmtOf 0x0C) / 8 = 4 := rfl
  have hpay : (zeroItem q slot 0x0C scale ne entry tag p).payload = List.replicate (ne * 4) 0 := by
    unfold zeroItem
    simp only [hwide, hwidth, Bool.false_eq_true, if_false]
  have hlen : (zeroItem q slot 0x0C scale ne entry tag p).payload.length = 4 * ne := by rw [hpay, List.length_replicate, Nat.mul_comm]
  intro o
  by_cases hfits : 4 * ne ≤ c.qbytes q
  · have ho : o = zeroItem q slot 0x0C scale ne entry tag p := if_neg (by rw [hlen]; omega)
    rw [ho, if_pos hfits, hpay]
    exact ⟨rfl, rfl, rfl, fun x hx => (List.mem_replicate.1 hx).2⟩
  · have ho : o = { zeroItem q slot 0x0C scale ne entry tag p with nelem := 0, nblk := 0, payload := [] } := if_pos (by rw [hlen]; omega)
    rw [ho, if_neg hfits]
    exact ⟨rfl, rfl, rfl, fun x hx => absurd hx List.not_mem_nil⟩

/-! ### The statement -/

/-- Settles O21: the two outcomes are `redStart_sums` and `redStart_refuses`. -/
theorem redAddsElementwise : Obligations.RedAddsElementwise := by
  intro c t a b ha hb c1 hcode hop htake good d hurt
  have hkey : opKey (c1.reserve (dQD t.desc) t.seq).1 = opKey c := by
    have hk := opKey_takeItems [dQA t.desc, dQB t.desc] c
    rw [htake] at hk
    exact (opKey_reserve ..).trans hk
  have hfound : (c1.reserve (dQD t.desc) t.seq).1.op? t.id = some t := (op_of_opKey hkey t.id).trans hop
  have hfcsr : (c1.reserve (dQD t.desc) t.seq).1.reg rVU_FCSR = c.reg rVU_FCSR := by
    have hreg := Core.reg_takeItems (r := rVU_FCSR) (by decide) [dQA t.desc, dQB t.desc] c
    rwa [htake] at hreg
  by_cases hgood : good
  · obtain ⟨slot, tag, hd⟩ := redStart_sums htake hgood
    have hd : d = _ := hd
    rw [hd]
    refine ⟨_, (redSum t.desc slot tag a b).hurtBy t.hurt, (op_started _ t t _ hfound t.id).trans (if_pos rfl), resultOf_item t _,
      OutItem.hurtBy_keep OutItem.q (fun _ _ => rfl) _ _, OutItem.hurtBy_keep OutItem.fmt (fun _ _ => rfl) _ _, ?_, fun _ => ⟨?_, ?_, ?_, ?_⟩,
      fun h => absurd hgood h⟩
    · rw [started_of_no_tile t rfl]
      exact hfcsr
    · rw [started_of_no_tile t rfl]
      rfl
    · exact OutItem.hurtBy_keep OutItem.nelem (fun _ _ => rfl) _ _
    · exact OutItem.hurtBy_poison _ _
    · exact OutItem.hurtBy_keep OutItem.payload (fun _ _ => rfl) _ _
  · obtain ⟨slot, tag, hd⟩ := redStart_refuses htake hgood
    have hd : d = _ := hd
    obtain ⟨hfmt, hpoison, hnelem, hzero⟩ := zeroOut_fp32 (c1.reserve (dQD t.desc) t.seq).1 (dQD t.desc) slot 0x3F800000 a.nelem 0 tag
      (a.poison ||| b.poison)
    rw [hd]
    refine ⟨_, _, (op_started _ t t _ hfound t.id).trans (if_pos rfl), resultOf_item t _,
      (OutItem.hurtBy_keep OutItem.q (fun _ _ => rfl) _ _).trans (zeroOut_q ..), (OutItem.hurtBy_keep OutItem.fmt (fun _ _ => rfl) _ _).trans hfmt,
      ?_, fun h => absurd h hgood, fun _ => ⟨?_, ?_, ?_, ?_⟩⟩
    · rw [started_of_no_tile t rfl]
      exact hfcsr
    · rw [started_of_no_tile t rfl]
      rfl
    · exact (OutItem.hurtBy_keep OutItem.nelem (fun _ _ => rfl) _ _).trans hnelem
    · rw [OutItem.hurtBy_poison, hpoison]
    · rw [OutItem.hurtBy_keep OutItem.payload (fun _ _ => rfl)]
      exact hzero

end Sys2Proof.Machine
end

section
/-!
PROOFS. Operations start (06 R198, R200; 08 R280, R284, R287, R291, R297; 09 R316).
-/
namespace Sys2Proof.Machine

/-! ### Conversions, drains, loads and sums -/

/-- What the start of operation `t` keeps of its core. -/
def Core.OpKept (c : Core) (t : TOp) (d : Core) : Prop :=
  (∀ j, j ≠ t.id → d.op? j = c.op? j) ∧ d.store = c.store ∧ d.seq = c.seq ∧ d.vuQ = c.vuQ ∧ d.ku = c.ku

theorem Core.OpKept.settles {c d e : Core} {t : TOp} (h : c.OpKept t d) (hset : d.SettlesTo e) : c.OpKept t e := by
  obtain ⟨hops, hstore, hseq, hvuQ, hku⟩ := h
  exact ⟨fun j hj => (hset.keep (·.op? j) fun _ _ => rfl).trans (hops j hj), (hset.keep Core.store fun _ _ => rfl).trans hstore,
    (hset.keep Core.seq fun _ _ => rfl).trans hseq, (hset.keep Core.vuQ fun _ _ => rfl).trans hvuQ,
    (hset.keep Core.ku fun _ _ => rfl).trans hku⟩

/-- An operation that has started from a core with the same operations, store and sequencer. -/
theorem opKept_started {c d : Core} {t x : TOp} (hop : d.op? t.id = some x) (hd : c.OpKept t d) (r : OpResult) : c.OpKept t (d.started t r) := by
  obtain ⟨hops, hstore, hseq, hvuQ, hku⟩ := hd
  obtain ⟨hstore', hseq', hvuQ', hku', -⟩ := rest_started d t r
  exact ⟨fun j hj => (op_started d t x r hop j).trans ((if_neg hj).trans (hops j hj)), hstore'.trans hstore, hseq'.trans hseq,
    hvuQ'.trans hvuQ, hku'.trans hku⟩

theorem opKept_of_opKey {c d : Core} (t : TOp) (h : opKey d = opKey c) : c.OpKept t d := by
  obtain ⟨-, hstore, hseq, hvuQ, hku, -⟩ : _ ∧ _ ∧ _ ∧ _ ∧ _ ∧ _ := by simpa only [opKey, Prod.mk.injEq] using h
  exact ⟨fun j _ => op_of_opKey h j, hstore, hseq, hvuQ, hku⟩

theorem Core.OpKept.trans {c d e : Core} {t : TOp} (h : c.OpKept t d) (k : d.OpKept t e) : c.OpKept t e := by
  obtain ⟨hops, hstore, hseq, hvuQ, hku⟩ := h
  obtain ⟨hops', hstore', hseq', hvuQ', hku'⟩ := k
  exact ⟨fun j hj => (hops' j hj).trans (hops j hj), hstore'.trans hstore, hseq'.trans hseq, hvuQ'.trans hvuQ, hku'.trans hku⟩

theorem Core.OpKept.of_opKey {c d e : Core} {t : TOp} (h : c.OpKept t d) (hkey : opKey e = opKey d) : c.OpKept t e :=
  h.trans (opKept_of_opKey t hkey)

/-- A change in the place of `t`. -/
theorem Core.OpKept.setOp {c d : Core} {t x y : TOp} (h : c.OpKept t d) (hid : y.id = t.id) (hop : d.op? t.id = some x) :
    c.OpKept t (d.setOp y) := by
  obtain ⟨hops, hrest⟩ := h
  exact ⟨fun j hj => (op_setOp d y x (hid ▸ hop) j).trans ((if_neg (hid ▸ hj)).trans (hops j hj)), hrest⟩

theorem Starts.leaves {c c' m : Core} {t : TOp} (hs : Starts c' t m) (hkey : opKey c' = opKey c) (hop : c.op? t.id = some t) :
    c.OpKept t m ∧ ∃ r, m.op? t.id = some { t with phase := .started, res := r } ∧ r.items.map (·.q) = opPushes t.desc := by
  obtain ⟨d, r, rfl, hkey', hitems⟩ := hs
  have hd : opKey d = opKey c := hkey'.trans hkey
  have hfound : d.op? t.id = some t := (op_of_opKey hd t.id).trans hop
  exact ⟨opKept_started hfound (opKept_of_opKey t hd) r, t.resultOf r, (op_started d t t r hfound t.id).trans (if_pos rfl),
    (resultOf_q t r).trans hitems⟩

theorem cvtStart_captures {t : TOp} (hcode : dOp t.desc = opCVT) (hw : wantsCapture t.desc = false) (c : Core) : (cvtStart c t).2 = [] := by
  obtain ⟨hO, hI⟩ : dCapO t.desc = false ∧ dCapI t.desc = false := by simpa [wantsCapture, hcode, opCVT, opPDRN, opKCAP] using hw
  have hnoI : ¬ dCapI t.desc = true := by rw [hI]; decide
  have hnoO : ¬ dCapO t.desc = true := by rw [hO]; decide
  unfold cvtStart
  split
  · exact if_neg hnoI
  · split
    · unfold cvtDeq
      exact (apply_ite Prod.snd ..).trans (ite_self _)
    · exact congrArg₂ (· ++ ·) (if_neg hnoO) (if_neg hnoI)

theorem pdrnStart_captures {t : TOp} (hcode : dOp t.desc = opPDRN) (hw : wantsCapture t.desc = false) (c : Core) : (pdrnStart c t).2 = [] := by
  have hO : dCapO t.desc = false := by simpa [wantsCapture, hcode, opCVT, opPDRN, opKCAP] using hw
  exact if_neg (by rw [hO]; decide)

section
variable {s : State} {p : Nat} {t : TOp} (ha : s.awake) (hp : p < nCores) (hop : (s.chip.core p).op? t.id = some t)
  (hready : s.chip.opStarts p t = true)
include ha hp hop hready

/-- A ready operation without a capture: `run` starts it. -/
theorem opStart_completes {i : Instr} {code : Nat} {run : Core → TOp → Core × List KerfRec} (hcode : dOp t.desc = code)
    (hw : wantsCapture t.desc = false) (hstarts : ∀ c, Starts c t (run c t).1) (hcap : ∀ c, (run c t).2 = [])
    (he : exec i s = s.actCore .core p fun m => opStart m p t.id code run) :
    Completes i s fun u => s.coreOnly p u ∧ (s.chip.core p).OpKept t (u.chip.core p) ∧
      ∃ r, (u.chip.core p).op? t.id = some { t with phase := .started, res := r } ∧ r.items.map (·.q) = opPushes t.desc := by
  obtain ⟨hsame, c', hs, hkey⟩ := opStart_starts s.chip p t code run hop hcode hready hw hstarts hcap
  obtain ⟨hkept, r, hmine, hitems⟩ := hs.leaves hkey hop
  refine (completes_onlyCore hp (State.active_core ha) he hsame rfl).imp fun u hu => ?_
  have hset := State.onlyCore_settles hu
  exact ⟨State.onlyCore_coreOnly hu, hkept.settles hset, r, (hset.keep (·.op? t.id) fun _ _ => rfl).trans hmine, hitems⟩

end

/-! ### Inlay gathers -/

section
variable (rs : List Span) (p : Nat)

/-- Reads of device memory count, and reads of the store of core p touch it alone. -/
theorem Chip.useSpans_keep {γ : Type} (g : Chip → γ) (huse : ∀ (s : Chip) a n, g (s.hbmUse a n) = g s)
    (hread : ∀ (s : Chip) a n, g (s.onCore p fun c => c.unitRd a n) = g s) (s : Chip) : g (s.useSpans p rs) = g s := by
  refine foldl_keep g _ (fun s r => ?_) rs s
  split
  · exact huse ..
  · exact hread ..
  · rfl

theorem Chip.useSpans_core_ne (s : Chip) {q : Nat} (hq : q ≠ p) : (s.useSpans p rs).core q = s.core q :=
  Chip.useSpans_keep rs p (·.core q) (fun s a n => s.core_hbmUse a n q) (fun s _ _ => (Chip.core_onCore s p _ q).trans (if_neg hq)) s

theorem Chip.useSpans_hbm (s : Chip) : (s.useSpans p rs).hbm = s.hbm :=
  Chip.useSpans_keep rs p Chip.hbm (Chip.hbmUse_keep Chip.hbm (fun _ _ => rfl) fun _ _ => rfl) (fun _ _ _ => rfl) s

theorem Chip.useSpans_opKey (s : Chip) : opKey ((s.useSpans p rs).core p) = opKey (s.core p) := by
  refine Chip.useSpans_keep rs p (fun m => opKey (m.core p)) (fun s a n => congrArg opKey (s.core_hbmUse a n p)) (fun s a n => ?_) s
  rw [Chip.core_onCore_self]
  exact opKey_unitRd ..

end

/-- What every change that a part makes on the way keeps of cores and memory. -/
def Chip.coresKept (s m : Chip) : Prop := (∀ q, m.core q = s.core q) ∧ m.hbm = s.hbm

theorem Chip.poisonEvent_kept (s : Chip) (a : Nat) : s.coresKept (s.poisonEvent a) := by
  unfold Chip.poisonEvent
  split <;> exact ⟨fun _ => rfl, rfl⟩

theorem Chip.lostEvent_kept (s : Chip) (o : Option Nat) : s.coresKept (match o with | some a => s.poisonEvent a | none => s) := by
  cases o with
  | none => exact ⟨fun _ => rfl, rfl⟩
  | some a => exact s.poisonEvent_kept a

/-- The other cores and the memory of the part are kept; core p becomes one that starts from `c` and satisfies `P`. -/
def Chip.changes (s : Chip) (p : Nat) (P : Core → Prop) (m : Chip) : Prop :=
  (∀ q, q ≠ p → m.core q = s.core q) ∧ m.hbm = s.hbm ∧ P (m.core p)

theorem Chip.changes_setCore {s m : Chip} {p : Nat} {P : Core → Prop} {c : Core} (hcores : ∀ q, q ≠ p → m.core q = s.core q)
    (hhbm : m.hbm = s.hbm) (hc : P c) : s.changes p P (m.setCore p c) :=
  ⟨fun q hq => ((Chip.core_setCore m p c q).trans (if_neg hq)).trans (hcores q hq), hhbm, (Chip.core_setCore_self m p c).symm ▸ hc⟩

/-- Packets that core p sends on its part. -/
theorem Chip.changes.inject {s m : Chip} {p : Nat} {P : Core → Prop} (h : s.changes p P m) (hP : ∀ {c : Core} l, P c → P { c with out := l })
    (chip x y : Nat) (k : Packet) : s.changes p P (m.inject p chip x y k) := by
  obtain ⟨hcores, hhbm, hp⟩ := h
  unfold Chip.inject
  split
  · exact ⟨hcores, hhbm, hp⟩
  · exact Chip.changes_setCore hcores hhbm (hP _ hp)

theorem Chip.changes_foldl {β : Type} {s m : Chip} {p : Nat} {P : Core → Prop} {f : Chip → β → Chip}
    (hf : ∀ m b, s.changes p P m → s.changes p P (f m b)) (h : s.changes p P m) (l : List β) : s.changes p P (l.foldl f m) := by
  induction l generalizing m with
  | nil => exact h
  | cons b l ih => exact ih (hf m b h)

/-- What a gather leaves of its core: it has started, or it asks for lines of other cores' stores. -/
structure IgthLeaves (c : Core) (t : TOp) (d : Core) : Prop where
  kept : c.OpKept t d
  mine : ∃ i r f, d.op? t.id = some { t with phase := f, input := i, res := r } ∧ r.items.map (·.q) = opPushes t.desc ∧
    (f = .started ∨ remotePlan t.desc ≠ [] ∧ f = .remote (List.range (remotePlan t.desc).length))

theorem IgthLeaves.settles {c d e : Core} {t : TOp} (h : IgthLeaves c t d) (hset : d.SettlesTo e) : IgthLeaves c t e := by
  obtain ⟨hkept, i, r, f, hmine, hrest⟩ := h
  exact ⟨hkept.settles hset, i, r, f, (hset.keep (·.op? t.id) fun _ _ => rfl).trans hmine, hrest⟩

/-- The lists of packets on the way are no part of it. -/
theorem IgthLeaves.sends {c d : Core} {t : TOp} (l : List Packet) (h : IgthLeaves c t d) : IgthLeaves c t { d with out := l } :=
  ⟨h.kept, h.mine⟩

theorem opPushes_igth {d : List Byte} (h : dOp d = opIGTH) : opPushes d = [dQD d] := by
  unfold opPushes
  dsimp only
  rw [h]
  rfl

section
variable {c d : Core} {t x : TOp} {i : List OutItem} {r : OpResult} (hop : d.op? t.id = some x) (hkept : c.OpKept t d)
include hop hkept

theorem igthLeaves_started {r' : OpResult} (hitems : r'.items.map (·.q) = opPushes t.desc) :
    IgthLeaves c t (d.started { t with input := i, res := r } r') :=
  ⟨opKept_started (t := { t with input := i, res := r }) hop hkept r', i, _, .started,
    (op_started d { t with input := i, res := r } x r' hop t.id).trans (if_pos rfl),
    (resultOf_q ..).trans hitems, .inl rfl⟩

theorem igthLeaves_asks (hitems : r.items.map (·.q) = opPushes t.desc) (hplan : remotePlan t.desc ≠ []) :
    IgthLeaves c t (d.setOp { t with phase := .remote (List.range (remotePlan t.desc).length), input := i, res := r }) := by
  have hset := op_setOp d { t with phase := .remote (List.range (remotePlan t.desc).length), input := i, res := r } x hop t.id
  exact ⟨hkept.setOp rfl hop, i, r, _, hset.trans (if_pos rfl), hitems, .inr ⟨hplan, rfl⟩⟩

end

/-- The gathered item is for the slot that the gather reserved. -/
theorem igthDone_eq (c : Core) {t : TOp} {o : OutItem} (hitems : t.res.items = [o]) (bs : List Byte) (lost : Bool) :
    ∃ r, igthDone c t bs lost = c.started t r ∧ r.items.map (·.q) = [o.q] := by
  unfold igthDone
  rw [hitems]
  exact ⟨_, rfl, rfl⟩

theorem igthBad_eq (c : Core) {t : TOp} {o : OutItem} (hitems : t.res.items = [o]) :
    ∃ r, igthBad c t = (c.raise evFormat 0).started t r ∧ r.items.map (·.q) = [o.q] := by
  unfold igthBad
  rw [hitems]
  refine ⟨_, rfl, ?_⟩
  rw [List.map_cons, List.map_nil, zeroOut_q]
  rfl

end Sys2Proof.Machine
end

section
/-!
PROOFS. Gathers and captures start (06 R198, R200; 08 R291; 09 R316).
-/
namespace Sys2Proof.Machine

/-- A gather with its records at hand starts on the core that its reads leave. -/
theorem igthGo_eq (s : Chip) (p : Nat) {t : TOp} {o : OutItem} (hitems : t.res.items = [o]) :
    ∃ (m : Chip) (r : OpResult), igthGo s p t = m.setCore p ((m.core p).started t r) ∧ r.items.map (·.q) = [o.q] ∧
      (∀ q, q ≠ p → m.core q = s.core q) ∧ m.hbm = s.hbm ∧ opKey (m.core p) = opKey (s.core p) := by
  obtain ⟨hcores, hhbm⟩ := s.lostEvent_kept (s.lostSpan (readSpans t.desc))
  unfold igthGo
  dsimp only
  set e := match s.lostSpan (readSpans t.desc) with | some a => s.poisonEvent a | none => s
  obtain ⟨r, heq, hq⟩ := igthDone_eq ((e.useSpans p (readSpans t.desc)).core p) hitems (gatherSpans s p t.buf (readSpans t.desc) 0).1
    ((gatherSpans s p t.buf (readSpans t.desc) 0).2 || t.bufBad)
  exact ⟨_, r, congrArg _ heq, hq, fun q hne => (Chip.useSpans_core_ne _ p e hne).trans (hcores q),
    (Chip.useSpans_hbm _ p e).trans hhbm, (Chip.useSpans_opKey _ p e).trans (congrArg opKey (hcores p))⟩

section
variable {s : Chip} {p : Nat} {t : TOp} (hop : (s.core p).op? t.id = some t) (hready : s.opStarts p t = true)
include hop hready

theorem igthCmd_changes (hcode : dOp t.desc = opIGTH) : s.changes p (IgthLeaves (s.core p) t) (igthCmd s p t.id) := by
  set c0 := (s.core p).late t.due (s.localTick p) with hc0
  obtain ⟨hkey, i, r, htaken, hqueue, hone⟩ := igthTake_eq c0 t
  obtain ⟨o, hitems⟩ := List.length_eq_one_iff.1 hone
  have hkey : opKey (igthTake c0 t).1 = opKey (s.core p) := hkey.trans (opKey_late ..)
  have hpush : [o.q] = opPushes t.desc := by
    rw [opPushes_igth hcode, ← hqueue, hitems]
    rfl
  have hrq : r.items.map (·.q) = opPushes t.desc := by rw [hqueue, opPushes_igth hcode]
  have hfound : (igthTake c0 t).1.op? t.id = some t := (op_of_opKey hkey t.id).trans hop
  have hkept : (s.core p).OpKept t (igthTake c0 t).1 := opKept_of_opKey t hkey
  have hother (d : Core) (q : Nat) (hq : q ≠ p) : (s.setCore p d).core q = s.core q := (Chip.core_setCore s p d q).trans (if_neg hq)
  unfold igthCmd
  dsimp only
  rw [hop]
  dsimp only
  rw [if_neg (by simp [hcode, hready]), ← hc0, htaken]
  split
  case isTrue =>
    refine Chip.changes_setCore (hother _) rfl ?_
    exact igthLeaves_started (d := (igthTake c0 t).1.raise evAccess 0) hfound hkept hrq
  case isFalse =>
    split
    case isTrue =>
      obtain ⟨r', heq, hq'⟩ := igthBad_eq (igthTake c0 t).1 (t := { t with input := i, res := r }) hitems
      rw [heq]
      refine Chip.changes_setCore (hother _) rfl ?_
      exact igthLeaves_started (d := (igthTake c0 t).1.raise evFormat 0) hfound hkept (hq'.trans hpush)
    case isFalse =>
      set d := (igthTake c0 t).1.setOp { t with input := i, res := r }
      have hfound' : d.op? t.id = some { t with input := i, res := r } :=
        (op_setOp (igthTake c0 t).1 { t with input := i, res := r } t hfound t.id).trans (if_pos rfl)
      have hkept' : (s.core p).OpKept t d := hkept.setOp rfl hfound
      split
      case isTrue =>
        obtain ⟨m, r', heq, hq', hcores, hhbm, hkey'⟩ := igthGo_eq (s.setCore p d) p (t := { t with input := i, res := r }) hitems
        rw [Chip.core_setCore_self] at hkey'
        rw [heq]
        refine Chip.changes_setCore (fun q hne => (hcores q hne).trans (hother _ q hne)) hhbm ?_
        exact igthLeaves_started ((op_of_opKey hkey' t.id).trans hfound') (hkept'.of_opKey hkey') (hq'.trans hpush)
      case isFalse hplan =>
        refine Chip.changes_foldl (fun m k h => h.inject IgthLeaves.sends ..) (Chip.changes_setCore (hother _) rfl ?_) _
        rw [Chip.core_setCore_self]
        exact igthLeaves_asks hfound' hkept' hrq (by simpa using hplan)

end

end Sys2Proof.Machine
end

section
/-!
PROOFS. An input capture starts, and its record enters the buffer of its kerf core (06 R198, R200; 08 R284).
-/
namespace Sys2Proof.Machine

/-! ### What decides whether a core takes a capture -/

/-- The selections of a core, its captures, and the registers that regenerate a selection. -/
def captureKey (c : Core) : List Sel × List KerfRec × Nat × (Nat → Nat) :=
  (c.sel, c.kerf, c.reg (rRS_KEY 2), fun l => c.reg (rLT_CFG l))

theorem takesCapture_congr {c d : Core} (h : captureKey c = captureKey d) (input : Bool) (ch l idx k0 : Nat) :
    c.takesCapture input ch l idx k0 = d.takesCapture input ch l idx k0 := by
  obtain ⟨hsel, hkerf, hkey, hlt⟩ : _ ∧ _ ∧ _ ∧ _ := by simpa only [captureKey, Prod.mk.injEq] using h
  have hrate (l : Nat) : ltRate c l = ltRate d l := congrArg (field · 22 4) (congrFun hlt l)
  have hselOf : c.selOf ch l = d.selOf ch l := by rw [Core.selOf, Core.selOf, hsel]
  have hselected (x : Sel) : c.selected x = d.selected x := by rw [Core.selected, Core.selected, hkey, hrate]
  rw [Core.takesCapture, Core.takesCapture, Core.kerfHeld, Core.kerfHeld, hkerf, Core.sampled, Core.sampled, hselOf]
  simp only [hselected]

theorem addKerf_kerf_congr {c d : Core} (h : captureKey c = captureKey d) (k : KerfRec) : (c.addKerf k).kerf = (d.addKerf k).kerf := by
  have hkerf : c.kerf = d.kerf := congrArg (·.2.1) h
  unfold Core.addKerf
  rw [takesCapture_congr h]
  split
  · exact congrArg (· ++ [k]) hkerf
  · exact hkerf

/-- A record in the buffer is no operation and no byte of the store. -/
theorem opKept_addKerf (c : Core) (t : TOp) (k : KerfRec) : c.OpKept t (c.addKerf k) ∧ (c.addKerf k).op? t.id = c.op? t.id := by
  unfold Core.addKerf
  split <;> exact ⟨⟨fun _ _ => rfl, rfl, rfl, rfl, rfl⟩, rfl⟩

/-- Registers below the kerf unit's do not decide. -/
theorem captureKey_setReg (c : Core) {a : Nat} (v : Nat) (ha : a < 0x50000) : captureKey (c.setReg a v) = captureKey c := by
  have hkey : (c.setReg a v).reg (rRS_KEY 2) = c.reg (rRS_KEY 2) :=
    (Core.reg_setReg ..).trans (if_neg (by unfold rRS_KEY; omega))
  have hrow (l : Nat) : (c.setReg a v).reg (rLT_CFG l) = c.reg (rLT_CFG l) :=
    (Core.reg_setReg ..).trans (if_neg (by unfold rLT_CFG; omega))
  unfold captureKey
  rw [hkey, funext hrow]
  rfl

theorem captureKey_late (c : Core) (due : Option Nat) (tick : Nat) : captureKey (c.late due tick) = captureKey c := by
  unfold Core.late
  split
  · split
    · exact (captureKey_setReg _ _ (by decide)).trans (captureKey_setReg _ _ (by decide))
    · rfl
  · rfl

theorem captureKey_pop (c : Core) (n : Nat) : captureKey (c.pop n) = captureKey c :=
  Core.unitRd_keep captureKey (fun _ _ => rfl) (fun _ _ => rfl) (fun c v => captureKey_setReg c v (by decide)) c _ _

theorem captureKey_raiseIf (c : Core) (b : Bool) (ev v : Nat) :
    captureKey (if b then c.raise ev v else c) = captureKey c ∧ captureKey (if b then c else c.raise ev v) = captureKey c := by
  cases b <;> exact ⟨rfl, rfl⟩

theorem captureKey_kcapStart (c : Core) (t : TOp) : captureKey (kcapStart c t).1 = captureKey c := by
  unfold kcapStart
  rw [apply_ite Prod.fst, apply_ite captureKey]
  have hkey (cap : KerfRec) (wide : Bool) (n : Nat) : captureKey (if wide then (if cap.bad then (c.pop n).raise evKerfConfig 0 else c.pop n)
      else (if cap.bad then (c.pop n).raise evKerfConfig 0 else c.pop n).raise evFormat 0) = captureKey c :=
    (captureKey_raiseIf ..).2.trans ((captureKey_raiseIf ..).1.trans (captureKey_pop ..))
  split
  · exact (congrArg captureKey (started_of_no_tile t rfl)).trans (hkey ..)
  · exact (congrArg captureKey (started_of_no_tile t rfl)).trans (hkey ..)

/-! ### The command -/

section
variable {s : Chip} {p q : Nat} {t : TOp}

/-- The core whose operation `t` begins: its lateness is counted, and it waits for no ring space. -/
def Core.begins (c : Core) (t : TOp) (tick : Nat) : Core := { c.late t.due tick with bufWait := c.bufWait.filter (· != t.id) }

theorem opStart_captures {code : Nat} {run : Core → TOp → Core × List KerfRec} (hop : (s.core p).op? t.id = some t)
    (hready : s.opStarts p t = true) (hcode : dOp t.desc = code) (hkcore : s.physOf (dKX t.desc) (dKY t.desc) = some q) :
    opStart s p t.id code run = (run ((s.core p).begins t (s.localTick p)) t).2.foldl (fun s r => s.kerfPut q r)
      (s.setCore p (run ((s.core p).begins t (s.localTick p)) t).1) := by
  unfold opStart
  dsimp only
  rw [hop]
  dsimp only
  rw [if_neg (not_not_intro hcode), if_neg (by rw [hready]; decide), hkcore]
  rfl

/-- A ready capture starts, and its one record goes to its kerf core. -/
theorem kcapCmd_eq (hop : (s.core p).op? t.id = some t) (hready : s.opStarts p t = true) (hcode : dOp t.desc = opKCAP)
    (hkcore : s.physOf (dKX t.desc) (dKY t.desc) = some q) : ∃ (c : Core) (k : KerfRec), kcapCmd s p t.id = (s.setCore p c).kerfPut q k ∧
      k.input = true ∧ k.chain = dChain t.desc ∧ captureKey c = captureKey (s.core p) ∧ (s.core p).OpKept t c ∧
      ∃ r, c.op? t.id = some { t with phase := .started, res := r } ∧ r.items.map (·.q) = opPushes t.desc := by
  have hkey0 : opKey ((s.core p).begins t (s.localTick p)) = opKey (s.core p) := opKey_late (s.core p) t.due (s.localTick p)
  have hcap0 : captureKey ((s.core p).begins t (s.localTick p)) = captureKey (s.core p) := captureKey_late (s.core p) t.due (s.localTick p)
  obtain ⟨hstarts, k, hcaps, hinput, hchain⟩ := starts_kcap ((s.core p).begins t (s.localTick p)) t hcode
  obtain ⟨hkept, hmine⟩ := hstarts.leaves hkey0 hop
  refine ⟨_, k, ?_, hinput, hchain, (captureKey_kcapStart _ t).trans hcap0, hkept, hmine⟩
  rw [kcapCmd, opStart_captures hop hready hcode hkcore, hcaps]
  rfl

theorem Chip.core_kerfPut (s : Chip) (q : Nat) (k : KerfRec) (n : Nat) :
    (s.kerfPut q k).core n = if n = q then (s.core q).addKerf k else s.core n := by
  have hset := Chip.core_setCore s q ((s.core q).addKerf k) n
  unfold Chip.kerfPut
  dsimp only
  split
  · exact hset
  · rw [memWrTry_core, memWrTry_core]
    exact hset

end

theorem kcap_completes {s : State} {p q : Nat} {t : TOp} (ha : s.awake) (hp : p < nCores) (hop : (s.chip.core p).op? t.id = some t)
    (hready : s.chip.opStarts p t = true) (hcode : dOp t.desc = opKCAP) (hkcore : s.chip.physOf (dKX t.desc) (dKY t.desc) = some q) :
    Completes (.kcap p t.id) s fun u =>
      (∃ r, (u.chip.core p).op? t.id = some { t with phase := .started, res := r } ∧ r.items.map (·.q) = opPushes t.desc) ∧
      (∃ k, (u.chip.core q).kerf = ((s.chip.core q).addKerf k).kerf ∧ k.input = true ∧ k.chain = dChain t.desc) ∧
      (∀ n, (u.chip.core n).store = (s.chip.core n).store) ∧ (∀ n, n ≠ p → n ≠ q → u.chip.core n = s.chip.core n) := by
  obtain ⟨c, k, hcmd, hinput, hchain, hcap, hkept, r, hmine, hitems⟩ := kcapCmd_eq hop hready hcode hkcore
  have hcore (n : Nat) : (kcapCmd s.chip p t.id).core n =
      if n = q then (if q = p then c else s.chip.core q).addKerf k else if n = p then c else s.chip.core n := by
    rw [hcmd, Chip.core_kerfPut, Chip.core_setCore, Chip.core_setCore]
  have hkerf : ((if q = p then c else s.chip.core q).addKerf k).kerf = ((s.chip.core q).addKerf k).kerf := by
    split
    case isTrue h => exact addKerf_kerf_congr (h ▸ hcap) k
    case isFalse => rfl
  have hplace : ((kcapCmd s.chip p t.id).core p).op? t.id = c.op? t.id := by
    rw [hcore p]
    split
    case isTrue h =>
      rw [if_pos h.symm]
      exact (opKept_addKerf c t k).2
    case isFalse => rw [if_pos rfl]
  have hstore (n : Nat) : ((kcapCmd s.chip p t.id).core n).store = (s.chip.core n).store := by
    have hkcoreStore : (if q = p then c else s.chip.core q).store = (s.chip.core q).store := by
      split
      case isTrue h => exact h ▸ hkept.2.1
      case isFalse => rfl
    rw [hcore n]
    split
    case isTrue h => exact (opKept_addKerf _ t k).1.2.1.trans (h ▸ hkcoreStore)
    case isFalse =>
      split
      case isTrue h => exact h ▸ hkept.2.1
      case isFalse => rfl
  have hset := Chip.settleCore_settles s.chip (kcapCmd s.chip p t.id) p
  have hne (n : Nat) (hn : n ≠ p) := Chip.core_settleCore_ne s.chip (kcapCmd s.chip p t.id) hn
  have hsame {γ : Type} (g : Core → γ) (hg : ∀ c d : Core,
      g { c with regs := d.regs, progAt := d.progAt, fwdElig := d.fwdElig, prefAt := d.prefAt, vrNew := [] } = g c) (n : Nat) :
      g ((s.chip.settleCore (kcapCmd s.chip p t.id) p).core n) = g ((kcapCmd s.chip p t.id).core n) := by
    by_cases hn : n = p
    · exact hn ▸ hset.keep g hg
    · exact congrArg g (hne n hn)
  refine ⟨_, State.actCore_next hp (State.active_core ha) _, ⟨r, ?_, hitems⟩, ⟨k, ?_, hinput, hchain⟩, fun n => ?_, fun n hnp hnq => ?_⟩
  · exact (hsame (·.op? t.id) (fun _ _ => rfl) p).trans (hplace.trans hmine)
  · refine (hsame Core.kerf (fun _ _ => rfl) q).trans ?_
    rw [hcore q, if_pos rfl]
    exact hkerf
  · exact (hsame Core.store (fun _ _ => rfl) n).trans (hstore n)
  · refine (hne n hnp).trans ?_
    rw [hcore n, if_neg hnq, if_neg hnp]

/-! ### The statement -/

/-- Settles O20: the four plain starts are `opStart_completes`, a gather changes its core as `igthCmd_changes` says, and a capture
is `kcap_completes`. -/
theorem operationStarts : Obligations.OperationStarts := by
  refine ⟨fun s p t ha hp => ?plain, fun s p q t ha hp => ?capture⟩
  case plain =>
    intro c kept hop hready
    refine ⟨fun hw => ?four, fun hcode => ?gather⟩
    case four =>
      have hplain (f : Core → TOp → Core) (d : Core) : (plain f d t).2 = [] := rfl
      simp only [List.forall_mem_cons, List.not_mem_nil, false_implies, implies_true, and_true]
      exact ⟨fun hcode => opStart_completes ha hp hop hready hcode hw (fun d => starts_cvt d t hcode) (cvtStart_captures hcode hw) rfl,
        fun hcode => opStart_completes ha hp hop hready hcode hw (fun d => starts_pdrn d t hcode) (pdrnStart_captures hcode hw) rfl,
        fun hcode => opStart_completes ha hp hop hready hcode hw (fun d => starts_ldt d t hcode) (hplain ldtStart) rfl,
        fun hcode => opStart_completes ha hp hop hready hcode hw (fun d => starts_red d t hcode) (hplain redStart) rfl⟩
    case gather =>
      obtain ⟨hother, hhbm, hleaves⟩ := igthCmd_changes hop hready hcode
      obtain ⟨hkept, hmine⟩ := hleaves.settles (Chip.settleCore_settles s.chip (igthCmd s.chip p t.id) p)
      exact ⟨_, State.actCore_next hp (State.active_core ha) _, hkept,
        fun q hq => (Chip.core_settleCore_ne _ _ hq).trans (hother q hq), (Chip.settleCore_hbm ..).trans hhbm, hmine⟩
  case capture => exact fun hop hcode hkcore hready => kcap_completes ha hp hop hready hcode hkcore

end Sys2Proof.Machine
end

section
/-!
PROOFS. Packed codes (02 R44): unpacking and packing the codes of whole bytes gives the bytes back.
-/
namespace Sys2Proof.Machine

theorem leNat_drop (k : Nat) : ∀ bs : List Byte, leNat (bs.drop k) = leNat bs / 256 ^ k := by
  induction k with
  | zero => intro bs; rw [List.drop_zero, Nat.pow_zero, Nat.div_one]
  | succ k ih =>
    intro bs
    cases bs with
    | nil => rw [List.drop_nil, leNat, Nat.zero_div]
    | cons b bs =>
      have hb : b.toNat < 256 := b.isLt
      rw [List.drop_succ_cons, ih, leNat, Nat.pow_succ', ← Nat.div_div_eq_div_mul, show (b.toNat + 256 * leNat bs) / 256 = leNat bs by omega]

theorem leNat_take (k : Nat) : ∀ bs : List Byte, leNat (bs.take k) = leNat bs % 256 ^ k := by
  induction k with
  | zero => intro bs; rw [List.take_zero, leNat, Nat.pow_zero, Nat.mod_one]
  | succ k ih =>
    intro bs
    cases bs with
    | nil => rw [List.take_nil, leNat, Nat.zero_mod]
    | cons b bs =>
      have hb : b.toNat < 256 := b.isLt
      rw [List.take_succ_cons, leNat, ih, leNat, Nat.pow_succ', Nat.mod_mul, show (b.toNat + 256 * leNat bs) / 256 = leNat bs by omega,
        show (b.toNat + 256 * leNat bs) % 256 = b.toNat by omega]

theorem leNat_lt (bs : List Byte) : leNat bs < 256 ^ bs.length := by
  have h := leNat_take bs.length bs
  rw [List.take_length] at h
  rw [h]
  exact Nat.mod_lt _ (Nat.pow_pos (by decide))

theorem leBytes_leNat (bs : List Byte) : leBytes bs.length (leNat bs) = bs := by
  induction bs with
  | nil => rfl
  | cons b bs ih =>
    have hb : b.toNat < 256 := b.isLt
    rw [List.length_cons, leBytes, leNat, show (b.toNat + 256 * leNat bs) / 256 = leNat bs by omega, ih]
    congr 1
    exact BitVec.eq_of_toNat_eq (by rw [BitVec.toNat_ofNat]; omega)

/-- Element `j` of a packed array is the field of its bits. -/
theorem packedCode_eq (w : Nat) (bs : List Byte) (j : Nat) : packedCode w bs j = field (leNat bs) (w * j) w := by
  have hpow (n : Nat) : 256 ^ n = 2 ^ (8 * n) := by rw [Nat.pow_mul]
  refine Nat.eq_of_testBit_eq fun i => ?_
  by_cases hi : i < w
  · have hpos : 8 * (w * j / 8) + (w * j % 8 + i) = w * j + i := by omega
    rw [packedCode, testBit_field hi, testBit_field hi, leNat_take, leNat_drop, bitOf, bitOf, hpow, hpow, Nat.testBit_mod_two_pow,
      ← Nat.shiftRight_eq_div_pow, Nat.testBit_shiftRight, hpos, decide_eq_true (by omega), Bool.true_and]
  · have high (x lo : Nat) : (field x lo w).testBit i = false :=
      Nat.testBit_lt_two_pow ((field_lt ..).trans_le (Nat.pow_le_pow_right Nat.two_pos (Nat.not_lt.1 hi)))
    rw [packedCode, high, high]

/-- Fields side by side make up the bits that they cover. -/
theorem foldr_fields (x w : Nat) (n : Nat) : ∀ a,
    ((List.range' a n).map fun j => field x (w * j) w).foldr (fun c acc => c % 2 ^ w + acc * 2 ^ w) 0 =
    x / 2 ^ (w * a) % 2 ^ (w * n) := by
  induction n with
  | zero => intro a; rw [Nat.mul_zero, Nat.pow_zero, Nat.mod_one]; rfl
  | succ n ih =>
    intro a
    rw [List.range'_succ, List.map_cons, List.foldr_cons, ih, Nat.mod_eq_of_lt (field_lt ..), field, Nat.shiftRight_eq_div_pow,
      Nat.mul_succ w n, Nat.add_comm (w * n), Nat.pow_add, Nat.mod_mul, Nat.div_div_eq_div_mul, ← Nat.pow_add, Nat.mul_succ, Nat.mul_comm (2 ^ w)]

/-- Codes that fill whole bytes. -/
theorem packCodes_unpackCodes {w n : Nat} {bs : List Byte} (h : w * n = 8 * bs.length) : packCodes w (unpackCodes w bs n) = bs := by
  have hcodes : unpackCodes w bs n = (List.range' 0 n).map fun j => field (leNat bs) (w * j) w := by
    rw [unpackCodes, List.range_eq_range']
    exact List.map_congr_left fun j _ => packedCode_eq w bs j
  have hlen : (w * (unpackCodes w bs n).length + 7) / 8 = bs.length := by
    rw [unpackCodes, List.length_map, List.length_range]
    omega
  have hlt : leNat bs < 2 ^ (8 * bs.length) := by
    rw [Nat.pow_mul]
    exact leNat_lt bs
  rw [packCodes, hlen, hcodes, foldr_fields, h, Nat.mul_zero, Nat.pow_zero, Nat.div_one, Nat.mod_eq_of_lt hlt, leBytes_leNat]

end Sys2Proof.Machine
end

section
/-!
PROOFS. A MOV within the core's own store, in copy mode and of one run (02 R62; 08 R288, R289).
-/
namespace Sys2Proof.Machine

/-- A copy of one run from offset `o` of the core's own store to offset `o'`, within the store, and with no fault in its descriptor. -/
structure CopiesRun (d : List Byte) (o o' : Nat) : Prop where
  code : dOp d = opMOV
  copy : dMode d = 0
  fromMemory : movSrcQ d = false
  toMemory : movDstQ d = false
  source : addrSpace (dSrc d) = .own o
  target : addrSpace (dDst d) = .own o'
  oneRun : dCnt1 d = 1
  oneLevel : dCnt2 d = 1
  readFits : o + dLen0 d ≤ 2 ^ 22
  writeFits : o' + dLen0 d ≤ 2 ^ 22

namespace CopiesRun

variable {d : List Byte} {o o' : Nat} (h : CopiesRun d o o')
include h

/-! ### The shape of the transfer -/

theorem runs : movRuns d = [0] := by simp [movRuns, h.oneRun, h.oneLevel]

theorem total : movTotal d = dLen0 d := by rw [movTotal, h.oneRun, h.oneLevel, Nat.mul_one, Nat.mul_one]

theorem reads : readSpans d = [{ w := dSrc d, off := 0, n := dLen0 d }] := by
  have hmov : ¬ (dOp d ≠ opMOV ∨ movSrcQ d = true) := by simp [h.code, h.fromMemory]
  have hdense : ¬ (dMode d ≠ 0 ∨ movDstQ d = true) := by simp [h.copy, h.toMemory]
  rw [readSpans, if_neg (by rw [h.code]; decide), if_neg hmov, h.runs]
  split
  · rw [if_neg hdense]
    rfl
  · rfl

theorem notMx : movMemMx d = false := by rw [movMemMx, h.copy]; rfl

theorem codes : codeSpans d = [{ w := dDst d, off := 0, n := dLen0 d }] := by
  have hmov : ¬ (dOp d ≠ opMOV ∨ movDstQ d = true) := by simp [h.code, h.toMemory]
  rw [codeSpans, if_neg hmov, if_neg (by rw [h.notMx]; decide), h.runs]
  rfl

theorem exponents : expSpans d = [] := by
  have hmov : ¬ (dOp d ≠ opMOV ∨ movDstQ d = true) := by simp [h.code, h.toMemory]
  rw [expSpans, if_neg hmov]
  split
  · rfl
  · rw [if_neg (by rw [h.notMx]; decide), if_neg (by rw [h.fromMemory]; decide)]

theorem noRemote : remotePlan d = [] := by
  rw [remotePlan, h.reads, remoteLines, remoteLines, h.source]
  rfl

theorem pops : opPops d = [] := by
  have hq : isQueueSpace (dSrc d) = false := h.fromMemory
  rw [opPops, h.code]
  simp [hq, opMOV, opCVT, opRED, opLDT, opSEND, opSTSH, opIGTH, opKCAP, opDACC]

theorem pushes : opPushes d = [] := by
  have hq : isQueueSpace (dDst d) = false := h.toMemory
  rw [opPushes, h.code]
  simp [hq, opMOV, opCVT, opRED, opPDRN, opRECV, opUSTH, opIGTH, opKCAP]

theorem unconfirmed (s : Chip) : s.movConf d = false := by
  simp [Chip.movConf, h.codes, h.exponents, Chip.wordConfirmed, h.target]

theorem readable (s : Chip) (p : Nat) : (readSpans d).all (fun r => s.wordRdOk p r.w r.off r.n) = true := by
  have := h.readFits
  simp [h.reads, Chip.wordRdOk, h.source]
  omega

theorem writable (s : Chip) (p : Nat) (confirmed : Bool) : s.wordWrOk p (dDst d) 0 (dLen0 d) confirmed = true := by
  have := h.writeFits
  simp [Chip.wordWrOk, Chip.wordRdOk, h.target]
  omega

theorem gathered (s : Chip) (p : Nat) (buf : Bytes) : (gatherSpans s p buf (readSpans d) 0).1 = Bytes.rdN (s.core p).store o (dLen0 d) := by
  simp [h.reads, gatherSpans, h.source, Chip.wordBytes]

theorem nothingLost (s : Chip) : s.lostSpan (readSpans d) = none := by
  simp [h.reads, Chip.lostSpan, h.source]

theorem converted (bs : List Byte) : (movConvert d bs []).bad = false ∧ (movConvert d bs []).nonfinite = false ∧ (movConvert d bs []).uf = 0 ∧
    (movConvert d bs []).sat = 0 ∧ (movConvert d bs []).exps = [] := by
  simp [movConvert, h.copy]

end CopiesRun

/-! ### The command -/

/-- What the copy of `bs` writes. -/
def copiedRun (d : List Byte) (o' : Nat) (bs : List Byte) : OpResult := { store := [(o', (movConvert d bs []).codes.take (dLen0 d))] }

section
variable {t : TOp} {o o' : Nat} (h : CopiesRun t.desc o o')
include h

theorem movFinish_copies (s : Chip) (p : Nat) (bs : List Byte) (lost : Bool) :
    movFinish s p t bs [] lost false = s.setCore p (((s.core p).clamp 0 0 0).started t (copiedRun t.desc o' bs)) := by
  obtain ⟨hbad, hfinite, huf, hsat, hexps⟩ := h.converted bs
  have hput : movPut (dDst t.desc) 0 ((movConvert t.desc bs []).codes.take (dLen0 t.desc)) {} =
      { store := [(o', (movConvert t.desc bs []).codes.take (dLen0 t.desc))] } := by
    simp [movPut, h.target]
  unfold movFinish
  simp only [hbad, hfinite, huf, hsat, hexps, h.toMemory, h.codes, h.exponents, h.unconfirmed, h.copy, h.writable, hput, dealSpans, Bool.or_self,
    Bool.false_or, Bool.false_and, Bool.false_eq_true, if_false, List.append_nil, List.all_cons, List.all_nil, Bool.and_true,
    Bool.not_true, List.foldl_cons, List.foldl_nil, List.isEmpty_nil, if_true, OfNat.zero_ne_ofNat, false_and]
  rfl

theorem movGo_copies (s : Chip) (p : Nat) : movGo s p t = (s.useSpans p (readSpans t.desc)).setCore p
    ((((s.useSpans p (readSpans t.desc)).core p).clamp 0 0 0).started t (copiedRun t.desc o' (Bytes.rdN (s.core p).store o (dLen0 t.desc)))) := by
  have htake : (Bytes.rdN (s.core p).store o (dLen0 t.desc)).take (movTotal t.desc) = Bytes.rdN (s.core p).store o (dLen0 t.desc) :=
    List.take_of_length_le (by rw [Bytes.length_rdN, h.total])
  have hdrop : (Bytes.rdN (s.core p).store o (dLen0 t.desc)).drop (movTotal t.desc) = [] :=
    List.drop_of_length_le (by rw [Bytes.length_rdN, h.total])
  unfold movGo
  dsimp only
  rw [h.nothingLost, h.gathered, htake, hdrop, List.map_nil]
  exact movFinish_copies h ..

theorem movBad_of_memory {c e : Core} : movBad c t.desc = movBad e t.desc := by
  simp only [movBad, h.fromMemory, h.toMemory, Bool.not_false, Bool.and_self, Bool.not_true, Bool.false_and]

section
variable {s : Chip} {p : Nat} (hop : (s.core p).op? t.id = some t) (hready : s.opStarts p t = true) (hgood : movBad (s.core p) t.desc = false)
include hop hready hgood

/-- The copy goes on with the bytes that it reads of its own store, its input the descriptor's tag. -/
theorem movCmd_copies : ∃ i, movCmd s p t.id =
    movGo (s.setCore p (((s.core p).late t.due (s.localTick p)).setOp { t with input := i })) p { t with input := i } := by
  have hgood' (c : Core) : movBad c t.desc = false := (movBad_of_memory h).trans hgood
  have hplan : (remotePlan t.desc).isEmpty = true := by rw [h.noRemote]; rfl
  unfold movCmd
  simp only [hop, h.code, hready, h.pops, h.pushes, h.unconfirmed, h.fromMemory, hgood', h.readable, hplan, Core.popAll, List.foldl_nil,
    ne_eq, not_true_eq_false, Bool.not_true, Bool.false_eq_true, or_self, if_false, if_true, Bool.false_and]
  exact ⟨_, rfl⟩

end

theorem useSpans_copies (s : Chip) (p : Nat) : s.useSpans p (readSpans t.desc) = s.onCore p fun c => c.unitRd o (dLen0 t.desc) := by
  simp [Chip.useSpans, h.reads, h.source]

end

/-- A result that has no output item and no tile is the same for a hurt descriptor. -/
theorem resultOf_bare (t : TOp) {r : OpResult} (hitems : r.items = []) (htile : r.tile = none) : t.resultOf r = r := by
  unfold TOp.resultOf OpResult.hurt
  split
  · rw [hitems, htile]
    cases r
    subst hitems htile
    rfl
  · rfl

/-- Codes of up to eight bits are copied as they are, if their blocks are whole. -/
theorem movConvert_narrow {c : Core} {d : List Byte} {o o' : Nat} (h : CopiesRun d o o') (hgood : movBad c d = false) (hfmt : dSFmt d ≤ 7)
    {bs : List Byte} (hlen : bs.length = dLen0 d) : (movConvert d bs []).codes = bs := by
  have hcode : fmtOf (dSFmt d) = dSFmt d := by
    rw [fmtOf, field, Nat.shiftRight_zero]
    omega
  have hwidth : fmtWidth (dSFmt d) = dSFmt d + 1 := if_pos hfmt
  have hstride : movStrW d = some (dSFmt d + 1) := by
    have hnarrow : ¬ fmtIsWide (dSFmt d) = true := by simp [fmtIsWide]; omega
    rw [movStrW, h.fromMemory, if_neg (by decide), blockWidth, hcode, if_neg hnarrow, hwidth]
  have hblocks : dLen0 d % (4 * (dSFmt d + 1)) = 0 := by
    simp only [movBad, hstride, Bool.or_eq_false_iff, decide_eq_false_iff_not, not_not] at hgood
    exact hgood.1.1.2.1.1
  obtain ⟨k, hk⟩ := Nat.dvd_of_mod_eq_zero hblocks
  have hsame : (unpackCodes (dSFmt d + 1) bs (32 * k)).map (canonElem (dSFmt d)) = unpackCodes (dSFmt d + 1) bs (32 * k) := by
    refine (List.map_congr_left fun x _ => ?_).trans (List.map_id _)
    simp only [canonElem, canonCode, id]
    repeat rw [if_neg (by omega)]
  have hcount : 8 * bs.length / max 1 (dSFmt d + 1) = 32 * k := by
    rw [hlen, hk, Nat.max_eq_right (by omega)]
    refine Nat.div_eq_of_eq_mul_right (by omega) ?_
    ring
  have hbits : (dSFmt d + 1) * (32 * k) = 8 * bs.length := by
    rw [hlen, hk]
    ring
  have hrest : bs.drop (32 * k * (dSFmt d + 1) / 8) = [] := List.drop_of_length_le (by rw [Nat.mul_comm, hbits]; omega)
  simp only [movConvert, h.copy, if_true, hcode, hwidth, hcount, hsame, packCodes_unpackCodes hbits, hrest, List.append_nil]

theorem opKey_clamp (c : Core) (uf sat iovf : Nat) : opKey (c.clamp uf sat iovf) = opKey c := rfl

/-- The core once its copy has started, up to the reads and the clamp counters. -/
theorem copied_leaves {c e : Core} {t : TOp} {i : List OutItem} {r : OpResult} (hop : c.op? t.id = some t)
    (hkey : opKey e = opKey (c.setOp { t with input := i })) (hitems : r.items = []) (htile : r.tile = none) :
    c.OpKept t (e.started { t with input := i } r) ∧
      (e.started { t with input := i } r).op? t.id = some { t with phase := .started, input := i, res := r } := by
  have hset := op_setOp c { t with input := i } t hop t.id
  have hfound : e.op? t.id = some { t with input := i } := (op_of_opKey hkey t.id).trans (hset.trans (if_pos rfl))
  have hkept : c.OpKept t e := ((opKept_of_opKey t rfl).setOp (y := { t with input := i }) rfl hop).of_opKey hkey
  refine ⟨opKept_started (t := { t with input := i }) hfound hkept r, ?_⟩
  rw [op_started e { t with input := i } { t with input := i } r hfound t.id, if_pos rfl, resultOf_bare _ hitems htile]

/-! ### The statement -/

/-- Settles O24: the command is `movCmd_copies`, its data `movGo_copies`, and narrow codes are `movConvert_narrow`. -/
theorem moveWithinTheStore : Obligations.MoveWithinTheStore := by
  intro s p o o' t ha hp c d hop hready hcode hmode hsq hdq hsrc hdst hc1 hc2 hread hwrite hgood
  have h : CopiesRun t.desc o o' := ⟨hcode, hmode, hsq, hdq, hsrc, hdst, hc1, hc2, hread, hwrite⟩
  obtain ⟨i, hcmd⟩ := movCmd_copies h hop hready hgood
  have h' : CopiesRun ({ t with input := i } : TOp).desc o o' := h
  set c0 := c.late t.due (s.chip.localTick p) with hc0
  have hkey0 : opKey c0 = opKey c := opKey_late ..
  have hop0 : c0.op? t.id = some t := (op_of_opKey hkey0 t.id).trans hop
  set m := (s.chip.setCore p (c0.setOp { t with input := i })).useSpans p (readSpans d) with hm
  have hread0 : Bytes.rdN ((s.chip.setCore p (c0.setOp { t with input := i })).core p).store o (dLen0 d) = Bytes.rdN c.store o (dLen0 d) := by
    rw [Chip.core_setCore_self]
    exact congrArg (fun k => Bytes.rdN k.2.1 o (dLen0 d)) hkey0
  have hfinal : movCmd s.chip p t.id =
      m.setCore p (((m.core p).clamp 0 0 0).started { t with input := i } (copiedRun d o' (Bytes.rdN c.store o (dLen0 d)))) := by
    rw [hcmd, movGo_copies h', ← hread0]
  have hsame : s.chip.sameBut p m := by
    rw [hm, useSpans_copies h]
    exact Chip.sameBut_trans (Chip.sameBut_setCore ..) (Chip.sameBut_onCore ..)
  have hkey : opKey ((m.core p).clamp 0 0 0) = opKey (c0.setOp { t with input := i }) := by
    have huse := Chip.useSpans_opKey (readSpans d) p (s.chip.setCore p (c0.setOp { t with input := i }))
    rw [Chip.core_setCore_self] at huse
    exact (opKey_clamp ..).trans huse
  obtain ⟨hkept, hplace⟩ := copied_leaves (r := copiedRun d o' (Bytes.rdN c.store o (dLen0 d))) hop0 hkey rfl rfl
  obtain ⟨hops, hstore, hseq, -⟩ := (opKept_of_opKey (c := c) t hkey0).trans hkept
  refine (completes_onlyCore hp (State.active_core ha) rfl (hfinal ▸ Chip.sameBut_trans hsame (Chip.sameBut_setCore ..))
    (hfinal ▸ Chip.core_setCore_self ..)).imp fun u hu => ?_
  have hset := State.onlyCore_settles hu
  have hop' : (u.chip.core p).op? t.id = _ := (hset.keep (·.op? t.id) fun _ _ => rfl).trans hplace
  have hops' (j : Nat) (hj : j ≠ t.id) : (u.chip.core p).op? j = c.op? j := (hset.keep (·.op? j) fun _ _ => rfl).trans (hops j hj)
  have hstore' : (u.chip.core p).store = c.store := hset.store.trans hstore
  have hseq' : (u.chip.core p).seq = c.seq := (hset.keep Core.seq fun _ _ => rfl).trans hseq
  refine ⟨State.onlyCore_coreOnly hu, ?_, hops', hstore', congrArg Seq.pc hseq', congrArg Seq.x hseq'⟩
  refine ⟨i, copiedRun d o' (Bytes.rdN c.store o (dLen0 d)), hop', rfl, rfl, rfl, rfl, rfl, fun hfmt => ?_⟩
  rw [copiedRun, movConvert_narrow h hgood hfmt (Bytes.length_rdN ..), List.take_of_length_le (by rw [Bytes.length_rdN])]

end Sys2Proof.Machine
end

section
/-!
PROOFS. Results of operations and of vector issues commit (07 R236, R249; 08 R280, R284).

The commit of an operation is a chain of five changes of its core (`Core.opDone_eq`): its items, its tile, its bytes in core store and
in the data SRAM, the slot that a SEND frees. For each one lemma says what it leaves alone.
-/
namespace Sys2Proof.Machine

/-! ### The changes of a commit -/

/-- The tile of a result is committed on cycle `k`. -/
def Core.tileTaken (c : Core) (o : Option (Bool × Nat × Tile × Option (Nat × Nat))) (k : Nat) : Core :=
  match o with
  | some (be, n, x, h) => c.commitTile be n x h k
  | none => c

/-- The bytes of a result go into core store, and into the data SRAM. -/
def Core.stored (c : Core) (l : List (Nat × List Byte)) : Core := l.foldl (fun (c : Core) (w : Nat × List Byte) => c.unitWr w.1 w.2) c
def Core.dramStored (c : Core) (l : List (Nat × List Byte)) : Core := l.foldl (fun (c : Core) (w : Nat × List Byte) => c.dramWr w.1 w.2) c

/-- A SEND frees the slot of its item. -/
def Core.slotFreed (c : Core) (t : TOp) : Core :=
  if dOp t.desc = opSEND ∧ !t.input.isEmpty then
    c.setQend (dQA t.desc) { c.qend (dQA t.desc) with sending := (c.qend (dQA t.desc)).sending - 1 } else c

theorem Core.opDone_eq (c : Core) (t : TOp) (k : Nat) : c.opDone t k =
    (((((t.res.items.foldl Core.commitItem c).tileTaken t.res.tile k).stored t.res.store).dramStored t.res.dram).slotFreed t).dropOp t.id := rfl

section
variable {γ : Type} (g : Core → γ)

theorem Core.stored_keep (hg : ∀ c d : Core, g { c with store := d.store, seq := d.seq, upset := d.upset, ev := d.ev } = g c)
    (l : List (Nat × List Byte)) (c : Core) : g (c.stored l) = g c := by
  have hwrite (c : Core) (w : Nat × List Byte) : g (c.unitWr w.1 w.2) = g c := hg c (c.unitWr w.1 w.2)
  exact foldl_keep g _ hwrite l c

theorem Core.dramStored_keep (hg : ∀ c d : Core, g { c with seq := d.seq, upset := d.upset } = g c) (l : List (Nat × List Byte)) (c : Core) :
    g (c.dramStored l) = g c := by
  have hwrite (c : Core) (w : Nat × List Byte) : g (c.dramWr w.1 w.2) = g c := hg c (c.dramWr w.1 w.2)
  exact foldl_keep g _ hwrite l c

theorem Core.slotFreed_keep (hg : ∀ (c : Core) n x, g (c.setQend n x) = g c) (t : TOp) (c : Core) : g (c.slotFreed t) = g c := by
  unfold Core.slotFreed
  split
  · exact hg ..
  · rfl

theorem Core.commitTile_keep (hg : ∀ c d : Core, g { c with fe := d.fe, be := d.be, ev := d.ev, nseq := d.nseq } = g c)
    (c : Core) (be : Bool) (n : Nat) (x : Tile) (h : Option (Nat × Nat)) (k : Nat) : g (c.commitTile be n x h k) = g c := by
  have heq : c.commitTile be n x h k = { c with fe := (c.commitTile be n x h k).fe, be := (c.commitTile be n x h k).be
                                                ev := (c.commitTile be n x h k).ev, nseq := (c.commitTile be n x h k).nseq } := by
    cases be <;> rfl
  rw [heq]
  exact hg c _

theorem Core.tileTaken_keep (hg : ∀ c d : Core, g { c with fe := d.fe, be := d.be, ev := d.ev, nseq := d.nseq } = g c)
    (c : Core) (o : Option (Bool × Nat × Tile × Option (Nat × Nat))) (k : Nat) : g (c.tileTaken o k) = g c := by
  unfold Core.tileTaken
  split
  · exact Core.commitTile_keep g hg ..
  · rfl

end

/-! ### A tile commits -/

/-- A commit sees of its engine the tile registers alone. -/
theorem Eng.commitTile_t {e e' : Eng} (ht : e'.t = e.t) (conf : Word → Bool) (n : Nat) (x : Tile) (h : Option (Nat × Nat)) :
    (e'.commitTile conf n x h).t = (e.commitTile conf n x h).t := by
  have htile : e'.tile n = e.tile n := congrArg (Map.get (fun _ => Tile.reset) · n) ht
  unfold Eng.commitTile Eng.setTile
  rw [htile, ht]
  split <;> rfl

theorem Eng.commitTile_keep {γ : Type} (g : Eng → γ) (hg : ∀ (e : Eng) m, g { e with t := m } = g e) (e : Eng)
    (conf : Word → Bool) (n : Nat) (x : Tile) (h : Option (Nat × Nat)) : g (e.commitTile conf n x h) = g e := by
  unfold Eng.commitTile
  split <;> exact hg ..

theorem Eng.commitTile_tile_ne (e : Eng) (conf : Word → Bool) {n m : Nat} (hm : m ≠ n) (x : Tile) (h : Option (Nat × Nat)) :
    (e.commitTile conf n x h).tile m = e.tile m := by
  unfold Eng.commitTile
  split <;> exact (Map.get_put ..).trans (if_neg hm)

/-- The engine that a committed tile meets: what executes keeps what it saw, and what a load was reading is open. -/
theorem Core.commitTile_eng (c : Core) (be : Bool) (n : Nat) (x : Tile) (h : Option (Nat × Nat)) (k : Nat) : ∃ e : Eng,
    (c.commitTile be n x h k).eng be = e.commitTile c.confirmed n x h ∧ e.t = (c.eng be).t ∧ e.a = (c.eng be).a ∧ e.cm = (c.eng be).cm := by
  have hspoil {γ : Type} (g : Eng → γ) (hg : ∀ (e : Eng) b, g { e with bufs := b } = g e)
      (hexec : ∀ (e : Eng) l, g { e with exec := l } = g e)
      (l : List Issue) (f : Eng → Nat → WBuf) : g (l.foldl (fun e x => x.dests.foldl (fun e d => e.setBuf (d - 100) (f e d)) e)
        ((c.eng be).retire n k)) = g (c.eng be) :=
    (foldl_keep g _ (fun e x => foldl_keep g _ (fun e d => hg e _) x.dests e) l _).trans (hexec ..)
  refine ⟨_, eng_setEng _ be _, ?_, ?_, ?_⟩
  · exact hspoil Eng.t (fun _ _ => rfl) (fun _ _ => rfl) ..
  · exact hspoil Eng.a (fun _ _ => rfl) (fun _ _ => rfl) ..
  · exact hspoil Eng.cm (fun _ _ => rfl) (fun _ _ => rfl) ..

theorem Core.commitTile_eng_ne (c : Core) {be be' : Bool} (hbe : be' ≠ be) (n : Nat) (x : Tile) (h : Option (Nat × Nat)) (k : Nat) :
    (c.commitTile be n x h k).eng be' = c.eng be' := by
  obtain rfl : be' = !be := Bool.eq_not.2 hbe
  exact eng_setEng_ne ..

end Sys2Proof.Machine
end

section
/-!
PROOFS. What the commit of an operation and of a vector issue leaves (O25).
-/
namespace Sys2Proof.Machine

/-! ### An operation leaves the transfer table -/

section
variable (c : Core) (t : TOp) (k : Nat)

/-- A commit changes no other place. -/
theorem Core.op_opDone (j : Nat) : (c.opDone t k).op? j = if j = t.id then none else c.op? j := by
  have hkept : (((((t.res.items.foldl Core.commitItem c).tileTaken t.res.tile k).stored t.res.store).dramStored t.res.dram).slotFreed t).op? j =
      c.op? j := by
    rw [Core.slotFreed_keep (·.op? j) (fun _ _ _ => rfl), Core.dramStored_keep (·.op? j) (fun _ _ => rfl),
      Core.stored_keep (·.op? j) (fun _ _ => rfl), Core.tileTaken_keep (·.op? j) (fun _ _ => rfl)]
    exact foldl_keep (·.op? j) _ (Core.commitItem_keep (·.op? j) fun _ _ => rfl) _ c
  rw [Core.opDone_eq, op_drop, hkept]

/-- The store holds what its items and its bytes leave. -/
theorem Core.store_opDone : (c.opDone t k).store =
    (((t.res.items.foldl Core.commitItem c).tileTaken t.res.tile k).stored t.res.store).store := by
  rw [Core.opDone_eq]
  exact (Core.slotFreed_keep Core.store (fun _ _ _ => rfl) ..).trans (Core.dramStored_keep Core.store (fun _ _ => rfl) ..)

/-- The engines hold what its tile leaves. -/
theorem Core.eng_opDone (be : Bool) : (c.opDone t k).eng be = ((t.res.items.foldl Core.commitItem c).tileTaken t.res.tile k).eng be := by
  rw [Core.opDone_eq]
  exact (Core.slotFreed_keep (·.eng be) (fun _ _ _ => rfl) ..).trans
    ((Core.dramStored_keep (·.eng be) (fun _ _ => rfl) ..).trans (Core.stored_keep (·.eng be) (fun _ _ => rfl) ..))

/-- The queue ends hold what its items leave, but for the slot that a SEND frees. -/
theorem Core.qend_opDone (hsend : dOp t.desc ≠ opSEND) (n : Nat) : (c.opDone t k).qend n = (t.res.items.foldl Core.commitItem c).qend n := by
  have hfree (d : Core) : d.slotFreed t = d := if_neg fun h => hsend h.1
  rw [Core.opDone_eq, hfree]
  exact (Core.dramStored_keep (·.qend n) (fun _ _ => rfl) ..).trans
    ((Core.stored_keep (·.qend n) (fun _ _ => rfl) ..).trans (Core.tileTaken_keep (·.qend n) (fun _ _ => rfl) ..))

end

theorem Core.stored_one (c : Core) (a : Nat) (bs : List Byte) : (c.stored [(a, bs)]).store = Bytes.wrN c.store a bs := rfl

theorem Core.qend_unitWr (c : Core) (a : Nat) (bs : List Byte) (n : Nat) : (c.unitWr a bs).qend n = c.qend n := rfl

theorem Core.slotPos_unitWr (c : Core) (a : Nat) (bs : List Byte) (n k : Nat) : (c.unitWr a bs).slotPos n k = c.slotPos n k := rfl

/-- An item that fits its slot is written there. -/
theorem Core.commitItem_fits (c : Core) {o : OutItem} (hfits : o.payload.length ≤ c.qbytes o.q) :
    c.commitItem o = (c.unitWr (c.slotAddr o.q o.slot) o.bytes).setQend o.q
      { c.qend o.q with slots := (c.qend o.q).slots.set (c.slotPos o.q o.slot) .committed } := by
  have hover : decide (o.payload.length > c.qbytes o.q) = false := decide_eq_false (Nat.not_lt.2 hfits)
  simp only [Core.commitItem, hover, Bool.false_eq_true, if_false, Core.qend_unitWr, Core.slotPos_unitWr]

theorem Core.store_written (c : Core) (a : Nat) (bs : List Byte) (n : Nat) (x : QEnd) :
    ((c.unitWr a bs).setQend n x).store = Bytes.wrN c.store a bs := rfl

/-- Of the sequencer a commit changes the reservation alone. -/
theorem Core.commitItem_seq {γ : Type} (g : Seq → γ) (hg : ∀ q r, g { q with resv := r } = g q) (c : Core) (o : OutItem) :
    g (c.commitItem o).seq = g c.seq := by
  unfold Core.commitItem
  extract_lets over_ o' d e x
  have hd : d.seq = c.seq := by
    unfold d
    split <;> rfl
  exact (hg d.seq _).trans (congrArg g hd)

/-! ### The commands -/

section
variable {s : Chip} {p : Nat} {t : TOp} (hop : (s.core p).op? t.id = some t) (hphase : t.phase = .started) (hmem : t.res.mem = [])
include hop hphase hmem

theorem opCommit_done (hsent : dOp t.desc = opSEND → (s.core p).sendOut t = false) :
    opCommit s p t.id = s.setCore p ((s.core p).opDone t (s.coreCycle p)) := by
  have hout : ¬ (dOp t.desc = opSEND ∧ (s.core p).sendOut t = true) := fun h => by simp [hsent h.1] at h
  unfold opCommit
  dsimp only
  rw [hop]
  dsimp only
  rw [if_neg (not_not_intro hphase), hmem, if_neg (by simp), if_neg hout]
  rfl

/-- A SEND whose packets the router has not taken keeps its place. -/
theorem opCommit_held (hsend : dOp t.desc = opSEND) (hout : (s.core p).sendOut t = true) : opCommit s p t.id = s := by
  unfold opCommit
  dsimp only
  rw [hop]
  dsimp only
  rw [if_neg (not_not_intro hphase), hmem, if_neg (by simp), if_pos ⟨hsend, hout⟩]

end

section
variable {s : State} {p : Nat} {t : TOp} (ha : s.awake) (hp : p < nCores) (hop : (s.chip.core p).op? t.id = some t)
  (hphase : t.phase = .started) (hmem : t.res.mem = [])
include ha hp hop hphase hmem

theorem operationCommit_completes {post : State → Prop} (hsent : dOp t.desc = opSEND → (s.chip.core p).sendOut t = false)
    (hpost : ∀ u, s.coreOnly p u → ((s.chip.core p).opDone t (s.chip.coreCycle p)).SettlesTo (u.chip.core p) → post u) :
    Completes (.operationCommit p (some t.id)) s post :=
  completes_setCore (fun m => operationCommitCmd m p (some t.id)) hp ha rfl (opCommit_done hop hphase hmem hsent) hpost

theorem operationCommit_held (hsend : dOp t.desc = opSEND) (hout : (s.chip.core p).sendOut t = true) :
    Completes (.operationCommit p (some t.id)) s (s.onlyCore p (s.chip.core p)) := by
  have hf : operationCommitCmd s.chip p (some t.id) = s.chip := opCommit_held hop hphase hmem hsend hout
  exact completes_onlyCore hp (State.active_core ha) rfl (hf.symm ▸ Chip.sameBut_refl ..) (congrArg (·.core p) hf)

end

/-! ### A vector issue leaves its unit -/

theorem Core.amaxReport_keep {γ : Type} (g : Core → γ)
    (hg : ∀ c d : Core, g { c with regs := d.regs, lateMax := d.lateMax, amaxRep := d.amaxRep } = g c) (c : Core) (n m : Nat) :
    g (c.amaxReport n m) = g c := by
  have hfold : g (c.foldAmax n m) = g c := by
    unfold Core.foldAmax
    split
    · exact hg c { c with lateMax := NatMap.wr c.lateMax n (max (NatMap.rd c.lateMax n) m) }
    · exact hg c (c.raiseAmax n m)
  exact (hg (c.foldAmax n m) (c.amaxReport n m)).trans hfold

/-- The commit of an issue changes what its items, its flags and its folds change. -/
theorem vuCommit_keep {γ : Type} (g : Core → γ) (hitem : ∀ (c : Core) o, g (c.commitItem o) = g c)
    (hfold : ∀ c d : Core, g { c with regs := d.regs, lateMax := d.lateMax, amaxRep := d.amaxRep } = g c) {c : Core} {x : VuExec}
    {rest : List VuExec} (hx : c.vuX = x :: rest) : g (vuCommit c) = g { c with vuX := rest } := by
  unfold vuCommit
  rw [hx]
  dsimp only
  refine (foldl_keep g _ (fun c (w : Nat × Nat) => Core.amaxReport_keep g hfold c w.1 w.2) _ _).trans ?_
  exact (hfold _ (Core.setReg _ rVU_FCSR _)).trans (foldl_keep g _ hitem _ _)

/-- A vector issue leaves its unit, and of operations, sequencer and queue it changes a reservation at most. -/
theorem vuCommit_leaves {c : Core} {x : VuExec} {rest : List VuExec} (hx : c.vuX = x :: rest) : (vuCommit c).vuX = rest ∧
    (vuCommit c).ops = c.ops ∧ (vuCommit c).seq.pc = c.seq.pc ∧ (vuCommit c).seq.x = c.seq.x ∧ (vuCommit c).vuQ = c.vuQ := by
  have hkeep {γ : Type} (g : Core → γ) (hitem : ∀ (c : Core) o, g (c.commitItem o) = g c)
      (hfold : ∀ c d : Core, g { c with regs := d.regs, lateMax := d.lateMax, amaxRep := d.amaxRep } = g c) :
      g (vuCommit c) = g { c with vuX := rest } := vuCommit_keep g hitem hfold hx
  exact ⟨hkeep Core.vuX (Core.commitItem_keep _ fun _ _ => rfl) fun _ _ => rfl,
    hkeep Core.ops (Core.commitItem_keep _ fun _ _ => rfl) fun _ _ => rfl,
    hkeep (·.seq.pc) (Core.commitItem_seq Seq.pc fun _ _ => rfl) fun _ _ => rfl,
    hkeep (·.seq.x) (Core.commitItem_seq Seq.x fun _ _ => rfl) fun _ _ => rfl,
    hkeep Core.vuQ (Core.commitItem_keep _ fun _ _ => rfl) fun _ _ => rfl⟩

/-! ### The statement -/

/-- Settles O25: an operation commits as `Core.opDone` says, or keeps its place, and an issue as `vuCommit_keep` says. -/
theorem resultsCommit : Obligations.ResultsCommit := by
  intro s p ha hp c
  refine ⟨fun t hop hphase hmem hitems hdram hsent => ?effects, fun t o hop hphase hmem hitems hstore hsend hfits => ?item,
    fun t hop hphase hsend hout hmem => operationCommit_held ha hp hop hphase hmem hsend hout, fun x rest hx => ?issue⟩
  case effects =>
    refine operationCommit_completes ha hp hop hphase hmem hsent fun u hu hset => ⟨hu, ?_⟩
    intro d
    have hops (j : Nat) : d.op? j = if j = t.id then none else c.op? j := (hset.keep (·.op? j) fun _ _ => rfl).trans (Core.op_opDone ..)
    have hstore : d.store = ((c.tileTaken t.res.tile (s.chip.coreCycle p)).stored t.res.store).store := by
      rw [hset.store, Core.store_opDone, hitems, List.foldl_nil]
    have heng (be : Bool) : d.eng be = (c.tileTaken t.res.tile (s.chip.coreCycle p)).eng be := by
      rw [hset.keep (·.eng be) fun _ _ => rfl, Core.eng_opDone, hitems, List.foldl_nil]
    have htaken : (c.tileTaken t.res.tile (s.chip.coreCycle p)).store = c.store := Core.tileTaken_keep Core.store (fun _ _ => rfl) ..
    refine ⟨(hops t.id).trans (if_pos rfl), fun j hj => (hops j).trans (if_neg hj), fun a bs hbytes => ?_, fun hnone => ?_, fun be hother => ?_,
      fun be n x h htile => ?_⟩
    · rw [hstore, hbytes, Core.stored_one, htaken]
      exact ⟨fun i hi => Bytes.rd_wrN_inside _ _ _ _ hi, fun x hx => Bytes.rd_wrN_outside _ _ _ _ hx⟩
    · rw [hstore, hnone]
      exact htaken
    · rw [heng be]
      cases htile : t.res.tile with
      | none => rfl
      | some x => exact Core.commitTile_eng_ne c (Ne.symm (hother x htile)) ..
    · obtain ⟨e, hcommit, ht, hacc, hmask⟩ := Core.commitTile_eng c be n x h (s.chip.coreCycle p)
      have he : d.eng be = e.commitTile c.confirmed n x h := by
        rw [heng be, htile]
        exact hcommit
      have htiles (m : Nat) : (d.eng be).tile m = ((c.eng be).commitTile c.confirmed n x h).tile m := by
        rw [he]
        exact congrArg (Map.get (fun _ => Tile.reset) · m) (Eng.commitTile_t ht ..)
      refine ⟨htiles n, fun m hm => (htiles m).trans (Eng.commitTile_tile_ne _ _ hm ..), ?_, ?_⟩
      · rw [he, Eng.commitTile_keep Eng.a (fun _ _ => rfl), hacc]
      · rw [he, Eng.commitTile_keep Eng.cm (fun _ _ => rfl), hmask]
  case item =>
    refine operationCommit_completes ha hp hop hphase hmem (fun h => absurd h hsend) fun u hu hset => ⟨hu, ?_⟩
    intro d
    have hqend (n : Nat) : d.qend n = (c.commitItem o).qend n := by
      rw [hset.qend, Core.qend_opDone _ _ _ hsend, hitems]
      rfl
    refine ⟨(hset.keep (·.op? t.id) fun _ _ => rfl).trans ((Core.op_opDone ..).trans (if_pos rfl)), ?_, ?_, fun n hn => ?_⟩
    · rw [hset.store, Core.store_opDone, hitems, hstore]
      refine (Core.tileTaken_keep Core.store (fun _ _ => rfl) ..).trans ?_
      rw [List.foldl_cons, List.foldl_nil, Core.commitItem_fits c hfits, Core.store_written]
    · rw [hqend, Core.commitItem_fits c hfits, Core.qend_setQend_self]
    · rw [hqend, Core.commitItem_fits c hfits, Core.qend_setQend_ne _ hn, Core.qend_unitWr]
  case issue =>
    refine completes_coreOnly vuCommit hp ha rfl fun u hu hset => ⟨hu, ?_⟩
    obtain ⟨hvuX, hops, hpc, hregs, hvuQ⟩ := vuCommit_leaves hx
    exact ⟨(hset.keep Core.vuX fun _ _ => rfl).trans hvuX, (hset.keep Core.ops fun _ _ => rfl).trans hops,
      (hset.keep (·.seq.pc) fun _ _ => rfl).trans hpc, (hset.keep (·.seq.x) fun _ _ => rfl).trans hregs,
      (hset.keep Core.vuQ fun _ _ => rfl).trans hvuQ⟩

end Sys2Proof.Machine
end

section
/-!
PROOFS. An idle step is one cycle of the time base (09 R318).
-/
namespace Sys2Proof.Machine

theorem Chip.cxl_ctbRun (s : Chip) (n : Nat) : (s.ctbRun n).cxl = s.cxl :=
  Chip.ctbRun_keep Chip.cxl (fun _ _ _ => rfl) (fun _ _ _ _ => rfl) (fun _ _ => rfl) s n

/-- The trim of a cycle is less than a tick, so a cycle carries two ticks at most. -/
theorem Chip.trimSum_one_le {s : Chip} (htrim : s.trimOk) : (s.trimSum 1 / 2 ^ 32).toNat ≤ 2 := by
  obtain ⟨hfrac, hhi, hlo⟩ := htrim
  unfold Chip.trimSum
  omega

/-- Settles O3: an idle step is a cycle of TBCLK (log 1), which counts the ticks that `Chip.trimSum_one_le` bounds. -/
theorem idleStepCounts : Obligations.IdleStepCounts := by
  intro s hup hidle hfrac hhi hlo
  have htick := hup.ticking
  have hstep : step s = .next { s with chip := s.chip.tick } := by rw [step, hidle]
  have hcarry := Chip.trimSum_one_le ⟨hfrac, hhi, hlo⟩
  have hnew : (s.chip.ctbRun 1).ctbFrac = _ := Chip.ctbRun_frac _ 1 htick
  exact ⟨_, _, hstep, by omega, Chip.now_ctbRun 1 htick, show (s.chip.ctbRun 1).ctbFrac < _ by omega,
    Chip.hbm_ctbRun _ 1, Chip.cxl_ctbRun _ 1⟩

end Sys2Proof.Machine
end

section
/-!
PROOFS. A timed start is the start of the unit's own work once time has run on to its tick (09 R324).

Time that runs on marks late starts and runs the engines: it leaves `Core.waiting`, the work that waits but for the ticks on which it
became late, and `Core.unsettled`, what settling reads of the core as a command met it. So the start at the tick is the start that the
unit's own command makes there, and both settle alike.
-/
namespace Sys2Proof.Machine

/-! ### What time leaves of waiting work -/

/-- An operation but for the tick on which it became late. -/
def TOp.undated (t : TOp) : TOp := { t with due := none }

/-- A kerf instruction but for the tick on which it became late. -/
def KuInstr.undated (k : KuInstr) : KuInstr := { k with due := none }

/-- The operations and the kerf instructions of a core but for the ticks on which they became late. -/
def Core.waiting (c : Core) : List TOp × List KuInstr := (c.ops.map TOp.undated, c.ku.map KuInstr.undated)

/-- What settling reads of a core as a command met it (13 R467; 05 R186). -/
def Core.unsettled (c : Core) : (Nat × Nat × Nat × Nat × Nat) × Option Nat × Nat := (c.workLeft, c.prefAt, c.portUntil)

theorem Core.settled_congr {b c : Core} (h : b.unsettled = c.unsettled) (d : Core) (k : Nat) :
    Core.settled b d k = Core.settled c d k := by
  obtain ⟨hwork, hpref, huntil⟩ : b.workLeft = c.workLeft ∧ b.prefAt = c.prefAt ∧ b.portUntil = c.portUntil := by
    simpa [Core.unsettled] using h
  unfold Core.settled Core.lessWork Core.watched Core.prefRun
  rw [hwork, hpref, huntil]

/-- What time keeps of a core. -/
def Core.timeKey (c : Core) := (c.waiting, c.unsettled)

theorem Core.timeKey_runEng (c : Core) (be : Bool) (tk : Nat → Nat) (cyc : Nat) : (c.runEng be tk cyc).timeKey = c.timeKey := by
  have hrest := Core.runEng_keep (fun c => (c.waiting, c.ops, c.vuQ, c.vuX, c.ku, c.blocks, c.prefAt, c.portUntil)) (fun _ _ _ => rfl)
    (fun _ b _ => by cases b <;> rfl) c be tk cyc
  have heng (b : Bool) : ((c.runEng be tk cyc).eng b).exec.length = (c.eng b).exec.length := by
    rw [key_eng (Core.runEng_key c be tk cyc) b]
    by_cases hb : b = be
    · subst hb
      rw [eng_setEng]
      exact Eng.advance_length _ _
    · obtain rfl : b = !be := by cases b <;> cases be <;> simp_all
      rw [eng_setEng_ne]
  have hfe := heng false
  have hbe := heng true
  simp only [Prod.mk.injEq] at hrest
  obtain ⟨hwait, hops, hvuQ, hvuX, hku, hblocks, hpref, huntil⟩ := hrest
  have hexec : (c.runEng be tk cyc).fe.exec.length + (c.runEng be tk cyc).be.exec.length = c.fe.exec.length + c.be.exec.length :=
    congrArg₂ (· + ·) hfe hbe
  unfold Core.timeKey Core.unsettled Core.workLeft
  rw [hwait, hops, hvuQ, hvuX, hku, hblocks, hpref, huntil, hexec]

theorem Chip.timeKey_markLate (s : Chip) (p : Nat) (t0 : Option Nat) (sel : Nat → Bool) :
    (s.markLate p t0 sel).timeKey = (s.core p).timeKey := by
  have hops : ((s.markLate p t0 sel).ops.map TOp.undated) = (s.core p).ops.map TOp.undated := by
    unfold Chip.markLate
    rw [List.map_map]
    refine List.map_congr_left fun t _ => ?_
    simp only [Function.comp]
    split <;> rfl
  have hku : ((s.markLate p t0 sel).ku.map KuInstr.undated) = (s.core p).ku.map KuInstr.undated := by
    unfold Chip.markLate
    refine List.ext_getElem (by simp) fun i _ _ => ?_
    simp only [List.getElem_map, List.getElem_mapIdx]
    split <;> rfl
  unfold Core.timeKey Core.waiting
  rw [hops, hku]
  simp [Core.unsettled, Core.workLeft, Chip.markLate, Core.eng]

theorem Chip.timeKey_coreRun (s : Chip) (p t0 q : Nat) : ((s.coreRun p t0).core q).timeKey = (s.core q).timeKey := by
  unfold Chip.coreRun Core.runEngines
  rw [Chip.core_setCore]
  split
  · subst q
    rw [Core.timeKey_runEng, Core.timeKey_runEng, Chip.timeKey_markLate]
  · rfl

theorem Chip.timeKey_onCore (s : Chip) (p q : Nat) {f : Core → Core} (hf : ∀ c, (f c).timeKey = c.timeKey) :
    ((s.onCore p f).core q).timeKey = (s.core q).timeKey := by
  rw [Chip.core_onCore]
  split
  · subst q
    exact hf _
  · rfl

theorem Chip.timeKey_progTicks (s : Chip) (n q : Nat) : ((s.progTicks n).core q).timeKey = (s.core q).timeKey := by
  unfold Chip.progTicks
  split
  · rfl
  · refine foldl_keep (fun s : Chip => (s.core q).timeKey) _ (fun s x => ?_) _ _
    dsimp only
    split
    · exact Chip.timeKey_onCore s _ q fun _ => rfl
    · split
      · exact Chip.timeKey_onCore s _ q fun _ => rfl
      · rfl

theorem Chip.timeKey_runTo (s : Chip) (t q : Nat) : ((s.runTo t).core q).timeKey = (s.core q).timeKey := by
  unfold Chip.runTo
  split
  · rfl
  · by_cases h : s.ticking = true
    · rw [Chip.ctbRun_eq s _ h]
      exact (foldl_keep (fun s : Chip => (s.core q).timeKey) _ (fun s p => Chip.timeKey_coreRun s p _ q) _ _).trans
        (Chip.timeKey_progTicks _ _ q)
    · unfold Chip.ctbRun
      rw [if_pos (by simp [h])]
      split <;> rfl

theorem Chip.unsettled_runTo (s : Chip) (t q : Nat) : ((s.runTo t).core q).unsettled = (s.core q).unsettled :=
  congrArg Prod.snd (s.timeKey_runTo t q)

/-- An operation that waits has its descriptor still. -/
theorem Chip.op_runTo {s : Chip} {p id : Nat} {o : TOp} (h : (s.core p).op? id = some o) (t : Nat) :
    ∃ u, ((s.runTo t).core p).op? id = some u ∧ u.desc = o.desc := by
  have hops : ((s.runTo t).core p).ops.map TOp.undated = (s.core p).ops.map TOp.undated :=
    congrArg (fun k => k.1.1) (s.timeKey_runTo t p)
  have hfind (c : Core) : (c.op? id).map TOp.undated = (c.ops.map TOp.undated).find? fun x => x.id == id := by
    rw [List.find?_map]
    rfl
  have hsame := (hfind _).trans ((congrArg _ hops).trans (hfind _).symm)
  rw [h] at hsame
  obtain ⟨u, hu, hk⟩ := Option.map_eq_some_iff.1 hsame
  exact ⟨u, hu, (congrArg TOp.desc hk :)⟩

/-- The kerf instruction at the head has its word still. -/
theorem Chip.kuWord_runTo {s : Chip} {p : Nat} {k : KuInstr} {rest : List KuInstr} (h : (s.core p).ku = k :: rest) (t : Nat)
    (x : KuInstr) : (((s.runTo t).core p).ku.headD x).word = k.word := by
  have hku : ((s.runTo t).core p).ku.map KuInstr.undated = (s.core p).ku.map KuInstr.undated :=
    congrArg (fun k => k.1.2) (s.timeKey_runTo t p)
  rw [h] at hku
  obtain ⟨y, ys, hy, hk, -⟩ := List.map_eq_cons_iff.1 hku
  rw [hy]
  exact (congrArg KuInstr.word hk :)

/-! ### The start at the tick -/

/-- The state in which time has run on to tick `a` of the local copy of core p. -/
def State.atLocal (s : State) (p a : Nat) : State := { s with chip := s.chip.runTo (Chip.dueLocal p a) }

theorem State.awake_atLocal {s : State} (ha : s.awake) (p a : Nat) : (s.atLocal p a).awake := by
  have hkeep : (fun m : Chip => (m.pins.power, m.pins.sysRst, m.hold)) (s.chip.runTo (Chip.dueLocal p a)) =
      (fun m : Chip => (m.pins.power, m.pins.sysRst, m.hold)) s.chip := by
    unfold Chip.runTo
    split
    · rfl
    · exact Chip.ctbRun_keep (fun m : Chip => (m.pins.power, m.pins.sysRst, m.hold)) (fun _ _ _ => rfl) (fun _ _ _ _ => rfl)
        (fun _ _ => rfl) s.chip _
  simp only [Prod.mk.injEq] at hkeep
  obtain ⟨hpower, hrst, hhold⟩ := hkeep
  simpa [State.awake, State.up, State.atLocal, hpower, hrst, hhold] using ha

theorem Chip.settleCore_atLocal (s m : Chip) (p t : Nat) : (s.runTo t).settleCore m p = s.settleCore m p := by
  unfold Chip.settleCore
  rw [Core.settled_congr (s.unsettled_runTo t p)]

/-- A timed start whose command is `f` at tick `a` is `f` of core p there. -/
theorem timedStart_eq {s : State} {p a : Nat} {k : TimedKind} {f : Chip → Chip} (ha : s.awake) (hp : p < nCores)
    (hf : timedStartCmd s.chip p k = f (s.atLocal p a).chip) :
    exec (.timedStart p k) s = (s.atLocal p a).actCore .core p f := by
  refine (State.actCore_next hp (State.active_core ha) _).trans ?_
  rw [State.actCore_next hp (State.active_core (State.awake_atLocal ha p a)), hf]
  exact congrArg (fun m => Host.Outcome.next { s with chip := m }) (Chip.settleCore_atLocal ..).symm

/-- A timed start that is another command at its tick completes as that command does. -/
theorem completes_timedStart {i : Instr} {s : State} {p a : Nat} {k : TimedKind} {f : Chip → Chip} (ha : s.awake) (hp : p < nCores)
    (hf : timedStartCmd s.chip p k = f (s.atLocal p a).chip)
    (hi : exec i (s.atLocal p a) = (s.atLocal p a).actCore .core p f) :
    Completes (.timedStart p k) s fun u => exec i (s.atLocal p a) = .next u := by
  have hnext := State.actCore_next hp (State.active_core (State.awake_atLocal ha p a)) f
  exact ⟨_, (timedStart_eq ha hp hf).trans hnext, hi.trans hnext⟩

theorem timedStartCmd_eq {s : Chip} {p a : Nat} {k : TimedKind} (htick : s.timedTick p k = some a) :
    timedStartCmd s p k = (let s := s.runTo (Chip.dueLocal p a)
      match k with
      | .block e => blockLaunchCmd s p (e == .be)
      | .operation id => anyOpStart s p id
      | .vector => s.onCore p fun c => vuStart c (s.localTick p) (s.cycleNow p) fun _ => true
      | .kerf => if vu ((s.core p).ku.headD { seq := 0, word := 0, epoch := 0 }).word 0 8 = 0x60 then kselCmd s p else kchkCmd s p) := by
  rw [timedStartCmd, htick]
  cases k <;> rfl

/-- The timed start of an operation is `f` if any operation with its code starts by `f`. -/
theorem completes_timedOperation {i : Instr} {s : State} {p id a code : Nat} {t : TOp} {f : Chip → Chip} (ha : s.awake) (hp : p < nCores)
    (hop : (s.chip.core p).op? id = some t) (hwaits : t.waits = true) (harm : t.arm = some a) (hcode : dOp t.desc = code)
    (hstart : ∀ m u, Core.op? (Chip.core m p) id = some u → dOp u.desc = code → anyOpStart m p id = f m)
    (hi : exec i (s.atLocal p a) = (s.atLocal p a).actCore .core p f) :
    Completes (.timedStart p (.operation id)) s fun u => exec i (s.atLocal p a) = .next u := by
  have htick : s.chip.timedTick p (.operation id) = some a := by simp [Chip.timedTick, hop, hwaits, harm]
  obtain ⟨u, hu, hdesc⟩ := Chip.op_runTo hop (Chip.dueLocal p a)
  exact completes_timedStart ha hp ((timedStartCmd_eq htick).trans (hstart _ u hu (hdesc ▸ hcode))) hi

/-- Settles O42: each kind of start is its command at the tick, by `completes_timedStart`. -/
theorem timedStartIsTheUnitsStart : Obligations.TimedStartIsTheUnitsStart := by
  intro s p id a t ha hp
  refine ⟨fun hop hwaits harm => ?operation, fun v rest hvu hloop harm => ?vector, fun k rest hku hloop hrun harm => ?kerf,
    fun e h rest hhalves htimed hbase hlaunch => ?block⟩
  case operation =>
    intro x hx hcode
    simp only [List.mem_cons, List.not_mem_nil, or_false] at hx
    obtain rfl | rfl | rfl | rfl | rfl | rfl | rfl | rfl | rfl | rfl | rfl | rfl := hx <;>
      exact completes_timedOperation ha hp hop hwaits harm hcode (fun m u hu hk => by simp [anyOpStart, hu, hk]) rfl
  case vector =>
    have htick : s.chip.timedTick p .vector = some a := by simp [Chip.timedTick, hvu, hloop, harm]
    exact timedStart_eq ha hp (timedStartCmd_eq htick)
  case kerf =>
    have htick : s.chip.timedTick p .kerf = some a := by simp [Chip.timedTick, hku, hloop, hrun, harm]
    have hcmd := timedStartCmd_eq htick
    dsimp only at hcmd
    rw [Chip.kuWord_runTo hku] at hcmd
    split
    · rename_i hksel
      rw [if_pos hksel] at hcmd
      exact timedStart_eq ha hp hcmd
    · rename_i hkchk
      rw [if_neg hkchk] at hcmd
      exact timedStart_eq ha hp hcmd
  case block =>
    have htick : s.chip.timedTick p (.block e) = some a := by simp [Chip.timedTick, hhalves, htimed, hbase, hlaunch]
    exact completes_timedStart ha hp (timedStartCmd_eq htick) rfl

end Sys2Proof.Machine
end

section
/-!
PROOFS. Settings of the fabric, the time base and the links (09 R309, R323, R336; 11 R387, R404, R406, R407).

Each write reaches the rule of its register in the table of the chip's registers. A link's settings may flood a new record: flits
then go out, which leaves `Chip.settingKey`, the stages of the links and every register but the counts of flits sent.
-/
namespace Sys2Proof.Machine

/-! ### The rows -/

def rowFabMap : RegRow := ⟨0x20000020000, 4, 256, 0, 1, 32, 0, [⟨0, 4, .rw⟩, ⟨4, 5, .rw⟩, ⟨9, 1, .rw⟩, ⟨10, 22, .ro⟩]⟩
def rowSlRt : RegRow := ⟨0x20000401000, 4, 4096, 0, 1, 32, 0, [⟨0, 5, .rw⟩, ⟨5, 5, .rw⟩, ⟨10, 1, .rw⟩, ⟨11, 21, .ro⟩]⟩

def rowFabByp : RegRow := ⟨0x20000020400, 8, 5, 0, 1, 64, 0, [⟨0, 64, .rw⟩]⟩

theorem findReg_fabByp {n : Nat} (hn : n < 5) : findReg chipRegs (rFAB_BYP n) = some rowFabByp := by revert n; decide

theorem findReg_fabMap {n : Nat} (hn : n < 256) : findReg chipRegs (rFAB_MAP n) = some rowFabMap := by
  obtain ⟨rs, hrs⟩ : ∃ rs, chipRegs.filter (RegRow.near 0x20000020000 0x200000203FF) = rowFabMap :: rs := ⟨_, rfl⟩
  have hhit : rowFabMap.hit (rFAB_MAP n) = true := by
    simp only [RegRow.hit, rowFabMap, rFAB_MAP, Bool.and_eq_true, decide_eq_true_eq, if_pos, OfNat.ofNat_ne_zero, if_false]
    exact ⟨decide_eq_true (by omega), by omega⟩
  rw [findReg_near 0x20000020000 0x200000203FF (by unfold rFAB_MAP; omega) (by unfold rFAB_MAP; omega), hrs, findReg_cons_hit hhit]

theorem findReg_slRt {n : Nat} (hn : n < 4096) : findReg chipRegs (rSL_RT n) = some rowSlRt := by
  obtain ⟨rs, hrs⟩ : ∃ rs, chipRegs.filter (RegRow.near 0x20000401000 0x20000404FFF) = rowSlRt :: rs := ⟨_, rfl⟩
  have hhit : rowSlRt.hit (rSL_RT n) = true := by
    simp only [RegRow.hit, rowSlRt, rSL_RT, Bool.and_eq_true, decide_eq_true_eq, if_pos, OfNat.ofNat_ne_zero, if_false]
    exact ⟨decide_eq_true (by omega), by omega⟩
  rw [findReg_near 0x20000401000 0x20000404FFF (by unfold rSL_RT; omega) (by unfold rSL_RT; omega), hrs, findReg_cons_hit hhit]

/-! ### A write reaches its register's rule -/

section
variable {s : Chip} {who : Agent} {n : Nat} (v : Nat) (hw : isSteward who = true)
include hw

theorem Chip.chipWrite_fabMap (hn : n < 256) : s.chipWrite who (rFAB_MAP n) v = fabMapCmd s n v := by
  have hne (x : Nat) (hx : x < 0x20000020000 ∨ 0x20000020400 ≤ x) : rFAB_MAP n ≠ x := by unfold rFAB_MAP; omega
  have hlt (x : Nat) (hx : 0x20000020400 ≤ x) : ¬ x ≤ rFAB_MAP n := by unfold rFAB_MAP; omega
  have hidx : (rowFabMap.idx (rFAB_MAP n)).1 = n := by simp [RegRow.idx, rowFabMap, rFAB_MAP]
  have hbase : rowFabMap.base = rFAB_MAP 0 := rfl
  simp (disch := decide) [Chip.chipWrite, findReg_fabMap hn, hne, hlt, hidx, hw, hbase]

theorem Chip.chipWrite_fabByp (hn : n < 5) : s.chipWrite who (rFAB_BYP n) v = fabBypCmd s n v s.running := by
  have hne (x : Nat) (hx : x < 0x20000020400 ∨ 0x20000020428 ≤ x) : rFAB_BYP n ≠ x := by unfold rFAB_BYP; omega
  have hlt (x : Nat) (hx : 0x20000020428 ≤ x) : ¬ x ≤ rFAB_BYP n := by unfold rFAB_BYP; omega
  have hidx : (rowFabByp.idx (rFAB_BYP n)).1 = n := by simp [RegRow.idx, rowFabByp, rFAB_BYP]
  have hbase : rowFabByp.base = rFAB_BYP 0 := rfl
  simp (disch := decide) [Chip.chipWrite, findReg_fabByp hn, hne, hlt, hidx, hw, hbase]

theorem Chip.chipWrite_ctbTrim : s.chipWrite who rCTB_TRIM v = ctbTrimCmd s who v := by
  unfold Chip.chipWrite
  simp [hw]
  rfl

theorem Chip.chipWrite_slRt (hn : n < 4096) : s.chipWrite who (rSL_RT n) v = slRtCmd s n v := by
  have hne (x : Nat) (hx : x < 0x20000401000 ∨ 0x20000405000 ≤ x) : rSL_RT n ≠ x := by unfold rSL_RT; omega
  have hlt (x : Nat) (hx : 0x20000405000 ≤ x) : ¬ x ≤ rSL_RT n := by unfold rSL_RT; omega
  have hge (x : Nat) (hx : x ≤ 0x20000401000) : ¬ rSL_RT n < x := by unfold rSL_RT; omega
  have hidx : (rowSlRt.idx (rSL_RT n)).1 = n := by simp [RegRow.idx, rowSlRt, rSL_RT]
  have hbase : rowSlRt.base = rSL_RT 0 := rfl
  simp (disch := decide) [Chip.chipWrite, findReg_slRt hn, hne, hlt, hge, hidx, hw, hbase]

theorem Chip.chipWrite_tsCfg : s.chipWrite who rTS_CFG v = tsCfgCmd s v := by
  unfold Chip.chipWrite
  simp [hw]
  rfl

end

/-! ### The map and the bypass (R309, R336) -/

/-- A command to a unit that changes the part by `f`. -/
theorem completes_actUnit {i : Instr} {s : State} {u n : Nat} {post : State → Prop} (f : Chip → Chip) (hu : u < n) (ha : s.awake)
    (he : exec i s = s.actUnit .core u n f) (hpost : post { s with chip := f s.chip }) : Completes i s post :=
  ⟨_, he.trans (State.actUnit_next hu (State.active_core ha) f), hpost⟩

theorem answers_actUnit {i : Instr} {s : State} {u n : Nat} {m : Chip} (f : Chip → Chip) (hu : u < n) (ha : s.awake)
    (he : exec i s = s.actUnit .core u n f) (hm : f s.chip = m) : Answers i s m := by
  rw [Answers, he, State.actUnit_next hu (State.active_core ha) f, hm]

theorem answers_act {i : Instr} {s : State} {m : Chip} (f : Chip → Chip) (ha : s.awake) (he : exec i s = s.act .core f)
    (hm : f s.chip = m) : Answers i s m := by
  rw [Answers, he, State.act_next (State.active_core ha) f, hm]

theorem completes_act {i : Instr} {s : State} {post : State → Prop} (f : Chip → Chip) (ha : s.awake)
    (he : exec i s = s.act .core f) (hpost : post { s with chip := f s.chip }) : Completes i s post :=
  ⟨_, he.trans (State.act_next (State.active_core ha) f), hpost⟩

/-- The core that a map entry names (R336). -/
def mapCore (m : Nat) : Nat := 16 * field m 4 5 + field m 0 4

theorem fabMapCmd_eq (s : Chip) {n : Nat} (v : Nat) (hn : n < 256) : fabMapCmd s n v =
    if (bitOf (s.reg (rFAB_MAP n)) 9 = true → s.stopped (mapCore (s.reg (rFAB_MAP n))) = true) ∧
        (bitOf v 9 = true → s.stopped (mapCore v) = true)
      then s.setReg (rFAB_MAP n) (field v 0 10) else s := by
  have hvalid : bitOf (field v 0 10) 9 = bitOf v 9 := testBit_field (by decide)
  unfold fabMapCmd mapCore
  simp [hn, hvalid, field_field, imp_iff_not_or]

theorem bitOf_b2n_zero (x : Bool) : bitOf (b2n x) 0 = x := by cases x <;> rfl

/-- A word put together from its bits. -/
theorem bitOf_foldBits (f : Nat → Bool) (n : Nat) :
    (List.range n).foldl (fun a b => a + b2n (f b) * 2 ^ b) 0 < 2 ^ n ∧
    ∀ b, b < n → bitOf ((List.range n).foldl (fun a b => a + b2n (f b) * 2 ^ b) 0) b = f b := by
  induction n with
  | zero => exact ⟨Nat.one_pos, fun _ hb => absurd hb (Nat.not_lt_zero _)⟩
  | succ n ih =>
    obtain ⟨hlt, hbits⟩ := ih
    rw [List.range_succ, List.foldl_append, List.foldl_cons, List.foldl_nil]
    have hbit : b2n (f n) ≤ 1 := by cases f n <;> decide
    refine ⟨?_, fun b hb => ?_⟩
    · rw [pow_succ]
      have := Nat.mul_le_mul_right (2 ^ n) hbit
      omega
    · rw [bitOf_add_mul hlt]
      split
      · exact hbits b ‹_›
      · obtain rfl : b = n := by omega
        rw [Nat.sub_self, bitOf_b2n_zero]

theorem fabBypCmd_bits (s : Chip) {n : Nat} (v : Nat) (running : Bool) (hn : n < 5) :
    (∀ a, a ≠ rFAB_BYP n → (fabBypCmd s n v running).reg a = s.reg a) ∧ (fabBypCmd s n v running).cores = s.cores ∧
    ∀ b, b < (if n = 4 then 32 else 64) → bitOf ((fabBypCmd s n v running).reg (rFAB_BYP n)) b =
      if bitOf v b && !bitOf (s.reg (rFAB_BYP n)) b then (s.core (64 * n + b)).fenced
      else bitOf (s.reg (rFAB_BYP n)) b && (bitOf v b || running) := by
  unfold fabBypCmd
  rw [if_neg (by omega)]
  refine ⟨fun a ha => (Chip.reg_setReg ..).trans (if_neg ha), rfl, fun b hb => ?_⟩
  rw [Chip.reg_setReg_self, (bitOf_foldBits _ _).2 b hb]
  cases bitOf v b <;> cases bitOf (s.reg (rFAB_BYP n)) b <;> simp

/-! ### Flits that go out (11 R375, R376, R389) -/

/-- What of the part a flit that goes out leaves: its cores, its records, the stages of its links, and TS_CFG and the settings of its
links. -/
def Chip.settingKey (s : Chip) : Map Core × Flood × (Nat → LinkSt) × Nat × (Nat → Nat) :=
  (s.cores, s.flood, fun l => (s.link l).st, s.reg rTS_CFG, fun l => s.reg (slg rSL_CTL l))

theorem Chip.settingKey_setLink (s : Chip) (l : Nat) (L : Link) (h : L.st = (s.link l).st) :
    (s.setLink l L).settingKey = s.settingKey := by
  have hst : (fun k => ((s.setLink l L).link k).st) = fun k => (s.link k).st := by
    funext k
    rw [Chip.link_setLink]
    split
    · subst k
      exact h
    · rfl
  unfold Chip.settingKey
  rw [hst]
  rfl

/-- Neither the links' settings nor TS_CFG lie at `a`. -/
theorem Chip.settingKey_setReg (s : Chip) {a : Nat} (v : Nat) (hts : a ≠ rTS_CFG) (hctl : ∀ l, a ≠ slg rSL_CTL l) :
    (s.setReg a v).settingKey = s.settingKey := by
  unfold Chip.settingKey
  simp only [Chip.reg_setReg, if_neg hts.symm, if_neg (hctl _).symm]
  rfl

theorem Chip.settingKey_sendFlit (s : Chip) (l ty fseq : Nat) (b : List Byte) : (s.sendFlit l ty fseq b).settingKey = s.settingKey := by
  unfold Chip.sendFlit
  exact Chip.settingKey_setLink s l _ rfl

theorem Chip.settingKey_sendSeq (s : Chip) (l ty : Nat) (b : List Byte) : (s.sendSeq l ty b).settingKey = s.settingKey := by
  unfold Chip.sendSeq Chip.bump
  refine (Chip.settingKey_setReg _ _ ?_ fun k => ?_).trans ((Chip.settingKey_sendFlit ..).trans (Chip.settingKey_setLink s l _ rfl))
  · unfold slg rSL_TXF_CNT rTS_CFG
    omega
  · unfold slg rSL_TXF_CNT rSL_CTL
    omega

theorem Chip.settingKey_pump (n : Nat) (s : Chip) (l : Nat) : (Chip.pump n s l).settingKey = s.settingKey := by
  induction n generalizing s with
  | zero => rfl
  | succ n ih =>
    unfold Chip.pump
    dsimp only
    split
    · rfl
    · split
      · split
        · rfl
        · rw [ih, Chip.settingKey_sendSeq]
          exact Chip.settingKey_setLink s l _ rfl
      · split
        · rfl
        · rw [ih, foldl_keep Chip.settingKey _ fun s b => Chip.settingKey_sendSeq s l 0 b]
          exact Chip.settingKey_setLink s l _ rfl

theorem Chip.settingKey_floodOut (s : Chip) (r : LsRecord) (skip : Option Nat) : (s.floodOut r skip).settingKey = s.settingKey := by
  refine foldl_keep Chip.settingKey _ (fun s l => ?_) _ _
  dsimp only
  split
  · exact (Chip.settingKey_pump _ _ l).trans (Chip.settingKey_setLink s l _ rfl)
  · rfl

/-- A new version of this part's record is flooded: cores and settings stay. -/
theorem Chip.floodOwn_keeps (s : Chip) (replan : Bool) : (s.floodOwn replan).cores = s.cores ∧
    (s.floodOwn replan).flood.version = s.flood.version + 1 ∧ (s.floodOwn replan).flood.stale = (s.flood.stale || replan) ∧
    (s.floodOwn replan).reg rTS_CFG = s.reg rTS_CFG ∧
    ∀ l, ((s.floodOwn replan).link l).st = (s.link l).st ∧ (s.floodOwn replan).reg (slg rSL_CTL l) = s.reg (slg rSL_CTL l) := by
  obtain ⟨m, hm, hversion, hstale, hrest⟩ : ∃ m : Chip, (s.floodOwn replan).settingKey = m.settingKey ∧
      m.flood.version = s.flood.version + 1 ∧ m.flood.stale = (s.flood.stale || replan) ∧ m.settingKey = (s.cores, m.flood, s.settingKey.2.2) :=
    ⟨_, Chip.settingKey_floodOut .., rfl, rfl, rfl⟩
  have hkey := hm.trans hrest
  simp only [Chip.settingKey, Prod.mk.injEq] at hkey
  obtain ⟨hcores, hflood, hlinks, hts, hctl⟩ := hkey
  rw [hflood]
  exact ⟨hcores, hversion, hstale, hts, fun l => ⟨congrFun hlinks l, congrFun hctl l⟩⟩

/-! ### Settings of links (11 R387, R404) -/

/-- What the settings of link `l` are about. -/
def Chip.linkKey (s : Chip) (l : Nat) : Map Core × LinkSt × Nat := (s.cores, (s.link l).st, s.reg (slg rSL_CTL l))

theorem Chip.linkKey_floodIf (s : Chip) (l : Nat) (up replan : Bool) : (if up then s.floodOwn replan else s).linkKey l = s.linkKey l := by
  cases up
  · rfl
  · obtain ⟨hcores, -, -, -, hlinks⟩ := s.floodOwn_keeps replan
    obtain ⟨hst, hreg⟩ := hlinks l
    rw [if_pos rfl, Chip.linkKey, hcores, hst, hreg, Chip.linkKey]

theorem Chip.linkKey_linkStop (s : Chip) (l : Nat) (st : LinkSt) : (s.linkStop l st).linkKey l = (s.cores, st, s.reg (slg rSL_CTL l)) := by
  have hreg : (s.bump rSL_DISC_CNT (s.link l).txq.length).reg (slg rSL_CTL l) = s.reg (slg rSL_CTL l) :=
    (Chip.reg_setReg ..).trans (if_neg (by unfold slg rSL_CTL rSL_DISC_CNT; omega))
  unfold Chip.linkStop Chip.linkKey
  dsimp only
  rw [Chip.link_setLink, if_pos rfl]
  exact congrArg (fun r => (s.cores, st, r)) hreg

theorem Chip.linkKey_slDown (s : Chip) (l cause : Nat) : (s.slDown l cause).linkKey l = s.linkKey l := by
  have hkeep (m : Chip) (a v : Nat) (ha : slg rSL_CTL l ≠ a) : (m.setReg a v).linkKey l = m.linkKey l := by
    unfold Chip.linkKey
    rw [Chip.reg_setReg, if_neg ha]
    rfl
  have hdown : slg rSL_CTL l ≠ slg rSL_DOWN l := by unfold slg rSL_CTL rSL_DOWN; omega
  have htime : slg rSL_CTL l ≠ slg rSL_DOWN_TIME l := by unfold slg rSL_CTL rSL_DOWN_TIME; omega
  unfold Chip.slDown
  split
  · exact hkeep _ _ _ hdown
  · exact (hkeep _ _ _ htime).trans (hkeep _ _ _ hdown)

theorem slRetireCmd_linkKey {s : Chip} {l : Nat} (hl : l < nLinks) (hst : (s.link l).st ≠ .retired) :
    (slRetireCmd s l).linkKey l = (s.cores, .retired, Sys2Proof.setField (s.reg (slg rSL_CTL l)) 1 1 1) := by
  unfold slRetireCmd
  rw [if_neg (by simp [hst]; exact hl)]
  refine (Chip.linkKey_floodIf ..).trans ?_
  have hkey := (Chip.linkKey_slDown (s.linkStop l .retired) l 6).trans (Chip.linkKey_linkStop ..)
  simp only [Chip.linkKey, Prod.mk.injEq] at hkey ⊢
  obtain ⟨hcores, hlink, hreg⟩ := hkey
  refine ⟨hcores, hlink, ?_⟩
  rw [Chip.setField, Chip.reg_setReg_self, hreg]

/-- SL_CTL with EN, and with an ACKTO in its bounds, taken from `v`. -/
def ctlWritten (old v : Nat) : Nat :=
  setField (if 1 ≤ field v 8 5 ∧ field v 8 5 ≤ 20 then setField old 8 5 (field v 8 5) else old) 0 1 (field v 0 1)

theorem bitOf_ctlWritten (old v : Nat) : bitOf (ctlWritten old v) 0 = bitOf v 0 := by
  unfold ctlWritten
  rw [bitOf_eq_field v 0]
  exact bitOf_setField_self ..

theorem field_ctlWritten (old v : Nat) : field (ctlWritten old v) 8 5 =
    if 1 ≤ field v 8 5 ∧ field v 8 5 ≤ 20 then field v 8 5 else field old 8 5 := by
  unfold ctlWritten
  rw [field_setField_above _ _ _ _ _ _ (by decide)]
  split
  · rw [field_setField]
    exact Nat.mod_eq_of_lt (field_lt ..)
  · rfl

/-- The stage of a link after a write of EN (R404). -/
def enStage (st : LinkSt) (was now : Bool) : LinkSt :=
  if st = .retired then .retired else if now && !was then .pmd else if !now && was then .disabled else st

theorem slCtlEnCmd_linkKey (s : Chip) {l : Nat} (v : Nat) (hl : l < nLinks) : (slCtlEnCmd s l v).linkKey l =
    (s.cores, enStage (s.link l).st (bitOf (s.reg (slg rSL_CTL l)) 0) (bitOf v 0), ctlWritten (s.reg (slg rSL_CTL l)) v) := by
  obtain ⟨m, hm, hcores, hlink, hreg⟩ : ∃ m : Chip, m = (let a := field v 8 5
      (if 1 ≤ a ∧ a ≤ 20 then s.setField (slg rSL_CTL l) 8 5 a else s).setField (slg rSL_CTL l) 0 1 (field v 0 1)) ∧
      m.cores = s.cores ∧ m.link l = s.link l ∧ m.reg (slg rSL_CTL l) = ctlWritten (s.reg (slg rSL_CTL l)) v := by
    refine ⟨_, rfl, ?_, ?_, ?_⟩
    · dsimp only
      split <;> rfl
    · dsimp only
      split <;> rfl
    · unfold ctlWritten
      dsimp only
      rw [Chip.setField, Chip.reg_setReg_self]
      split
      · rw [Chip.setField, Chip.reg_setReg_self]
      · rfl
  unfold slCtlEnCmd enStage
  rw [if_neg (Nat.not_le.2 hl)]
  dsimp only at hm ⊢
  rw [← hm, hlink]
  split
  · rename_i hret
    simp [Chip.linkKey, hcores, hlink, hreg, hret]
  · split
    · simp only [Chip.linkKey, Chip.link_setLink_self]
      exact congrArg₂ (fun c r => (c, LinkSt.pmd, r)) hcores hreg
    · split
      · refine (Chip.linkKey_floodIf ..).trans ((Chip.linkKey_linkStop ..).trans ?_)
        rw [hcores, hreg]
      · simp [Chip.linkKey, hcores, hlink, hreg]

/-! ### The statement -/

/-- Settles O35: each write reaches its register's rule, which says what the register holds then. -/
theorem fabricAndLinkSettings : Obligations.FabricAndLinkSettings := by
  intro s who n l v ha hw hv c core
  have hmod : v % 2 ^ 64 = v := Nat.mod_eq_of_lt hv
  refine ⟨fun hn => ?map, fun hn => ?bypass, ?trim, fun hn => ?route, ?timeSync, fun hl => ?enable, fun hl hst => ?retire⟩
  case map =>
    refine answers_actUnit _ hn ha rfl ?_
    rw [Chip.chipWrite_fabMap _ hw hn, hmod]
    exact fabMapCmd_eq s.chip v hn
  case bypass =>
    refine completes_actUnit _ hn ha rfl ?_
    rw [Chip.chipWrite_fabByp _ hw hn, hmod]
    exact fabBypCmd_bits s.chip v _ hn
  case trim =>
    refine answers_act (·.chipWrite who rCTB_TRIM (v % 2 ^ 64)) ha rfl ?_
    rw [Chip.chipWrite_ctbTrim _ hw, hmod, ctbTrimCmd, hw]
    simp
    rfl
  case route =>
    refine answers_actUnit _ hn ha rfl ?_
    rw [Chip.chipWrite_slRt _ hw hn, hmod, slRtCmd]
    simp [hn]
    rfl
  case timeSync =>
    refine completes_act (·.chipWrite who rTS_CFG (v % 2 ^ 64)) ha rfl ?_
    obtain ⟨hcores, hversion, hstale, hreg, -⟩ := (c.setReg rTS_CFG (field v 0 9)).floodOwn_keeps true
    rw [Chip.chipWrite_tsCfg _ hw, hmod, tsCfgCmd]
    dsimp only
    rw [hreg, hcores, hstale, hversion, Chip.reg_setReg_self]
    exact ⟨rfl, rfl, Bool.or_true _, rfl⟩
  case enable =>
    refine completes_actUnit _ hl ha rfl ?_
    rw [if_pos hw]
    have hkey := slCtlEnCmd_linkKey s.chip v hl
    simp only [Chip.linkKey, Prod.mk.injEq] at hkey
    obtain ⟨hcores, hlink, hreg⟩ := hkey
    dsimp only
    rw [hreg, hlink]
    refine ⟨bitOf_ctlWritten .., field_ctlWritten .., hcores, fun hst hon hoff => ?_, fun hst hoff hon => ?_⟩
    · rw [hon, hoff, enStage, if_neg hst]
      rfl
    · rw [hon, hoff, enStage, if_neg hst]
      rfl
  case retire =>
    refine completes_actUnit _ hl ha rfl ?_
    rw [if_pos hw]
    have hkey := slRetireCmd_linkKey hl hst
    simp only [Chip.linkKey, Prod.mk.injEq] at hkey
    obtain ⟨hcores, hlink, hreg⟩ := hkey
    refine ⟨hlink, hcores, ?_⟩
    dsimp only
    rw [hreg]
    exact bitOf_setField_self _ 1 true

end Sys2Proof.Machine
end

section
/-!
PROOFS. SEND and RECV start (09 R311, R312, R313).

A command that starts one sets core p and hands packets to its router port: `Chip.inject_mapped` says what a handed packet changes,
`Core.sent` and `Core.awaits` what the start itself does to the core.
-/
namespace Sys2Proof.Machine

/-! ### Packets that are handed to the router port -/

/-- The destination is another part, or a position that the map of this part holds (R309). -/
def Chip.mapped (s : Chip) (chip x y : Nat) : Prop := chip = s.id → (s.physOf x y).isSome = true

theorem Chip.mapped_of_reachable {s : Chip} {chip x y : Nat} (h : s.reachable chip x y = true) : s.mapped chip x y := by
  intro hchip
  rwa [Chip.reachable, if_pos hchip] at h

theorem Chip.inject_mapped {s : Chip} {chip x y : Nat} (h : s.mapped chip x y) (p : Nat) (k : Packet) :
    s.inject p chip x y k = s.onCore p fun c => { c with out := c.out ++ [s.address p chip x y k] } := by
  unfold Chip.inject
  rw [if_neg fun ⟨hchip, hnone⟩ => by simpa [hnone] using h hchip]

theorem Chip.foldl_inject {chip x y : Nat} (p : Nat) (ks : List Packet) : ∀ {s : Chip}, s.mapped chip x y →
    let m := ks.foldl (fun s k => s.inject p chip x y k) s
    s.sameBut p m ∧ ∃ l, l.length = ks.length ∧ m.core p = { s.core p with out := (s.core p).out ++ l } := by
  induction ks with
  | nil => exact fun {s} _ => ⟨Chip.sameBut_refl p s, [], rfl, by simp⟩
  | cons k ks ih =>
    intro s h m
    have hm : m = ks.foldl (fun s k => s.inject p chip x y k) (s.inject p chip x y k) := rfl
    rw [hm, Chip.inject_mapped h]
    obtain ⟨hsame, l, hlen, hcore⟩ := ih (s := s.onCore p fun c => { c with out := c.out ++ [s.address p chip x y k] }) h
    refine ⟨Chip.sameBut_trans (Chip.sameBut_onCore ..) hsame, s.address p chip x y k :: l, by simp [hlen], ?_⟩
    rw [hcore, Chip.core_onCore_self]
    simp

/-! ### The table of pairs (R311, R315) -/

theorem Core.pair_putPair (c : Core) {q : Pair} {send : Bool} {chip x y chan : Nat}
    (h : q.send = send ∧ q.chip = chip ∧ q.x = x ∧ q.y = y ∧ q.chan = chan) : (c.putPair q).pair send chip x y chan = some q := by
  obtain ⟨rfl, rfl, rfl, rfl, rfl⟩ := h
  exact List.find?_cons_of_pos (by simp)

theorem Core.pair_key {c : Core} {send : Bool} {chip x y chan : Nat} {q : Pair} (h : c.pair send chip x y chan = some q) :
    q.send = send ∧ q.chip = chip ∧ q.x = x ∧ q.y = y ∧ q.chan = chan := by
  simpa [and_assoc] using List.find?_some h

/-- The entry of a RECV's pair, or a new one. -/
def Core.recvPair (c : Core) (chip x y chan : Nat) : Pair :=
  (c.pair false chip x y chan).getD { send := false, chip := chip, x := x, y := y, chan := chan }

theorem Core.recvPair_key (c : Core) (chip x y chan : Nat) :
    let q := c.recvPair chip x y chan
    q.send = false ∧ q.chip = chip ∧ q.x = x ∧ q.y = y ∧ q.chan = chan := by
  unfold Core.recvPair
  cases h : c.pair false chip x y chan with
  | some q => exact Core.pair_key h
  | none => exact ⟨rfl, rfl, rfl, rfl, rfl⟩

theorem Core.takePair_recv (c : Core) (chip x y chan : Nat) : ∃ l, c.takePair false chip x y chan =
    ({ c with pairs := l }, c.recvPair chip x y chan) := by
  unfold Core.takePair Core.recvPair
  cases h : c.pair false chip x y chan with
  | some q => exact ⟨c.pairs, rfl⟩
  | none => exact ⟨_, rfl⟩

/-! ### SEND starts (R313) -/

/-- A core whose SEND has taken its item and the next number of its pair. -/
def Core.sent (c : Core) (t : TOp) (q : Pair) (o : OutItem) (key : Nat) : Core :=
  let c := c.setQend (dQA t.desc) { c.qend (dQA t.desc) with sending := (c.qend (dQA t.desc)).sending + 1 }
  let c := c.putPair { q with count := q.count + 1, tokens := q.tokens.erase q.count }
  let c := { c.bump rMSG_SEND_CNT 1 with owed := (t.seq, key) :: c.owed }
  c.setOp { t with phase := .started, num := q.count, input := [o] }

theorem Core.sending_pop (c : Core) (n : Nat) : ((c.pop n).qend n).sending = (c.qend n).sending := by
  rw [Core.pop, Core.qend_setQend_self]

/-- What taking the item and the number of a SEND leaves, of a core `d` in which `c` has read the item. -/
theorem Core.sent_leaves {c d : Core} {t : TOp} {q : Pair} {chip x y chan : Nat} (htaken : c.Touches d)
    (hsending : (d.qend (dQA t.desc)).sending = (c.qend (dQA t.desc)).sending) (hop : c.op? t.id = some t)
    (hpair : c.pair true chip x y chan = some q) (o : OutItem) (key : Nat) :
    let e := d.sent t q o key
    e.op? t.id = some { t with phase := .started, num := q.count, input := [o] } ∧
    e.pair true chip x y chan = some { q with count := q.count + 1, tokens := q.tokens.erase q.count } ∧
    (e.qend (dQA t.desc)).sending = (c.qend (dQA t.desc)).sending + 1 ∧ e.out = c.out ∧ e.store = c.store ∧ e.seq = c.seq := by
  intro e
  have hops : d.op? t.id = some t := by
    rw [htaken]
    exact hop
  have hkey := Core.pair_key hpair
  refine ⟨?_, Core.pair_putPair _ hkey, ?_, ?_, ?_, ?_⟩
  · exact (op_setOp _ { t with phase := .started, num := q.count, input := [o] } t hops t.id).trans (if_pos rfl)
  · rw [← hsending]
    exact congrArg QEnd.sending (Core.qend_setQend_self ..)
  all_goals
    rw [show e = d.sent t q o key from rfl, htaken]
    rfl

/-! ### RECV starts (R312) -/

/-- A core whose RECV has reserved its slot and taken the next number of its pair. -/
def Core.awaits (c : Core) (t : TOp) (q : Pair) : Core :=
  let (c, slot) := c.reserve (dQD t.desc) t.seq
  let c := c.putPair { q with count := q.count + 1 }
  c.setOp { t with
    phase := .tokened, num := q.count
    res := { items := [{ q := dQD t.desc, slot := slot, tag := confTag, poison := 0, fmt := 0x0C, nelem := 0, payload := [] }] } }

theorem Core.awaits_leaves {c : Core} {t : TOp} (due : Option Nat) (tick : Nat) (hop : c.op? t.id = some t) {q : Pair} {chip x y chan : Nat}
    (hkey : q.send = false ∧ q.chip = chip ∧ q.x = x ∧ q.y = y ∧ q.chan = chan) (l : List Pair) :
    let e := (({ c with pairs := l } : Core).late due tick).awaits t q
    (∃ r, e.op? t.id = some { t with phase := .tokened, num := q.count, res := r } ∧ r.items.map (·.q) = [dQD t.desc]) ∧
    e.pair false chip x y chan = some { q with count := q.count + 1 } ∧
    (e.qend (dQD t.desc)).slots = (c.qend (dQD t.desc)).slots ++ [.reserved t.seq] ∧ e.out = c.out ∧ e.store = c.store := by
  intro e
  have hlate {γ : Type} (g : Core → γ) (hg : ∀ (c : Core) a v, g (c.setReg a v) = g c) := late_keep g hg { c with pairs := l } due tick
  refine ⟨⟨_, (op_setOp _ { t with phase := .tokened, num := q.count, res := _ } t ?_ t.id).trans (if_pos rfl), rfl⟩,
    Core.pair_putPair _ hkey, ?_, hlate Core.out fun _ _ _ => rfl, hlate Core.store fun _ _ _ => rfl⟩
  · exact (hlate (·.op? t.id) fun _ _ _ => rfl).trans hop
  · refine (congrArg QEnd.slots (Core.qend_setQend_self ..)).trans ?_
    rw [hlate (·.qend (dQD t.desc)) fun _ _ _ => rfl]
    rfl

/-! ### The commands -/

section
variable {s : Chip} {p : Nat} {t : TOp} (hop : (s.core p).op? t.id = some t) (hwaits : t.waits = true)
  (harm : armMet t.arm (s.localTick p) = true) (hfirst : (s.core p).earlierOnPair t = false)
  (hreach : s.reachable (dPChip t.desc) (dPX t.desc) (dPY t.desc) = true)
include hop hwaits harm hfirst hreach

/-- A SEND that holds its token takes its item, which touches the core, and hands at least one packet to the port. -/
theorem sendCmd_sends {q : Pair} (hcode : dOp t.desc = opSEND) (hready : (s.core p).queuesReady t.seq (opPops t.desc) [] = true)
    (hpair : (s.core p).pair true (dPChip t.desc) (dPX t.desc) (dPY t.desc) (dPChan t.desc) = some q)
    (htoken : q.tokens.contains q.count = true)
    (hconf : dPChip t.desc = s.id ∨ tagInv ((s.core p).peek (dQA t.desc)).1.tag = true ∨
      (s.core p).confirmed ((s.core p).peek (dQA t.desc)).1.tag = true) :
    ∃ c o key k ks, ((s.core p).Touches c ∧ c.q = (s.core p).q) ∧ sendCmd s p t.id = (k :: ks).foldl
      (fun s k => s.inject p (dPChip t.desc) (dPX t.desc) (dPY t.desc) k)
      (s.setCore p (((c.late t.due (s.localTick p)).pop (dQA t.desc)).sent t q o key)) := by
  have hfull : (s.core p).pairFull true (dPChip t.desc) (dPX t.desc) (dPY t.desc) (dPChan t.desc) = false := by
    simp [Core.pairFull, hpair]
  have hmay : (!q.tokens.contains q.count || (!tagInv ((s.core p).peek (dQA t.desc)).1.tag && decide (dPChip t.desc ≠ s.id) &&
      !(s.core p).confirmed ((s.core p).peek (dQA t.desc)).1.tag)) = false := by
    rw [htoken]
    rcases hconf with h | h | h <;> simp [h]
  have hgo : ¬ (dOp t.desc ≠ opSEND ∨ (!t.waits || !armMet t.arm (s.localTick p) || !(s.core p).queuesReady t.seq (opPops t.desc) [] ||
      (s.core p).earlierOnPair t) = true) := by
    simp [hcode, hwaits, harm, hready, hfirst]
  simp only [sendCmd, hop, if_neg hgo, hreach, hfull, Core.takePair, hpair, hmay]
  by_cases hinv : tagInv ((s.core p).peek (dQA t.desc)).1.tag = true
  · simp only [hinv]
    exact ⟨_, _, _, _, [], ⟨Core.Touches.refl _, rfl⟩, rfl⟩
  · simp only [hinv]
    refine ⟨((s.core p).readChecked (dQA t.desc)).1, _, _, _, _, ?_, rfl⟩
    unfold Core.readChecked
    dsimp only
    split
    · exact ⟨Core.Touches.raise .., rfl⟩
    · exact ⟨Core.Touches.refl _, rfl⟩

/-- A RECV with room reserves its slot, takes the next number of its pair and hands its ready token to the port. -/
theorem recvCmd_awaits (hcode : dOp t.desc = opRECV) (hready : (s.core p).queuesReady t.seq [] (opPushes t.desc) = true)
    (hroom : (s.core p).pairs.length < 256) :
    let q := (s.core p).recvPair (dPChip t.desc) (dPX t.desc) (dPY t.desc) (dPChan t.desc)
    ∃ l, recvCmd s p t.id = (s.setCore p ((({ s.core p with pairs := l } : Core).late t.due (s.localTick p)).awaits t q)).inject p
      (dPChip t.desc) (dPX t.desc) (dPY t.desc) { ty := 2, chan := dPChan t.desc, seq := q.count } := by
  intro q
  obtain ⟨l, htake⟩ := (s.core p).takePair_recv (dPChip t.desc) (dPX t.desc) (dPY t.desc) (dPChan t.desc)
  have hfull : (s.core p).pairFull false (dPChip t.desc) (dPX t.desc) (dPY t.desc) (dPChan t.desc) = false := by
    simp [Core.pairFull, hroom]
  have hgo : ¬ (dOp t.desc ≠ opRECV ∨ (!t.waits || !armMet t.arm (s.localTick p) || !(s.core p).queuesReady t.seq [] (opPushes t.desc) ||
      (s.core p).earlierOnPair t) = true) := by
    simp [hcode, hwaits, harm, hready, hfirst]
  refine ⟨l, ?_⟩
  simp only [recvCmd, hop, if_neg hgo, hreach, hfull, htake]
  rfl

end

/-! ### The statement -/

/-- Settles O22: a SEND is `Core.sent` and its packets, by `sendCmd_sends`; a RECV is `Core.awaits` and its token, by
`recvCmd_awaits`. -/
theorem messagesFollowReadyTokens : Obligations.MessagesFollowReadyTokens := by
  intro s p t ha hp c hop hwaits harm hfirst hreach
  have hmapped := Chip.mapped_of_reachable hreach
  refine ⟨fun q hcode hready hpair htoken hconf => ?send, fun hcode hready hroom => ?recv⟩
  case send =>
    obtain ⟨b, o, key, k, ks, ⟨htouch, hq⟩, hcmd⟩ := sendCmd_sends hop hwaits harm hfirst hreach hcode hready hpair htoken hconf
    have htaken : c.Touches ((b.late t.due (s.chip.localTick p)).pop (dQA t.desc)) :=
      htouch.trans ((Core.Touches.late ..).trans (Core.Touches.pop ..))
    have hsending : (((b.late t.due (s.chip.localTick p)).pop (dQA t.desc)).qend (dQA t.desc)).sending = (c.qend (dQA t.desc)).sending := by
      rw [Core.sending_pop, late_keep (·.qend (dQA t.desc)) (fun _ _ _ => rfl), Core.qend, hq, ← Core.qend]
    obtain ⟨hmine, hentry, hend, hout, hstore, hseq⟩ := Core.sent_leaves htaken hsending hop hpair o key
    obtain ⟨hsame, l, hlen, hcore⟩ := Chip.foldl_inject p (k :: ks)
      (s := s.chip.setCore p (((b.late t.due (s.chip.localTick p)).pop (dQA t.desc)).sent t q o key)) hmapped
    rw [Chip.core_setCore_self] at hcore
    refine (completes_onlyCore (f := (sendCmd · p t.id)) hp (State.active_core ha) rfl (hcmd ▸ Chip.sameBut_trans (Chip.sameBut_setCore ..) hsame)
      (hcmd ▸ hcore)).imp fun u hu => ⟨State.onlyCore_coreOnly hu, ?_⟩
    have hset := State.onlyCore_settles hu
    refine ⟨⟨[o], (hset.keep (·.op? t.id) fun _ _ => rfl).trans hmine⟩, (hset.keep (·.pair true _ _ _ _) fun _ _ => rfl).trans hentry,
      (congrArg QEnd.sending (hset.qend _)).trans hend, ?_, hset.store.trans hstore, (hset.keep Core.seq fun _ _ => rfl).trans hseq⟩
    rw [hset.keep Core.out fun _ _ => rfl]
    simp [hout, hlen]
  case recv =>
    obtain ⟨l, hcmd⟩ := recvCmd_awaits hop hwaits harm hfirst hreach hcode hready hroom
    rw [Chip.inject_mapped (by exact hmapped)] at hcmd
    obtain ⟨hmine, hentry, hslots, hout, hstore⟩ := Core.awaits_leaves t.due (s.chip.localTick p) hop
      (c.recvPair_key (dPChip t.desc) (dPX t.desc) (dPY t.desc) (dPChan t.desc)) l
    refine (completes_onlyCore (f := (recvCmd · p t.id)) hp (State.active_core ha) rfl
      (hcmd ▸ Chip.sameBut_trans (Chip.sameBut_setCore ..) (Chip.sameBut_onCore ..))
      (hcmd ▸ Chip.core_onCore_self ..)).imp fun u hu => ⟨State.onlyCore_coreOnly hu, ?_⟩
    have hset := State.onlyCore_settles hu
    rw [Chip.core_setCore_self] at hset
    refine ⟨?_, (hset.keep (·.pair false _ _ _ _) fun _ _ => rfl).trans hentry, ?_,
      (congrArg QEnd.slots (hset.qend _)).trans hslots, hset.store.trans hstore⟩
    · obtain ⟨r, hr, hitems⟩ := hmine
      exact ⟨r, (hset.keep (·.op? t.id) fun _ _ => rfl).trans hr, hitems⟩
    · refine ⟨_, (hset.keep Core.out fun _ _ => rfl).trans (congrArg (· ++ _) hout), rfl, rfl, rfl⟩

end Sys2Proof.Machine
end

section
/-!
PROOFS. Packets that arrive at a core (09 R309, R311, R312, R313, R314, R332, R333).

A packet that arrives is taken off its way, and what it does then lies in core p and in packets that this core sends:
`Chip.packetAt` says so of every command here (`completes_packet`), and each effect is a function of core p.
-/
namespace Sys2Proof.Machine

/-! ### A packet arrives -/

/-- Memory and registers of the part are kept, and of the cores but p all but their packets on the way. -/
def Chip.packetAt (s : Chip) (p : Nat) (m : Chip) : Prop :=
  m.hbm = s.hbm ∧ m.cxl = s.cxl ∧ m.regs = s.regs ∧ ∀ q, q ≠ p → ∃ l, m.core q = { s.core q with out := l }

namespace Chip.packetAt

variable {s m : Chip} {p : Nat}

theorem refl (s : Chip) (p : Nat) : s.packetAt p s := ⟨rfl, rfl, rfl, fun _ _ => ⟨_, rfl⟩⟩

theorem of_sameBut {n : Chip} (h : s.packetAt p m) (k : m.sameBut p n) : s.packetAt p n := by
  obtain ⟨hhbm, hcxl, hregs, hcores⟩ := h
  obtain ⟨hothers, hrest⟩ := k
  refine ⟨?_, ?_, ?_, fun q hq => (hothers q hq) ▸ hcores q hq⟩ <;> rw [hrest] <;> assumption

theorem id (h : s.packetAt p m) : m.id = s.id := by
  obtain ⟨-, -, hregs, -⟩ := h
  unfold Chip.id Chip.reg
  rw [hregs]

theorem physOf (h : s.packetAt p m) (x y : Nat) : m.physOf x y = s.physOf x y := by
  obtain ⟨-, -, hregs, -⟩ := h
  unfold Chip.physOf Chip.reg
  rw [hregs]

theorem mapped (h : s.packetAt p m) {chip x y : Nat} (hm : s.mapped chip x y) : m.mapped chip x y := by
  unfold Chip.mapped
  rw [h.id, h.physOf]
  exact hm

theorem arrival {s u : State} {m : Chip} (h : s.chip.packetAt p m) (hpending : u.pending = s.pending)
    (hchip : u.chip = s.chip.settleCore m p) : s.arrival p u := by
  obtain ⟨hhbm, hcxl, hregs, hcores⟩ := h
  refine ⟨hpending, ?_, ?_, ?_, fun q hq => ?_⟩
  · rw [hchip, Chip.settleCore_hbm, hhbm]
  · rw [hchip, Chip.settleCore_cxl, hcxl]
  · rw [hchip, Chip.settleCore_regs, hregs]
  · obtain ⟨l, hl⟩ := hcores q hq
    rw [hchip, Chip.core_settleCore_ne _ _ hq, hl]

end Chip.packetAt

/-- A command that changes core p, and of the others their packets on the way. -/
theorem completes_packet {i : Instr} {s : State} {p : Nat} {c : Core} {post : State → Prop} (f : Chip → Chip) (hp : p < nCores)
    (ha : s.awake) (he : exec i s = s.actCore .core p f) (hat : s.chip.packetAt p (f s.chip)) (hcore : (f s.chip).core p = c)
    (hpost : ∀ u, s.arrival p u → c.SettlesTo (u.chip.core p) → post u) : Completes i s post := by
  refine ⟨_, he.trans (State.actCore_next hp (State.active_core ha) f), hpost _ (hat.arrival rfl rfl) ?_⟩
  show c.SettlesTo ((s.chip.settleCore (f s.chip) p).core p)
  rw [← hcore]
  exact Chip.settleCore_settles ..

theorem Chip.core_taken (s : Chip) (k : Packet) (q : Nat) : ∃ l, (s.taken k).core q = { s.core q with out := l } := by
  unfold Chip.taken
  dsimp only
  split
  · rw [Chip.core_onCore]
    split
    · subst q
      exact ⟨_, rfl⟩
    · exact ⟨_, rfl⟩
  · exact ⟨_, rfl⟩

theorem Chip.packetAt_taken (s : Chip) (p : Nat) (k : Packet) : s.packetAt p (s.taken k) := by
  refine ⟨?_, ?_, ?_, fun q _ => s.core_taken k q⟩ <;> unfold Chip.taken <;> dsimp only <;> split <;> rfl

/-! ### What a packet at its own core does -/

section
variable {i : Instr} {s : State} {p : Nat} {k : Packet} {post : State → Prop}

/-- A packet for a position of core p does `f` once it is taken off its way. -/
theorem completes_arriveAt {P : Core → Prop} (cmd f : Chip → Chip) (hp : p < nCores) (ha : s.awake)
    (hhere : s.chip.physOf k.dx k.dy = some p) (he : exec i s = s.actCore .core p cmd) (hcmd : cmd s.chip = s.chip.arrive p k f)
    (hf : ∀ m l, s.chip.packetAt p m → m.core p = { s.chip.core p with out := l } → s.chip.packetAt p (f m) ∧ P ((f m).core p))
    (hpost : ∀ u d, s.arrival p u → P d → d.SettlesTo (u.chip.core p) → post u) : Completes i s post := by
  obtain ⟨l, hl⟩ := s.chip.core_taken k p
  obtain ⟨hat, hP⟩ := hf _ l (s.chip.packetAt_taken p k) hl
  have harrive : cmd s.chip = f (s.chip.taken k) := hcmd.trans (if_pos hhere)
  rw [← harrive] at hat hP
  exact completes_packet cmd hp ha he hat rfl fun u hu => hpost u _ hu hP

/-- A packet of which core p alone takes notice. -/
theorem completes_arrive {P : Core → Prop} (cmd f : Chip → Chip) (hp : p < nCores) (ha : s.awake)
    (hhere : s.chip.physOf k.dx k.dy = some p) (he : exec i s = s.actCore .core p cmd) (hcmd : cmd s.chip = s.chip.arrive p k f)
    (hf : ∀ m l, s.chip.packetAt p m → m.core p = { s.chip.core p with out := l } → m.sameBut p (f m) ∧ P ((f m).core p))
    (hpost : ∀ u d, s.arrival p u → P d → d.SettlesTo (u.chip.core p) → post u) : Completes i s post := by
  refine completes_arriveAt cmd f hp ha hhere he hcmd (fun m l hat hm => ?_) hpost
  obtain ⟨hsame, hP⟩ := hf m l hat hm
  exact ⟨hat.of_sameBut hsame, hP⟩

/-- What a core that a packet has left alone keeps. -/
def State.discarded (s : State) (p : Nat) (u : State) : Prop :=
  s.arrival p u ∧ (u.chip.core p).store = (s.chip.core p).store ∧ (u.chip.core p).ops = (s.chip.core p).ops ∧
    (s.chip.core p).regsKept (u.chip.core p)

theorem completes_discarded (f : Chip → Chip) (hp : p < nCores) (ha : s.awake) (he : exec i s = s.actCore .core p f)
    (hf : f s.chip = s.chip ∨ f s.chip = s.chip.taken k) : Completes i s (s.discarded p) := by
  have hat : s.chip.packetAt p (f s.chip) := by
    rcases hf with h | h <;> rw [h]
    · exact Chip.packetAt.refl ..
    · exact Chip.packetAt_taken ..
  obtain ⟨l, hl⟩ : ∃ l, (f s.chip).core p = { s.chip.core p with out := l } := by
    rcases hf with h | h <;> rw [h]
    · exact ⟨_, rfl⟩
    · exact s.chip.core_taken k p
  refine completes_packet f hp ha he hat hl fun u hu hset => ⟨hu, hset.store, hset.keep Core.ops fun _ _ => rfl, ?_⟩
  exact fun a hreg => hset.reg hreg

/-- A packet for a position that core p does not hold. -/
theorem completes_elsewhere (cmd f : Chip → Chip) (hp : p < nCores) (ha : s.awake) (haway : s.chip.physOf k.dx k.dy ≠ some p)
    (he : exec i s = s.actCore .core p cmd) (hcmd : cmd s.chip = s.chip ∨ cmd s.chip = s.chip.arrive p k f) :
    Completes i s (s.discarded p) :=
  completes_discarded cmd hp ha he (hcmd.imp_right fun h => h.trans (if_neg haway))

end

/-! ### Messages (R311-R314) -/

/-- The item that a RECV's slot takes of message `k`. -/
def Core.received (c : Core) (t : TOp) (r : OutItem) (k : Packet) (o : OutItem) : OutItem :=
  { o with q := dQD t.desc, slot := r.slot
           tag := if !tagConf o.tag && c.deadAttempt (tagChain o.tag) (tagLayer o.tag) (tagEpoch o.tag) then setInv o.tag else o.tag
           src := BitVec.ofNat 32 (k.sx + k.sy * 2 ^ 4 + k.schip * 2 ^ 8 + k.chan * 2 ^ 20) }

/-- The core once its RECV has committed. -/
def Core.committed (c : Core) (t : TOp) (o : OutItem) : Core := ((c.commitItem o).dropOp t.id).bump rMSG_RECV_CNT 1

theorem Chip.recvCommit_core {m : Chip} {p : Nat} {t : TOp} {r : OutItem} {k : Packet} {o : OutItem} (hitems : t.res.items = [r])
    (hfits : o.payload.length ≤ (m.core p).qbytes (dQD t.desc)) (hmapped : m.mapped k.schip k.sx k.sy) :
    m.sameBut p (m.recvCommit p (m.core p) t k o) ∧ ∃ a : Packet, (a.ty = 12 ∧ a.seq = k.seq ∧ a.chan = k.chan ∧ a.dx = k.sx ∧
      a.dy = k.sy ∧ a.dchip = k.schip) ∧ (m.recvCommit p (m.core p) t k o).core p =
        (let d := (m.core p).committed t ((m.core p).received t r k o); { d with out := d.out ++ [a] }) := by
  have hbig : decide (o.payload.length > (m.core p).qbytes (dQD t.desc)) = false := decide_eq_false (Nat.not_lt.2 hfits)
  generalize hd : (m.core p).committed t ((m.core p).received t r k o) = d
  have hcommit : m.recvCommit p (m.core p) t k o =
      (m.setCore p d).inject p k.schip k.sx k.sy { ty := 12, chan := k.chan, seq := k.seq } := by
    simp only [Chip.recvCommit, hitems, hbig, ← hd]
    rfl
  rw [hcommit, Chip.inject_mapped (by exact hmapped)]
  refine ⟨Chip.sameBut_trans (Chip.sameBut_setCore ..) (Chip.sameBut_onCore ..),
    (m.setCore p d).address p k.schip k.sx k.sy { ty := 12, chan := k.chan, seq := k.seq }, ⟨rfl, rfl, rfl, rfl, rfl, rfl⟩, ?_⟩
  rw [Chip.core_onCore_self, Chip.core_setCore_self]

/-- What a message of packet `k` that RECV `t` takes leaves: the RECV has left the transfer table and is counted, its item is in its
slot, and the delivery is acknowledged. -/
structure MessageTaken (c : Core) (t : TOp) (k : Packet) (o : OutItem) (d : Core) : Prop where
  ops : ∀ x, x ∈ d.ops ↔ x ∈ c.ops ∧ x.id ≠ t.id
  count : d.reg rMSG_RECV_CNT = (c.reg rMSG_RECV_CNT + 1) % 2 ^ 64
  store : d.store = Bytes.wrN c.store (c.slotAddr o.q o.slot) o.bytes
  ack : ∃ l a, d.out = l ++ [a] ∧ a.ty = 12 ∧ a.seq = k.seq ∧ a.chan = k.chan ∧ a.dx = k.sx ∧ a.dy = k.sy ∧ a.dchip = k.schip

theorem MessageTaken.settles {c d e : Core} {t : TOp} {k : Packet} {o : OutItem} (h : MessageTaken c t k o d) (hset : d.SettlesTo e) :
    MessageTaken c t k o e := by
  obtain ⟨hops, hcount, hstore, l, a, hout, hack⟩ := h
  exact ⟨fun x => by rw [hset.keep Core.ops fun _ _ => rfl, hops], (hset.reg (by decide)).trans hcount, hset.store.trans hstore,
    l, a, (hset.keep Core.out fun _ _ => rfl).trans hout, hack⟩

theorem Core.reg_dropOp (c : Core) (id a : Nat) : (c.dropOp id).reg a = c.reg a := rfl

theorem Core.messageTaken_committed (c : Core) (t : TOp) (k : Packet) {o : OutItem} {a : Packet} (l : List Packet)
    (hfits : o.payload.length ≤ c.qbytes o.q) (hack : a.ty = 12 ∧ a.seq = k.seq ∧ a.chan = k.chan ∧ a.dx = k.sx ∧ a.dy = k.sy ∧
      a.dchip = k.schip) : MessageTaken c t k o { c.committed t o with out := l ++ [a] } := by
  have hops : (c.commitItem o).ops = c.ops := Core.commitItem_keep Core.ops (fun _ _ => rfl) c o
  have hcount : (c.commitItem o).reg rMSG_RECV_CNT = c.reg rMSG_RECV_CNT := Core.commitItem_keep (·.reg rMSG_RECV_CNT) (fun _ _ => rfl) c o
  have hstore : (c.commitItem o).store = Bytes.wrN c.store (c.slotAddr o.q o.slot) o.bytes := by
    rw [Core.commitItem_fits c hfits, Core.store_written]
  unfold Core.committed
  generalize c.commitItem o = d at hops hcount hstore
  refine ⟨fun x => ?_, ?_, hstore, l, a, rfl, hack⟩
  · rw [← hops]
    simp [Core.bump, Core.dropOp]
  · rw [← hcount, ← Core.reg_dropOp d t.id]
    exact Core.reg_setReg_self ..

/-- A message that its RECV takes. -/
theorem completes_message {i : Instr} {s : State} {p : Nat} {k : Packet} {t : TOp} {r o : OutItem} (cmd f : Chip → Chip) (hp : p < nCores)
    (ha : s.awake) (hhere : s.chip.physOf k.dx k.dy = some p) (hrecv : (s.chip.core p).recvOf k = some t) (hitems : t.res.items = [r])
    (hmapped : s.chip.mapped k.schip k.sx k.sy) (hfits : o.payload.length ≤ (s.chip.core p).qbytes (dQD t.desc))
    (he : exec i s = s.actCore .core p cmd) (hcmd : cmd s.chip = s.chip.arrive p k f)
    (hf : ∀ m : Chip, (m.core p).recvOf k = some t → f m = m.recvCommit p (m.core p) t k o) :
    Completes i s fun u => s.arrival p u ∧
      MessageTaken (s.chip.core p) t k ((s.chip.core p).received t r k o) (u.chip.core p) := by
  refine completes_arrive (P := MessageTaken (s.chip.core p) t k ((s.chip.core p).received t r k o)) cmd f hp ha hhere he hcmd
    (fun m l hat hm => ?_) fun u d hu hd hset => ⟨hu, hd.settles hset⟩
  rw [hf m (by rw [hm]; exact hrecv)]
  obtain ⟨hsame, a, hack, hcore⟩ := Chip.recvCommit_core (p := p) (o := o) hitems (by rw [hm]; exact hfits) (hat.mapped hmapped)
  refine ⟨hsame, ?_⟩
  rw [hcore, hm]
  obtain ⟨hops, hcount, hstore, hout⟩ := Core.messageTaken_committed { s.chip.core p with out := l } t k
    (({ s.chip.core p with out := l } : Core).committed t ((s.chip.core p).received t r k o)).out
    (o := (s.chip.core p).received t r k o) hfits hack
  exact ⟨hops, hcount, hstore, hout⟩

/-- A packet for a position of core p changes this core by `g` once it is taken off its way. -/
theorem completes_arriveOn {i : Instr} {s : State} {p : Nat} {k : Packet} {post : State → Prop} (cmd : Chip → Chip) (g : Core → Core)
    (hp : p < nCores) (ha : s.awake) (hhere : s.chip.physOf k.dx k.dy = some p) (he : exec i s = s.actCore .core p cmd)
    (hcmd : cmd s.chip = s.chip.arrive p k fun m => m.onCore p g)
    (hpost : ∀ u l, s.arrival p u → (g { s.chip.core p with out := l }).SettlesTo (u.chip.core p) → post u) : Completes i s post := by
  refine completes_arrive (P := fun d => ∃ l, d = g { s.chip.core p with out := l }) cmd _ hp ha hhere he hcmd
    (fun m l _ hm => ⟨Chip.sameBut_onCore .., l, ?_⟩) fun u d hu hd hset => ?_
  · rw [Chip.core_onCore_self, hm]
  · obtain ⟨l, rfl⟩ := hd
    exact hpost u l hu hset

/-- Core p becomes `d`, but for packets that it sends. -/
def Chip.leaves (m : Chip) (p : Nat) (d : Core) (n : Chip) : Prop := m.sameBut p n ∧ ∃ l, n.core p = { d with out := l }

/-- A packet for a position of core p changes this core by `g`, which sends packets, once it is taken off its way. -/
theorem completes_arriveLeaves {i : Instr} {s : State} {p : Nat} {k : Packet} {post : State → Prop} (cmd f : Chip → Chip) (g : Core → Core)
    (hp : p < nCores) (ha : s.awake) (hhere : s.chip.physOf k.dx k.dy = some p) (he : exec i s = s.actCore .core p cmd)
    (hcmd : cmd s.chip = s.chip.arrive p k f) (hg : ∀ (c : Core) (l : List Packet), g { c with out := l } = { g c with out := l })
    (hf : ∀ m : Chip, m.leaves p (g (m.core p)) (f m))
    (hpost : ∀ u l, s.arrival p u → ({ g (s.chip.core p) with out := l } : Core).SettlesTo (u.chip.core p) → post u) :
    Completes i s post := by
  refine completes_arrive (P := fun d => ∃ l, d = { g (s.chip.core p) with out := l }) cmd f hp ha hhere he hcmd
    (fun m l _ hm => ?_) fun u d hu hd hset => ?_
  · obtain ⟨hsame, l', hcore⟩ := hf m
    rw [hm, hg] at hcore
    exact ⟨hsame, l', hcore⟩
  · obtain ⟨l, rfl⟩ := hd
    exact hpost u l hu hset

/-- The core once a ready token is kept with its pair, or beside the table (R313, R315). -/
def Core.keepsToken (c : Core) (k : Packet) : Core :=
  match c.pair true k.schip k.sx k.sy k.chan with
  | some q => c.putPair { q with tokens := q.tokens ++ [k.seq] }
  | none => { c with loose := c.loose ++ [msgKey k.schip k.sx k.sy k.chan (k.seq % 2 ^ 32)] }

theorem Core.keepsToken_some {c : Core} {k : Packet} {q : Pair} (h : c.pair true k.schip k.sx k.sy k.chan = some q) :
    c.keepsToken k = c.putPair { q with tokens := q.tokens ++ [k.seq] } := by
  rw [Core.keepsToken, h]

theorem Core.keepsToken_none {c : Core} {k : Packet} (h : c.pair true k.schip k.sx k.sy k.chan = none) :
    c.keepsToken k = { c with loose := c.loose ++ [msgKey k.schip k.sx k.sy k.chan (k.seq % 2 ^ 32)] } := by
  rw [Core.keepsToken, h]

theorem Core.store_keepsToken (c : Core) (k : Packet) : (c.keepsToken k).store = c.store := by
  unfold Core.keepsToken
  split <;> rfl

/-! ### Packets that a barrier's home sends (R332) -/

/-- A packet that core p sends is all that changes. -/
theorem Chip.inject_out (s : Chip) (p chip x y : Nat) (k : Packet) : s.sameBut p (s.inject p chip x y k) ∧
    ∃ l, (s.inject p chip x y k).core p = { s.core p with out := l } := by
  unfold Chip.inject
  split
  · exact ⟨Chip.sameBut_refl p s, _, rfl⟩
  · exact ⟨Chip.sameBut_onCore s p _, _, Chip.core_onCore_self s p _⟩

theorem Chip.foldl_inject_out {β : Type} (p : Nat) (chip x y : β → Nat) (k : β → Packet) (bs : List β) : ∀ s : Chip,
    let m := bs.foldl (fun s b => s.inject p (chip b) (x b) (y b) (k b)) s
    s.sameBut p m ∧ ∃ l, m.core p = { s.core p with out := l } := by
  induction bs with
  | nil => exact fun s => ⟨Chip.sameBut_refl p s, _, rfl⟩
  | cons b bs ih =>
    intro s
    obtain ⟨hsame, l, hl⟩ := s.inject_out p (chip b) (x b) (y b) (k b)
    obtain ⟨hsame', l', hl'⟩ := ih (s.inject p (chip b) (x b) (y b) (k b))
    exact ⟨Chip.sameBut_trans hsame hsame', l', by rw [List.foldl_cons, hl', hl]⟩

/-- Core `d` sends each mapped member in `ms` the completion of generation `g`. -/
def Chip.Told (s : Chip) (ms : List Nat) (b g : Nat) (out : List Packet) : Prop :=
  ∀ m ∈ ms, (s.physOf (m % 16) (m / 16)).isSome = true → ∃ a ∈ out,
    a.ty = 8 ∧ a.seq = g ∧ a.chan = b ∧ a.dx = m % 16 ∧ a.dy = m / 16 ∧ a.dchip = s.id

theorem Chip.packetAt.told {s m : Chip} {p b g : Nat} {ms : List Nat} {out : List Packet} (h : s.packetAt p m)
    (ht : m.Told ms b g out) : s.Told ms b g out := by
  simp only [Chip.Told, h.id, h.physOf] at ht
  exact ht

theorem Chip.foldl_tells (p b g : Nat) (ms : List Nat) : ∀ s : Chip,
    let m := ms.foldl (fun s n => s.inject p s.id (n % 16) (n / 16) (barPacket 8 b g false)) s
    s.sameBut p m ∧ ∃ l, m.core p = { s.core p with out := (s.core p).out ++ l } ∧ s.Told ms b g l := by
  induction ms with
  | nil => exact fun s => ⟨Chip.sameBut_refl p s, [], by simp, fun _ h => absurd h List.not_mem_nil⟩
  | cons n ms ih =>
    intro s
    obtain ⟨hsame, hcore⟩ := s.inject_self p (n % 16) (n / 16) (barPacket 8 b g false)
    obtain ⟨hsame', l, hl, htold⟩ := ih (s.inject p s.id (n % 16) (n / 16) (barPacket 8 b g false))
    have hback := ((Chip.packetAt.refl s p).of_sameBut hsame).told htold
    rw [hcore] at hl
    refine ⟨Chip.sameBut_trans hsame hsame', ?_⟩
    rw [List.foldl_cons, hl]
    by_cases hmapped : (s.physOf (n % 16) (n / 16)).isSome = true
    · refine ⟨s.address p s.id (n % 16) (n / 16) (barPacket 8 b g false) :: l, by simp [Core.sends, hmapped], fun m hm hmap => ?_⟩
      rcases List.mem_cons.1 hm with rfl | hm
      · exact ⟨_, List.mem_cons_self, rfl, rfl, rfl, rfl, rfl, rfl⟩
      · obtain ⟨a, ha, hrest⟩ := hback m hm hmap
        exact ⟨a, List.mem_cons_of_mem _ ha, hrest⟩
    · refine ⟨l, by simp [Core.sends, hmapped], fun m hm hmap => ?_⟩
      rcases List.mem_cons.1 hm with rfl | hm
      · exact absurd hmap hmapped
      · exact hback m hm hmap

/-- A home tells its members. -/
theorem Chip.barTell_tells (s : Chip) (p b g : Nat) : s.sameBut p (s.barTell p b g) ∧
    ∃ l, (s.barTell p b g).core p = { s.core p with out := l } ∧ s.Told (barMembers (s.core p) b) b g l := by
  obtain ⟨hsame, l, hcore, htold⟩ := Chip.foldl_tells p b g (barMembers (s.core p) b) s
  refine ⟨hsame, _, hcore, fun m hm hmap => ?_⟩
  obtain ⟨a, ha, hrest⟩ := htold m hm hmap
  exact ⟨a, List.mem_append_right _ ha, hrest⟩

/-! ### Barrier packets arrive (R332, R333) -/

/-- What an arrival leaves of barrier `b` of its home `c`, and of what the home sends. -/
structure ArrivalCounted (s : Chip) (c : Core) (k : Packet) (b : Nat) (x : Barrier) (out : List Packet) : Prop where
  member : k.tag ≠ 1 → let n := NatMap.rd (c.barrier b).local_ k.seq + 1
    NatMap.rd x.local_ k.seq = (if n ≥ field (barCfg c b) 8 9 then 0 else n) ∧
      (n ≥ field (barCfg c b) 8 9 → field (barCfg c b) 32 13 = 1 → s.Told (barMembers c b) b k.seq out)
  part : k.tag = 1 → NatMap.rd x.parts k.seq =
    (let n := NatMap.rd (c.barrier b).parts k.seq + 1; if n ≥ field (barCfg c b) 32 13 then 0 else n)

theorem ArrivalCounted.of_packetAt {s m : Chip} {p : Nat} {c : Core} {k : Packet} {b : Nat} {x : Barrier} {l out : List Packet}
    (hat : s.packetAt p m) (h : ArrivalCounted m { c with out := l } k b x out) : ArrivalCounted s c k b x out := by
  obtain ⟨hmember, hpart⟩ := h
  refine ⟨fun htag => ?_, hpart⟩
  obtain ⟨hcount, htold⟩ := hmember htag
  exact ⟨hcount, fun hlast hone => hat.told (htold hlast hone)⟩

/-- A home's barrier changes, and then the home sends. -/
theorem Chip.setBarrier_then (m : Chip) (p b : Nat) (x : Barrier) {n : Chip}
    (h : let m' := m.setCore p ((m.core p).setBarrier b x)
      m'.sameBut p n ∧ ∃ l, n.core p = { m'.core p with out := l }) :
    m.sameBut p n ∧ ∃ l, n.core p = { (m.core p).setBarrier b x with out := l } := by
  obtain ⟨hsame, l, hl⟩ := h
  rw [Chip.core_setCore_self] at hl
  exact ⟨Chip.sameBut_trans (Chip.sameBut_setCore ..) hsame, l, hl⟩

/-- BARRIER_ARRIVAL at a home. -/
theorem barrierArrivalCmd_counts (s : Chip) (p : Nat) (k : Packet) : ∃ f : Chip → Chip, barrierArrivalCmd s p k = s.arrive p k f ∧
    ∀ m, m.sameBut p (f m) ∧ ∃ x l, (f m).core p = { (m.core p).setBarrier (k.chan % 16) x with out := l } ∧
      ArrivalCounted m (m.core p) k (k.chan % 16) x l := by
  refine ⟨_, rfl, fun m => ?_⟩
  generalize hb : k.chan % 16 = b
  dsimp only
  by_cases htag : k.tag = 1
  · rw [if_pos htag]
    have hpart {n : Nat} {x : Barrier} {l : List Packet} (h : NatMap.rd x.parts k.seq = n)
        (hn : n = (let n := NatMap.rd ((m.core p).barrier b).parts k.seq + 1
          if n ≥ field (barCfg (m.core p) b) 32 13 then 0 else n)) : ArrivalCounted m (m.core p) k b x l :=
      ⟨fun h => absurd htag h, fun _ => h.trans hn⟩
    split
    · rename_i hlast
      obtain ⟨hsame, l, hl⟩ := m.setBarrier_then p b _ (Chip.foldl_inject_out p _ _ _ (fun _ => barPacket 8 b k.seq true) _ _)
      exact ⟨hsame, _, l, hl, hpart (by simp only [NatMap.rd_wr_self]) (if_pos hlast).symm⟩
    · rename_i hlast
      exact ⟨Chip.sameBut_setCore .., _, _, Chip.core_setCore_self .., hpart (by simp only [NatMap.rd_wr_self]) (if_neg hlast).symm⟩
  · rw [if_neg htag]
    split
    · rename_i hlast
      split
      · obtain ⟨hsame, l, hl, htold⟩ := Chip.barTell_tells (m.setCore p ((m.core p).setBarrier b
          { (m.core p).barrier b with local_ := NatMap.wr ((m.core p).barrier b).local_ k.seq 0 })) p b k.seq
        rw [Chip.core_setCore_self] at hl htold
        exact ⟨Chip.sameBut_trans (Chip.sameBut_setCore ..) hsame, _, l, hl,
          fun _ => ⟨by simp only [NatMap.rd_wr_self, if_pos hlast], fun _ _ => htold⟩, fun h => absurd h htag⟩
      · rename_i hone
        obtain ⟨hsame, l, hl⟩ := m.setBarrier_then p b _ (Chip.inject_out ..)
        exact ⟨hsame, _, l, hl, fun _ => ⟨by simp only [NatMap.rd_wr_self, if_pos hlast], fun _ h => absurd h hone⟩,
          fun h => absurd h htag⟩
    · rename_i hlast
      exact ⟨Chip.sameBut_setCore .., _, _, Chip.core_setCore_self ..,
        fun _ => ⟨by simp only [NatMap.rd_wr_self, if_neg hlast], fun h => absurd h hlast⟩, fun h => absurd h htag⟩

theorem rBAR_STAT_ne_rDVT_PREF_CNT {b : Nat} (hb : b < 16) : rBAR_STAT b ≠ rDVT_PREF_CNT := by
  unfold rBAR_STAT rDVT_PREF_CNT
  omega

theorem Core.reg_setBarrier (c : Core) (b : Nat) (x : Barrier) (a : Nat) : (c.setBarrier b x).reg a = c.reg a := rfl

/-- A member's barrier once generation `g` is complete: its held arrival four on is sent, and a notice that waits for it fires. -/
def Barrier.completed (x : Barrier) (g : Nat) : Barrier :=
  let fired := x.fired || x.notice.any fun n => decide (n ≤ g)
  { x with held := x.held.erase (g + 4), fired := fired, notice := if fired then none else x.notice }

/-- A core with BAR_STAT `b` as `v` and barrier `b` as `x`. -/
def Core.setBar (c : Core) (b v : Nat) (x : Barrier) : Core := (c.setReg (rBAR_STAT b) v).setBarrier b x

theorem Core.setBar_out (c : Core) (b v : Nat) (x : Barrier) (l : List Packet) :
    ({ c with out := l } : Core).setBar b v x = { c.setBar b v x with out := l } := rfl

theorem Core.reg_setBar (c : Core) (b v : Nat) (x : Barrier) : (c.setBar b v x).reg (rBAR_STAT b) = v := by
  rw [Core.setBar, Core.reg_setBarrier, Core.reg_setReg_self]

/-- A member's core once generation `g` of barrier `b` is complete. -/
def Core.completed (c : Core) (b g : Nat) : Core :=
  c.setBar b (Sys2Proof.setField (c.reg (rBAR_STAT b)) 32 32 (g + 1)) ((c.barrier b).completed g)

theorem Core.completed_out (c : Core) (b g : Nat) (l : List Packet) :
    ({ c with out := l } : Core).completed b g = { c.completed b g with out := l } := by
  have hreg : ({ c with out := l } : Core).reg (rBAR_STAT b) = c.reg (rBAR_STAT b) := rfl
  have hbar : ({ c with out := l } : Core).barrier b = c.barrier b := rfl
  rw [Core.completed, Core.setBar_out, hreg, hbar, ← Core.completed]

theorem Core.completed_leaves (c : Core) {b g : Nat} (hg : g + 1 < 2 ^ 32) :
    (c.completed b g).store = c.store ∧ barDone (c.completed b g) b = g + 1 ∧ barArr (c.completed b g) b = barArr c b ∧
    ((c.barrier b).notice.any (fun n => decide (n ≤ g)) = true → ((c.completed b g).barrier b).fired = true) := by
  refine ⟨?_, ?_, ?_, fun hnotice => ?_⟩
  · rw [Core.completed, Core.setBar, Core.setBarrier_store, Core.setReg_store]
  · rw [barDone, Core.completed, Core.reg_setBar, field_setField, Nat.mod_eq_of_lt hg]
  · rw [barArr, Core.completed, Core.reg_setBar, field_setField_below _ _ _ _ _ _ (by decide), barArr]
  · rw [Core.completed, Core.setBar, Core.barrier_setBarrier]
    simp [Barrier.completed, hnotice]

theorem Core.SettlesTo.barrier {d e : Core} {l : List Packet} (hset : ({ d with out := l } : Core).SettlesTo e) {b : Nat} (hb : b < 16) :
    e.store = d.store ∧ barDone e b = barDone d b ∧ barArr e b = barArr d b ∧ e.barrier b = d.barrier b := by
  have hreg : e.reg (rBAR_STAT b) = d.reg (rBAR_STAT b) := hset.reg (rBAR_STAT_ne_rDVT_PREF_CNT hb)
  refine ⟨hset.store, ?_, ?_, hset.keep (·.barrier b) fun _ _ => rfl⟩
  · rw [barDone, hreg, ← barDone]
  · rw [barArr, hreg, ← barArr]

/-- A generation above the member's next one waits. -/
theorem barrierCompletionCmd_early {s : Chip} {p : Nat} {k : Packet} (hhere : s.physOf k.dx k.dy = some p) (htag : k.tag ≠ 1)
    (hearly : barDone (s.core p) (k.chan % 16) < k.seq) : barrierCompletionCmd s p k = s := by
  rw [barrierCompletionCmd, if_pos ⟨hhere, htag, hearly⟩]

/-- BARRIER_COMPLETION from the global home. -/
theorem barrierCompletionCmd_home {s : Chip} {p : Nat} {k : Packet} (htag : k.tag = 1) :
    ∃ f : Chip → Chip, barrierCompletionCmd s p k = s.arrive p k f ∧ ∀ m, f m = m.barTell p (k.chan % 16) k.seq :=
  ⟨_, if_neg fun h => h.2.1 htag, fun _ => if_pos htag⟩

theorem Chip.leaves_barSend (m : Chip) (p b n : Nat) (d : Core) (c : Prop) [Decidable c] :
    m.leaves p d (if c then (m.setCore p d).barSend p b n else m.setCore p d) := by
  split
  · obtain ⟨hsame, l, hl⟩ := Chip.inject_out (m.setCore p d) p _ _ _ _
    rw [Chip.core_setCore_self] at hl
    exact ⟨Chip.sameBut_trans (Chip.sameBut_setCore ..) hsame, l, hl⟩
  · exact ⟨Chip.sameBut_setCore .., _, Chip.core_setCore_self ..⟩

/-- BARRIER_COMPLETION at a member. -/
theorem barrierCompletionCmd_member {s : Chip} {p : Nat} {k : Packet} (htag : k.tag ≠ 1)
    (hdone : k.seq ≤ barDone (s.core p) (k.chan % 16)) : ∃ f : Chip → Chip, barrierCompletionCmd s p k = s.arrive p k f ∧
    ∀ m : Chip, m.leaves p ((m.core p).completed (k.chan % 16) k.seq) (f m) := by
  refine ⟨_, by rw [barrierCompletionCmd, if_neg fun h => absurd h.2.2 (Nat.not_lt.2 hdone)], fun m => ?_⟩
  rw [if_neg htag]
  cases h : ((m.core p).barrier (k.chan % 16)).notice with
  | none =>
    simp only [Core.completed, Core.setBar, Barrier.completed, h, Option.any_none]
    exact Chip.leaves_barSend ..
  | some n =>
    simp only [Core.completed, Core.setBar, Barrier.completed, h, Option.any_some]
    exact Chip.leaves_barSend ..

/-! ### What the packets of R309-R314, R332 and R333 do -/

theorem dataMessageCmd_inOrder {s : Chip} {p : Nat} {k : Packet} (h : (s.core p).inOrder k = true) :
    ∃ f : Chip → Chip, dataMessageCmd s p k false = s.arrive p k f ∧ ∀ (m : Chip) (t : TOp), (m.core p).recvOf k = some t →
      f m = m.recvCommit p (m.core p) t k { itemOfBytes k.payload with tag := k.tag, poison := k.poison } :=
  ⟨_, if_neg (by simp [h]), fun m t ht => by simp [ht]⟩

theorem voidMessageCmd_inOrder {s : Chip} {p : Nat} {k : Packet} (h : (s.core p).inOrder k = true) :
    ∃ f : Chip → Chip, voidMessageCmd s p k = s.arrive p k f ∧ ∀ (m : Chip) (t : TOp), (m.core p).recvOf k = some t →
      f m = m.recvCommit p (m.core p) t k
        { q := 0, slot := 0, tag := setInv k.tag, poison := k.poison, fmt := 0x0C, nelem := 0, payload := [] } :=
  ⟨_, if_neg (by simp [h]), fun m t ht => by simp only [ht]⟩

/-- A data or void message, a ready token and an acknowledgement, each at the core that it is for. -/
theorem messages_take_effect (s : State) (p : Nat) (k : Packet) (ha : s.awake) (hp : p < nCores)
    (hhere : s.chip.physOf k.dx k.dy = some p) :
    let c := s.chip.core p
    (∀ t r, c.inOrder k = true → c.recvOf k = some t → t.res.items = [r] → s.chip.mapped k.schip k.sx k.sy →
      ∀ x ∈ [(Instr.dataMessage p k false, { itemOfBytes k.payload with tag := k.tag, poison := k.poison }),
        (.voidMessage p k, { q := 0, slot := 0, tag := setInv k.tag, poison := k.poison, fmt := 0x0C, nelem := 0, payload := [] })],
      x.2.payload.length ≤ c.qbytes (dQD t.desc) →
      Completes x.1 s fun u => s.arrival p u ∧ MessageTaken c t k (c.received t r k x.2) (u.chip.core p)) ∧
    (Completes (.readyToken p k) s fun u => s.arrival p u ∧
      ∃ l, (({ c with out := l } : Core).keepsToken k).SettlesTo (u.chip.core p)) ∧
    (Completes (.deliveryAck p k) s fun u => s.arrival p u ∧
      (u.chip.core p).owed = c.owed.filter fun o => o.2 ≠ msgKey k.schip k.sx k.sy k.chan k.seq) := by
  intro c
  refine ⟨fun t r hord hrecv hitems hmapped => ?_, ?_, ?_⟩
  · obtain ⟨f, hcmd, hf⟩ := dataMessageCmd_inOrder hord
    obtain ⟨g, hcmd', hg⟩ := voidMessageCmd_inOrder hord
    refine List.forall_mem_cons.2 ⟨fun hfits => ?_, List.forall_mem_cons.2 ⟨fun hfits => ?_, fun _ h => absurd h List.not_mem_nil⟩⟩
    · exact completes_message _ f hp ha hhere hrecv hitems hmapped hfits rfl hcmd fun m => hf m t
    · exact completes_message _ g hp ha hhere hrecv hitems hmapped hfits rfl hcmd' fun m => hg m t
  · refine completes_arriveOn _ (·.keepsToken k) hp ha hhere rfl rfl fun u l hu hset => ⟨hu, l, hset⟩
  · refine completes_arriveOn _ _ hp ha hhere rfl rfl fun u l hu hset => ⟨hu, ?_⟩
    exact hset.keep Core.owed fun _ _ => rfl

theorem messages_elsewhere (s : State) (p : Nat) (k : Packet) (ha : s.awake) (hp : p < nCores) (haway : s.chip.physOf k.dx k.dy ≠ some p) :
    ∀ i ∈ [Instr.dataMessage p k false, .voidMessage p k, .readyToken p k, .deliveryAck p k, .barrierArrival p k, .barrierCompletion p k,
      .storeWrite p k, .storeReadRequest p k, .storeReadResponse p k, .storeWriteAck p k], Completes i s (s.discarded p) := by
  have haway' {i : Instr} (cmd f : Chip → Chip) (he : exec i s = s.actCore .core p cmd)
      (hcmd : cmd s.chip = s.chip ∨ cmd s.chip = s.chip.arrive p k f) : Completes i s (s.discarded p) :=
    completes_elsewhere cmd f hp ha haway he hcmd
  have hmessage (f : Chip → Chip) : (if !(s.chip.core p).inOrder k then s.chip else s.chip.arrive p k f) = s.chip ∨
      (if !(s.chip.core p).inOrder k then s.chip else s.chip.arrive p k f) = s.chip.arrive p k f := by
    split
    · exact .inl rfl
    · exact .inr rfl
  simp only [List.forall_mem_cons]
  refine ⟨haway' _ _ rfl (hmessage _), haway' _ _ rfl (hmessage _), haway' _ _ rfl (.inr rfl), haway' _ _ rfl (.inr rfl),
    haway' _ _ rfl (.inr rfl), haway' _ _ rfl (.inr (if_neg fun h => haway h.1)), haway' _ _ rfl (.inr rfl), haway' _ _ rfl (.inr rfl),
    haway' _ _ rfl (.inr rfl), haway' _ _ rfl (.inr rfl), fun _ h => absurd h List.not_mem_nil⟩

/-- A barrier's arrivals and completions at its home and members. -/
theorem barriers_take_effect (s : State) (p : Nat) (k : Packet) (ha : s.awake) (hp : p < nCores)
    (hhere : s.chip.physOf k.dx k.dy = some p) (hseq : k.seq + 1 < 2 ^ 32) :
    let c := s.chip.core p
    let b := k.chan % 16
    (Completes (.barrierArrival p k) s fun u => s.arrival p u ∧ (u.chip.core p).store = c.store ∧ c.regsKept (u.chip.core p) ∧
      ArrivalCounted s.chip c k b ((u.chip.core p).barrier b) (u.chip.core p).out) ∧
    (k.tag ≠ 1 → barDone c b < k.seq → Completes (.barrierCompletion p k) s fun u => s.arrival p u ∧ (u.chip.core p).store = c.store ∧
      c.regsKept (u.chip.core p) ∧ (u.chip.core p).barrier b = c.barrier b) ∧
    (k.tag = 1 → Completes (.barrierCompletion p k) s fun u => s.arrival p u ∧ (u.chip.core p).store = c.store ∧
      c.regsKept (u.chip.core p) ∧ s.chip.Told (barMembers c b) b k.seq (u.chip.core p).out) ∧
    (k.tag ≠ 1 → k.seq ≤ barDone c b → Completes (.barrierCompletion p k) s fun u => s.arrival p u ∧
      (u.chip.core p).store = c.store ∧ barDone (u.chip.core p) b = k.seq + 1 ∧ barArr (u.chip.core p) b = barArr c b ∧
      ((c.barrier b).notice.any (fun g => decide (g ≤ k.seq)) = true → ((u.chip.core p).barrier b).fired = true)) := by
  intro c b
  refine ⟨?arrival, fun htag hearly => ?early, fun htag => ?home, fun htag hdone => ?member⟩
  case arrival =>
    obtain ⟨f, hcmd, hf⟩ := barrierArrivalCmd_counts s.chip p k
    refine completes_arrive (P := fun d => ∃ x l, d = { c.setBarrier b x with out := l } ∧ ArrivalCounted s.chip c k b x l) _ f hp ha
      hhere rfl hcmd (fun m l hat hm => ?_) ?_
    · obtain ⟨hsame, x, l', hcore, hcounted⟩ := hf m
      rw [hm] at hcore hcounted
      exact ⟨hsame, x, l', hcore, hcounted.of_packetAt hat⟩
    · rintro u d hu ⟨x, l, rfl, hcounted⟩ hset
      refine ⟨hu, hset.store, fun a => hset.reg, ?_⟩
      rw [hset.keep (·.barrier b) fun _ _ => rfl, hset.keep Core.out fun _ _ => rfl]
      exact (c.barrier_setBarrier b x).symm ▸ hcounted
  case early =>
    refine completes_packet (fun m => barrierCompletionCmd m p k) hp ha rfl ?_ (c := c) ?_ fun u hu hset => ⟨hu, hset.store, fun a => hset.reg, ?_⟩
    · rw [barrierCompletionCmd_early hhere htag hearly]
      exact Chip.packetAt.refl ..
    · rw [barrierCompletionCmd_early hhere htag hearly]
    · exact hset.keep (·.barrier b) fun _ _ => rfl
  case home =>
    obtain ⟨f, hcmd, hf⟩ := barrierCompletionCmd_home (s := s.chip) (p := p) htag
    refine completes_arrive (P := fun d => ∃ l, d = { c with out := l } ∧ s.chip.Told (barMembers c b) b k.seq l) _ f hp ha hhere rfl hcmd
      (fun m l hat hm => ?_) ?_
    · obtain ⟨hsame, l', hcore, htold⟩ := m.barTell_tells p b k.seq
      rw [hm] at hcore htold
      rw [hf]
      exact ⟨hsame, l', hcore, hat.told htold⟩
    · rintro u d hu ⟨l, rfl, htold⟩ hset
      refine ⟨hu, hset.store, fun a => hset.reg, ?_⟩
      rw [hset.keep Core.out fun _ _ => rfl]
      exact htold
  case member =>
    obtain ⟨f, hcmd, hf⟩ := barrierCompletionCmd_member htag hdone
    refine completes_arriveLeaves _ f (·.completed b k.seq) hp ha hhere rfl hcmd (Core.completed_out · b k.seq) hf fun u l hu hset => ?_
    obtain ⟨hstore, hdone', harr, hbar⟩ := hset.barrier (b := b) (Nat.mod_lt _ (by decide))
    rw [hstore, hdone', harr, hbar]
    exact ⟨hu, c.completed_leaves hseq⟩

/-- Settles O39: each packet is taken off its way (`completes_arrive`), and its effect is a change of core p (`messages_take_effect`,
`barriers_take_effect`); one for another position is only taken (`messages_elsewhere`). -/
theorem messagesArrive : Obligations.MessagesArrive := by
  refine ⟨fun s p k ha hp hhere => ?messages, fun s p k ha hp haway => ?elsewhere, fun s p k ha hp hhere hseq => ?barriers⟩
  case messages =>
    obtain ⟨hmessage, htoken, hack⟩ := messages_take_effect s p k ha hp hhere
    refine ⟨fun t r hord hrecv hitems hmapped x hx hfits => ?_, htoken.imp fun u => ?_, hack⟩
    · refine (hmessage t r hord hrecv hitems hmapped x hx hfits).imp fun u hu => ?_
      obtain ⟨harrival, hops, hcount, hstore, hout⟩ := hu
      exact ⟨harrival, fun o ho => ((hops o).1 ho).2, fun o ho hne => (hops o).2 ⟨ho, hne⟩, hcount, hstore, hout⟩
    · rintro ⟨hu, l, hset⟩
      refine ⟨hu, hset.store.trans (Core.store_keepsToken ..), fun q hq => ?_, fun hnone => ?_⟩
      · rw [Core.keepsToken_some (by exact hq)] at hset
        exact (hset.keep (·.pair true k.schip k.sx k.sy k.chan) fun _ _ => rfl).trans (Core.pair_putPair _ (Core.pair_key (q := q) hq))
      · rw [Core.keepsToken_none (by exact hnone)] at hset
        exact ⟨hset.keep Core.pairs fun _ _ => rfl, hset.keep Core.loose fun _ _ => rfl⟩
  case elsewhere => exact messages_elsewhere s p k ha hp haway
  case barriers =>
    obtain ⟨harrival, hearly, hhome, hmember⟩ := barriers_take_effect s p k ha hp hhere hseq
    refine ⟨harrival.imp fun u hu => ?_, hearly, fun hnext => ?_⟩
    · obtain ⟨hu, hstore, hregs, hlocal, hpart⟩ := hu
      exact ⟨hu, hstore, hregs, hlocal, hpart⟩
    · by_cases htag : k.tag = 1
      · refine (hhome htag).imp fun u hu => ?_
        obtain ⟨hu, hstore, hregs, htold⟩ := hu
        exact ⟨hu, hstore, fun _ => ⟨htold, hregs⟩, fun h => absurd htag h⟩
      · refine (hmember htag (hnext.resolve_left htag)).imp fun u hu => ?_
        obtain ⟨hu, hstore, hdone⟩ := hu
        exact ⟨hu, hstore, fun h => absurd h htag, fun _ => hdone⟩

end Sys2Proof.Machine
end

section
/-!
PROOFS. Transfers with other cores' stores, and routing (09 R303, R304, R307, R308, R316).

Requests and answers are packets that arrive at a core, as in 09 R309 above. A gather or MOV whose last line has come goes on with the
data of its ranges: its reads leave all of the part but what they count (`Chip.reads`), and then it starts (`Chip.goesOn`).
-/
namespace Sys2Proof.Machine

/-! ### Requests (R316) -/

/-- A packet for a position of core p changes this core by `g`, and packet `a` answers it. -/
theorem completes_arriveAnswers {i : Instr} {s : State} {p : Nat} {k : Packet} {post : State → Prop} (cmd : Chip → Chip) (g : Core → Core)
    (a : Core → Packet) (hp : p < nCores) (ha : s.awake) (hhere : s.chip.physOf k.dx k.dy = some p)
    (hmapped : s.chip.mapped k.schip k.sx k.sy) (he : exec i s = s.actCore .core p cmd)
    (hcmd : cmd s.chip = s.chip.arrive p k fun m => (m.onCore p g).inject p k.schip k.sx k.sy (a (m.core p)))
    (hpost : ∀ u l m, s.arrival p u → (let c : Core := { s.chip.core p with out := l }
      ({ g c with out := (g c).out ++ [Chip.address m p k.schip k.sx k.sy (a c)] } : Core).SettlesTo (u.chip.core p)) → post u) :
    Completes i s post := by
  refine completes_arrive (P := fun d => ∃ l m, d = (let c : Core := { s.chip.core p with out := l }
    { g c with out := (g c).out ++ [Chip.address m p k.schip k.sx k.sy (a c)] })) cmd _ hp ha hhere he hcmd
    (fun m l hat hm => ?_) fun u d hu hd hset => ?_
  · have hmap : (m.onCore p g).mapped k.schip k.sx k.sy := by exact hat.mapped hmapped
    rw [Chip.inject_mapped hmap]
    refine ⟨Chip.sameBut_trans (Chip.sameBut_onCore ..) (Chip.sameBut_onCore ..), l, m.onCore p g, ?_⟩
    rw [Chip.core_onCore_self, Chip.core_onCore_self, hm]
  · obtain ⟨l, m, rfl⟩ := hd
    exact hpost u l m hu hset

theorem Core.store_unitRd (c : Core) (a n : Nat) : (c.unitRd a n).store = c.store := congrArg (·.2.1) (opKey_unitRd c a n)
theorem Core.ops_unitRd (c : Core) (a n : Nat) : (c.unitRd a n).ops = c.ops := congrArg (·.1) (opKey_unitRd c a n)

/-- A store write lands, and a store read is answered with its lines. -/
theorem storeRequests_complete (s : State) (p : Nat) (k : Packet) (ha : s.awake) (hp : p < nCores)
    (hhere : s.chip.physOf k.dx k.dy = some p) (hmapped : s.chip.mapped k.schip k.sx k.sy) :
    let c := s.chip.core p
    (Completes (.storeWrite p k) s fun u => s.arrival p u ∧ (u.chip.core p).store = Bytes.wrN c.store (k.addr % 2 ^ 22) k.payload ∧
      (u.chip.core p).ops = c.ops ∧ ∃ l a, (u.chip.core p).out = l ++ [a] ∧ a.ty = 4 ∧ a.seq = k.seq ∧ a.dx = k.sx ∧ a.dy = k.sy) ∧
    (Completes (.storeReadRequest p k) s fun u => s.arrival p u ∧ (u.chip.core p).store = c.store ∧ (u.chip.core p).ops = c.ops ∧
      ∃ l a, (u.chip.core p).out = l ++ [a] ∧ a.ty = 6 ∧ a.seq = k.seq ∧ a.payload = Bytes.rdN c.store (k.addr % 2 ^ 22) (64 * k.lenf)) := by
  intro c
  constructor
  · refine completes_arriveAnswers _ (·.unitWr (k.addr % 2 ^ 22) k.payload) (fun _ => { ty := 4, seq := k.seq }) hp ha hhere hmapped rfl rfl
      fun u l m hu hset => ⟨hu, hset.store, hset.keep Core.ops fun _ _ => rfl, _, _, hset.keep Core.out fun _ _ => rfl, ?_⟩
    exact ⟨rfl, rfl, rfl, rfl⟩
  · refine completes_arriveAnswers _ (·.unitRd (k.addr % 2 ^ 22) (64 * k.lenf)) (fun c => {
        ty := 6, seq := k.seq, lenf := k.lenf, addr := k.addr, payload := Bytes.rdN c.store (k.addr % 2 ^ 22) (64 * k.lenf)
        poison := if c.upsetIn (0x400000 + k.addr % 2 ^ 22) (64 * k.lenf) then poisonR else 0 }) hp ha hhere hmapped rfl rfl
      fun u l m hu hset => ⟨hu, ?_, ?_, _, _, hset.keep Core.out fun _ _ => rfl, ?_⟩
    · exact hset.store.trans (Core.store_unitRd ..)
    · exact (hset.keep Core.ops fun _ _ => rfl).trans (Core.ops_unitRd ..)
    · exact ⟨rfl, rfl, rfl⟩

/-! ### Acknowledgements and responses (R316) -/

theorem Core.op_id {c : Core} {id : Nat} {t : TOp} (hop : c.op? id = some t) : t.id = id := by
  simpa using List.find?_some hop

theorem Core.op_setOp_found {c : Core} {id : Nat} {t y : TOp} (hop : c.op? id = some t) (hid : y.id = t.id) :
    (c.setOp y).op? id = some y := by
  obtain rfl := Core.op_id hop
  exact (op_setOp c y t (hid ▸ hop) t.id).trans (if_pos hid.symm)

/-- The core once a line of operation `id` is acknowledged. -/
def Core.acked (c : Core) (id line : Nat) : Core :=
  match c.op? id with
  | none => c
  | some t => match t.phase with
    | .acks left =>
      let rest := left.erase line
      c.setOp { t with phase := if rest.isEmpty then .started else .acks rest }
    | _ => c

theorem Core.acked_waits {c : Core} {id line : Nat} {t : TOp} {l : List Nat} (hop : c.op? id = some t) (hphase : t.phase = .acks l) :
    c.acked id line = c.setOp { t with phase := if (l.erase line).isEmpty then .started else .acks (l.erase line) } := by
  simp only [Core.acked, hop, hphase]

theorem storeWriteAck_completes (s : State) (p : Nat) (k : Packet) (ha : s.awake) (hp : p < nCores)
    (hhere : s.chip.physOf k.dx k.dy = some p) {t : TOp} {l : List Nat} (hop : (s.chip.core p).op? (k.seq % 64) = some t)
    (hphase : t.phase = .acks l) : Completes (.storeWriteAck p k) s fun u => s.arrival p u ∧
      (u.chip.core p).op? (k.seq % 64) = some { t with phase := if (l.erase (k.seq / 64)).isEmpty then .started else .acks (l.erase (k.seq / 64)) } ∧
      (u.chip.core p).store = (s.chip.core p).store := by
  refine completes_arriveOn _ (fun c => c.acked (k.seq % 64) (k.seq / 64)) hp ha hhere rfl rfl fun u m hu hset => ?_
  rw [Core.acked_waits (by exact hop) hphase] at hset
  exact ⟨hu, (hset.keep (·.op? (k.seq % 64)) fun _ _ => rfl).trans (Core.op_setOp_found (t := t) hop rfl), hset.store⟩

theorem Chip.packetAt.trans {s m n : Chip} {p : Nat} (h : s.packetAt p m) (h' : m.packetAt p n) : s.packetAt p n := by
  obtain ⟨hhbm, hcxl, hregs, hcores⟩ := h
  obtain ⟨hhbm', hcxl', hregs', hcores'⟩ := h'
  refine ⟨hhbm'.trans hhbm, hcxl'.trans hcxl, hregs'.trans hregs, fun q hq => ?_⟩
  obtain ⟨l, hl⟩ := hcores q hq
  obtain ⟨l', hl'⟩ := hcores' q hq
  exact ⟨l', by rw [hl', hl]⟩

/-- A core that reads for an operation in memory and in its own store: nothing else changes but what reads count. -/
def Chip.reads (s : Chip) (p : Nat) (m : Chip) : Prop := s.packetAt p m ∧ opKey (m.core p) = opKey (s.core p)

namespace Chip.reads

variable {s m n : Chip} {p : Nat}

theorem of_kept (hcores : ∀ q, q ≠ p → m.core q = s.core q) (hhbm : m.hbm = s.hbm) (hcxl : m.cxl = s.cxl) (hregs : m.regs = s.regs)
    (hkey : opKey (m.core p) = opKey (s.core p)) : s.reads p m := ⟨⟨hhbm, hcxl, hregs, fun q hq => ⟨_, hcores q hq⟩⟩, hkey⟩

theorem refl (s : Chip) (p : Nat) : s.reads p s := ⟨.refl s p, rfl⟩

theorem trans (h : s.reads p m) (h' : m.reads p n) : s.reads p n := ⟨h.1.trans h'.1, h'.2.trans h.2⟩

theorem poisonEvent (s : Chip) (p a : Nat) : s.reads p (s.poisonEvent a) := by
  obtain ⟨hcores, hhbm⟩ := s.poisonEvent_kept a
  refine of_kept (fun q _ => hcores q) hhbm ?_ ?_ (congrArg opKey (hcores p)) <;> unfold Chip.poisonEvent <;> split <;> rfl

theorem useSpans (s : Chip) (p : Nat) (rs : List Span) : s.reads p (s.useSpans p rs) :=
  of_kept (fun _ => Chip.useSpans_core_ne rs p s) (Chip.useSpans_hbm rs p s)
    (Chip.useSpans_keep rs p Chip.cxl (Chip.hbmUse_keep Chip.cxl (fun _ _ => rfl) fun _ _ => rfl) (fun _ _ _ => rfl) s)
    (Chip.useSpans_keep rs p Chip.regs (Chip.hbmUse_keep Chip.regs (fun _ _ => rfl) fun _ _ => rfl) (fun _ _ _ => rfl) s)
    (Chip.useSpans_opKey rs p s)

end Chip.reads

/-- Operation `t`, with its reads done, has started with one item for the slot of `i`. -/
def Chip.goesOn (s : Chip) (p : Nat) (t : TOp) (i : OutItem) (m : Chip) : Prop :=
  s.packetAt p m ∧ ∃ d o, m.core p = d.started t { items := [o] } ∧ opKey d = opKey (s.core p) ∧ o.q = i.q ∧ o.slot = i.slot

theorem Chip.reads.goesOn {s m : Chip} {p : Nat} (h : s.reads p m) {t : TOp} {i o : OutItem} {d : Core} (hkey : opKey d = opKey (m.core p))
    (ho : o.q = i.q ∧ o.slot = i.slot) : s.goesOn p t i (m.setCore p (d.started t { items := [o] })) := by
  obtain ⟨hat, hkey'⟩ := h
  exact ⟨hat.of_sameBut (Chip.sameBut_setCore ..), d, o, Chip.core_setCore_self .., hkey.trans hkey', ho⟩

theorem igthGo_goesOn (s : Chip) (p : Nat) {t : TOp} {i : OutItem} (hitems : t.res.items = [i]) : s.goesOn p t i (igthGo s p t) := by
  have hdone {e : Chip} (he : s.reads p e) (bs : List Byte) (lost : Bool) :
      s.goesOn p t i ((e.useSpans p (readSpans t.desc)).setCore p (igthDone ((e.useSpans p (readSpans t.desc)).core p) t bs lost)) := by
    unfold igthDone
    rw [hitems]
    exact (he.trans (.useSpans ..)).goesOn rfl ⟨rfl, rfl⟩
  unfold igthGo
  dsimp only
  split
  · exact hdone (.poisonEvent ..) _ _
  · exact hdone (.refl ..) _ _

theorem zeroOut_slot (c : Core) (q s f m n e : Nat) (t : Word) (p : BitVec 2) : (c.zeroOut q s f m n e t p).slot = s := by
  unfold Core.zeroOut
  dsimp only
  split <;> rfl

theorem movItem_slot (c : Core) {t : TOp} {i : OutItem} (hitems : t.res.items = [i]) (m : MovData) (bad : Bool) (tag : Word) (sp : BitVec 2) :
    (movItem c t m bad tag sp).q = i.q ∧ (movItem c t m bad tag sp).slot = i.slot := by
  unfold movItem
  rw [hitems]
  dsimp only [List.headD]
  split
  · exact ⟨zeroOut_q .., zeroOut_slot ..⟩
  · exact ⟨rfl, rfl⟩

theorem movFinish_goesOn {s m : Chip} {p : Nat} (h : s.reads p m) {t : TOp} {i : OutItem} (hitems : t.res.items = [i]) (hqueue : movDstQ t.desc = true)
    (codes : List Byte) (exps : List Nat) (lost preBad : Bool) : s.goesOn p t i (movFinish m p t codes exps lost preBad) := by
  unfold movFinish
  dsimp only
  rw [if_pos hqueue]
  refine h.goesOn ?_ (movItem_slot _ hitems ..)
  have hraise (c : Core) (bad nonfinite : Bool) :
      opKey (if bad = true then c.raise evFormat 0 else if nonfinite = true then c.raise evNonFinite 0 else c) = opKey c := by
    split
    · exact opKey_raise ..
    · exact opKey_ifRaise ..
  have hclamp (c : Core) (b : Bool) (uf sat : Nat) : opKey (if b = true then c else c.clamp uf sat 0) = opKey c := by
    split
    · rfl
    · exact opKey_clamp ..
  exact (hclamp ..).trans (hraise ..)

theorem movGo_goesOn (s : Chip) (p : Nat) {t : TOp} {i : OutItem} (hitems : t.res.items = [i]) (hqueue : movDstQ t.desc = true) :
    s.goesOn p t i (movGo s p t) := by
  unfold movGo
  dsimp only
  split
  · exact movFinish_goesOn ((Chip.reads.poisonEvent ..).trans (.useSpans ..)) hitems hqueue ..
  · exact movFinish_goesOn (.useSpans ..) hitems hqueue ..

/-- Operation `t` once line `n` of what it waits for has come in packet `k`. -/
def TOp.lineCame (t : TOp) (k : Packet) (l : List Nat) : TOp :=
  let g := (remotePlan t.desc).getD (k.seq / 64) { x := 0, y := 0, o := 0, n := 0, at_ := 0 }
  { t with buf := Bytes.wrN t.buf g.at_ ((k.payload.drop (g.o % 64)).take g.n), bufBad := t.bufBad || decide (k.poison ≠ 0)
           phase := .remote (l.erase (k.seq / 64)) }

/-- A gather or a MOV goes on once its last line has come. -/
def Chip.lastLine (s : Chip) (p : Nat) (t : TOp) : Chip := if dOp t.desc = opIGTH then igthGo s p t else movGo s p t

theorem Chip.lastLine_goesOn (s : Chip) (p : Nat) {t : TOp} {i : OutItem} (hitems : t.res.items = [i])
    (hkind : dOp t.desc = opIGTH ∨ movDstQ t.desc = true) : s.goesOn p t i (s.lastLine p t) := by
  unfold Chip.lastLine
  split
  · exact igthGo_goesOn s p hitems
  · rename_i hmov
    exact movGo_goesOn s p hitems (hkind.resolve_left hmov)

/-- STORE_READ_RESPONSE for a line that operation `t` waits for. -/
theorem storeReadResponseCmd_comes (s : Chip) (p : Nat) (k : Packet) : ∃ f : Chip → Chip, storeReadResponseCmd s p k = s.arrive p k f ∧
    ∀ (m : Chip) (t : TOp) (l : List Nat), (m.core p).op? (k.seq % 64) = some t → t.phase = .remote l → l.contains (k.seq / 64) = true →
      (l.erase (k.seq / 64) ≠ [] → f m = m.onCore p fun c => c.setOp (t.lineCame k l)) ∧
      (l.erase (k.seq / 64) = [] → f m = (m.onCore p fun c => c.setOp (t.lineCame k l)).lastLine p (t.lineCame k l)) := by
  refine ⟨_, rfl, fun m t l hop hphase hwaits => ?_⟩
  simp only [hop, hphase, hwaits]
  rw [if_neg (by decide : ¬ (!true) = true)]
  refine ⟨fun h => if_pos ?_, fun h => if_neg ?_⟩
  · simpa using h
  · simp [h]

theorem storeReadResponse_completes (s : State) (p : Nat) (k : Packet) (ha : s.awake) (hp : p < nCores)
    (hhere : s.chip.physOf k.dx k.dy = some p) {t : TOp} {l : List Nat} (hop : (s.chip.core p).op? (k.seq % 64) = some t)
    (hphase : t.phase = .remote l) (hwaits : l.contains (k.seq / 64) = true) :
    (l.erase (k.seq / 64) ≠ [] → Completes (.storeReadResponse p k) s fun u => s.arrival p u ∧
      (u.chip.core p).store = (s.chip.core p).store ∧ (u.chip.core p).op? (k.seq % 64) = some (t.lineCame k l)) ∧
    (∀ i, l.erase (k.seq / 64) = [] → t.res.items = [i] → (dOp t.desc = opIGTH ∨ movDstQ t.desc = true) →
      Completes (.storeReadResponse p k) s fun u => s.arrival p u ∧ (u.chip.core p).store = (s.chip.core p).store ∧
        ∃ r o, (u.chip.core p).op? (k.seq % 64) = some { t.lineCame k l with phase := .started, res := r } ∧
          r.items = [o] ∧ o.q = i.q ∧ o.slot = i.slot) := by
  obtain ⟨f, hcmd, hf⟩ := storeReadResponseCmd_comes s.chip p k
  constructor
  · intro hmore
    refine completes_arrive (P := fun d => d.op? (k.seq % 64) = some (t.lineCame k l) ∧ d.store = (s.chip.core p).store) _ f hp ha hhere rfl
      hcmd (fun m out hat hm => ?_) fun u d hu hd hset => ?_
    · have hmop : (m.core p).op? (k.seq % 64) = some t := by rw [hm]; exact hop
      rw [(hf m t l hmop hphase hwaits).1 hmore]
      refine ⟨Chip.sameBut_onCore .., ?_⟩
      rw [Chip.core_onCore_self]
      exact ⟨Core.op_setOp_found hmop rfl, by rw [hm]; rfl⟩
    · exact ⟨hu, hset.store.trans hd.2, (hset.keep (·.op? (k.seq % 64)) fun _ _ => rfl).trans hd.1⟩
  · intro i hlast hitems hkind
    refine completes_arriveAt (P := fun d => d.store = (s.chip.core p).store ∧ ∃ r o,
      d.op? (k.seq % 64) = some { t.lineCame k l with phase := .started, res := r } ∧ r.items = [o] ∧ o.q = i.q ∧ o.slot = i.slot)
      _ f hp ha hhere rfl hcmd (fun m out hat hm => ?_) fun u d hu hd hset => ?_
    · have hmop : (m.core p).op? (k.seq % 64) = some t := by rw [hm]; exact hop
      have hgo := (m.onCore p fun c => c.setOp (t.lineCame k l)).lastLine_goesOn p (t := t.lineCame k l) hitems hkind
      rw [(hf m t l hmop hphase hwaits).2 hlast]
      obtain ⟨hat', d, o, hcore, hkey, hq, hslot⟩ := hgo
      rw [Chip.core_onCore_self] at hkey
      have hfound : d.op? t.id = some (t.lineCame k l) := by
        rw [op_of_opKey hkey, Core.op_id hmop]
        exact Core.op_setOp_found hmop rfl
      have hstore : d.store = (s.chip.core p).store := (congrArg (·.2.1) hkey).trans (by rw [hm]; rfl)
      refine ⟨(hat.of_sameBut (Chip.sameBut_onCore ..)).trans hat', ?_⟩
      rw [hcore]
      obtain ⟨hst, -⟩ := rest_started d (t.lineCame k l) { items := [o] }
      refine ⟨hst.trans hstore, _, o.hurtBy t.hurt, (op_started d (t.lineCame k l) _ _ hfound _).trans (if_pos (Core.op_id hmop).symm),
        resultOf_item .., ?_, ?_⟩
      · exact (OutItem.hurtBy_keep OutItem.q (fun _ _ => rfl) o _).trans hq
      · exact (OutItem.hurtBy_keep OutItem.slot (fun _ _ => rfl) o _).trans hslot
    · obtain ⟨hstore, r, o, hop', ho⟩ := hd
      exact ⟨hu, hset.store.trans hstore, r, o, (hset.keep (·.op? (k.seq % 64)) fun _ _ => rfl).trans hop', ho⟩

/-! ### Routing (R303, R304, R307, R308) -/

/-- Routing leaves memory, and the stores and registers of the cores. -/
def Chip.routed (s m : Chip) : Prop := m.hbm = s.hbm ∧ ∀ q, (m.core q).store = (s.core q).store ∧ (m.core q).regs = (s.core q).regs

/-- No packet waits at a port of a link. -/
def Chip.portsEmpty (s : Chip) : Prop := ∀ f ∈ s.flying, f.1 = atPort → f.2.dstop < 17 ∨ 24 < f.2.dstop

theorem Chip.routed_refl (s : Chip) : s.routed s := ⟨rfl, fun _ => ⟨rfl, rfl⟩⟩

theorem Chip.routed_count (s : Chip) (r k n : Nat) : s.routed (s.onCore r fun c => c.count k n) := by
  refine ⟨rfl, fun q => ?_⟩
  rw [Chip.core_onCore]
  split
  · subst q
    exact ⟨rfl, rfl⟩
  · exact ⟨rfl, rfl⟩

theorem Chip.routed_taken (s : Chip) (k : Packet) : s.routed (s.taken k) := by
  obtain ⟨hhbm, -⟩ := s.packetAt_taken 0 k
  refine ⟨hhbm, fun q => ?_⟩
  obtain ⟨l, hl⟩ := s.core_taken k q
  rw [hl]
  exact ⟨rfl, rfl⟩

theorem Chip.routed.trans {s m n : Chip} (h : s.routed m) (h' : m.routed n) : s.routed n := by
  obtain ⟨hhbm, hcores⟩ := h
  obtain ⟨hhbm', hcores'⟩ := h'
  refine ⟨hhbm'.trans hhbm, fun q => ?_⟩
  obtain ⟨hstore, hregs⟩ := hcores q
  obtain ⟨hstore', hregs'⟩ := hcores' q
  exact ⟨hstore'.trans hstore, hregs'.trans hregs⟩

theorem Chip.flying_taken (s : Chip) (k : Packet) : (s.taken k).flying = s.flying.filter fun f => f.2 ≠ k := by
  unfold Chip.taken
  dsimp only
  split <;> rfl

theorem Chip.regs_taken (s : Chip) (k : Packet) : (s.taken k).regs = s.regs := by
  obtain ⟨-, -, hregs, -⟩ := s.packetAt_taken 0 k
  exact hregs

theorem Chip.portsEmpty_taken {s : Chip} (h : s.portsEmpty) (k : Packet) : (s.taken k).portsEmpty := by
  unfold Chip.portsEmpty
  rw [Chip.flying_taken]
  exact fun f hf => h f (List.mem_of_mem_filter hf)

/-- A packet with a credit for the next router of its route is there, and nowhere else. -/
theorem Chip.onward_forwards {s : Chip} {r n : Nat} {k : Packet} (hnext : nextRouter r k = some n) (hcredit : s.credit n k = true)
    (hn : n < nCores) (hports : s.portsEmpty) : s.routed (s.onward r k k) ∧ (n, k) ∈ (s.onward r k k).flying ∧
      (s.onward r k k).regs = s.regs ∧ (s.onward r k k).portsEmpty := by
  have hmove : s.onward r k k = { s.taken k with flying := (s.taken k).flying ++ [(n, k)] } := by
    simp only [Chip.onward, hnext, hcredit, if_true]
  rw [hmove]
  refine ⟨Chip.routed.trans (Chip.routed_taken s k) (Chip.routed_refl _), List.mem_append_right _ List.mem_cons_self,
    Chip.regs_taken s k, fun f hf => ?_⟩
  rcases List.mem_append.1 hf with hf | hf
  · exact Chip.portsEmpty_taken hports k f hf
  · obtain rfl := List.mem_singleton.1 hf
    exact fun h => absurd (h ▸ hn : atPort < nCores) (by decide)

/-- A packet goes onto a link only from a port. -/
theorem packetForwardLinkCmd_eq {s : Chip} {r : Nat} {k : Packet} {e : FlitCheck} (h : (packetForwardCmd s r k e).portsEmpty) :
    packetForwardLinkCmd s r k e = packetForwardCmd s r k e := by
  have hnone : (packetForwardCmd s r k e).flying.find? (fun f => decide (f.1 = atPort) && decide (17 ≤ f.2.dstop) &&
      decide (f.2.dstop ≤ 24)) = none := by
    refine List.find?_eq_none.2 fun f hf hport => ?_
    simp only [Bool.and_eq_true, decide_eq_true_eq] at hport
    obtain ⟨⟨hat, hlow⟩, hhigh⟩ := hport
    have := h f hf hat
    omega
  unfold packetForwardLinkCmd
  simp only [hnone]

theorem Chip.field_countTo (s : Chip) (a lo n : Nat) : field ((s.countTo a lo n).reg a) lo n = min (field (s.reg a) lo n + 1) (2 ^ n - 1) := by
  have hpos : 0 < 2 ^ n := Nat.two_pow_pos n
  rw [Chip.countTo, Chip.setField, Chip.reg_setReg_self, field_setField, Nat.mod_eq_of_lt (by omega)]

theorem bitOf_add_two_pow {x i : Nat} (h : x < 2 ^ i) : bitOf (x + 2 ^ i) i = true := by
  have hbit := bitOf_add_mul (x := 1) (k := i) h
  rw [Nat.one_mul, if_neg (Nat.lt_irrefl i), Nat.sub_self] at hbit
  exact hbit

/-- The first discard's record is valid, and stays so. -/
theorem Chip.recordDiscard_valid (s : Chip) {r : Nat} (hr : r < nCores) (ty : Nat) {cause : Nat} (hcause : cause < 16) :
    bitOf ((s.recordDiscard r ty cause).reg rFAB_ERR) 63 = true := by
  have hlow : colOf r + rowOf r * 2 ^ 4 + ty % 16 * 2 ^ 9 + cause * 2 ^ 13 < 2 ^ 63 := by
    unfold nCores at hr
    unfold colOf rowOf
    omega
  have hbit := bitOf_add_two_pow hlow
  unfold Chip.recordDiscard
  dsimp only
  split
  · rename_i hvalid
    rw [Chip.setField, Chip.reg_setReg_self, bitOf_setField_above (by decide)]
    exact hvalid
  · rw [Chip.reg_setReg_self]
    exact hbit

theorem Chip.recordDiscard_counts (s : Chip) (r ty cause : Nat) :
    (s.recordDiscard r ty cause).reg rFAB_ERR_CNT = (s.countTo rFAB_ERR_CNT 32 32).reg rFAB_ERR_CNT := by
  have hother : rFAB_ERR_CNT ≠ rFAB_ERR := by decide
  unfold Chip.recordDiscard
  dsimp only
  split
  · rw [Chip.setField, Chip.reg_setReg, if_neg hother]
  · rw [Chip.reg_setReg, if_neg hother]

/-- Whatever reads no register of the part reads past a record. -/
theorem Chip.recordDiscard_keep {γ : Type} (g : Chip → γ) (hg : ∀ (s : Chip) a v, g (s.setReg a v) = g s) (s : Chip) (r ty cause : Nat) :
    g (s.recordDiscard r ty cause) = g s := by
  unfold Chip.recordDiscard
  dsimp only
  split
  · rw [Chip.setField, hg, Chip.countTo, Chip.setField, hg]
  · rw [hg, Chip.countTo, Chip.setField, hg]

theorem Chip.reg_raise (s : Chip) (ev inst detail a : Nat) : (s.raise ev inst detail).reg a = s.reg a := rfl

theorem Chip.routed_raise (s : Chip) (ev inst detail : Nat) : s.routed (s.raise ev inst detail) := ⟨rfl, fun _ => ⟨rfl, rfl⟩⟩

theorem Chip.reg_taken (s : Chip) (k : Packet) (a : Nat) : (s.taken k).reg a = s.reg a := by
  rw [Chip.reg, Chip.regs_taken, ← Chip.reg]

/-- A discard takes the packet off its way. -/
theorem Chip.discard_taken {s : Chip} {r : Nat} {k : Packet} (hports : s.portsEmpty) (ty cause : Nat) :
    s.routed ((s.taken k).discard r ty cause) ∧ ((s.taken k).discard r ty cause).portsEmpty := by
  have hhbm := Chip.recordDiscard_keep Chip.hbm (fun _ _ _ => rfl) (s.taken k) r ty cause
  have hcore (q : Nat) := Chip.recordDiscard_keep (·.core q) (fun _ _ _ => rfl) (s.taken k) r ty cause
  have hflying := Chip.recordDiscard_keep Chip.flying (fun _ _ _ => rfl) (s.taken k) r ty cause
  unfold Chip.discard
  generalize (s.taken k).recordDiscard r ty cause = m at hhbm hcore hflying
  have hrecord : (s.taken k).routed m := ⟨hhbm, fun q => by rw [hcore]; exact ⟨rfl, rfl⟩⟩
  refine ⟨(Chip.routed_taken s k).trans (hrecord.trans (Chip.routed_raise ..)), ?_⟩
  unfold Chip.portsEmpty
  rw [Chip.raise_flying, hflying]
  exact Chip.portsEmpty_taken hports k

section
variable {s : State} {r : Nat} {k : Packet} {e : FlitCheck} {post : State → Prop} (ha : s.awake) (hr : r < nCores)
include ha hr

theorem completes_packetForward (hports : (packetForwardCmd s.chip r k e).portsEmpty)
    (hpost : ∀ u : State, u.chip = packetForwardCmd s.chip r k e → post u) : Completes (.packetForward r k e) s post := by
  obtain ⟨hup, hhold⟩ := ha
  refine ⟨_, State.actUnit_next hr (State.active_held hup) _, hpost _ ?_⟩
  dsimp only
  rw [hhold, Bool.false_and, if_neg Bool.false_ne_true, packetForwardLinkCmd_eq hports]

/-- A router forwards the oldest packet of a virtual channel. -/
theorem packetForward_forwards {n : Nat} (hn : n < nCores) (hold : s.chip.oldestAt r k = true) (hports : s.chip.portsEmpty)
    (hnext : nextRouter r k = some n) (hcredit : s.chip.credit n k = true) (hbyp : s.chip.bypassed r = false)
    (hclass : typeClass k.ty = some k.cls) (he : e ∈ [FlitCheck.clean, .corrected]) : Completes (.packetForward r k e) s fun u =>
      s.chip.routed u.chip ∧ (n, k) ∈ u.chip.flying ∧ (e = .corrected →
        field (u.chip.reg rFAB_ERR_CNT) 0 32 = min (field (s.chip.reg rFAB_ERR_CNT) 0 32 + 1) (2 ^ 32 - 1)) := by
  set m := if e == .corrected then s.chip.countTo rFAB_ERR_CNT 0 32 else s.chip with hm
  have hcmd : packetForwardCmd s.chip r k e = (m.onCore r fun c => c.count mFlit (1 + k.lenf)).onward r k k := by
    have hin : ¬ (r ≥ nCores ∨ (!s.chip.oldestAt r k) = true) := by simp [hold, hr]
    unfold packetForwardCmd
    rw [if_neg hin, if_neg (by simp [hbyp])]
    simp only [List.mem_cons, List.not_mem_nil, or_false] at he
    rcases he with rfl | rfl <;> simp [hclass, hnext, hcredit, hm]
  have hmports : m.portsEmpty ∧ s.chip.routed m ∧ m.credit n k = true ∧
      (e = .corrected → field (m.reg rFAB_ERR_CNT) 0 32 = min (field (s.chip.reg rFAB_ERR_CNT) 0 32 + 1) (2 ^ 32 - 1)) := by
    rw [hm]
    split
    · exact ⟨hports, Chip.routed_refl _, hcredit, fun _ => Chip.field_countTo ..⟩
    · rename_i hclean
      exact ⟨hports, Chip.routed_refl _, hcredit, fun h => absurd (by simp [h]) hclean⟩
  obtain ⟨hmports, hmrouted, hmcredit, hcount⟩ := hmports
  obtain ⟨hrouted, hthere, hregs, hports'⟩ := Chip.onward_forwards (s := m.onCore r fun c => c.count mFlit (1 + k.lenf))
    hnext hmcredit hn hmports
  rw [← hcmd] at hrouted hthere hregs hports'
  refine completes_packetForward ha hr hports' fun u hu => ?_
  rw [hu]
  refine ⟨hmrouted.trans ((Chip.routed_count ..).trans hrouted), hthere, fun he => ?_⟩
  rw [Chip.reg, hregs]
  exact hcount he

/-- A bypassed router is a pair of wires. -/
theorem packetForward_bypassed {n : Nat} (hn : n < nCores) (hold : s.chip.oldestAt r k = true) (hports : s.chip.portsEmpty)
    (hnext : nextRouter r k = some n) (hcredit : s.chip.credit n k = true) (hbyp : s.chip.bypassed r = true)
    (hstraight : turnsAt r k = false) : Completes (.packetForward r k e) s fun u =>
      s.chip.routed u.chip ∧ (n, k) ∈ u.chip.flying ∧ u.chip.regs = s.chip.regs := by
  have hcmd : packetForwardCmd s.chip r k e = s.chip.onward r k k := by
    unfold packetForwardCmd
    rw [if_neg (by simp [hold, hr]), if_pos hbyp, if_neg (by simp [hstraight])]
  obtain ⟨hrouted, hthere, hregs, hports'⟩ := Chip.onward_forwards hnext hcredit hn hports
  rw [← hcmd] at hrouted hthere hregs hports'
  refine completes_packetForward ha hr hports' fun u hu => ?_
  rw [hu]
  exact ⟨hrouted, hthere, hregs⟩

/-- A packet whose header has a double-bit error is discarded. -/
theorem packetForward_discards (hold : s.chip.oldestAt r k = true) (hports : s.chip.portsEmpty)
    (hbyp : s.chip.bypassed r = false) : Completes (.packetForward r k .headerDouble) s fun u => s.chip.routed u.chip ∧
      bitOf (u.chip.reg rFAB_ERR) 63 = true ∧
      field (u.chip.reg rFAB_ERR_CNT) 32 32 = min (field (s.chip.reg rFAB_ERR_CNT) 32 32 + 1) (2 ^ 32 - 1) := by
  have hcmd : packetForwardCmd s.chip r k .headerDouble = (s.chip.taken k).discard r 0 1 := by
    unfold packetForwardCmd
    rw [if_neg (by simp [hold, hr]), if_neg (by simp [hbyp])]
  obtain ⟨hrouted, hports'⟩ := Chip.discard_taken hports 0 1 (r := r) (k := k)
  rw [← hcmd] at hrouted hports'
  refine completes_packetForward ha hr hports' fun u hu => ?_
  rw [hu]
  refine ⟨hrouted, ?_⟩
  rw [hcmd, Chip.discard, Chip.reg_raise, Chip.reg_raise, Chip.recordDiscard_counts, Chip.field_countTo, Chip.reg_taken]
  exact ⟨Chip.recordDiscard_valid _ hr 0 (by decide), rfl⟩

end

/-- Settles O40: a request changes core p and is answered (`completes_arriveAnswers`), an acknowledgement or a response takes its line off
what its operation waits for (`storeWriteAck_completes`, `storeReadResponse_completes`), and a router forwards or discards
(`packetForward_forwards`, `packetForward_bypassed`, `packetForward_discards`). -/
theorem storeTransfersAndRouting : Obligations.StoreTransfersAndRouting := by
  refine ⟨fun s p k ha hp hhere => ⟨storeRequests_complete s p k ha hp hhere, fun t l => storeWriteAck_completes s p k ha hp hhere,
    fun t l => storeReadResponse_completes s p k ha hp hhere⟩, fun s r n k ha hr hn hold hports => ⟨fun hnext hcredit => ⟨?_, ?_⟩, ?_⟩⟩
  · exact fun hbyp hclass e he => packetForward_forwards ha hr hn hold hports hnext hcredit hbyp hclass he
  · exact fun hbyp hstraight e => packetForward_bypassed ha hr hn hold hports hnext hcredit hbyp hstraight
  · exact packetForward_discards ha hr hold hports

end Sys2Proof.Machine
end

section
/-!
PROOFS. What commands of the job leave alone, and what the steps of a job do (09 R326; 12 R434, R436, R445; 14 R480).

Most of what the job's commands do lies in registers, in the cores, and in what VCF, the accountant and the snapshot engine keep. A
reading of the part that is apart from all of these (`Apart`) passes them by; the job itself, the fault collectors and the memory are
such readings.
-/
namespace Sys2Proof.Machine

/-- `g` reads no register, no core, and nothing that VCF, the accountant, the snapshot engine, the log or the pins keep. -/
structure Apart {γ : Type} (g : Chip → γ) : Prop where
  regs : ∀ (s : Chip) x, g { s with regs := x } = g s
  cores : ∀ (s : Chip) x, g { s with cores := x } = g s
  vcf : ∀ (s : Chip) x, g { s with vcf := x } = g s
  outs : ∀ (s : Chip) x, g { s with outs := x } = g s
  vlog : ∀ (s : Chip) x, g { s with vlog := x } = g s
  en : ∀ (s : Chip) x, g { s with en := x } = g s
  snp : ∀ (s : Chip) x, g { s with snp := x } = g s
  flying : ∀ (s : Chip) x, g { s with flying := x } = g s

theorem apart_job : Apart Chip.job :=
  ⟨fun _ _ => rfl, fun _ _ => rfl, fun _ _ => rfl, fun _ _ => rfl, fun _ _ => rfl, fun _ _ => rfl, fun _ _ => rfl, fun _ _ => rfl⟩

theorem apart_flt : Apart Chip.flt :=
  ⟨fun _ _ => rfl, fun _ _ => rfl, fun _ _ => rfl, fun _ _ => rfl, fun _ _ => rfl, fun _ _ => rfl, fun _ _ => rfl, fun _ _ => rfl⟩

theorem apart_hbm : Apart Chip.hbm :=
  ⟨fun _ _ => rfl, fun _ _ => rfl, fun _ _ => rfl, fun _ _ => rfl, fun _ _ => rfl, fun _ _ => rfl, fun _ _ => rfl, fun _ _ => rfl⟩

namespace Apart

variable {γ : Type} {g : Chip → γ} (h : Apart g) (s : Chip)
include h

theorem setReg (a v : Nat) : g (s.setReg a v) = g s := h.regs ..
theorem setField (a lo n v : Nat) : g (s.setField a lo n v) = g s := h.regs ..
theorem bump (a n : Nat) : g (s.bump a n) = g s := h.regs ..
theorem onCore (p : Nat) (f : Core → Core) : g (s.onCore p f) = g s := h.cores ..
theorem emit (o : Out) : g (s.emit o) = g s := h.outs ..
theorem log (e : LogEntry) : g (s.log e) = g s := h.vlog ..

/-! ### Completions and messages -/

theorem mbxWr (m : Mbx) (w v : Nat) : g (s.mbxWr m w v) = g s := by
  cases m with
  | core p => exact h.cores ..
  | chip n => exact h.regs ..

theorem notify (s' : Chip) (m : Mbx) : g (s'.notify s m) = g s' := by
  unfold Chip.notify
  split
  · split
    · exact h.emit ..
    · rfl
  · rfl

theorem doorbell (m : Mbx) (ret : Bool) (set clr : Nat) : g (s.doorbell m ret set clr) = g s := (h.notify ..).trans (h.mbxWr ..)

theorem chWrN (m : Mbx) (a : Nat) (bs : List Byte) : g (s.chWrN m a bs) = g s := by
  cases m with
  | core p => exact h.cores ..
  | chip n => exact h.vcf ..

theorem complete (m : Mbx) (ch idx seq status detail : Nat) (result : List Byte) : g (s.complete m ch idx seq status detail result) = g s :=
  (h.doorbell ..).trans ((h.chWrN ..).trans (h.chWrN ..))

theorem finish (r : RunCmd) (status detail : Nat) (result : List Byte) : g (s.finish r status detail result) = g s := by
  unfold Chip.finish
  exact (h.complete ..).trans (h.vcf ..)

theorem finishStepRun (status detail : Nat) : g (Machine.finishStepRun s status detail) = g s := foldl_keep g _ (fun s _ => h.finish s ..) _ s
theorem failSnapTake (l : Nat) : g (Machine.failSnapTake s l) = g s := foldl_keep g _ (fun s _ => h.finish s ..) _ s
theorem tellAll (m : StewardMsg) : g (s.tellAll m) = g s := foldl_keep g _ (fun s _ => h.emit s ..) _ s

/-! ### Captures -/

theorem abandonUpload : g s.abandonUpload = g s := by
  unfold Chip.abandonUpload
  split
  · rfl
  · exact (h.log ..).trans ((h.bump ..).trans ((h.setField ..).trans ((h.failSnapTake ..).trans (h.snp ..))))

theorem captureRelease : g (Machine.captureRelease s) = g s := by
  unfold Machine.captureRelease
  split
  · rfl
  · exact (h.setField ..).trans ((h.setField ..).trans (h.snp ..))

section
variable (hmem : ∀ (s : Chip) a bs, g (s.memWrTry a bs) = g s)
include hmem

theorem clearSlot (l : Nat) : g (Machine.clearSlot s l) = g s := by
  unfold Machine.clearSlot
  dsimp only
  split
  · split
    · exact hmem ..
    · rfl
  · exact h.snp ..

theorem captureStart (step : Nat) : g (Machine.captureStart s step) = g s := by
  have hclear (ls : List Nat) (s : Chip) : g (ls.foldl Machine.clearSlot s) = g s := foldl_keep g _ (fun s l => h.clearSlot s hmem l) ls s
  unfold Machine.captureStart
  dsimp only
  split
  · exact h.snp ..
  · refine (h.setReg ..).trans ((h.snp ..).trans ((hclear ..).trans ?_))
    split
    · split
      · exact h.abandonUpload ..
      · rfl
    · rfl

end

/-- A capture with no image yet is abandoned without a write to memory. -/
theorem captureAbandon (hclear : s.snp.doneL = [] ∨ ∀ (s : Chip) a bs, g (s.memWrTry a bs) = g s) : g (Machine.captureAbandon s) = g s := by
  unfold Machine.captureAbandon
  dsimp only
  refine (h.captureRelease ..).trans ((h.snp ..).trans ((foldl_keep g _ (fun s l => ?_) _ _).trans ?_))
  · exact (h.log ..).trans ((h.bump ..).trans (h.failSnapTake ..))
  · rcases hclear with hnone | hmem
    · rw [hnone]
      rfl
    · exact foldl_keep g _ (fun s l => h.clearSlot s hmem l) _ s

/-! ### Resets of units -/

theorem withdraw (p k : Nat) : g (s.withdraw p k) = g s := by
  unfold Chip.withdraw Chip.setQueue
  exact (h.setField ..).trans ((h.en ..).trans (h.en ..))

theorem releaseGrant (p k : Nat) : g (s.releaseGrant p k) = g s := by
  unfold Chip.releaseGrant
  split
  · rfl
  · refine (h.onCore ..).trans ?_
    split
    · exact h.setReg ..
    · exact h.withdraw ..

theorem spendGrant (p k : Nat) : g (s.spendGrant p k) = g s := by
  unfold Chip.spendGrant
  split
  · rfl
  · refine (h.onCore ..).trans ?_
    split
    · exact h.en ..
    · exact h.withdraw ..

theorem settleGrants (p : Nat) : g (s.settleGrants p) = g s := by
  refine foldl_keep g _ (fun s x => ?_) _ s
  split
  · exact h.spendGrant ..
  · exact h.releaseGrant ..

theorem resetUnits (p : Nat) : g (s.resetUnits p) = g s := (h.flying ..).trans ((h.onCore ..).trans (h.settleGrants ..))
theorem haltUnits : g s.haltUnits = g s := foldl_keep g _ (fun s _ => h.resetUnits s _) _ s

/-! ### Steps -/

theorem setPlan (pt : Nat) : g (s.setPlan pt) = g s := by
  have hbench (s : Chip) (b : Nat) : g (if s.benchInJob b then (s.setField (rEN_B_PT b) 4 4 pt).setField (rEN_B_PT b) 10 1 0 else s) = g s := by
    split
    · exact (h.setField ..).trans (h.setField ..)
    · rfl
  exact (foldl_keep g _ hbench _ _).trans (h.setField ..)

theorem endHold (p : Nat) : g (s.endHold p) = g s := by
  unfold Chip.endHold
  dsimp only
  split
  · rfl
  · exact (h.setReg ..).trans (h.onCore ..)

theorem stashBoundary (p : Nat) : g (s.stashBoundary p) = g s := by
  unfold Chip.stashBoundary
  dsimp only
  split
  · exact (h.onCore ..).trans (h.endHold ..)
  · exact (h.onCore ..).trans ((h.setReg ..).trans ((h.onCore ..).trans (h.endHold ..)))

theorem coresBoundary : g s.coresBoundary = g s := by
  have hcore (f : Core → Core) (cs : List (Nat × Nat × Nat)) :
      g (cs.foldl (fun s (_, _, p) => (s.onCore p f).stashBoundary p) s) = g s :=
    foldl_keep g _ (fun s c => (h.stashBoundary ..).trans (h.onCore ..)) cs s
  exact hcore ..

theorem envBoundary : g s.envBoundary = g s := by
  unfold Chip.envBoundary
  dsimp only
  split
  · exact (h.setReg ..).trans (h.setReg ..)
  · rfl

theorem stepBegin (step base : Nat) : g (s.stepBegin step base) = g s := by
  refine foldl_keep g _ (fun s c => ?_) _ s
  dsimp only
  refine (h.doorbell ..).trans ((h.onCore ..).trans ?_)
  split
  · exact h.onCore ..
  · rfl

end Apart

theorem Chip.memWrTry_keep {γ : Type} (g : Chip → γ) (hg : ∀ (s : Chip) poison hbm cxl, g { s with poison := poison, hbm := hbm, cxl := cxl } = g s)
    (s : Chip) (a : Nat) (bs : List Byte) : g (s.memWrTry a bs) = g s := by
  unfold Chip.memWrTry Chip.memWr
  dsimp only
  split
  · rfl
  · split <;> exact hg ..

/-! ### Step begin (12 R447) -/

theorem Core.step_vrFlush (n : Nat) : ∀ c : Core, (vrFlush n c).step = c.step := by
  induction n with
  | zero => exact fun _ => rfl
  | succ n ih =>
    intro c
    unfold vrFlush
    split
    · rfl
    · extract_lets wr
      split
      · rfl
      · exact (ih _).trans rfl

theorem Core.step_vrRecord (c : Core) (ch l epoch : Nat) (v : Verdict) (fb : Bool) (ratio tiles : Nat) :
    (vrRecord c ch l epoch v fb ratio tiles).step = c.step := by
  have hsettle (c : Core) : (vrSettle c).step = c.step := by
    have hflush := Core.step_vrFlush c.vrHeld.length c
    unfold vrSettle
    extract_lets e
    split <;> exact hflush
  unfold vrRecord
  split
  · rfl
  · exact (hsettle _).trans rfl

theorem Core.step_concludePasses (c : Core) (ch : Nat) : (concludePasses c ch).step = c.step := by
  unfold concludePasses
  extract_lets x n mine d
  split
  · rfl
  · exact (foldl_keep Core.step _ (fun c l => Core.step_vrRecord c ..) mine d).trans rfl

/-- The step begins on one core. -/
def Chip.coreBegin (s : Chip) (step base : Nat) (c : Nat × Nat × Nat) : Chip :=
  let e := entryOf s c.1 c.2.1
  let s := if s.job.resume then s.onCore c.2.2 fun d => d.startProgram (listLe e 8 4) else s
  let s := s.onCore c.2.2 fun d => (List.range 64).foldl concludePasses
    { d with store := Bytes.wrN d.store (listLe e 12 4) (leBytes 8 step ++ leBytes 8 base ++ List.replicate 48 0), step := step }
  s.doorbell (.core c.2.2) true 1 0

theorem Chip.stepBegin_eq (s : Chip) (step base : Nat) : s.stepBegin step base = s.jobCores.foldl (fun s c => s.coreBegin step base c) s := rfl

theorem Chip.step_doorbell (s : Chip) (p q set clr : Nat) (ret : Bool) : ((s.doorbell (.core p) ret set clr).core q).step = (s.core q).step := by
  show ((s.mbxWr (.core p) _ _).core q).step = _
  unfold Chip.mbxWr
  rw [Chip.core_onCore]
  split
  · subst q
    rfl
  · rfl

theorem Chip.step_coreBegin (s : Chip) (step base : Nat) (c : Nat × Nat × Nat) (q : Nat) :
    ((s.coreBegin step base c).core q).step = if q = c.2.2 then step else (s.core q).step := by
  unfold Chip.coreBegin
  dsimp only
  rw [Chip.step_doorbell, Chip.core_onCore]
  split
  · exact (foldl_keep Core.step _ Core.step_concludePasses _ _).trans rfl
  · split
    · rw [Chip.core_onCore, if_neg ‹_›]
    · rfl

theorem Chip.step_foldl_coreBegin (step base : Nat) (cs : List (Nat × Nat × Nat)) {q : Nat} : ∀ s : Chip,
    (∃ c ∈ cs, c.2.2 = q) ∨ (s.core q).step = step → ((cs.foldl (fun s c => s.coreBegin step base c) s).core q).step = step := by
  induction cs with
  | nil =>
    rintro s (⟨c, hc, -⟩ | h)
    · exact absurd hc List.not_mem_nil
    · exact h
  | cons d cs ih =>
    intro s h
    refine ih _ ?_
    rw [Chip.step_coreBegin]
    by_cases hd : q = d.2.2
    · exact .inr (if_pos hd)
    · rw [if_neg hd]
      refine h.imp_left ?_
      rintro ⟨c, hc, hq⟩
      rcases List.mem_cons.1 hc with rfl | hc
      · exact absurd hq.symm hd
      · exact ⟨c, hc, hq⟩

/-! ### Step release (09 R326; 14 R480) -/

theorem listLe_byte_lt (b : List Byte) (o : Nat) : listLe b o 1 < 256 := by
  rw [listLe, leNat_take]
  exact Nat.mod_lt _ (by decide)

/-- A plan sets registers of the accountant alone. -/
theorem Chip.reg_setPlan (s : Chip) (pt : Nat) {a : Nat} (ha : a < rEN_STAT) : (s.setPlan pt).reg a = s.reg a := by
  have hfield (s : Chip) {b : Nat} (lo n v : Nat) (hb : rEN_STAT ≤ b) : (s.setField b lo n v).reg a = s.reg a := by
    rw [Chip.setField, Chip.reg_setReg, if_neg (by omega)]
  have hbench (s : Chip) (b : Nat) :
      (if s.benchInJob b then (s.setField (rEN_B_PT b) 4 4 pt).setField (rEN_B_PT b) 10 1 0 else s).reg a = s.reg a := by
    have hb : rEN_STAT ≤ rEN_B_PT b := by
      unfold rEN_STAT rEN_B_PT
      omega
    split
    · rw [hfield _ _ _ _ hb, hfield _ _ _ _ hb]
    · rfl
  exact (foldl_keep (fun m : Chip => m.reg a) _ hbench _ _).trans (hfield _ _ _ _ (Nat.le_refl _))

theorem Chip.physOf_setPlan (s : Chip) (pt : Nat) {x y : Nat} (hxy : 16 * y + x < 2 ^ 17) : (s.setPlan pt).physOf x y = s.physOf x y := by
  unfold Chip.physOf
  rw [Chip.reg_setPlan]
  unfold rFAB_MAP rEN_STAT
  omega

theorem Chip.jobCores_setPlan (s : Chip) (pt : Nat) : (s.setPlan pt).jobCores = s.jobCores := by
  unfold Chip.jobCores
  rw [apart_job.setPlan]
  dsimp only
  have hw : imgW s.job.image < 256 := listLe_byte_lt ..
  have hh : imgH s.job.image < 256 := listLe_byte_lt ..
  split
  · rfl
  · refine List.filterMap_congr fun n hn => ?_
    have hn := List.mem_range.1 hn
    have hy : n / imgW s.job.image < imgH s.job.image := Nat.div_lt_of_lt_mul hn
    have hx : n % imgW s.job.image < imgW s.job.image := Nat.mod_lt _ (Nat.pos_of_mul_pos_right (Nat.zero_lt_of_lt hn))
    rw [Chip.physOf_setPlan _ _ (by omega)]

/-- A step is released on this part. -/
theorem Chip.releaseStep_releases (s : Chip) (step base pt : Nat) : let m := s.releaseStep step base pt
    m.job = { s.job with released := true, base := base, pt := pt, resume := false } ∧ m.hbm = s.hbm ∧
    ∀ c ∈ s.jobCores, (m.core c.2.2).step = step := by
  have hjob : ((s.setPlan pt).stepBegin step base).job = s.job := (apart_job.stepBegin ..).trans (apart_job.setPlan ..)
  have hhbm : ((s.setPlan pt).stepBegin step base).hbm = s.hbm := (apart_hbm.stepBegin ..).trans (apart_hbm.setPlan ..)
  have hstep : ∀ c ∈ s.jobCores, (((s.setPlan pt).stepBegin step base).core c.2.2).step = step := by
    intro c hc
    rw [Chip.stepBegin_eq, Chip.jobCores_setPlan]
    exact Chip.step_foldl_coreBegin step base _ _ (.inl ⟨c, hc, rfl⟩)
  unfold Chip.releaseStep
  generalize (s.setPlan pt).stepBegin step base = m at hjob hhbm hstep
  refine ⟨?_, hhbm, hstep⟩
  dsimp only
  rw [hjob]

theorem Chip.core_tellAll (s : Chip) (m : StewardMsg) (p : Nat) : (s.tellAll m).core p = s.core p :=
  foldl_keep (fun m : Chip => m.core p) (fun s r => s.emit (.steward m r)) (fun _ _ => rfl) s.otherRanks s

theorem stepRelease_completes (s : State) (base : DWord) (ha : s.awake) (hrunning : s.chip.job.st = .running)
    (hnew : s.chip.job.released = false) (hcoord : s.chip.coordinator = true) (hready : s.chip.allReady = true)
    (hhold : bitOf (s.chip.reg rSNP_STAT) 1 = false) (hahead : s.chip.now + 50000 ≤ base.toNat) :
    Completes (.stepRelease base) s fun t => t.chip.job.released = true ∧ t.chip.job.base = base.toNat ∧
      t.chip.job.step = s.chip.job.step ∧ t.chip.hbm = s.chip.hbm ∧
      (∀ x y p, (x, y, p) ∈ s.chip.jobCores → (t.chip.core p).step = s.chip.job.step + 1) := by
  obtain ⟨pt, hcmd⟩ : ∃ pt, stepReleaseCmd s.chip base =
      (s.chip.releaseStep (s.chip.job.step + 1) base.toNat pt).tellAll (.release (s.chip.job.step + 1) base pt) := by
    have hok : decide (base.toNat ≥ s.chip.now + 50000) = true := decide_eq_true hahead
    refine ⟨s.chip.en.points.foldl (fun m x => min m x.2) s.chip.job.pt, ?_⟩
    unfold stepReleaseCmd
    dsimp only
    rw [hrunning, hnew, hcoord, hready, hhold, hok]
    exact if_neg (by decide)
  obtain ⟨hjob, hhbm, hcores⟩ := s.chip.releaseStep_releases (s.chip.job.step + 1) base.toNat pt
  refine completes_act (fun m => stepReleaseCmd m base) ha rfl ?_
  dsimp only
  rw [hcmd, apart_job.tellAll, apart_hbm.tellAll, hjob]
  refine ⟨rfl, rfl, rfl, hhbm, fun x y p hc => ?_⟩
  rw [Chip.core_tellAll]
  exact hcores (x, y, p) hc

theorem stepRelease_early (s : State) {base : DWord} (ha : s.awake) (hearly : base.toNat < s.chip.now + 50000) :
    Answers (.stepRelease base) s s.chip := by
  refine answers_act (fun m => stepReleaseCmd m base) ha rfl ?_
  have hok : decide (base.toNat ≥ s.chip.now + 50000) = false := decide_eq_false (Nat.not_le.2 hearly)
  unfold stepReleaseCmd
  rw [hok, Bool.and_false]
  rfl

/-! ### Step boundary (14 R480) -/

/-- The job counts the boundary, and the accountant chooses the point of the next step. -/
def Chip.boundaryPassed (s : Chip) (m : PlanMeas) : Chip :=
  let s := { s with job := { s.job with
    step := s.job.step + 1, released := false, ran := s.job.ran + 1, left := s.job.left.map (· - 1), tick := s.now, reports := [] } }
  let pt := planPoint s (s.stepPred m) s.now
  let s := s.markStep
  { s with job := { s.job with pt := pt }, en := { s.en with fresh := false, points := [] } }

theorem Chip.boundaryPassed_job (s : Chip) (m : PlanMeas) : let n := s.boundaryPassed m
    n.job.step = s.job.step + 1 ∧ n.job.released = false ∧ n.job.ran = s.job.ran + 1 ∧ n.job.st = s.job.st ∧
    n.job.pause = s.job.pause ∧ n.job.left = s.job.left.map (· - 1) ∧ n.flt = s.flt :=
  ⟨rfl, rfl, rfl, rfl, rfl, rfl, rfl⟩

/-- A boundary with nothing to retire at which no fault pauses the job. -/
theorem stepBoundaryCmd_eq {s : Chip} {m : PlanMeas} (hrunning : s.job.st = .running) (hreleased : s.job.released = true)
    (hready : s.boundaryReady = true) (hpause : s.job.pause = none) (hretire : s.flt.retire = []) :
    stepBoundaryCmd s m = (s.coresBoundary.envBoundary.boundaryPassed m).boundaryCapture.boundaryStop := by
  have hjob : s.coresBoundary.envBoundary.job = s.job := (apart_job.envBoundary _).trans (apart_job.coresBoundary s)
  have hflt : s.coresBoundary.envBoundary.flt = s.flt := (apart_flt.envBoundary _).trans (apart_flt.coresBoundary s)
  obtain ⟨-, -, -, -, hpause', -, hflt'⟩ := s.coresBoundary.envBoundary.boundaryPassed_job m
  rw [hjob, hpause] at hpause'
  rw [hflt] at hflt'
  have hcmd : stepBoundaryCmd s m = (let n := (s.coresBoundary.envBoundary.boundaryPassed m).boundaryLinks
      (if (match n.job.pause with | some (st, _) => st == 9 | none => false) = true then n.report else n.boundaryCapture).boundaryStop) := by
    unfold stepBoundaryCmd
    rw [if_neg (by simp [hrunning, hreleased, hready])]
    rfl
  generalize s.coresBoundary.envBoundary.boundaryPassed m = n at *
  have hlinks : n.boundaryLinks = n := by
    unfold Chip.boundaryLinks
    rw [hflt', hretire]
    rfl
  rw [hcmd, hlinks]
  dsimp only
  rw [hpause']
  rfl

theorem Chip.report_job (s : Chip) : ∃ rs, s.report.job = { s.job with reports := rs } := by
  unfold Chip.report
  split
  · exact ⟨_, rfl⟩
  · exact ⟨_, rfl⟩

theorem Chip.boundaryCapture_job (s : Chip) : ∃ rs, s.boundaryCapture.job = { s.job with reports := rs } := by
  unfold Chip.boundaryCapture
  split
  · exact ⟨_, rfl⟩
  · obtain ⟨rs, hrs⟩ := (captureStart s s.job.step).report_job
    rw [apart_job.captureStart _ (Chip.memWrTry_keep Chip.job fun _ _ _ _ => rfl)] at hrs
    exact ⟨rs, hrs⟩

theorem Chip.boundaryStop_goesOn {s : Chip} (hpause : s.job.pause = none) (hleft : s.job.left ≠ some 0) : s.boundaryStop = s := by
  have hcount : (s.job.left == some 0) = false := by simpa using hleft
  unfold Chip.boundaryStop
  dsimp only
  rw [hpause, hcount]
  rfl

theorem stepBoundary_advances (s : State) (m : PlanMeas) (ha : s.awake) (hrunning : s.chip.job.st = .running)
    (hreleased : s.chip.job.released = true) (hpause : s.chip.job.pause = none) (hleft : s.chip.job.left ≠ some 0)
    (hleft' : s.chip.job.left ≠ some 1) (hretire : s.chip.flt.retire = []) (hready : s.chip.boundaryReady = true) :
    Completes (.stepBoundary m) s fun t => t.chip.job.step = s.chip.job.step + 1 ∧ t.chip.job.released = false ∧
      t.chip.job.ran = s.chip.job.ran + 1 ∧ t.chip.job.st = .running := by
  have hjob : s.chip.coresBoundary.envBoundary.job = s.chip.job := (apart_job.envBoundary _).trans (apart_job.coresBoundary s.chip)
  have hcmd := stepBoundaryCmd_eq (m := m) hrunning hreleased hready hpause hretire
  obtain ⟨hstep, hrel, hran, hst, hpa, hle, -⟩ := s.chip.coresBoundary.envBoundary.boundaryPassed_job m
  rw [hjob] at hstep hran hst hpa hle
  generalize s.chip.coresBoundary.envBoundary.boundaryPassed m = n at *
  obtain ⟨rs, hcapture⟩ := n.boundaryCapture_job
  have hmore : n.job.left ≠ some 0 := by
    rw [hle]
    cases h : s.chip.job.left with
    | none => simp
    | some k =>
      rw [h] at hleft hleft'
      simp only [Option.map_some, ne_eq, Option.some.injEq] at hleft hleft' ⊢
      omega
  have hstop : n.boundaryCapture.boundaryStop = n.boundaryCapture := by
    refine Chip.boundaryStop_goesOn ?_ ?_ <;> rw [hcapture]
    · exact hpa.trans hpause
    · exact hmore
  refine completes_act (fun k => stepBoundaryCmd k m) ha rfl ?_
  dsimp only
  rw [hcmd, hstop, hcapture]
  exact ⟨hstep, hrel, hran, hst.trans hrunning⟩

theorem stepBoundary_waits (s : State) (m : PlanMeas) (ha : s.awake) (hwait : s.chip.boundaryReady = false) :
    Answers (.stepBoundary m) s s.chip :=
  answers_act (fun k => stepBoundaryCmd k m) ha rfl (if_pos (.inr (.inr hwait)))

/-! ### Messages between Stewards (12 R434, R436, R445) -/

theorem rankAnnounce_completes (s : State) (rank chip : Nat) (ha : s.awake) (hidle : s.chip.job.st = .idle)
    (hnone : (s.chip.vcf.running.any fun r => r.op == 0x10) = false) : Completes (.rankAnnounce rank chip) s fun t =>
      t.chip.job.chips.find? (fun x => x.1 == rank) = some (rank, chip) ∧ t.chip.cores = s.chip.cores ∧ t.chip.hbm = s.chip.hbm := by
  have hfind : (s.chip.vcf.running.find? fun r => r.op == 0x10) = none := List.find?_eq_none.2 fun r hr h => by
    rw [List.any_eq_false] at hnone
    exact hnone r hr h
  have hcmd : rankAnnounceCmd s.chip rank chip = { s.chip with job := { s.chip.job with
      chips := (rank, chip) :: s.chip.job.chips.filter fun x => x.1 ≠ rank, lost := s.chip.job.lost.filter (· ≠ rank) } } := by
    unfold rankAnnounceCmd
    dsimp only
    rw [if_neg (not_not.2 hidle), hfind]
  refine completes_act (fun m => rankAnnounceCmd m rank chip) ha rfl ?_
  dsimp only
  rw [hcmd]
  exact ⟨List.find?_cons_of_pos (by simp), rfl, rfl⟩

theorem stepPause_completes (s : State) (media : Media) (ha : s.awake) (hrunning : s.chip.job.st = .running)
    (hpause : s.chip.job.pause = none) : Completes (.stewardMessage .stepPause media) s fun t => t.chip.job.pause = some (8, 0) ∧
      t.chip.job.st = .running ∧ t.chip.cores = s.chip.cores := by
  have hcmd : requestPause s.chip 8 0 = { s.chip with job := { s.chip.job with pause := some (8, 0) } } :=
    if_pos ⟨hrunning, .inl (by rw [hpause]; rfl)⟩
  refine completes_act (fun m => stewardMessageCmd m .stepPause media) ha rfl ?_
  show (requestPause s.chip 8 0).job.pause = _ ∧ (requestPause s.chip 8 0).job.st = _ ∧ (requestPause s.chip 8 0).cores = _
  rw [hcmd]
  exact ⟨rfl, hrunning, rfl⟩

theorem jobStart_completes (s : State) (media : Media) (ha : s.awake) (hloaded : s.chip.job.st = .loaded)
    (hother : s.chip.coordinator = false) : Completes (.stewardMessage .jobStart media) s fun t => t.chip.job.st = .paused ∧
      t.chip.job.step = 0 := by
  have hcmd : stewardMessageCmd s.chip .jobStart media =
      ({ s.chip.startJob with job := { s.chip.startJob.job with st := .paused } } : Chip).emit
        (.steward (.boundaryReport s.chip.startJob.job.rank 0 0)
          ({ s.chip.startJob with job := { s.chip.startJob.job with st := .paused } } : Chip).coordRank) :=
    if_pos ⟨hloaded, by simp [hother]⟩
  have hstep : s.chip.startJob.job.step = 0 := by
    unfold Chip.startJob
    rw [apart_job.captureStart _ (Chip.memWrTry_keep Chip.job fun _ _ _ _ => rfl)]
  refine completes_act (fun m => stewardMessageCmd m .jobStart media) ha rfl ?_
  dsimp only
  rw [hcmd]
  exact ⟨rfl, hstep⟩

/-! ### A part is lost (14 R491) -/

/-- The part with another one lost. -/
def Chip.withLost (s : Chip) (rank : Nat) : Chip :=
  if rank = s.job.rank then s else { s with job := { s.job with lost := rank :: s.job.lost.filter (· ≠ rank) } }

/-- The coordinator stays so when another part is lost. -/
theorem Chip.coordinator_withLost {s : Chip} (h : s.coordinator = true) (rank : Nat) : (s.withLost rank).coordinator = true := by
  unfold Chip.withLost
  split
  · exact h
  · rename_i hother
    have hrank : s.job.rank = s.coordRank := of_decide_eq_true h
    refine decide_eq_true (hrank.trans ?_)
    have hlost (r : Nat) : (!(rank :: s.job.lost.filter (· ≠ rank)).contains r) = (!decide (r = rank) && !s.job.lost.contains r) := by
      by_cases hr : r = rank <;> simp [hr]
    unfold Chip.coordRank at hrank ⊢
    simp only [hlost]
    cases hfirst : (List.range s.job.parts).find? fun r => !s.job.lost.contains r with
    | none =>
      have hall := List.find?_eq_none.1 hfirst
      rw [List.find?_eq_none.2 fun r hr h => hall r hr (Bool.and_elim_right h)]
    | some r =>
      rw [hfirst] at hrank
      have hr : r ≠ rank := fun h => hother (h ▸ hrank).symm
      obtain ⟨hin, as, bs, hsplit, hbefore⟩ := List.find?_eq_some_iff_append.1 hfirst
      rw [List.find?_eq_some_iff_append.2 ⟨by rw [hin, Bool.and_true]; simp [hr], as, bs, hsplit,
        fun a ha => by rw [Bool.not_and, hbefore a ha, Bool.or_true]⟩]

theorem partLost_waits (s : State) (rank : Nat) (ha : s.awake) (hcoord : s.chip.coordinator = true) (hjob : s.chip.job.st ≠ .idle) :
    Completes (.partLostMsg rank) s fun t => t.chip.job.st = .waiting ∧ (s.chip.snp.doneL = [] → t.chip.hbm = s.chip.hbm) := by
  have hkept : (s.chip.withLost rank).job.st = s.chip.job.st ∧ (s.chip.withLost rank).hbm = s.chip.hbm ∧
      (s.chip.withLost rank).snp = s.chip.snp := by
    unfold Chip.withLost
    split <;> exact ⟨rfl, rfl, rfl⟩
  obtain ⟨hst, hhbm, hsnp⟩ := hkept
  have hcmd : partLostCmd s.chip rank =
      (finishStepRun ((captureAbandon (s.chip.withLost rank)).haltUnits.waitJob) 9 0).tellAll .wait :=
    if_pos ⟨Chip.coordinator_withLost hcoord rank, by exact hst ▸ hjob⟩
  refine completes_act (fun m => partLostCmd m rank) ha rfl ?_
  dsimp only
  rw [hcmd, apart_job.tellAll, apart_job.finishStepRun, apart_hbm.tellAll, apart_hbm.finishStepRun]
  refine ⟨rfl, fun hnone => ?_⟩
  have hempty : (s.chip.withLost rank).snp.doneL = [] := by rw [hsnp, hnone]
  exact (apart_hbm.haltUnits _).trans ((apart_hbm.captureAbandon _ (.inl hempty)).trans hhbm)

/-- Settles O51: a release sets the step of every core (`stepRelease_completes`), a boundary moves the job on (`stepBoundary_advances`), and
each message changes the job's state alone. -/
theorem stepsAreReleased : Obligations.StepsAreReleased := by
  intro s base m media rank chip ha
  refine ⟨stepRelease_completes s base ha, stepRelease_early s ha, stepBoundary_waits s m ha,
    fun hrunning hreleased hpause hleft hleft' hretire hready => ?_, rankAnnounce_completes s rank chip ha, stepPause_completes s media ha,
    jobStart_completes s media ha, partLost_waits s rank ha⟩
  exact stepBoundary_advances s m ha hrunning hreleased hpause hleft hleft' hretire hready

end Sys2Proof.Machine
end

section
/-!
PROOFS. The canonical form of HBM and CXL memory (10 R337, in part; the canonical form is the model's, log 5).

Only three functions of the model touch the two memories: `Chip.memWr` writes bytes, which keeps the form, and `Chip.islandReset` and
`Chip.powerOff` empty a memory. Everything else a command does lies beside them. So `Chip.MemWf` has one rule for each field of the
part that an update may replace, and one rule for each function of the model that gives a part: it is composed of the rules of the
functions that it calls, in the order of the model's files. A function that answers with a pair or an option has the rule of that
component.
-/
namespace Sys2Proof.Machine

/-- The part's HBM and CXL memories are in canonical form. -/
structure Chip.MemWf (s : Chip) : Prop where
  ofHbm : Memory.wf s.hbm = true
  ofCxl : Memory.wf s.cxl = true

namespace Chip.MemWf

theorem ite {c : Prop} [Decidable c] {a b : Chip} (ha : a.MemWf) (hb : b.MemWf) : (if c then a else b).MemWf := by
  split
  · exact ha
  · exact hb

theorem foldl {α : Type} {f : Chip → α → Chip} (hf : ∀ s a, s.MemWf → (f s a).MemWf) (l : List α) {s : Chip}
    (hm : s.MemWf) : (l.foldl f s).MemWf := by
  induction l generalizing s with
  | nil => exact hm
  | cons a l ih => exact ih (hf s a hm)

theorem foldl_fst {α β : Type} {f : Chip × β → α → Chip × β} (hf : ∀ a x, a.1.MemWf → (f a x).1.MemWf) (l : List α)
    {a : Chip × β} (ha : a.1.MemWf) : (l.foldl f a).1.MemWf := by
  induction l generalizing a with
  | nil => exact ha
  | cons x l ih => exact ih (hf a x ha)

theorem ite_fst {α : Type} {c : Prop} [Decidable c] {a b : Chip × α} (ha : a.1.MemWf) (hb : b.1.MemWf) :
    (if c then a else b).1.MemWf := by
  split
  · exact ha
  · exact hb

theorem ite_snd {α : Type} {c : Prop} [Decidable c] {a b : α × Chip} (ha : a.2.MemWf) (hb : b.2.MemWf) :
    (if c then a else b).2.MemWf := by
  split
  · exact ha
  · exact hb

theorem of_fst {α : Type} {a : Chip × α} {s : Chip} {x : α} (ha : a.1.MemWf) (h : a = (s, x)) : s.MemWf := by
  subst h
  exact ha

theorem of_snd {α : Type} {a : α × Chip} {s : Chip} {x : α} (ha : a.2.MemWf) (h : a = (x, s)) : s.MemWf := by
  subst h
  exact ha

theorem of_mem_none : ∀ t ∈ (none : Option Chip), t.MemWf := by
  intro t h
  cases h

theorem of_mem_some {s : Chip} (hm : s.MemWf) : ∀ t ∈ some s, t.MemWf := by
  intro t h
  cases h
  exact hm

theorem of_mem_ite {c : Prop} [Decidable c] {a b : Option Chip} (ha : ∀ t ∈ a, t.MemWf) (hb : ∀ t ∈ b, t.MemWf) :
    ∀ t ∈ (if c then a else b), t.MemWf := by
  split
  · exact ha
  · exact hb

section
variable {s : Chip} (hm : s.MemWf)
include hm

/-! ### The fields beside the memories -/

theorem regs (x : Map Nat) : ({ s with regs := x }).MemWf := ⟨hm.1, hm.2⟩
theorem cores (x : Map Core) : ({ s with cores := x }).MemWf := ⟨hm.1, hm.2⟩
theorem poison (x : NatMap) : ({ s with poison := x }).MemWf := ⟨hm.1, hm.2⟩
theorem redir (x : NatMap) : ({ s with redir := x }).MemWf := ⟨hm.1, hm.2⟩
theorem fencedCh (x : List Nat) : ({ s with fencedCh := x }).MemWf := ⟨hm.1, hm.2⟩
theorem migLost (x : Bool) : ({ s with migLost := x }).MemWf := ⟨hm.1, hm.2⟩
theorem flying (x : List (Nat × Packet)) : ({ s with flying := x }).MemWf := ⟨hm.1, hm.2⟩
theorem ctbFrac (x : Nat) : ({ s with ctbFrac := x }).MemWf := ⟨hm.1, hm.2⟩
theorem holdAt (x : Nat) : ({ s with holdAt := x }).MemWf := ⟨hm.1, hm.2⟩
theorem benches (x : Map Bench) : ({ s with benches := x }).MemWf := ⟨hm.1, hm.2⟩
theorem selfRef (x : List Nat) : ({ s with selfRef := x }).MemWf := ⟨hm.1, hm.2⟩
theorem memResp (x : List MemResp) : ({ s with memResp := x }).MemWf := ⟨hm.1, hm.2⟩
theorem hold (x : Bool) : ({ s with hold := x }).MemWf := ⟨hm.1, hm.2⟩
theorem vlog (x : List LogEntry) : ({ s with vlog := x }).MemWf := ⟨hm.1, hm.2⟩
theorem raised (x : List (Nat × Nat × Nat)) : ({ s with raised := x }).MemWf := ⟨hm.1, hm.2⟩
theorem links (x : Map Link) : ({ s with links := x }).MemWf := ⟨hm.1, hm.2⟩
theorem ts (x : TimeSync) : ({ s with ts := x }).MemWf := ⟨hm.1, hm.2⟩
theorem flood (x : Flood) : ({ s with flood := x }).MemWf := ⟨hm.1, hm.2⟩
theorem en (x : Energy) : ({ s with en := x }).MemWf := ⟨hm.1, hm.2⟩
theorem flt (x : FaultSt) : ({ s with flt := x }).MemWf := ⟨hm.1, hm.2⟩
theorem snp (x : Snp) : ({ s with snp := x }).MemWf := ⟨hm.1, hm.2⟩
theorem job (x : Job) : ({ s with job := x }).MemWf := ⟨hm.1, hm.2⟩
theorem vcf (x : Vcf) : ({ s with vcf := x }).MemWf := ⟨hm.1, hm.2⟩
theorem sec (x : Security) : ({ s with sec := x }).MemWf := ⟨hm.1, hm.2⟩
theorem pins (x : Pins) : ({ s with pins := x }).MemWf := ⟨hm.1, hm.2⟩
theorem outs (x : List Out) : ({ s with outs := x }).MemWf := ⟨hm.1, hm.2⟩
theorem memResp_memGot (x y : List MemResp) : ({ s with memResp := x, memGot := y }).MemWf := ⟨hm.1, hm.2⟩
theorem migLost_sec (x : Bool) (y : Security) : ({ s with migLost := x, sec := y }).MemWf := ⟨hm.1, hm.2⟩
theorem hold_pins (x : Bool) (y : Pins) : ({ s with hold := x, pins := y }).MemWf := ⟨hm.1, hm.2⟩
theorem ts_flood (x : TimeSync) (y : Flood) : ({ s with ts := x, flood := y }).MemWf := ⟨hm.1, hm.2⟩
theorem en_job (x : Energy) (y : Job) : ({ s with en := x, job := y }).MemWf := ⟨hm.1, hm.2⟩
theorem snp_job (x : Snp) (y : Job) : ({ s with snp := x, job := y }).MemWf := ⟨hm.1, hm.2⟩
theorem job_vcf (x : Job) (y : Vcf) : ({ s with job := x, vcf := y }).MemWf := ⟨hm.1, hm.2⟩
theorem vcf_sec (x : Vcf) (y : Security) : ({ s with vcf := x, sec := y }).MemWf := ⟨hm.1, hm.2⟩
theorem pins_outs (x : Pins) (y : List Out) : ({ s with pins := x, outs := y }).MemWf := ⟨hm.1, hm.2⟩

/-! ### Machine/ChipState.lean -/

theorem setReg (a v : Nat) : (s.setReg a v).MemWf := hm.regs _

theorem setField (a lo n v : Nat) : (s.setField a lo n v).MemWf := hm.setReg ..

theorem bump (a n : Nat) : (s.bump a n).MemWf := hm.setReg ..

theorem countTo (a lo n : Nat) : (s.countTo a lo n).MemWf := hm.setField ..

theorem setCore (p : Nat) (c : Core) : (s.setCore p c).MemWf := hm.cores _

theorem onCore (p : Nat) (f : Core → Core) : (s.onCore p f).MemWf := hm.setCore ..

theorem setBench (b : Nat) (x : Bench) : (s.setBench b x).MemWf := hm.benches _

theorem setLink (l : Nat) (x : Link) : (s.setLink l x).MemWf := hm.links _

theorem emit (o : Out) : (s.emit o).MemWf := hm.outs _

theorem log (e : LogEntry) : (s.log e).MemWf := hm.vlog _

theorem raise (ev inst detail : Nat) : (s.raise ev inst detail).MemWf := hm.raised _

theorem trace (ty : Nat) (payload : List Byte) : (s.trace ty payload).MemWf := ite (hm.pins _) (hm.pins _)

/-! ### Machine/Memory.lean -/

theorem memWr (a : Nat) (bs : List Byte) : (s.memWr a bs).MemWf := by
  unfold Chip.memWr
  split
  · exact ⟨Bytes.wf_wrN hm.ofHbm a bs, hm.ofCxl⟩
  · exact ⟨hm.ofHbm, Bytes.wf_wrN hm.ofCxl a bs⟩

theorem memWrTry (a : Nat) (bs : List Byte) : (s.memWrTry a bs).MemWf := ite hm (hm.memWr ..)

theorem poisonEvent (a : Nat) : (s.poisonEvent a).MemWf := ite (hm.raise ..) hm

theorem wake (a : Nat) : (s.wake a).MemWf := ite (hm.selfRef _) hm

theorem hbmUse (a n : Nat) : (s.hbmUse a n).MemWf :=
  ite hm (ite (hm.en _) (foldl (fun _ _ hs => hs.wake ..) _ (hm.en _)))

theorem eccRead (a : Nat) (r : EccResult) : (s.eccRead a r).MemWf := by
  unfold Chip.eccRead
  split
  · exact hm
  · exact (hm.countTo ..).raise ..
  · exact (hm.countTo ..).raise ..

theorem hbmScrubCmd (a : Nat) (r : EccResult) : (Machine.hbmScrubCmd s a r).MemWf := by
  unfold Machine.hbmScrubCmd
  refine ite hm ?_
  refine ite ?_ ?_
  · refine .countTo ?_ ..
    split
    · exact ((hm.eccRead ..).hbmUse ..).poison _
    · exact (hm.eccRead ..).hbmUse ..
  · split
    · exact ((hm.eccRead ..).hbmUse ..).poison _
    · exact (hm.eccRead ..).hbmUse ..

theorem selfRefreshCmd (n : Nat) : (Machine.selfRefreshCmd s n).MemWf := ite (hm.selfRef _) hm

theorem hbmTemperatureCmd (n t : Nat) : (Machine.hbmTemperatureCmd s n t).MemWf := ite hm ((hm.setField ..).setField ..)

theorem holdWrite : s.holdWrite.MemWf := ite (hm.setField ..) hm

theorem memoryRequestCmd (q : MemReq) (ecc : EccResult) : (Machine.memoryRequestCmd s q ecc).MemWf := by
  unfold Machine.memoryRequestCmd
  dsimp only
  split
  · exact ((hm.wake ..).onCore ..).memResp _
  · exact ite ((hm.wake ..).holdWrite ..) (ite ((hm.wake ..).memResp _) (ite (ite ((hm.wake ..).memResp _)
      ((((hm.wake ..).hbmUse ..).memWr ..).memResp _)) ((ite (((ite ((hm.wake ..).eccRead ..)
      (hm.wake ..)).hbmUse ..).poisonEvent ..) ((ite ((hm.wake ..).eccRead ..) (hm.wake ..)).hbmUse ..)).memResp _)))

theorem memoryResponseCmd (r : MemResp) : (Machine.memoryResponseCmd s r).MemWf := by
  unfold Machine.memoryResponseCmd
  refine ite (hm.memResp_memGot _ _) ?_
  split
  · exact (hm.memResp_memGot _ _).onCore ..
  · exact (hm.memResp_memGot _ _).raise ..
  · exact (hm.memResp_memGot _ _).raise ..
  · exact (hm.memResp_memGot _ _).raise ..
  · exact (hm.memResp_memGot _ _).raise ..

theorem memRgnCtlWrite (n v : Nat) : (Machine.memRgnCtlWrite s n v).MemWf := ite (hm.setField ..) (hm.setReg ..)

theorem memJobstWrite (v : Nat) : (Machine.memJobstWrite s v).MemWf :=
  ite hm (ite (hm.setReg ..) (foldl (fun _ _ hs => ite (hs.setField ..) hs) _ (hm.setReg ..)))

theorem memResvWrite (v : Nat) : (Machine.memResvWrite s v).MemWf := ite hm (hm.setReg ..)

theorem fenceChannel (ch : Nat) : (s.fenceChannel ch).MemWf := ite hm ((hm.setField ..).fencedCh _)

theorem retireStart (ch : Nat) (lost : Bool) : (s.retireStart ch lost).MemWf :=
  ((((hm.setReg ..).setReg ..).setReg ..).setField ..).migLost_sec _ _

theorem memRetireWrite (v : Nat) : (Machine.memRetireWrite s v).MemWf :=
  ite hm (ite ((hm.fenceChannel ..).setField ..) (ite (hm.fenceChannel ..) (hm.retireStart ..)))

theorem movePage (k : Nat) : (s.movePage k).MemWf := by
  unfold Chip.movePage
  exact ite ((((hm.redir _).hbmUse ..).hbmUse ..).poison _) (((hm.redir _).hbmUse ..).hbmUse ..)

theorem migrationPageMoveCmd : (Machine.migrationPageMoveCmd s).MemWf := by
  unfold Machine.migrationPageMoveCmd
  exact ite hm ((hm.movePage ..).setField ..)

theorem migrationDoneCmd : (Machine.migrationDoneCmd s).MemWf := by
  unfold Machine.migrationDoneCmd
  exact ite hm ((((((hm.movePage ..).setField ..).setField ..).setField ..).setField ..).vlog _)

theorem controllerFail (n : Nat) : (s.controllerFail n).MemWf := by
  unfold Chip.controllerFail
  refine foldl (fun _ _ hs => ?_) _ ?_
  · exact hs.fenceChannel ..
  · split
    · exact (hm.setField ..).setField ..
    · exact hm.setField ..

theorem retireNext : s.retireNext.MemWf := by
  unfold Chip.retireNext
  split
  · exact hm.memRetireWrite ..
  · exact hm

theorem cxlDeviceDownCmd (port : Nat) : (Machine.cxlDeviceDownCmd s port).MemWf :=
  ite hm (ite (((hm.setField ..).setField ..).raise ..) ((hm.setField ..).raise ..))

/-! ### Machine/Fabric.lean -/

theorem inject (p chip x y : Nat) (k : Packet) : (s.inject p chip x y k).MemWf := ite hm (hm.onCore ..)

theorem taken (k : Packet) : (s.taken k).MemWf := ite ((hm.flying _).onCore ..) (hm.flying _)

theorem arrive (p : Nat) (k : Packet) {f : Chip → Chip} (hf : ∀ {s : Chip}, s.MemWf → (f s).MemWf) :
    (s.arrive p k f).MemWf :=
  ite (hf (hm.taken k)) (hm.taken k)

theorem dropPackets (p : Nat) : (s.dropPackets p).MemWf := hm.flying _

theorem recordDiscard (r ty cause : Nat) : (s.recordDiscard r ty cause).MemWf :=
  ite ((hm.countTo ..).setField ..) ((hm.countTo ..).setReg ..)

theorem discard (r ty cause : Nat) : (s.discard r ty cause).MemWf := (hm.recordDiscard ..).raise ..

theorem onward (r : Nat) (k0 k : Packet) : (s.onward r k0 k).MemWf := by
  unfold Chip.onward
  split
  · exact ite ((hm.taken ..).flying _) hm
  · exact (hm.taken ..).flying _

theorem packetForwardCmd (r : Nat) (k : Packet) (chk : FlitCheck) : (Machine.packetForwardCmd s r k chk).MemWf := by
  unfold Machine.packetForwardCmd
  refine ite hm ?_
  refine ite (ite ((hm.taken ..).discard ..) (hm.onward ..)) ?_
  split
  · exact (hm.taken ..).discard ..
  · exact ite ((hm.taken ..).discard ..) (ite hm (((ite (hm.countTo ..) hm).onCore ..).onward ..))

theorem sendCmd (p id : Nat) : (Machine.sendCmd s p id).MemWf := by
  unfold Machine.sendCmd
  dsimp only
  split
  · exact hm
  · exact ite hm (ite (hm.setCore ..) (ite (hm.setCore ..) (ite (hm.setCore ..) (foldl (fun _ _ hs => hs.inject ..) _
      (hm.setCore ..)))))

theorem recvCmd (p id : Nat) : (Machine.recvCmd s p id).MemWf := by
  unfold Machine.recvCmd
  dsimp only
  split
  · exact hm
  · exact ite hm (ite (hm.setCore ..) (ite (hm.setCore ..) ((hm.setCore ..).inject ..)))

theorem recvCommit (p : Nat) (c : Core) (t : TOp) (k : Packet) (o : OutItem) : (s.recvCommit p c t k o).MemWf :=
  (hm.setCore ..).inject ..

theorem dataMessageCmd (p : Nat) (k : Packet) (flitErr : Bool) : (Machine.dataMessageCmd s p k flitErr).MemWf := by
  unfold Machine.dataMessageCmd
  refine ite hm ?_
  refine hm.arrive _ _ fun hs => ?_
  split
  · exact hs
  · exact hs.recvCommit ..

theorem voidMessageCmd (p : Nat) (k : Packet) : (Machine.voidMessageCmd s p k).MemWf := by
  unfold Machine.voidMessageCmd
  refine ite hm ?_
  refine hm.arrive _ _ fun hs => ?_
  split
  · exact hs
  · exact hs.recvCommit ..

theorem readyTokenCmd (p : Nat) (k : Packet) : (Machine.readyTokenCmd s p k).MemWf :=
  hm.arrive _ _ fun hs => hs.onCore ..

theorem deliveryAckCmd (p : Nat) (k : Packet) : (Machine.deliveryAckCmd s p k).MemWf :=
  hm.arrive _ _ fun hs => hs.onCore ..

theorem storeWriteCmd (p : Nat) (k : Packet) : (Machine.storeWriteCmd s p k).MemWf :=
  hm.arrive _ _ fun hs => (hs.onCore ..).inject ..

theorem storeReadRequestCmd (p : Nat) (k : Packet) : (Machine.storeReadRequestCmd s p k).MemWf :=
  hm.arrive _ _ fun hs => (hs.setCore ..).inject ..

theorem barSend (p b g : Nat) : (s.barSend p b g).MemWf := hm.inject ..

theorem barArrive (p b : Nat) : (s.barArrive p b).MemWf := ite (hm.setCore ..) ((hm.setCore ..).barSend ..)

theorem barTell (p b g : Nat) : (s.barTell p b g).MemWf := foldl (fun _ _ hs => hs.inject ..) _ hm

theorem barrierArrivalCmd (p : Nat) (k : Packet) : (Machine.barrierArrivalCmd s p k).MemWf :=
  hm.arrive _ _ fun hs => ite (ite (foldl (fun _ _ hs => hs.inject ..) _ (hs.setCore ..)) (hs.setCore ..)) (ite (ite
    ((hs.setCore ..).barTell ..) ((hs.setCore ..).inject ..)) (hs.setCore ..))

theorem barrierCompletionCmd (p : Nat) (k : Packet) : (Machine.barrierCompletionCmd s p k).MemWf :=
  ite hm (hm.arrive _ _ fun hs => ite (hs.barTell ..) (ite ((hs.setCore ..).barSend ..) (hs.setCore ..)))

theorem fabMapCmd (n v : Nat) : (Machine.fabMapCmd s n v).MemWf := ite (hm.setReg ..) hm

theorem fabBypCmd (i v : Nat) (running : Bool) : (Machine.fabBypCmd s i v running).MemWf := ite hm (hm.setReg ..)

theorem mapEntry (e : Nat × Option Nat) : (s.mapEntry e).MemWf :=
  ite hm ((ite ((ite (hm.onCore ..) hm).onCore ..) (ite (hm.onCore ..) hm)).setReg ..)

theorem remap (w h : Nat) : (s.remap w h).MemWf := foldl (fun _ _ hs => hs.mapEntry ..) _ hm

/-! ### Machine/Energy.lean -/

theorem repeats (b : Nat) (r : Repeats) : (s.repeats b r).MemWf := hm.onCore ..

theorem foldBench (b : Nat) : (s.foldBench b).MemWf := foldl (fun _ _ hs => hs.onCore ..) _ (hm.setBench ..)

theorem foldAll : s.foldAll.MemWf := (foldl (fun _ _ hs => hs.foldBench ..) _ hm).en _

theorem setPool (v : Int) : (s.setPool v).MemWf := hm.setReg ..

theorem setQueue (q : List GrantReq) : (s.setQueue q).MemWf := (hm.en _).setField ..

theorem setEnvelope (w : Nat) : (s.setEnvelope w).MemWf := (hm.setReg ..).setPool ..

theorem envAccept (w : Nat) : (s.envAccept w).1.MemWf := ite_fst ((hm.setReg ..).setReg ..) (hm.setEnvelope ..)

theorem envBoundary : s.envBoundary.MemWf := ite (hm.setEnvelope ..) hm

theorem grantRequestMsgCmd (p h : Nat) : (Machine.grantRequestMsgCmd s p h).MemWf := by
  unfold Machine.grantRequestMsgCmd
  split
  · exact hm
  · exact ite (((hm.en _).setQueue ..).bump ..) ((hm.en _).setQueue ..)

theorem grantIssueCmd : (Machine.grantIssueCmd s).MemWf := by
  unfold Machine.grantIssueCmd
  split
  · exact hm
  · exact ite hm (((((hm.setQueue ..).setPool ..).bump ..).setReg ..).onCore ..)

theorem withdraw (p h : Nat) : (s.withdraw p h).MemWf := (hm.en _).setQueue ..

theorem releaseGrant (p h : Nat) : (s.releaseGrant p h).MemWf := by
  unfold Chip.releaseGrant
  split
  · exact hm
  · exact (ite (hm.setPool ..) (hm.withdraw ..)).onCore ..

theorem spendGrant (p h : Nat) : (s.spendGrant p h).MemWf := by
  unfold Chip.spendGrant
  split
  · exact hm
  · exact (ite (hm.en _) (hm.withdraw ..)).onCore ..

theorem settleGrants (p : Nat) : (s.settleGrants p).MemWf :=
  foldl (fun _ _ hs => ite (hs.spendGrant ..) (hs.releaseGrant ..)) _ hm

theorem accountingPeriodCmd (pkg : Nat) (benches : List Repeats) : (Machine.accountingPeriodCmd s pkg benches).MemWf :=
  ite (foldl (fun _ _ hs => hs.repeats ..) _ hm) ((((foldl (fun _ _ hs => hs.repeats ..) _
    hm).bump ..).setPool ..).en _)

theorem calibrationCmd (measured counted n : Nat) : (Machine.calibrationCmd s measured counted n).MemWf :=
  ite (((((hm.foldAll ..).en _).setReg ..).setField ..).log ..) (((hm.foldAll ..).en _).setReg ..)

theorem exceedCheckCmd (mw : Nat) : (Machine.exceedCheckCmd s mw).MemWf :=
  ite ((((hm.setReg ..).setField ..).countTo ..).log ..) (hm.setReg ..)

theorem accountantRunningCmd : (Machine.accountantRunningCmd s).MemWf := ite hm ((hm.setField ..).setPool ..)

theorem setPoint (b pt : Nat) : (s.setPoint b pt).MemWf := ((hm.foldBench ..).setBench ..).setField ..

theorem pointChangeCmd (b : Nat) : (Machine.pointChangeCmd s b).MemWf :=
  ite hm (ite hm (ite (hm.setField ..) ((hm.setPoint ..).setField ..)))

theorem benchParkCmd (b : Nat) : (Machine.benchParkCmd s b).MemWf := ite hm (((hm.setPoint ..).setField ..).setField ..)

theorem markStep : s.markStep.MemWf := hm.en _

theorem setPlan (pt : Nat) : (s.setPlan pt).MemWf :=
  foldl (fun _ _ hs => ite ((hs.setField ..).setField ..) hs) _ (hm.setField ..)

/-! ### Machine/Mailbox.lean -/

theorem mbxWr (m : Mbx) (w v : Nat) : (s.mbxWr m w v).MemWf := by
  unfold Chip.mbxWr
  split
  · exact hm.onCore ..
  · exact hm.setReg ..

theorem notify (s' : Chip) (m : Mbx) : (s.notify s' m).MemWf := by
  unfold Chip.notify
  split
  · exact ite (hm.emit ..) hm
  · exact hm

theorem doorbell (m : Mbx) (ret : Bool) (set clr : Nat) : (s.doorbell m ret set clr).MemWf := (hm.mbxWr ..).notify ..

theorem mbxDbCmd (m : Mbx) (ret : Bool) (a : Agent) (cl v other : Nat) :
    (Machine.mbxDbCmd s m ret a cl v other).MemWf := by
  unfold Machine.mbxDbCmd
  split
  · exact hm
  · exact ite (hm.doorbell ..) (hm.doorbell ..)

theorem mbxMaskCmd (m : Mbx) (ret : Bool) (a : Agent) (cl v : Nat) : (Machine.mbxMaskCmd s m ret a cl v).MemWf := by
  unfold Machine.mbxMaskCmd
  split
  · exact hm
  · exact ite hm ((hm.mbxWr ..).notify ..)

theorem mbxRoleCmd (a : Agent) (v : Nat) : (Machine.mbxRoleCmd s a v).MemWf :=
  ite ((ite (hm.setField ..) hm).setField ..) (ite (hm.setField ..) hm)

/-! ### Machine/Stash.lean -/

theorem setSth (p : Nat) (r : Nat → Nat → Nat) (v : Nat) : (s.setSth p r v).MemWf := hm.setReg ..

theorem sthBump (p : Nat) (r : Nat → Nat → Nat) : (s.sthBump p r).MemWf := hm.bump ..

theorem sthErr (p entry cause : Nat) : (s.sthErr p entry cause).MemWf := hm.setSth ..

theorem framesLost (base : Nat) (frames : List Nat) : (Machine.framesLost s base frames).MemWf := by
  unfold Machine.framesLost
  split
  · exact hm.poisonEvent ..
  · exact hm

theorem framesWr (base : Nat) (fs : List Nat) (bs : List Byte) : (Machine.framesWr s base fs bs).MemWf := by
  induction fs generalizing s bs with
  | nil => exact hm
  | cons f fs ih => exact ih ((hm.hbmUse ..).memWrTry ..) _

theorem framesUse (base : Nat) (frames : List Nat) : (Machine.framesUse s base frames).MemWf :=
  foldl (fun _ _ hs => hs.hbmUse ..) _ hm

theorem reclaim (p : Nat) : (s.reclaim p).MemWf := ite (hm.onCore ..) ((hm.onCore ..).bump ..)

theorem endHold (p : Nat) : (s.endHold p).MemWf := ite hm ((hm.onCore ..).setSth ..)

theorem prefetchStartCmd (p : Nat) : (Machine.prefetchStartCmd s p).MemWf := by
  unfold Machine.prefetchStartCmd
  dsimp only
  split
  · exact hm
  · refine ite hm ?_
    split
    · exact hm
    · exact hm.onCore ..

theorem prefetchDoneCmd (p : Nat) : (Machine.prefetchDoneCmd s p).MemWf := by
  unfold Machine.prefetchDoneCmd
  dsimp only
  split
  · exact hm
  · exact (((hm.framesLost ..).framesWr ..).onCore ..).sthBump ..

theorem stashHoldTimeoutCmd (p : Nat) : (Machine.stashHoldTimeoutCmd s p).MemWf := ite (hm.onCore ..) hm

theorem checkpointArrivalCmd (p : Nat) : (Machine.checkpointArrivalCmd s p).MemWf := by
  unfold Machine.checkpointArrivalCmd
  dsimp only
  split
  · exact hm
  · split
    · exact hm.setCore ..
    · exact ite hm (((hm.framesLost ..).framesUse ..).setCore ..)

theorem stashBoundary (p : Nat) : (s.stashBoundary p).MemWf := by
  unfold Chip.stashBoundary
  dsimp only
  split
  · exact (hm.endHold ..).onCore ..
  · exact (((hm.endHold ..).onCore ..).sthErr ..).onCore ..

theorem sthWriteCmd (p o v : Nat) (running : Bool) : (Machine.sthWriteCmd s p o v running).MemWf :=
  ite hm (ite (ite (hm.setSth ..) (hm.sthErr ..)) (ite (ite (hm.setSth ..) (hm.sthErr ..)) (ite (ite (hm.setSth ..)
    (hm.sthErr ..)) (ite (ite (hm.setSth ..) (hm.sthErr ..)) (ite (hm.setSth ..) (ite (ite hm (hm.setSth ..)) hm))))))

/-! ### Machine/Ready.lean -/

theorem useSpans (p : Nat) (rs : List Span) : (s.useSpans p rs).MemWf := by
  unfold Chip.useSpans
  refine foldl (fun _ _ hs => ?_) _ hm
  split
  · exact hs.hbmUse ..
  · exact hs.onCore ..
  · exact hs

/-! ### Machine/StashOps.lean -/

theorem stshCmd (p id : Nat) : (Machine.stshCmd s p id).MemWf := by
  unfold Machine.stshCmd
  dsimp only
  split
  · exact hm
  · refine ite hm ?_
    refine ite ?_ (ite ((hm.onCore ..).sthBump ..) hm)
    refine ite ((hm.setCore ..).sthErr ..) ?_
    refine ite ((hm.setCore ..).sthErr ..) ?_
    refine ite ((hm.setCore ..).sthErr ..) ?_
    split
    · exact hm
    · exact (((hm.endHold ..).setCore ..).framesWr ..).reclaim ..

theorem usthCmd (p id : Nat) : (Machine.usthCmd s p id).MemWf := by
  unfold Machine.usthCmd
  dsimp only
  split
  · exact hm
  · refine ite hm ?_
    refine ite ((hm.setCore ..).sthErr ..) ?_
    split
    · exact (hm.setCore ..).sthErr ..
    · exact ite ((hm.setCore ..).sthErr ..) (ite (hm.setCore ..) ((ite
        ((((hm.setCore ..).framesLost ..).framesUse ..).sthBump ..)
        (((hm.setCore ..).framesLost ..).framesUse ..)).reclaim ..))

theorem spillDoneCmd (p : Nat) : (Machine.spillDoneCmd s p).MemWf := by
  unfold Machine.spillDoneCmd
  dsimp only
  split
  · exact hm
  · refine ite hm ?_
    split
    · exact ((((((hm.framesLost ..).framesUse ..).framesWr ..).onCore ..).sthBump ..).reclaim ..).stshCmd ..
    · exact (((((hm.framesLost ..).framesUse ..).framesWr ..).onCore ..).sthBump ..).reclaim ..

/-! ### Machine/Mover.lean -/

theorem kerfPut (q : Nat) (r : KerfRec) : (s.kerfPut q r).MemWf :=
  ite (hm.setCore ..) (((hm.setCore ..).memWrTry ..).memWrTry ..)

theorem opStart (p id code : Nat) (run : Core → TOp → Core × List KerfRec) :
    (Machine.opStart s p id code run).MemWf := by
  unfold Machine.opStart
  dsimp only
  split
  · exact hm
  · refine ite hm ?_
    refine ite (ite (hm.setCore ..) hm) ?_
    split
    · exact foldl (fun _ _ hs => hs.kerfPut ..) _ (hm.setCore ..)
    · exact hm.setCore ..

theorem cvtCmd (p id : Nat) : (Machine.cvtCmd s p id).MemWf := hm.opStart ..

theorem pdrnCmd (p id : Nat) : (Machine.pdrnCmd s p id).MemWf := hm.opStart ..

theorem ldtCmd (p id : Nat) : (Machine.ldtCmd s p id).MemWf := hm.opStart ..

theorem redCmd (p id : Nat) : (Machine.redCmd s p id).MemWf := hm.opStart ..

theorem kcapCmd (p id : Nat) : (Machine.kcapCmd s p id).MemWf := hm.opStart ..

theorem askLines (p : Nat) (t : TOp) : (s.askLines p t).MemWf := foldl (fun _ _ hs => hs.inject ..) _ (hm.onCore ..)

theorem movFinish (p : Nat) (t : TOp) (codes : List Byte) (exps : List Nat) (lost preBad : Bool) :
    (Machine.movFinish s p t codes exps lost preBad).MemWf :=
  ite (hm.setCore ..) (ite (hm.setCore ..) (ite (hm.setCore ..) (ite (hm.setCore ..) (foldl (fun _ _ hs =>
    hs.inject ..) _ (hm.setCore ..)))))

theorem movGo (p : Nat) (t : TOp) : (Machine.movGo s p t).MemWf := by
  unfold Machine.movGo
  refine .movFinish ?_ ..
  refine .useSpans ?_ ..
  split
  · exact hm.poisonEvent ..
  · exact hm

theorem movCmd (p id : Nat) : (Machine.movCmd s p id).MemWf := by
  unfold Machine.movCmd
  dsimp only
  split
  · exact hm
  · exact ite hm (ite (hm.setCore ..) (ite ((hm.setCore ..).movFinish ..) (ite ((hm.setCore ..).movFinish ..) (ite
      ((hm.setCore ..).setCore ..) (ite ((hm.setCore ..).movGo ..) ((hm.setCore ..).askLines ..))))))

theorem igthGo (p : Nat) (t : TOp) : (Machine.igthGo s p t).MemWf := by
  unfold Machine.igthGo
  refine .setCore ?_ ..
  refine .useSpans ?_ ..
  split
  · exact hm.poisonEvent ..
  · exact hm

theorem igthCmd (p id : Nat) : (Machine.igthCmd s p id).MemWf := by
  unfold Machine.igthCmd
  dsimp only
  split
  · exact hm
  · exact ite hm (ite ((hm.setCore ..).setCore ..) (ite ((hm.setCore ..).setCore ..) (ite ((hm.setCore ..).igthGo ..)
      ((hm.setCore ..).askLines ..))))

theorem storeReadResponseCmd (p : Nat) (k : Packet) : (Machine.storeReadResponseCmd s p k).MemWf := by
  unfold Machine.storeReadResponseCmd
  refine hm.arrive _ _ fun hs => ?_
  split
  · exact hs
  · split
    · exact ite hs (ite (hs.onCore ..) (ite ((hs.onCore ..).igthGo ..) ((hs.onCore ..).movGo ..)))
    · exact hs

theorem storeWriteAckCmd (p : Nat) (k : Packet) : (Machine.storeWriteAckCmd s p k).MemWf :=
  hm.arrive _ _ fun hs => hs.onCore ..

theorem daccCmd (p id : Nat) : (Machine.daccCmd s p id).MemWf := by
  unfold Machine.daccCmd
  dsimp only
  split
  · exact hm
  · exact ite hm (ite (ite (hm.holdWrite ..) hm) (ite (hm.setCore ..) (ite ((hm.hbmUse ..).setCore ..) (ite
      (((hm.hbmUse ..).memWrTry ..).setCore ..) (ite (((((hm.hbmUse ..).hbmUse ..).memWrTry ..).memWrTry ..).setCore ..)
      ((ite ((((hm.hbmUse ..).hbmUse ..).memWrTry ..).memWrTry ..)
      (((hm.hbmUse ..).hbmUse ..).memWrTry ..)).setCore ..))))))

omit hm in
theorem daccElem {h d : List Byte} {o : OutItem} {st : Chip × Bool} (hst : st.1.MemWf) (m : Nat) :
    (Machine.daccElem h d o st m).1.MemWf := by
  unfold Machine.daccElem
  dsimp only
  split
  · exact hst
  · split
    · exact hst
    · exact MemWf.memWr hst ..

theorem daccInit (h d : List Byte) (o : OutItem) : (Machine.daccInit s h d o).MemWf :=
  foldl (fun _ _ hs => foldl (fun _ _ hs => hs.memWrTry ..) _ hs) _ hm

theorem daccUse (h d : List Byte) (o : OutItem) (writes : Bool) : (s.daccUse h d o writes).MemWf :=
  ite ((hm.hbmUse ..).hbmUse ..) (foldl (fun _ _ hs => ite (hs.hbmUse ..) ((hs.hbmUse ..).hbmUse ..)) _
    ((hm.hbmUse ..).hbmUse ..))

theorem daccApplyCmd (p id : Nat) : (Machine.daccApplyCmd s p id).MemWf := by
  have hfold {h d : List Byte} {o : OutItem} (l : List Nat) {a : Chip × Bool} (ha : a.1.MemWf) :
      (l.foldl (Machine.daccElem h d o) a).1.MemWf := foldl_fst (fun _ x hst => daccElem hst x) l ha
  unfold Machine.daccApplyCmd
  dsimp only
  split
  · exact hm
  · split
    · exact ite hm (ite hm.holdWrite (onCore (memWrTry (ite (poisonEvent (daccUse (ite_fst hm (ite_fst (hm.daccInit ..)
        (hfold _ hm))) ..) ..) (ite (poisonEvent (daccUse (ite_fst hm (ite_fst (hm.daccInit ..) (hfold _ hm))) ..) ..)
        (daccUse (ite_fst hm (ite_fst (hm.daccInit ..) (hfold _ hm))) ..))) ..) ..))
    · exact hm

theorem opCommit (p id : Nat) : (Machine.opCommit s p id).MemWf := by
  unfold Machine.opCommit
  dsimp only
  split
  · exact hm
  · exact ite hm (ite (hm.holdWrite ..) (ite hm (foldl (fun _ _ hs => ((hs.wake ..).hbmUse ..).memWrTry ..) _
      (hm.setCore ..))))

theorem operationCommitCmd (p : Nat) (id : Option Nat) : (Machine.operationCommitCmd s p id).MemWf := by
  unfold Machine.operationCommitCmd
  split
  · exact hm.opCommit ..
  · exact hm.onCore ..

/-! ### Machine/Sched.lean -/

theorem condBlockHeadCmd (p : Nat) : (Machine.condBlockHeadCmd s p).MemWf := by
  unfold Machine.condBlockHeadCmd
  dsimp only
  split
  · exact hm
  · exact ite hm (ite ((hm.setCore ..).releaseGrant ..) (hm.setCore ..))

theorem blockDispatchCmd (p : Nat) : (Machine.blockDispatchCmd s p).MemWf :=
  ite hm (ite (hm.setCore ..) (hm.setCore ..))

theorem blockSweep (p : Nat) : (s.blockSweep p).MemWf := foldl (fun _ _ hs => hs.spendGrant ..) _ (hm.setCore ..)

theorem blockLaunchCmd (p : Nat) (be : Bool) : (Machine.blockLaunchCmd s p be).MemWf := by
  unfold Machine.blockLaunchCmd
  split
  · exact ite hm (hm.setCore ..)
  · exact hm

theorem launchCmd (p : Nat) (be : Bool) (ok : Nat → Bool) : (Machine.launchCmd s p be ok).MemWf :=
  (hm.setCore ..).blockSweep ..

theorem latencyReachedCmd (p : Nat) (be : Bool) : (Machine.latencyReachedCmd s p be).MemWf :=
  (hm.setCore ..).blockSweep ..

theorem markNew (p : Nat) : (s.markNew p).MemWf := hm.setCore ..

theorem coreRun (p t0 : Nat) : (s.coreRun p t0).MemWf := hm.setCore ..

/-! ### Machine/Job.lean -/

theorem resetUnits (p : Nat) : (s.resetUnits p).MemWf := ((hm.settleGrants ..).onCore ..).dropPackets ..

theorem blockResetCore (p : Nat) : (s.blockResetCore p).MemWf := (hm.resetUnits ..).onCore ..

theorem loadStash (p : Nat) (e : List Byte) : (Machine.loadStash s p e).MemWf :=
  (((((hm.setSth ..).setSth ..).setSth ..).setSth ..).setSth ..).setSth ..

theorem loadCores : (Machine.loadCores s).MemWf := by
  unfold Machine.loadCores
  dsimp only
  exact foldl (fun _ _ hs => foldl (fun _ _ hs => hs.log ..) _ (((hs.resetUnits ..).setCore ..).loadStash ..)) _ hm

theorem loadRegions (img : List Byte) (r : Nat) : (Machine.loadRegions s img r).1.MemWf := by
  unfold Machine.loadRegions
  refine ite_fst hm (foldl_fst (fun a g ha => ?_) _ hm)
  split
  · exact ha
  · split
    · exact ha
    · exact ite_fst (((setReg ha ..).setReg ..).memRgnCtlWrite ..) (((setReg ha ..).setReg ..).memRgnCtlWrite ..)

theorem jobDrop : s.jobDrop.MemWf := ((foldl (fun _ _ hs => ite (hs.setField ..) hs) _ hm).memJobstWrite ..).snp_job _ _

theorem partnerRegions : s.partnerRegions.MemWf := by
  unfold Chip.partnerRegions
  refine foldl (fun _ _ hs => ?_) _ hm
  refine ite hs ?_
  split
  · exact hs.setField ..
  · exact hs

theorem loadFinish : (Machine.loadFinish s).1.MemWf := by
  have hmap := hm.partnerRegions.remap (imgW s.job.image) (imgH s.job.image)
  unfold Machine.loadFinish
  exact ite_fst hmap.jobDrop (ite_fst hmap.jobDrop (snp_job (memJobstWrite (setField (foldl (fun _ _ hs =>
    hs.setReg ..) _
    (((((foldl (fun _ _ hs => hs.memWrTry ..) _
      hmap).loadCores.setReg ..).setReg ..).setReg ..).setReg ..)) ..) ..) _ _))

theorem stepBegin (step base : Nat) : (s.stepBegin step base).MemWf :=
  foldl (fun _ _ hs => ((ite (hs.onCore ..) hs).onCore ..).doorbell ..) _ hm

/-! ### Machine/Channels.lean -/

theorem setBuf (c : Nat) (b : Bytes) : (s.setBuf c b).MemWf := hm.vcf _

theorem chWrN (m : Mbx) (a : Nat) (bs : List Byte) : (s.chWrN m a bs).MemWf := by
  unfold Chip.chWrN
  split
  · exact hm.onCore ..
  · exact hm.setBuf ..

theorem chWr (m : Mbx) (a n v : Nat) : (s.chWr m a n v).MemWf := hm.chWrN ..

theorem setView (m : Mbx) (ch : Nat) (v : ChanView) : (s.setView m ch v).MemWf := hm.vcf _

theorem chanInit (c ch : Nat) : (s.chanInit c ch).MemWf := ((hm.chWrN ..).chWrN ..).setView ..

theorem chanError (m : Mbx) (ch cause : Nat) : (s.chanError m ch cause).MemWf := ((hm.chWr ..).log ..).raise ..

theorem reclaimSlots (m : Mbx) (ch : Nat) : (s.reclaimSlots m ch).MemWf :=
  (foldl (fun _ _ hs => hs.chWr ..) _ hm).setView ..

theorem channelNoticeCmd (m : Mbx) (ch : Nat) : (Machine.channelNoticeCmd s m ch).MemWf :=
  ite hm (ite (hm.doorbell ..) (ite (hm.doorbell ..) (ite ((hm.doorbell ..).chanError ..) (ite
    ((hm.doorbell ..).chanError ..) (((hm.doorbell ..).setView ..).reclaimSlots ..)))))

theorem complete (m : Mbx) (ch idx seq status detail : Nat) (result : List Byte) :
    (s.complete m ch idx seq status detail result).MemWf :=
  ((hm.chWrN ..).chWr ..).doorbell ..

theorem takeCmd (m : Mbx) (ch : Nat) : (s.takeCmd m ch).MemWf := hm.chWr ..

theorem finish (r : RunCmd) (status detail : Nat) (result : List Byte) : (s.finish r status detail result).MemWf := by
  unfold Chip.finish
  exact (hm.vcf _).complete ..

theorem keep (r : RunCmd) : (s.keep r).MemWf := hm.vcf _

theorem vcfCmd (c ch op : Nat) {run : Chip → RunCmd → Chip}
    (hrun : ∀ {s : Chip} (r : RunCmd), s.MemWf → (run s r).MemWf) : (Machine.vcfCmd s c ch op run).MemWf := by
  have fail {r x y z} : ((s.takeCmd (.chip (8 + c)) ch).finish r x y z).MemWf := (hm.takeCmd ..).finish ..
  unfold Machine.vcfCmd
  dsimp only
  refine ite hm ?_
  split
  · exact hm
  · refine ite fail (ite fail (ite fail (ite fail (ite fail ?_))))
    split
    · exact fail
    · refine ite hm (ite fail (ite fail ?_))
      split
      · exact fail
      · exact ite fail (hrun _ (hm.takeCmd ..))

/-! ### Machine/Snapshot.lean -/

theorem clearSlot (layer : Nat) : (Machine.clearSlot s layer).MemWf := by
  unfold Machine.clearSlot
  refine ite ?_ (hm.snp _)
  split
  · exact hm.memWrTry ..
  · exact hm

theorem failSnapTake (layer : Nat) : (Machine.failSnapTake s layer).MemWf := foldl (fun _ _ hs => hs.finish ..) _ hm

theorem abandonUpload : s.abandonUpload.MemWf := by
  unfold Chip.abandonUpload
  split
  · exact hm
  · exact ((((hm.snp _).failSnapTake ..).setField ..).bump ..).log ..

theorem captureStart (step : Nat) : (Machine.captureStart s step).MemWf := by
  unfold Machine.captureStart
  refine ite (hm.snp _) ?_
  refine .setReg ?_ ..
  refine .snp ?_ _
  refine foldl (fun _ _ hs => ?_) _ ?_
  · exact hs.clearSlot ..
  · split
    · exact ite (hm.abandonUpload ..) hm
    · exact hm

theorem captureRelease : (Machine.captureRelease s).MemWf := ite hm (((hm.snp _).setField ..).setField ..)

theorem captureReport (step layer : Nat) : (Machine.captureReport s step layer).MemWf := ite (hm.snp _) (hm.emit ..)

theorem captureCompleteCmd (layer : Nat) : (Machine.captureCompleteCmd s layer).MemWf := by
  unfold Machine.captureCompleteCmd
  refine ite hm ?_
  refine .captureReport ?_ ..
  refine .captureRelease ?_ ..
  refine .snp ?_ _
  refine .bump ?_ ..
  refine ite ?_ ((hm.snp _).emit ..)
  refine .emit ?_ ..
  split
  · exact hm.memWrTry ..
  · exact hm

theorem finishSnapTake (layer step : Nat) : (Machine.finishSnapTake s layer step).MemWf :=
  foldl (fun _ _ hs => hs.finish ..) _ hm

theorem setLast (layer step : Nat) : (Machine.setLast s layer step).MemWf := hm.setReg ..

theorem uploadStart (step : Nat) : (Machine.uploadStart s step).MemWf :=
  ite (hm.snp _) (ite (((hm.snp _).log ..).failSnapTake ..) ((hm.snp _).setField ..))

theorem commitLayer (layer step : Nat) : (Machine.commitLayer s layer step).MemWf :=
  ite (((((hm.snp _).setLast ..).finishSnapTake ..).captureRelease ..).uploadStart ..)
    ((((hm.snp _).setLast ..).finishSnapTake ..).captureRelease ..)

theorem tellAll (m : StewardMsg) : (s.tellAll m).MemWf := foldl (fun _ _ hs => hs.emit ..) _ hm

theorem captureCommitCmd (layer : Nat) : (Machine.captureCommitCmd s layer).MemWf :=
  ite hm ((hm.commitLayer ..).tellAll ..)

theorem destinationFailCmd (layer : Nat) : (Machine.destinationFailCmd s layer).MemWf :=
  ite (hm.abandonUpload ..) (ite hm (((((hm.snp _).bump ..).log ..).failSnapTake ..).captureRelease ..))

theorem captureAbandon : (Machine.captureAbandon s).MemWf :=
  ((foldl (fun _ _ hs => ((hs.failSnapTake ..).bump ..).log ..) _ (foldl (fun _ _ hs => hs.clearSlot ..) _
    hm)).snp _).captureRelease ..

theorem uploadDoneCmd : (Machine.uploadDoneCmd s).MemWf := by
  unfold Machine.uploadDoneCmd
  split
  · exact hm
  · exact ite (((((((hm.snp _).setField ..).emit ..).captureReport ..).setLast ..).finishSnapTake ..).tellAll ..)
      ((((hm.snp _).setField ..).emit ..).captureReport ..)

theorem cowCopyCmd (a : Nat) : (Machine.cowCopyCmd s a).MemWf := ite hm (((hm.snp _).bump ..).setField ..)

theorem snpWrite (a v : Nat) : (Machine.snpWrite s a v).MemWf :=
  ite hm (ite (ite hm (hm.setReg ..)) (ite (ite hm (hm.setReg ..)) (ite (hm.setReg ..) (ite (ite hm (hm.setReg ..))
    hm))))

theorem restoreRegion (b : List Byte) : (Machine.restoreRegion s b).MemWf :=
  foldl_fst (fun _ _ ha => MemWf.memWrTry ha ..) _ hm

theorem haltUnits : s.haltUnits.MemWf := by
  unfold Chip.haltUnits
  refine foldl (fun _ _ hs => ?_) _ hm
  split
  · exact hs.resetUnits ..

theorem restorePart {img : List Byte} {t : Chip} (ht : Machine.restorePart s img = some t) : t.MemWf := by
  have hmap := hm.captureAbandon.haltUnits.remap (imgW s.job.image) (imgH s.job.image)
  have h : ∀ t ∈ Machine.restorePart s img, t.MemWf := by
    unfold Machine.restorePart
    refine of_mem_ite of_mem_none (of_mem_some (en_job (foldl (fun _ _ hs => hs.setReg ..) _ (foldl (fun s i hs => ?_) _
      (restoreRegion (foldl (fun s c hs => ?_) _ hmap) _))) _ _))
    · split
      extract_lets
      split
      split
      exact ite (foldl (fun _ _ hs => hs.log _) _ (foldl (fun _ _ hs => hs.log _) _ (hs.setCore ..))) (foldl (fun _ _ hs
        => hs.log _) _ (hs.setCore ..))
    · split
      extract_lets
      split
      exact ((hs.resetUnits ..).setCore ..).loadStash ..
  exact h t ht

theorem keepSlot (layer k : Nat) : (Machine.keepSlot s layer k).MemWf := by
  unfold Machine.keepSlot
  refine ite hm ?_
  split
  · exact hm.snp _
  · exact hm

theorem restoreTo {layer k : Nat} {ext : List (List Byte)} {t : Chip} (ht : Machine.restoreTo s layer k ext = some t) :
    t.MemWf := by
  unfold Machine.restoreTo at ht
  split at ht
  · cases ht
  · exact (hm.keepSlot ..).restorePart ht

/-! ### Machine/JobCtl.lean -/

theorem finishStepRun (status detail : Nat) : (Machine.finishStepRun s status detail).MemWf :=
  foldl (fun _ _ hs => hs.finish ..) _ hm

theorem finishStepPause : (Machine.finishStepPause s).MemWf := foldl (fun _ _ hs => hs.finish ..) _ hm

theorem requestPause (status detail : Nat) : (Machine.requestPause s status detail).MemWf := ite (hm.job _) hm

theorem faultPause (src : Nat) : (Machine.faultPause s src).MemWf := ite ((hm.requestPause ..).tellAll ..) hm

theorem haltHere (detail : Nat) : (Machine.haltHere s detail).MemWf :=
  (((hm.captureAbandon ..).haltUnits ..).job _).finishStepRun ..

theorem waitJob : s.waitJob.MemWf := hm.job _

theorem restoreLatest (media : Media) : (Machine.restoreLatest s media).MemWf := by
  unfold Machine.restoreLatest
  split
  · exact (hm.waitJob ..).tellAll ..
  · split
    · exact (hm.waitJob ..).tellAll ..
    · exact (hm.restoreTo ‹_›).tellAll ..

theorem faultHalt (detail : Nat) (media : Media) : (Machine.faultHalt s detail media).MemWf :=
  ite hm (ite (((hm.haltHere ..).tellAll ..).restoreLatest ..) ((hm.haltHere ..).emit ..))

theorem stallHalt (detail : Nat) (media : Media) : (Machine.stallHalt s detail media).MemWf :=
  ite hm (ite (hm.haltHere ..) ((hm.job _).faultHalt ..))

theorem linkPause (detail : Nat) : (Machine.linkPause s detail).MemWf :=
  ite ((ite (hm.haltHere ..) hm).job _) (ite (hm.haltHere ..) hm)

theorem commitEnd (phase status cause : Nat) : (s.commitEnd phase status cause).MemWf :=
  foldl (fun _ _ hs => hs.finish ..) _ ((ite ((hm.setField ..).setField ..)
    (((hm.setField ..).setField ..).setField ..)).vcf_sec _ _)

theorem switchover : s.switchover.MemWf := foldl (fun _ _ hs => hs.finish ..) _ ((hm.setField ..).requestPause ..)

/-! ### Machine/Links.lean -/

theorem sendFlit (l ty fseq : Nat) (payload : List Byte) : (s.sendFlit l ty fseq payload).MemWf :=
  (hm.setLink ..).emit ..

theorem sendSeq (l ty : Nat) (payload : List Byte) : (s.sendSeq l ty payload).MemWf :=
  ((hm.setLink ..).sendFlit ..).bump ..

theorem pump (n l : Nat) : (s.pump n l).MemWf := by
  induction n generalizing s with
  | zero => exact hm
  | succ n ih =>
    unfold Chip.pump
    dsimp only
    refine ite hm ?_
    split
    · exact ite hm (ih ((hm.setLink ..).sendSeq ..))
    · split
      · exact hm
      · exact ih (foldl (fun _ _ hs => hs.sendSeq ..) _ (hm.setLink ..))

theorem pumpAll (l : Nat) : (s.pumpAll l).MemWf := hm.pump ..

theorem linkEnqueue (l : Nat) (k : Packet) : (s.linkEnqueue l k).MemWf := ite (hm.bump ..) ((hm.setLink ..).pumpAll ..)

theorem floodOut (r : LsRecord) (skip : Option Nat) : (s.floodOut r skip).MemWf :=
  foldl (fun _ _ hs => ite ((hs.setLink ..).pumpAll ..) hs) _ hm

theorem floodOwn (replan : Bool) : (s.floodOwn replan).MemWf := (hm.flood _).floodOut ..

theorem installPlan : (Machine.installPlan s).MemWf :=
  (ite ((((ite (foldl (fun _ _ hs => hs.setReg ..) _ (foldl (fun _ _ hs => hs.setReg ..) _ hm)) (((foldl (fun _ _ hs =>
    hs.setReg ..) _ (foldl (fun _ _ hs => hs.setReg ..) _ hm)).setField ..).ts _)).setReg ..).setField ..).setReg ..)
    (((ite (foldl (fun _ _ hs => hs.setReg ..) _ (foldl (fun _ _ hs => hs.setReg ..) _ hm)) (((foldl (fun _ _ hs =>
    hs.setReg ..) _ (foldl (fun _ _ hs => hs.setReg ..) _ hm)).setField ..).ts _)).setReg ..).setField ..)).ts_flood _ _

theorem slDown (l cause : Nat) : (s.slDown l cause).MemWf := ite (hm.setField ..) ((hm.setReg ..).setReg ..)

theorem linkStop (l : Nat) (st : LinkSt) : (s.linkStop l st).MemWf := (hm.bump ..).setLink ..

theorem linkDown (l cause : Nat) : (s.linkDown l cause).MemWf :=
  ite ((ite ((((hm.linkStop ..).slDown ..).raise ..).floodOwn ..) (((hm.linkStop ..).slDown ..).raise ..)).linkPause ..)
    (ite ((((hm.linkStop ..).slDown ..).raise ..).floodOwn ..) (((hm.linkStop ..).slDown ..).raise ..))

theorem slRetireCmd (l : Nat) : (Machine.slRetireCmd s l).MemWf :=
  ite hm (ite ((((hm.linkStop ..).slDown ..).setField ..).floodOwn ..) (((hm.linkStop ..).slDown ..).setField ..))

theorem slCtlEnCmd (l v : Nat) : (Machine.slCtlEnCmd s l v).MemWf :=
  ite hm (ite ((ite (hm.setField ..) hm).setField ..) (ite (((ite (hm.setField ..) hm).setField ..).setLink ..) (ite
    (ite ((((ite (hm.setField ..) hm).setField ..).linkStop ..).floodOwn ..) (((ite (hm.setField ..)
    hm).setField ..).linkStop ..)) ((ite (hm.setField ..) hm).setField ..))))

theorem pmdDoneCmd (l : Nat) : (Machine.pmdDoneCmd s l).MemWf := ite (hm.setLink ..) hm

theorem fecLockCmd (l : Nat) : (Machine.fecLockCmd s l).MemWf := ite ((hm.setLink ..).sendFlit ..) hm

theorem trainingTimeoutCmd (l : Nat) : (Machine.trainingTimeoutCmd s l).MemWf := by
  unfold Machine.trainingTimeoutCmd
  dsimp only
  split
  · exact ite (hm.linkDown ..) hm
  · exact hm

theorem linkUp (l chip link : Nat) : (s.linkUp l chip link).MemWf := (((hm.setLink ..).raise ..).log ..).floodOwn ..

theorem identFlitCmd (l : Nat) (h : FlitHdr) (hw chip link major : Nat) :
    (Machine.identFlitCmd s l h hw chip link major).MemWf :=
  ite hm (ite (hm.setLink ..) (ite hm (ite (((hm.setLink ..).slDown ..).raise ..) (hm.linkUp ..))))

theorem linkRetrainCmd (l : Nat) : (Machine.linkRetrainCmd s l).MemWf := ite (hm.setLink ..) hm

theorem laneLossCmd (l : Nat) : (Machine.laneLossCmd s l).MemWf := ite (hm.linkDown ..) hm

theorem fecFailureCmd (l n : Nat) : (Machine.fecFailureCmd s l n).MemWf :=
  ite hm (ite ((hm.setField ..).linkDown ..) (hm.setField ..))

theorem linkDegradeCmd (l n : Nat) : (Machine.linkDegradeCmd s l n).MemWf := ite hm ((hm.setField ..).raise ..)

theorem replay (l : Nat) : (s.replay l).MemWf :=
  ite hm (ite (hm.linkDown ..) (ite (hm.linkDown ..) (foldl (fun _ _ hs => hs.sendFlit ..) _ (((ite (hm.countTo ..)
    hm).countTo ..).setLink ..))))

theorem ackTimeoutCmd (l : Nat) : (Machine.ackTimeoutCmd s l).MemWf := ite (hm.replay ..) hm

theorem nakRepeatCmd (l : Nat) : (Machine.nakRepeatCmd s l).MemWf := by
  unfold Machine.nakRepeatCmd
  dsimp only
  split
  · exact ite ((hm.setLink ..).sendFlit ..) hm
  · exact hm

theorem episodeTimeoutCmd (l : Nat) : (Machine.episodeTimeoutCmd s l).MemWf := by
  unfold Machine.episodeTimeoutCmd
  dsimp only
  split
  · exact ite (hm.linkDown ..) hm
  · exact hm

theorem openGap (l : Nat) : (s.openGap l).MemWf := ite hm ((hm.setLink ..).sendFlit ..)

theorem rxSeq (l : Nat) (h : FlitHdr) : (s.rxSeq l h).1.MemWf := by
  have hl := (hm.setLink l ((s.link l).header h s.now)).pumpAll l
  unfold Chip.rxSeq
  exact ite_fst (hm.openGap ..) (ite_fst ((hl.setLink ..).bump ..) (ite_fst (hl.openGap ..) hl))

theorem dataFlitCmd (l : Nat) (h : FlitHdr) (payload : List Byte) : (Machine.dataFlitCmd s l h payload).MemWf :=
  ite hm (ite (hm.rxSeq ..) ((hm.rxSeq ..).setLink ..))

theorem idleFlitCmd (l : Nat) (h : FlitHdr) : (Machine.idleFlitCmd s l h).MemWf :=
  ite hm (ite (hm.openGap ..) ((hm.setLink ..).pumpAll ..))

theorem nakFlitCmd (l : Nat) (h : FlitHdr) : (Machine.nakFlitCmd s l h).MemWf :=
  ite hm (ite (hm.openGap ..) (ite (hm.setLink ..) ((hm.setLink ..).replay ..)))

theorem lmFlitCmd (l : Nat) (h : FlitHdr) (r : LsRecord) : (Machine.lmFlitCmd s l h r).MemWf :=
  ite hm (ite (hm.rxSeq ..) (ite (ite (hm.rxSeq ..) (((((hm.rxSeq ..).flood _).log ..).raise ..).floodOut ..)) (ite
    (hm.rxSeq ..) ((ite (((hm.rxSeq ..).flood _).linkPause ..) ((hm.rxSeq ..).flood _)).floodOut ..))))

theorem enterMesh (n : Nat) (k : Packet) (dc dr st : Nat) : (s.enterMesh n k dc dr st).MemWf := hm.flying _

theorem linkStopPacketCmd (l : Nat) : (Machine.linkStopPacketCmd s l).MemWf := by
  unfold Machine.linkStopPacketCmd
  dsimp only
  split
  · exact hm
  · refine ite ?_ (ite ((((hm.setLink ..).setLink ..).bump ..).raise ..) (ite
      ((((hm.setLink ..).setLink ..).bump ..).linkEnqueue ..) ((((hm.setLink ..).setLink ..).bump ..).enterMesh ..)))
    refine ite (ite (((hm.setLink ..).setLink ..).enterMesh ..) (((hm.setLink ..).setLink ..).memResp _)) ?_
    split
    · exact ((hm.setLink ..).setLink ..).enterMesh ..
    · exact (((hm.setLink ..).setLink ..).recordDiscard ..).raise ..

theorem packetForwardLinkCmd (r : Nat) (k : Packet) (chk : FlitCheck) :
    (Machine.packetForwardLinkCmd s r k chk).MemWf := by
  unfold Machine.packetForwardLinkCmd
  dsimp only
  split
  · exact ((hm.packetForwardCmd ..).flying _).linkEnqueue ..
  · exact hm.packetForwardCmd ..

theorem slRtCmd (n v : Nat) : (Machine.slRtCmd s n v).MemWf := ite (hm.setReg ..) hm

theorem tsCfgCmd (v : Nat) : (Machine.tsCfgCmd s v).MemWf := (hm.setReg ..).floodOwn ..

theorem timeExchangeCmd (l : Nat) (t1 : Int) : (Machine.timeExchangeCmd s l t1).MemWf :=
  ite hm (((ite (hm.countTo ..) hm).setLink ..).sendFlit ..)

theorem timeFlitCmd (l : Nat) (h : FlitHdr) (t : TimePayload) (ta td : Int) :
    (Machine.timeFlitCmd s l h t ta td).MemWf := by
  unfold Machine.timeFlitCmd
  dsimp only
  refine ite hm ?_
  refine ite (hm.openGap ..) ?_
  split
  · exact ((hm.setLink ..).pumpAll ..).sendFlit ..
  · split
    · exact (hm.setLink ..).pumpAll ..
    · exact ite ((hm.setLink ..).pumpAll ..) (ite
        ((((((hm.setLink ..).pumpAll ..).setLink ..).setReg ..).countTo ..).ts _)
        ((((hm.setLink ..).pumpAll ..).setLink ..).setReg ..))

theorem disciplineCmd (pSync : Bool) : (Machine.disciplineCmd s pSync).MemWf :=
  ite hm (ite (ite (((((hm.setField ..).setReg ..).setReg ..).ts _).setField ..) (ite
    (((((hm.setField ..).setReg ..).setReg ..).ts _).setField ..) ((((hm.setField ..).setReg ..).setReg ..).ts _)))
    (((hm.setField ..).ts _).setField ..))

/-! ### Machine/Power.lean -/

omit hm in
theorem reset : Chip.reset.MemWf := ⟨rfl, rfl⟩
theorem islandReset : s.islandReset.MemWf := by
  have hreset : Chip.MemWf (heldRegs.foldl (fun c a => c.setReg a (s.reg a)) Chip.reset) :=
    foldl (fun _ _ hs => hs.setReg ..) _ reset
  unfold Chip.islandReset
  generalize heldRegs.foldl _ _ = c at hreset ⊢
  exact ⟨hreset.ofHbm, hm.ofCxl⟩

theorem faultReset (src : Nat) : (s.faultReset src).MemWf := ite hm (((hm.islandReset ..).setReg ..).setReg ..)

theorem sysRstCmd : (Machine.sysRstCmd s).MemWf :=
  ite hm (ite ((hm.islandReset ..).pins _) ((((hm.islandReset ..).pins _).setReg ..).setReg ..))

theorem sysRstReleaseCmd : (Machine.sysRstReleaseCmd s).MemWf := hm.pins _

theorem enterHold : s.enterHold.MemWf := ite hm (ite ((hm.hold _).emit ..) (hm.hold _))

omit hm in
theorem powerOff : s.powerOff.MemWf := ⟨rfl, rfl⟩

omit hm in
theorem pwrOkFallCmd : (Machine.pwrOkFallCmd s).MemWf := powerOff.pins _

omit hm in
theorem vddAonLowCmd : (Machine.vddAonLowCmd s).MemWf := powerOff.pins _

theorem bootStart : s.bootStart.MemWf := hm.pins _

theorem powerGoodCmd (tj straps i3c : Nat) : (Machine.powerGoodCmd s tj straps i3c).MemWf :=
  ite hm (ite (hm.pins _) (ite (hm.pins _) ((hm.pins _).bootStart ..)))

theorem railsWithinRangeCmd : (Machine.railsWithinRangeCmd s).MemWf := ite ((hm.pins _).bootStart ..) (hm.pins _)

theorem thermalOff : s.thermalOff.MemWf := (hm.islandReset ..).hold_pins _ _

theorem mepResetCmd : (Machine.mepResetCmd s).MemWf := hm.pins _

theorem bootHalt (cause : Nat) : (s.bootHalt cause).MemWf := (hm.pins _).setField ..

/-! ### Machine/Fault.lean -/

theorem onFlt (f : FaultSt → FaultSt) : (s.onFlt f).MemWf := hm.flt _

theorem ringWrite (b : List Byte) : (s.ringWrite b).MemWf := ite ((hm.memWrTry ..).setReg ..) hm

theorem record (src sub ev kind detail : Nat) : (s.record src sub ev kind detail).MemWf := (hm.trace ..).ringWrite ..

theorem first (src sub : Nat) : (s.first src sub).MemWf :=
  ite ((hm.setReg ..).setReg ..) ((ite (hm.setReg ..) hm).setField ..)

theorem latch (src : Nat) : (s.latch src).MemWf := ite (hm.setField ..) (hm.setField ..)

theorem quiet (src : Nat) (sub : Option Nat) : (s.quiet src sub).MemWf := (hm.setReg ..).flt _

theorem ackSource (src : Nat) (sub : Option Nat) : (s.ackSource src sub).MemWf := ite (hm.quiet ..) hm

theorem blockReset (src : Nat) (sub : Option Nat) (media : Media) : (s.blockReset src sub media).MemWf :=
  ite hm (ite (ite (((ite ((foldl (fun _ _ hs => hs.blockResetCore ..) _ hm).setField ..) (foldl (fun _ _ hs =>
    hs.blockResetCore ..) _ hm)).faultHalt ..).ackSource ..) (ite ((foldl (fun _ _ hs => hs.blockResetCore ..) _
    hm).setField ..) (foldl (fun _ _ hs => hs.blockResetCore ..) _ hm))) (ite hm (ite ((hm.linkDown ..).setLink ..) (ite
    (hm.vcf _) (ite (hm.mepResetCmd ..) (ite (hm.setField ..) hm))))))

theorem vcfFault (src : Nat) (sub : Option Nat) (ev inst : Nat) (media : Media) :
    (s.vcfFault src sub ev inst media).MemWf := by
  unfold Chip.vcfFault
  refine ite hm ?_
  refine ite (ite hm (ite ((hm.log ..).ackSource ..) (ite (ite ((hm.faultPause ..).ackSource ..) hm) (ite
    ((hm.stallHalt ..).ackSource ..) hm)))) ?_
  refine ite ((((hm.controllerFail ..).retireNext ..).faultHalt ..).ackSource ..) ?_
  refine ite ?_ (ite (ite (hm.ackSource ..) (ite ((hm.flt _).ackSource ..)
    (((hm.slRetireCmd ..).installPlan ..).ackSource ..))) (ite ((ite (hm.faultPause ..) hm).ackSource ..) (ite
    ((hm.log ..).ackSource ..) hm)))
  split
  · exact (ite ((hm.memRetireWrite ..).faultPause ..) (hm.memRetireWrite ..)).ackSource ..
  · exact hm

theorem react (src : Nat) (sub : Option Nat) (stage ev inst detail : Nat) (media : Media) :
    (s.react src sub stage ev inst detail media).MemWf :=
  ite hm (ite (((hm.record ..).onFlt ..).vcfFault ..) (ite (((hm.record ..).onFlt ..).blockReset ..) (ite
    (((hm.record ..).onFlt ..).faultReset ..) (ite (((hm.record ..).onFlt ..).enterHold ..)
    ((hm.record ..).onFlt ..)))))

theorem lockstep (b : Bool) : (s.lockstep b).MemWf :=
  ite ((ite ((ite ((hm.onFlt ..).sec _) (hm.onFlt ..)).commitEnd ..) (ite ((hm.onFlt ..).sec _)
    (hm.onFlt ..))).setField ..) (ite (((ite ((ite ((hm.onFlt ..).sec _) (hm.onFlt ..)).commitEnd ..) (ite
    ((hm.onFlt ..).sec _) (hm.onFlt ..))).switchover ..).setField ..) ((ite ((ite ((hm.onFlt ..).sec _)
    (hm.onFlt ..)).commitEnd ..) (ite ((hm.onFlt ..).sec _) (hm.onFlt ..))).faultReset ..))

theorem severe (src : Nat) (sub : Option Nat) (ev inst detail : Nat) (media : Media) :
    (s.severe src sub ev inst detail media).MemWf :=
  ((((hm.record ..).setField ..).setField ..).onFlt ..).react ..

theorem count (src : Nat) (sub : Option Nat) (ev inst detail : Nat) (media : Media) :
    (s.count src sub ev inst detail media).MemWf :=
  ite (((hm.countTo ..).setField ..).record ..) (ite ((hm.countTo ..).record ..) (ite
    (((((hm.countTo ..).setField ..).setField ..).onFlt ..).severe ..)
    (((((hm.countTo ..).setField ..).setField ..).onFlt ..).record ..)))

theorem collect (ev inst detail : Nat) (media : Media) : (s.collect ev inst detail media).MemWf := by
  unfold Chip.collect
  refine ite hm ?_
  refine ite (ite ((hm.record ..).log ..) (hm.record ..)) ?_
  split
  · exact hm
  · exact ite (((((hm.latch ..).first ..).onFlt ..).count ..).lockstep ..)
      ((((hm.latch ..).first ..).onFlt ..).count ..)

theorem faultEventCmd (ev inst detail : Nat) (media : Media) : (Machine.faultEventCmd s ev inst detail media).MemWf :=
  ite (ite ((ite (hm.onCore ..) (hm.raised _)).onCore ..) (ite (hm.onCore ..) (hm.raised _))) ((ite ((ite (hm.onCore ..)
    (hm.raised _)).onCore ..) (ite (hm.onCore ..) (hm.raised _))).collect ..)

theorem faultWindowEndCmd (code : Nat) : (Machine.faultWindowEndCmd s code).MemWf :=
  ite ((hm.setField ..).setField ..) hm

theorem graceExpiryCmd (code : Nat) (media : Media) : (Machine.graceExpiryCmd s code media).MemWf :=
  ite hm (ite (hm.setField ..) ((hm.setField ..).react ..))

theorem fltAckWriteCmd (v : Nat) : (Machine.fltAckWriteCmd s v).MemWf :=
  ite (ite (hm.ackSource ..) hm) (ite hm (ite ((hm.ackSource ..).ackSource ..) (hm.ackSource ..)))

theorem ackAll (src : Nat) : (s.ackAll src).MemWf := foldl (fun _ _ hs => hs.ackSource ..) _ (hm.ackSource ..)

theorem cfcAckCmd (p v : Nat) : (Machine.cfcAckCmd s p v).MemWf := foldl (fun _ _ hs => ite (hs.ackSource ..) hs) _ hm

theorem unfenceSources (p : Nat) : (s.unfenceSources p).MemWf := foldl (fun _ _ hs => hs.quiet ..) _ hm

theorem fltCfgWriteCmd (n v : Nat) : (Machine.fltCfgWriteCmd s n v).MemWf :=
  ite hm (ite (hm.setReg ..) (hm.setField ..))

theorem fltFirstClearCmd (v : Nat) : (Machine.fltFirstClearCmd s v).MemWf := ite ((hm.setReg ..).setReg ..) hm

theorem progLimitCmd (p v : Nat) : (Machine.progLimitCmd s p v).MemWf := ite (hm.onCore ..) hm

theorem progTicks (n : Nat) : (s.progTicks n).MemWf := by
  unfold Chip.progTicks
  refine ite hm ?_
  refine foldl (fun _ _ hs => ?_) _ hm
  split
  · exact ite (hs.onCore ..) (ite (hs.onCore ..) hs)

theorem progressTimeoutCmd (p : Nat) : (Machine.progressTimeoutCmd s p).MemWf := ite (hm.onCore ..) hm

theorem benchThermalCmd (b : Nat) : (Machine.benchThermalCmd s b).MemWf := hm.collect ..

theorem overCurrentCmd (media : Media) : (Machine.overCurrentCmd s media).MemWf := hm.collect ..

theorem railOutCmd (media : Media) : (Machine.railOutCmd s media).MemWf := (hm.pins _).collect ..

theorem thermtripCmd : (Machine.thermtripCmd s).MemWf := ite hm ((hm.collect ..).thermalOff ..)

theorem lockstepCmd (b : Bool) : (Machine.lockstepCmd s b).MemWf := hm.collect ..

theorem lockErrReleaseCmd : (Machine.lockErrReleaseCmd s).MemWf := by
  unfold Machine.lockErrReleaseCmd
  split
  · exact ite (hm.flt _) hm
  · exact hm

/-! ### Machine/Boundary.lean -/

theorem coresBoundary : s.coresBoundary.MemWf := by
  unfold Chip.coresBoundary
  refine foldl (fun _ _ hs => ?_) _ hm
  split
  · exact (hs.onCore ..).stashBoundary ..

theorem noteReport (rank step pt : Nat) : (s.noteReport rank step pt).MemWf := hm.en_job _ _

theorem report : s.report.MemWf := ite (hm.noteReport ..) (hm.emit ..)

theorem startSteps (count : Nat) : (s.startSteps count).MemWf := ((hm.markStep ..).job _).report ..

theorem afterCapture : s.afterCapture.MemWf := ite (((hm.setField ..).captureStart ..).report ..) hm

theorem boundaryCapture : s.boundaryCapture.MemWf := ite ((hm.setField ..).bump ..) ((hm.captureStart ..).report ..)

theorem fence (p : Nat) : (s.fence p).MemWf := (hm.blockResetCore ..).onCore ..

theorem boundaryLinks : s.boundaryLinks.MemWf :=
  ite hm ((foldl (fun _ _ hs => hs.slRetireCmd ..) _ (hm.flt _)).installPlan ..)

theorem boundaryStop : s.boundaryStop.MemWf := by
  unfold Chip.boundaryStop
  dsimp only
  split
  · exact ite (((hm.job _).finishStepRun ..).finishStepPause ..) hm
  · split
    · exact ite (hm.job _) (((((hm.job _).finishStepRun ..).fence ..).finish ..).finishStepPause ..)
    · exact ((hm.job _).finishStepRun ..).finishStepPause ..

theorem stepBoundaryCmd (m : PlanMeas) : (Machine.stepBoundaryCmd s m).MemWf :=
  ite hm ((ite (((((((hm.coresBoundary ..).envBoundary ..).job _).markStep ..).en_job _ _).boundaryLinks ..).report ..)
    (((((((hm.coresBoundary ..).envBoundary ..).job _).markStep ..).en_job _ _).boundaryLinks ..).boundaryCapture
      ..)).boundaryStop ..)

theorem releaseStep (step base pt : Nat) : (s.releaseStep step base pt).MemWf := ((hm.setPlan ..).stepBegin ..).job _

theorem stepReleaseCmd (base : DWord) : (Machine.stepReleaseCmd s base).MemWf := ite hm ((hm.releaseStep ..).tellAll ..)

/-! ### Machine/Repair.lean -/

theorem mapRepair (p e a row : Nat) : (s.mapRepair p e a row).MemWf := ite hm (hm.sec _)

theorem repairWriteCmd (p : Nat) (be : Bool) (v : Nat) : (Machine.repairWriteCmd s p be v).MemWf :=
  foldl (fun _ _ hs => ite hs ((hs.setCore ..).mapRepair ..)) _ hm

theorem bistStartCmd (p : Nat) (be : Bool) (v : Nat) : (Machine.bistStartCmd s p be v).MemWf := ite (hm.onCore ..) hm

theorem bistDoneCmd (p : Nat) (be : Bool) (arrays : List BistArray) : (Machine.bistDoneCmd s p be arrays).MemWf :=
  ite hm (hm.setCore ..)

theorem bootArray (p e a : Nat) (rows : List Nat) (col : Bool) : (s.bootArray p e a rows col).MemWf := by
  unfold Chip.bootArray
  refine ite ?_ ?_
  · refine .onCore ?_ ..
    split
    · exact (hm.setCore ..).mapRepair ..
    · exact hm.setCore ..
  · split
    · exact (hm.setCore ..).mapRepair ..
    · exact hm.setCore ..

theorem bootRepair (found : List (Nat × Nat × Nat × Nat)) (cols : List (Nat × Nat × Nat)) :
    (s.bootRepair found cols).MemWf :=
  foldl (fun _ _ hs => hs.bootArray ..) _ (foldl (fun _ _ hs => hs.onCore ..) _ hm)

/-! ### Machine/Boot.lean -/

theorem runImage (c k : Nat) : (s.runImage c k).MemWf :=
  foldl (fun _ _ hs => hs.setReg ..) _ ((hm.setReg ..).setField ..)

theorem markActive (c k : Nat) : (s.markActive c k).MemWf := hm.sec _

theorem bootClass (bad : List (Nat × Nat)) (c cause : Nat) : (s.bootClass bad c cause).1.MemWf := by
  unfold Chip.bootClass
  split
  · exact hm.bootHalt ..
  · exact ite_fst ((((hm.runImage ..).markActive ..).setField ..).log ..) (hm.runImage ..)

theorem settingsDefaults : s.settingsDefaults.MemWf := hm.setReg ..

theorem setting (ty : Nat) (d : List Byte) : (s.setting ty d).MemWf :=
  ite (hm.setReg ..) (ite (foldl (fun _ _ hs => hs.setReg ..) _ hm) (ite (foldl (fun _ _ hs => hs.fltCfgWriteCmd ..) _
    hm) (ite (ite (hm.setEnvelope ..) hm) (ite (hm.setReg ..) (ite (hm.memResvWrite ..) (ite (hm.setReg ..) hm))))))

theorem settings (b : List Byte) : (s.settings b).MemWf :=
  ite ((hm.settingsDefaults ..).log ..) (foldl (fun _ _ hs => ite hs (ite (hs.log ..) (hs.setting ..))) _
    (hm.settingsDefaults ..))

theorem nextStage : s.nextStage.MemWf := hm.setField ..

theorem stage1 : (Machine.stage1 s).MemWf := foldl (fun _ _ hs => hs.onCore ..) _ hm

theorem readRecord (bad : Bool) : (s.readRecord bad).MemWf := ite ((hm.sec _).log ..) (hm.sec _)

theorem stage2 (f : BootFind) : (Machine.stage2 s f).MemWf :=
  ite ((foldl (fun _ _ hs => ite (hs.sec _) hs) _ hm).bootHalt ..) (ite ((foldl (fun _ _ hs => ite (hs.sec _) hs) _
    hm).bootHalt ..) (ite ((foldl (fun _ _ hs => ite (hs.sec _) hs) _ hm).bootHalt ..) ((ite (((((foldl (fun _ _ hs =>
    ite (hs.sec _) hs) _ hm).readRecord ..).setReg ..).sec _).log ..) (((foldl (fun _ _ hs => ite (hs.sec _) hs) _
    hm).readRecord ..).setReg ..)).bootClass ..)))

theorem stage3 (f : BootFind) : (Machine.stage3 s f).MemWf := by
  unfold Machine.stage3
  split
  · exact (hm.bootClass ..).of_fst ‹_›
  · split
    · exact (((hm.bootClass ..).of_fst ‹_›).bootClass ..).of_fst ‹_›
    · exact ((((((hm.bootClass ..).of_fst ‹_›).bootClass ..).of_fst ‹_›).vcf _).setField ..).settings ..

theorem stage4 (f : BootFind) : (Machine.stage4 s f).MemWf := by
  unfold Machine.stage4
  split
  · exact (hm.bootClass ..).of_fst ‹_›
  · exact (foldl (fun _ _ hs => hs.onCore ..) _ (foldl (fun _ _ hs => ite ((hs.onCore ..).setField ..) hs) _ ((foldl
      (fun _ _ hs => ite (hs.onCore ..) hs) _ ((hm.bootClass ..).of_fst ‹_›)).bootRepair ..))).remap ..

theorem retireWhole (ch : Nat) (lost poison : Bool) : (s.retireWhole ch lost poison).MemWf := by
  unfold Chip.retireWhole
  exact ite ((hm.fenceChannel ..).setField ..) ((((((foldl (fun _ _ hs => hs.movePage ..) _
    ((((hm.setReg ..).setReg ..).setReg ..).migLost _)).setReg ..).migLost _).setField ..).setField ..).setField ..)

theorem stage5 (f : BootFind) : (Machine.stage5 s f).MemWf :=
  foldl (fun _ _ hs => ite hs (foldl (fun _ _ hs => ite hs ((ite (hs.sec _) hs).retireWhole ..)) _
    (hs.controllerFail ..))) _ (foldl (fun _ _ hs => hs.retireWhole ..) _ ((foldl (fun _ _ hs => hs.setReg ..) _
    (hm.setReg ..)).redir _))

theorem mapCxl : s.mapCxl.MemWf := ite hm (((hm.setReg ..).setReg ..).setField ..)

theorem stage6 (f : BootFind) : (Machine.stage6 s f).MemWf :=
  foldl (fun _ _ hs => hs.slCtlEnCmd ..) _ ((foldl (fun _ _ hs => ite (hs.log ..) hs) _ ((ite (hm.log ..)
    hm).pins _)).mapCxl ..)

theorem rebase (v : Nat) : (s.rebase v).MemWf := foldl (fun _ _ hs => hs.setBench ..) _ (hm.setReg ..)

theorem stage7 (f : BootFind) (late : Bool) : (Machine.stage7 s f late).MemWf :=
  (((ite (foldl (fun _ _ hs => ite (hs.linkDown ..) hs) _ hm) hm).installPlan ..).rebase ..).setField ..

theorem stage8 (f : BootFind) : (Machine.stage8 s f).MemWf :=
  (((foldl (fun _ _ hs => foldl (fun _ _ hs => hs.chanInit ..) _ hs) _ hm).setField ..).setReg ..).pins _

theorem bootStage (f : BootFind) (late : Bool) : (Machine.bootStage s f late).MemWf :=
  ite hm (ite (ite (hm.stage1 ..) (ite (hm.stage2 ..) (ite (hm.stage3 ..) (ite (hm.stage4 ..) (ite (hm.stage5 ..) (ite
    (hm.stage6 ..) (ite (hm.stage7 ..) (ite (hm.stage8 ..) hm)))))))) (ite ((ite (hm.stage1 ..) (ite (hm.stage2 ..) (ite
    (hm.stage3 ..) (ite (hm.stage4 ..) (ite (hm.stage5 ..) (ite (hm.stage6 ..) (ite (hm.stage7 ..) (ite (hm.stage8 ..)
    hm)))))))).nextStage ..) (ite (hm.stage1 ..) (ite (hm.stage2 ..) (ite (hm.stage3 ..) (ite (hm.stage4 ..) (ite
    (hm.stage5 ..) (ite (hm.stage6 ..) (ite (hm.stage7 ..) (ite (hm.stage8 ..) hm))))))))))

theorem bootStageDoneCmd (f : BootFind) : (Machine.bootStageDoneCmd s f).MemWf := hm.bootStage ..

theorem bootStageTimeoutCmd (f : BootFind) : (Machine.bootStageTimeoutCmd s f).MemWf := hm.bootStage ..

/-! ### Machine/Update.lean -/

theorem updStage (r : RunCmd) (ext : List Byte) : (s.updStage r ext).MemWf := by
  unfold Chip.updStage
  refine ite (hm.finish ..) ?_
  split
  · exact hm.finish ..
  · refine ite (hm.finish ..) ?_
    split
    · exact (hm.setField ..).finish ..
    · exact ite (hm.finish ..) (ite (hm.finish ..) (ite ((hm.setField ..).finish ..)
        ((((hm.sec _).setReg ..).setReg ..).finish ..)))

theorem closeSet : s.closeSet.MemWf := (hm.setField ..).setField ..

theorem phaseStart (ph : Nat) : (s.phaseStart ph).MemWf :=
  ite ((((hm.setField ..).sec _).markActive ..).setField ..) (ite ((((hm.setField ..).sec _).markActive ..).sec _) (ite
    ((((hm.setField ..).sec _).markActive ..).setField ..) (ite ((hm.setField ..).vcf_sec _ _) (ite
    (((hm.setField ..).sec _).setField ..) (((hm.setField ..).sec _).markActive ..)))))

theorem nextClass : s.nextClass.MemWf := by
  unfold Chip.nextClass
  split
  · exact hm.commitEnd ..
  · exact (hm.sec _).phaseStart ..

theorem updCommit (r : RunCmd) : (s.updCommit r).MemWf :=
  ite (hm.finish ..) (ite (hm.finish ..) (((hm.keep ..).sec _).nextClass ..))

theorem updAbort (r : RunCmd) : (s.updAbort r).MemWf := ite (hm.finish ..) (((hm.closeSet ..).sec _).finish ..)

theorem standbyNew : s.standbyNew.MemWf := (hm.vcf _).setField ..

theorem installMonitors : s.installMonitors.MemWf := foldl (fun _ _ hs => hs.onCore ..) _ hm

theorem phaseFail (c : Nat) : (s.phaseFail c).MemWf := (hm.markActive ..).commitEnd ..

theorem updPhaseDoneCmd (res : PhaseResult) : (Machine.updPhaseDoneCmd s res).MemWf := by
  unfold Machine.updPhaseDoneCmd
  split
  · exact ite (((hm.accountantRunningCmd ..).runImage ..).nextClass ..) (ite ((hm.runImage ..).nextClass ..) (ite
      (((hm.standbyNew ..).runImage ..).phaseStart ..) (ite ((hm.standbyNew ..).nextClass ..) (ite
      (((hm.installMonitors ..).runImage ..).nextClass ..) hm))))
  · exact ite ((hm.accountantRunningCmd ..).phaseFail ..) (ite (hm.phaseFail ..) (ite (hm.phaseFail ..) (ite
      (hm.commitEnd ..) hm)))
  · exact ite hm (((ite (((hm.installMonitors ..).onCore ..).faultHalt ..)
      ((hm.installMonitors ..).onCore ..)).runImage ..).nextClass ..)

theorem plannedSwitchoverCmd : (Machine.plannedSwitchoverCmd s).MemWf :=
  ite hm (((hm.switchover ..).vcf _).phaseStart ..)

theorem violation (detail : Nat) : (s.violation detail).MemWf := (hm.countTo ..).raise ..

theorem polPropose (r : RunCmd) : (s.polPropose r).MemWf :=
  ite (hm.finish ..) (ite (hm.finish ..) (ite (hm.finish ..) (ite (hm.finish ..) (ite (hm.finish ..) (ite (hm.finish ..)
    (ite ((hm.violation ..).finish ..) (ite (hm.finish ..) (ite (hm.finish ..) (ite (hm.finish ..) (ite (hm.finish ..)
    ((hm.sec _).finish ..)))))))))))

theorem applyChange (q : Proposal) : (s.applyChange q).MemWf :=
  ite ((hm.log ..).sec _) (ite (ite (((hm.log ..).sec _).closeSet ..) ((hm.log ..).sec _)) (ite ((hm.log ..).sec _) (ite
    ((hm.log ..).sec _) ((hm.log ..).sec _))))

theorem polApprove (r : RunCmd) : (s.polApprove r).MemWf := by
  unfold Chip.polApprove
  dsimp only
  split
  · exact hm.finish ..
  · exact ite ((hm.sec _).finish ..) (ite (hm.finish ..) (ite (hm.finish ..) (ite (hm.finish ..) (ite
      ((hm.violation ..).finish ..) (ite (hm.finish ..) (((hm.sec _).applyChange ..).finish ..))))))

/-! ### Machine/Window.lean -/

theorem seqCtlCmd (who : Agent) (p v : Nat) : (Machine.seqCtlCmd s who p v).MemWf :=
  ite hm (ite ((hm.onCore ..).onCore ..) (hm.onCore ..))

theorem sramAliasCmd (who : Agent) (p off : Nat) (data : List Byte) : (Machine.sramAliasCmd s who p off data).MemWf :=
  ite hm (hm.setCore ..)

theorem clampClrCmd (who : Agent) (p v : Nat) : (Machine.clampClrCmd s who p v).MemWf := ite hm (hm.onCore ..)

theorem sctQuietWrite (who : Agent) (p a v : Nat) : (Machine.sctQuietWrite s who p a v).MemWf := by
  unfold Machine.sctQuietWrite
  refine ite hm ?_
  split
  · exact hm.onCore ..
  · exact hm

theorem repairCmd (who : Agent) (p : Nat) (be : Bool) (v : Nat) : (Machine.repairCmd s who p be v).MemWf :=
  ite (hm.repairWriteCmd ..) hm

theorem bistCmd (who : Agent) (p : Nat) (be : Bool) (v : Nat) : (Machine.bistCmd s who p be v).MemWf :=
  ite (hm.bistStartCmd ..) hm

theorem barRegWrite (who : Agent) (p a v : Nat) : (Machine.barRegWrite s who p a v).MemWf := by
  unfold Machine.barRegWrite
  refine ite hm ?_
  split
  · exact ite hm (hm.onCore ..)
  · exact hm

theorem cmbxWrite (who : Agent) (p a v : Nat) : (Machine.cmbxWrite s who p a v).MemWf :=
  ite (hm.mbxDbCmd ..) (ite (hm.mbxDbCmd ..) (ite (hm.mbxMaskCmd ..) (ite (hm.mbxMaskCmd ..) hm)))

theorem coreWrite (who : Agent) (p a v : Nat) : (s.coreWrite who p a v).MemWf := by
  unfold Chip.coreWrite
  refine ite hm ?_
  split
  · exact hm
  · exact ite hm (ite (hm.onCore ..) (ite (hm.seqCtlCmd ..) (ite (hm.onCore ..) (ite (ite (hm.onCore ..) hm) (ite
      (hm.onCore ..) (ite (hm.onCore ..) (ite (hm.clampClrCmd ..) (ite (hm.onCore ..) (ite (hm.onCore ..) (ite
      (hm.sctQuietWrite ..) (ite (hm.repairCmd ..) (ite (hm.repairCmd ..) (ite (hm.bistCmd ..) (ite (hm.bistCmd ..) (ite
      (hm.onCore ..) (ite (hm.onCore ..) (ite (hm.onCore ..) (ite (hm.onCore ..) (ite (hm.onCore ..) (ite (hm.onCore ..)
      (ite (hm.onCore ..) (ite (hm.barRegWrite ..) (ite (ite (hm.progLimitCmd ..) hm) (ite (ite (hm.cfcAckCmd ..) hm)
      (ite (hm.cmbxWrite ..) (hm.onCore ..))))))))))))))))))))))))))

theorem portLoad (p a : Nat) : (s.portLoad p a).2.MemWf := by
  unfold Chip.portLoad
  split
  · exact hm
  · refine ite_snd hm (ite_snd ?_ hm)
    dsimp only
    exact hm.onCore ..

theorem portStore (who : Agent) (p a v : Nat) : (s.portStore who p a v).MemWf := by
  unfold Chip.portStore
  split
  · exact hm
  · exact ite (hm.coreWrite ..) (ite (hm.onCore ..) ((hm.onCore ..).coreWrite ..))

theorem windowPairCmd (p : Nat) (store : Bool) (a v : Nat) : (Machine.windowPairCmd s p store a v).MemWf := by
  unfold Machine.windowPairCmd
  split
  · refine ite (hm.portStore ..) ?_
    split
    · exact ((hm.portLoad ..).of_snd ‹_›).emit ..
  · exact hm

/-! ### Machine/Registers.lean -/

theorem plainWrite (r : RegRow) (a v : Nat) : (s.plainWrite r a v).MemWf :=
  ite ((hm.setReg ..).violation ..) (hm.setReg ..)

theorem ctbTrimCmd (who : Agent) (v : Nat) : (Machine.ctbTrimCmd s who v).MemWf := ite (hm.setReg ..) hm

theorem chipMbxWrite (who : Agent) (a v : Nat) : (Machine.chipMbxWrite s who a v).MemWf :=
  ite (hm.mbxDbCmd ..) (ite (hm.mbxMaskCmd ..) (ite (hm.mbxDbCmd ..) (ite (hm.mbxMaskCmd ..) hm)))

theorem fltBlockWrite (who : Agent) (r : RegRow) (a v : Nat) : (Machine.fltBlockWrite s who r a v).MemWf :=
  ite (ite (hm.violation ..) hm) (ite (hm.fltAckWriteCmd ..) (ite (hm.fltFirstClearCmd ..) (ite (hm.fltCfgWriteCmd ..)
    (hm.plainWrite ..))))

theorem slCtlWrite (l v : Nat) : (Machine.slCtlWrite s l v).MemWf :=
  ite ((hm.slCtlEnCmd ..).slRetireCmd ..) (hm.slCtlEnCmd ..)

theorem chipWrite (who : Agent) (a v : Nat) : (s.chipWrite who a v).MemWf := by
  unfold Chip.chipWrite
  split
  · exact hm
  · exact ite (hm.chipMbxWrite ..) (ite (hm.mbxRoleCmd ..) (ite (hm.fltBlockWrite ..) (ite (ite (hm.plainWrite ..) hm)
      (ite hm (ite (hm.ctbTrimCmd ..) (ite (hm.fabMapCmd ..) (ite (hm.fabBypCmd ..) (ite (ite (hm.setReg ..) hm) (ite hm
      (ite (hm.memResvWrite ..) (ite (hm.memRetireWrite ..) (ite (hm.memJobstWrite ..) (ite (hm.memRgnCtlWrite ..) (ite
      (ite (hm.setReg ..) hm) (ite (hm.sthWriteCmd ..) (ite (hm.slCtlWrite ..) (ite (ite ((hm.setReg ..).setReg ..) hm)
      (ite (hm.slRtCmd ..) (ite (hm.tsCfgCmd ..) (ite (hm.snpWrite ..) (hm.plainWrite ..)))))))))))))))))))))

theorem regError (who : Agent) : (s.regError who).MemWf := by
  unfold Chip.regError
  split
  · exact hm.onCore ..
  · exact hm.onCore ..
  · exact hm.raise ..

theorem registerWriteCmd (who : Agent) (p a width v : Nat) : (Machine.registerWriteCmd s who p a width v).MemWf := by
  unfold Machine.registerWriteCmd
  dsimp only
  split
  · exact ite (hm.regError ..) (hm.coreWrite ..)
  · exact ite (hm.regError ..) (hm.chipWrite ..)
  · exact ite (ite (hm.regError ..) hm) (ite (hm.sramAliasCmd ..) hm)
  · exact ite (hm.regError ..) hm

/-! ### Machine/Commands.lean -/

theorem ifQueryRun (r : RunCmd) : (Machine.ifQueryRun s r).MemWf := hm.finish ..

theorem chResetRun (r : RunCmd) : (Machine.chResetRun s r).MemWf :=
  ite ((foldl (fun _ _ hs => hs.chanInit ..) _ (hm.vcf _)).finish ..) (foldl (fun _ _ hs => hs.chanInit ..) _
    (hm.vcf _))

theorem telQueryRun (r : RunCmd) : (Machine.telQueryRun s r).MemWf := by
  unfold Machine.telQueryRun
  dsimp only
  refine ite (hm.finish ..) ?_
  refine ite (hm.finish ..) ?_
  refine ite (hm.finish ..) ?_
  split
  · exact hm.finish ..
  · exact (hm.chWrN ..).finish ..

theorem loadEnd (r : RunCmd) : (s.loadEnd r).MemWf := by
  unfold Chip.loadEnd
  split <;> exact ((hm.loadFinish ..).of_fst ‹_›).finish ..

theorem jobLoadRun (r : RunCmd) (ext : List Byte) : (Machine.jobLoadRun s r ext).MemWf := by
  unfold Machine.jobLoadRun
  dsimp only
  refine ite (hm.finish ..) ?_
  split
  · exact hm.finish ..
  · refine ite (hm.finish ..) ?_
    refine ite (hm.finish ..) ?_
    split
    · exact hm.finish ..
    · split
      · exact (((((foldl (fun _ _ hs => hs.memRetireWrite ..) _ hm).memJobstWrite ..).loadRegions ..).of_fst
          ‹_›).jobDrop ..).finish ..
      · exact ite ((foldl (fun _ _ hs => hs.emit ..) _ (((((foldl (fun _ _ hs => hs.memRetireWrite ..) _
          hm).memJobstWrite ..).loadRegions ..).of_fst ‹_›).job_vcf _ _)).loadEnd ..) ((foldl (fun _ _ hs =>
          hs.emit ..) _ (((((foldl (fun _ _ hs => hs.memRetireWrite ..) _ hm).memJobstWrite ..).loadRegions ..).of_fst
          ‹_›).job_vcf _ _)).keep ..)

theorem rankAnnounceCmd (rank chip : Nat) : (Machine.rankAnnounceCmd s rank chip).MemWf := by
  unfold Machine.rankAnnounceCmd
  refine ite ?_ ?_
  · refine foldl (fun _ _ hs => ?_) _ (hm.job _)
    refine ite hs ?_
    split
    · exact ite hs (hs.setField ..)
    · exact hs
  · split
    · exact ite ((hm.job _).loadEnd ..) (hm.job _)
    · exact hm.job _

theorem startJob : s.startJob.MemWf := ((foldl (fun _ _ hs => hs.onCore ..) _ hm).en_job _ _).captureStart ..

theorem startedAll : s.startedAll.MemWf := by
  unfold Chip.startedAll
  split
  · exact ite (((hm.job _).finish ..).finishStepPause ..) hm
  · exact hm

theorem jobStartRun (r : RunCmd) : (Machine.jobStartRun s r).MemWf :=
  ((((hm.startJob ..).tellAll ..).keep ..).noteReport ..).startedAll ..

theorem jobUnloadRun (r : RunCmd) : (Machine.jobUnloadRun s r).MemWf :=
  (((hm.captureAbandon ..).haltUnits ..).jobDrop ..).finish ..

theorem stepRunRun (r : RunCmd) : (Machine.stepRunRun s r).MemWf := ((hm.startSteps ..).tellAll ..).keep ..

theorem stepPauseRun (r : RunCmd) : (Machine.stepPauseRun s r).MemWf :=
  ite (hm.finish ..) (((hm.requestPause ..).tellAll ..).keep ..)

theorem snapTakeRun (r : RunCmd) : (Machine.snapTakeRun s r).MemWf :=
  ite (hm.finish ..) (((hm.snp _).tellAll ..).keep ..)

theorem finishFences (status : Nat) : (s.finishFences status).MemWf := foldl (fun _ _ hs => hs.finish ..) _ hm

theorem restoredAll : s.restoredAll.MemWf := by
  unfold Chip.restoredAll
  dsimp only
  split
  · exact hm
  · refine ite hm ?_
    split
    · exact ite ((foldl (fun _ _ hs => hs.finish ..) _ (hm.job _)).finishStepPause ..) (ite (((foldl (fun _ _ hs =>
        hs.finish ..) _ (hm.job _)).finishFences ..).finishStepPause ..) ((((foldl (fun _ _ hs => hs.finish ..) _
        (hm.job _)).startSteps ..).tellAll ..).finish ..))
    · exact (foldl (fun _ _ hs => hs.finish ..) _ (hm.job _)).finishStepPause ..

theorem restoreEverywhere {layer k : Nat} {media : Media} {t : Chip} (ht : s.restoreEverywhere layer k media = some t) :
    t.MemWf := by
  obtain ⟨u, hu, rfl⟩ := Option.map_eq_some_iff.1 ht
  exact ((hm.restoreTo hu).job _).tellAll ..

theorem snapRestoreRun (media : Media) (r : RunCmd) : (Machine.snapRestoreRun media s r).MemWf := by
  unfold Machine.snapRestoreRun
  refine ite (hm.finish ..) ?_
  split
  · exact hm.finish ..
  · split
    · exact ((hm.restoreEverywhere ‹_›).keep ..).restoredAll ..
    · exact ((hm.waitJob ..).tellAll ..).finish ..

theorem autoFence (r : RunCmd) (media : Media) : (s.autoFence r media).MemWf := by
  unfold Chip.autoFence
  refine ite (((hm.fence ..).emit ..).vcf _) ?_
  split
  · exact ((((hm.fence ..).waitJob ..).tellAll ..).finishStepRun ..).finish ..
  · split
    · exact ((((hm.fence ..).waitJob ..).tellAll ..).finishStepRun ..).finish ..
    · exact (((hm.fence ..).restoreEverywhere ‹_›).vcf _).restoredAll ..

theorem pausedFence (r : RunCmd) (media : Media) : (s.pausedFence r media).MemWf := by
  unfold Chip.pausedFence
  refine ite (((hm.fence ..).keep ..).emit ..) ?_
  split
  · exact ((((hm.fence ..).keep ..).waitJob ..).tellAll ..).finishFences ..
  · split
    · exact ((((hm.fence ..).keep ..).waitJob ..).tellAll ..).finishFences ..
    · exact (((hm.fence ..).keep ..).restoreEverywhere ‹_›).restoredAll ..

theorem coreFenceRun (media : Media) (r : RunCmd) : (Machine.coreFenceRun media s r).MemWf := by
  unfold Machine.coreFenceRun
  split
  · exact hm.finish ..
  · exact ite (((hm.requestPause ..).tellAll ..).keep ..) (ite (hm.pausedFence ..) ((hm.fence ..).finish ..))

theorem coreFenceCmd (c ch : Nat) (media : Media) : (Machine.coreFenceCmd s c ch media).MemWf := by
  unfold Machine.coreFenceCmd
  split
  · exact ite hm (hm.autoFence ..)
  · exact hm.vcfCmd _ _ _ fun _ hs => hs.coreFenceRun ..

theorem coreUnfenceRun (pass : Bool) (r : RunCmd) : (Machine.coreUnfenceRun pass s r).MemWf := by
  unfold Machine.coreUnfenceRun
  split
  · exact hm.finish ..
  · exact ite (hm.finish ..) (((hm.onCore ..).unfenceSources ..).finish ..)

theorem fltAckRun (r : RunCmd) : (Machine.fltAckRun s r).MemWf := ite (hm.finish ..) ((hm.ackAll ..).finish ..)

theorem envSetRun (r : RunCmd) : (Machine.envSetRun s r).MemWf := ite (hm.finish ..) ((hm.envAccept ..).finish ..)

theorem stewardMessageCmd (msg : StewardMsg) (media : Media) : (Machine.stewardMessageCmd s msg media).MemWf := by
  unfold Machine.stewardMessageCmd
  split
  · exact ite (((hm.startJob ..).job _).emit ..) hm
  · exact ite (foldl (fun _ _ hs => hs.finish ..) _ (hm.startSteps ..)) hm
  · exact hm.requestPause ..
  · exact hm.snp _
  · refine ite hm ?_
    split
    · exact ((hm.restoreTo ‹_›).emit ..).finishFences ..
    · exact ((hm.waitJob ..).emit ..).finishFences ..
  · exact ite (hm.releaseStep ..) hm
  · exact ite ((hm.noteReport ..).startedAll ..) hm
  · exact ite hm (ite ((((hm.snp _).setLast ..).finishSnapTake ..).tellAll ..) (hm.snp _))
  · exact ite (hm.setLast ..) (ite ((hm.commitLayer ..).afterCapture ..) hm)
  · exact ite hm (ite (((hm.haltHere ..).tellAll ..).restoreLatest ..) (hm.haltHere ..))
  · exact ite hm (ite (((hm.haltHere ..).tellAll ..).restoreLatest ..) (ite (hm.restoreLatest ..) hm))
  · exact ite hm ((hm.waitJob ..).finishFences ..)
  · exact hm.requestPause ..
  · exact ite ((((((ite hm (hm.job _)).captureAbandon ..).haltUnits ..).waitJob ..).finishStepRun ..).tellAll ..) (ite
      hm (hm.job _))
  · exact (hm.job _).restoredAll ..
  · exact hm.rankAnnounceCmd ..

theorem partLostCmd (rank : Nat) : (Machine.partLostCmd s rank).MemWf := hm.stewardMessageCmd ..

theorem coreMessage (p op : Nat) {run : Chip → Nat → Nat → List Byte → Chip}
    (hrun : ∀ {s : Chip} (i d : Nat) (g : List Byte), s.MemWf → (run s i d g).MemWf) :
    (Machine.coreMessage s p op run).MemWf := by
  have fail {r x y z w} : ((s.takeCmd (.core p) op).complete (.core p) op r x y z w).MemWf :=
    (hm.takeCmd ..).complete ..
  unfold Machine.coreMessage
  dsimp only
  refine ite hm ?_
  split
  · exact hm
  · exact ite fail (ite fail (ite fail (ite fail (hrun _ _ _ (hm.takeCmd ..)))))

theorem inputFetchCmd (p : Nat) (data : List Byte) : (Machine.inputFetchCmd s p data).MemWf :=
  hm.coreMessage _ _ fun _ _ _ hs => ite (hs.complete ..) (ite (hs.complete ..) (((hs.chWrN ..).job _).complete ..))

theorem logCmd (p : Nat) : (Machine.logCmd s p).MemWf := by
  unfold Machine.logCmd
  refine hm.coreMessage _ _ fun _ _ _ hs => ?_
  refine ite (hs.complete ..) ?_
  split
  · exact (hs.log ..).complete ..

/-! ### Machine/Time.lean -/

theorem traceRun (n : Nat) : (s.traceRun n).MemWf := hm.pins_outs _ _

theorem ctbAdd (adv adj frac : Nat) : (s.ctbAdd adv adj frac).MemWf := ((hm.bump ..).bump ..).ctbFrac _

theorem coresRun (t : Chip) : (s.coresRun t).MemWf := foldl (fun _ _ hs => hs.coreRun ..) _ hm

theorem ctbRun (n : Nat) : (s.ctbRun n).MemWf :=
  ite (ite hm (hm.traceRun ..)) ((((hm.ctbAdd ..).progTicks ..).coresRun ..).traceRun ..)

theorem runTo (t : Nat) : (s.runTo t).MemWf := ite hm (hm.ctbRun ..)

theorem runOut (due : Option Nat) : (s.runOut due).MemWf := by
  unfold Chip.runOut
  split
  · exact hm.runTo ..
  · exact hm

theorem tick : s.tick.MemWf := hm.ctbRun ..

theorem trimAdjustCmd : (Machine.trimAdjustCmd s).MemWf := ite (hm.ctbRun ..) (ite (hm.ctbRun ..) hm)

theorem refclkLossCmd : (Machine.refclkLossCmd s).MemWf := ite hm (((hm.setField ..).raise ..).holdAt _)

theorem holdoverRelockCmd : (Machine.holdoverRelockCmd s).MemWf := ite hm (((hm.setField ..).countTo ..).setField ..)

theorem holdoverTimeoutCmd : (Machine.holdoverTimeoutCmd s).MemWf := ite hm ((hm.runTo ..).raise ..)

theorem ctbcmpMatchCmd (p : Nat) : (Machine.ctbcmpMatchCmd s p).MemWf := hm.runTo ..

theorem anyOpStart (p id : Nat) : (Machine.anyOpStart s p id).MemWf := by
  unfold Machine.anyOpStart
  split
  · exact hm
  · exact ite (hm.cvtCmd ..) (ite (hm.pdrnCmd ..) (ite (hm.ldtCmd ..) (ite (hm.redCmd ..) (ite (hm.sendCmd ..) (ite
      (hm.recvCmd ..) (ite (hm.stshCmd ..) (ite (hm.usthCmd ..) (ite (hm.igthCmd ..) (ite (hm.kcapCmd ..) (ite
      (hm.daccCmd ..) (ite (hm.movCmd ..) hm)))))))))))

theorem kselCmd (p : Nat) : (Machine.kselCmd s p).MemWf := hm.setCore ..

theorem kchkUse (p : Nat) : (s.kchkUse p).MemWf := by
  unfold Chip.kchkUse
  split
  · exact ite hm (ite hm (foldl (fun _ _ hs => hs.hbmUse ..) _ hm))
  · exact hm

theorem kchkCmd (p : Nat) : (Machine.kchkCmd s p).MemWf := (hm.kchkUse ..).setCore ..

theorem timedStartCmd (p : Nat) (k : TimedKind) : (Machine.timedStartCmd s p k).MemWf := by
  unfold Machine.timedStartCmd
  split
  · exact hm
  · split
    · exact (hm.runTo ..).blockLaunchCmd ..
    · exact (hm.runTo ..).anyOpStart ..
    · exact (hm.runTo ..).onCore ..
    · exact ite ((hm.runTo ..).kselCmd ..) ((hm.runTo ..).kchkCmd ..)

theorem replanCmd (media : Media) : (Machine.replanCmd s media).MemWf :=
  ite hm (ite ((((hm.runTo ..).installPlan ..).job _).restoreLatest ..) ((hm.runTo ..).installPlan ..))

/-! ### Machine/Pins.lean -/

theorem tapSelect (id : Bool) : (s.tapSelect id).MemWf := hm.pins _

theorem trstCmd : (Machine.trstCmd s).MemWf := hm.tapSelect ..

theorem tapIdcodeCmd : (Machine.tapIdcodeCmd s).MemWf := (hm.tapSelect ..).emit ..

theorem tapBypassCmd (code : Nat) : (Machine.tapBypassCmd s code).MemWf := hm.tapSelect ..

theorem traceStatusCmd : (Machine.traceStatusCmd s).MemWf := ite (hm.trace ..) hm

theorem haltTraceCmd : (Machine.haltTraceCmd s).MemWf := ite (hm.trace ..) hm

theorem traceDropCmd : (Machine.traceDropCmd s).MemWf := ite hm ((hm.trace ..).pins _)

theorem telemetryRefreshCmd (x : Sensors) : (Machine.telemetryRefreshCmd s x).MemWf := ite hm (hm.pins _)

theorem tlmWrite (bs : List Byte) : (s.tlmWrite bs).MemWf := by
  unfold Chip.tlmWrite
  split
  · exact hm.pins _
  · exact hm

theorem tlmRead (n : Nat) : (s.tlmRead n).MemWf := ite hm ((hm.pins _).emit ..)

theorem i3cOffsetCmd (off : Nat) : (Machine.i3cOffsetCmd s off).MemWf := ite (hm.tlmWrite ..) hm

theorem i3cReadCmd (n : Nat) : (Machine.i3cReadCmd s n).MemWf := ite (hm.tlmRead ..) hm

theorem assignAddr (a : Nat) : (s.assignAddr a).MemWf := ite (hm.pins _) hm

theorem setdasaCmd (a : Nat) : (Machine.setdasaCmd s a).MemWf := hm.assignAddr ..

theorem entdaaCmd (a : Nat) : (Machine.entdaaCmd s a).MemWf := hm.assignAddr ..

theorem i2cCmd (wr : List Byte) (n : Nat) : (Machine.i2cCmd s wr n).MemWf := ite ((hm.tlmWrite ..).tlmRead ..) hm

theorem mepPerstCmd : (Machine.mepPerstCmd s).MemWf := hm.mepResetCmd ..

theorem flrCmd : (Machine.flrCmd s).MemWf := hm.mepResetCmd ..

theorem d3hotCmd (d3 : Bool) : (Machine.d3hotCmd s d3).MemWf := hm.pins _

theorem removalCmd (port : Nat) : (Machine.removalCmd s port).MemWf := ite hm ((hm.pins _).raise ..)

theorem ptpCmd (port : Nat) (time : Option DWord) : (Machine.ptpCmd s port time).MemWf := by
  unfold Machine.ptpCmd
  split
  · exact hm
  · exact ite hm (ite ((hm.ts _).setReg ..) (hm.ts _))

/-! ### Machine/Client.lean -/

theorem rdmaConnectCmd (port c key : Nat) : (Machine.rdmaConnectCmd s port c key).MemWf := ite (hm.vcf _) hm

theorem pathError (path : ClientPath) : (s.pathError path).MemWf := hm.raise ..

theorem clientReadCmd (path : ClientPath) (off n : Nat) : (Machine.clientReadCmd s path off n).MemWf := by
  unfold Machine.clientReadCmd
  refine ite (ite hm (hm.emit ..)) ?_
  split
  · exact ite (ite (hm.emit ..) (hm.emit ..)) (ite (hm.emit ..) ((hm.pathError ..).emit ..))
  · exact ite (hm.emit ..) (hm.emit ..)
  · exact ite (hm.emit ..) (ite (hm.emit ..) (hm.emit ..))
  · exact ite ((ite (hm.raise ..) hm).emit ..) ((hm.pathError ..).emit ..)
  · exact (hm.pathError ..).emit ..

theorem bufWrite (c o : Nat) (bs : List Byte) : (s.bufWrite c o bs).MemWf :=
  foldl (fun _ _ hs => hs.log ..) _ (foldl (fun _ _ hs => hs.setBuf ..) _ hm)

theorem clientWriteCmd (path : ClientPath) (off : Nat) (bs : List Byte) :
    (Machine.clientWriteCmd s path off bs).MemWf := by
  unfold Machine.clientWriteCmd
  refine ite hm ?_
  split
  · exact ite (ite (hm.emit ..) hm) (ite (ite (hm.mbxDbCmd ..) (ite (hm.mbxDbCmd ..) hm)) (hm.pathError ..))
  · exact ite (hm.emit ..) hm
  · exact ite (hm.bufWrite ..) (ite (hm.emit ..) hm)
  · exact ite ((hm.pathError ..).emit ..) (hm.pathError ..)
  · exact ite ((hm.pathError ..).emit ..) (hm.pathError ..)

/-! ### Machine/Sequencer.lean -/

theorem csrWr (p n v : Nat) : (s.csrWr p n v).MemWf :=
  ite (hm.onCore ..) (ite (hm.onCore ..) (ite (hm.onCore ..) (ite (hm.onCore ..) (ite (hm.onCore ..) hm))))

theorem exception (p cause tval : Nat) : (s.exception p cause tval).MemWf := hm.onCore ..

theorem endStall (p : Nat) : (s.endStall p).MemWf := hm.onCore ..

theorem localInterruptCmd (p : Nat) : (Machine.localInterruptCmd s p).MemWf := by
  unfold Machine.localInterruptCmd
  extract_lets +onlyGivenNames c ip
  refine ite hm ?_
  split
  · exact hm
  · exact ite (hm.setCore ..) (hm.setCore ..)

/-! ### Machine/QueueExt.lean -/

end

/-- A load leaves canonical memories. -/
inductive OfLoad : LoadRes → Prop
  | val {v : Nat} {s : Chip} : s.MemWf → OfLoad (.val v s)
  | fault {s : Chip} {cause : Nat} : s.MemWf → OfLoad (.fault s cause)
  | wait : OfLoad .wait

namespace OfLoad

theorem toVal {r : LoadRes} {v : Nat} {s : Chip} (h : OfLoad r) (hr : r = .val v s) : s.MemWf := by
  subst hr
  cases h with
  | val h => exact h

theorem toFault {r : LoadRes} {v : Nat} {s : Chip} (h : OfLoad r) (hr : r = .fault s v) : s.MemWf := by
  subst hr
  cases h with
  | fault h => exact h

theorem ite {c : Prop} [Decidable c] {a b : LoadRes} (ha : OfLoad a) (hb : OfLoad b) : OfLoad (if c then a else b) := by
  split
  · exact ha
  · exact hb

theorem seqLoad {s : Chip} (hm : s.MemWf) (p a n : Nat) : OfLoad (s.seqLoad p a n) := by
  unfold Chip.seqLoad
  refine ite (fault hm) (ite (fault hm) ?_)
  have hport := hm.portLoad p (a - 0x1000000)
  generalize placeOf a = place
  generalize a - 0x1000000 = off at hport ⊢
  generalize s.portLoad p off = x at hport ⊢
  obtain ⟨v, t⟩ := x
  cases place with
  | none => exact fault hm
  | window =>
    refine ite (val (hm.regError ..)) ?_
    split
    · exact ite wait (val hport)
    · exact val hport
  | _ => exact ite (fault (hm.onCore ..)) (val (hm.onCore ..))

end OfLoad

theorem seqStore {s t : Chip} (hm : s.MemWf) {p a n v : Nat} (ht : s.seqStore p a n v = .ok t) : t.MemWf := by
  unfold Chip.seqStore at ht
  dsimp only at ht
  split at ht
  · cases ht
  · split at ht
    · cases ht
    · split at ht
      · cases ht
      · rw [← Except.ok.inj ht]
        exact MemWf.ite (hm.regError ..) (hm.portStore ..)
      · rw [← Except.ok.inj ht]
        exact hm.setCore ..

/-- The state an instruction leaves, retired or trapped, has canonical memories. -/
inductive OfRes : SeqRes → Prop
  | ok {s : Chip} {pc : Word} : s.MemWf → OfRes (.ok s pc)
  | trap {s : Chip} {cause tval : Nat} : s.MemWf → OfRes (.trap s cause tval)
  | wait {cause : StallCause} : OfRes (.wait cause)

theorem OfRes.ite {c : Prop} [Decidable c] {a b : SeqRes} (ha : OfRes a) (hb : OfRes b) :
    OfRes (if c then a else b) := by
  split
  · exact ha
  · exact hb

theorem OfRes.seqApply {s : Chip} (hm : s.MemWf) {r : SeqRes} (hr : OfRes r) (p w len : Nat) :
    (Machine.seqApply s p w len r).MemWf := by
  cases hr with
  | ok h =>
    unfold Machine.seqApply
    exact (h.endStall ..).onCore ..
  | trap h => exact (h.endStall ..).exception ..
  | wait =>
    unfold Machine.seqApply
    exact hm.onCore ..

namespace OfRes

section
variable {s : Chip} (hm : s.MemWf)
include hm

theorem execLoad (p w len : Nat) : OfRes (Machine.execLoad s p w len) := by
  unfold Machine.execLoad
  dsimp only
  refine ite (trap hm) ?_
  split
  · exact ok ((OfLoad.toVal (OfLoad.seqLoad hm ..) ‹_›).onCore ..)
  · exact trap (OfLoad.toFault (OfLoad.seqLoad hm ..) ‹_›)
  · exact wait

theorem execStore (p w len : Nat) : OfRes (Machine.execStore s p w len) := by
  unfold Machine.execStore
  dsimp only
  refine ite (trap hm) ?_
  split
  · exact ok (seqStore hm ‹_›)
  · exact trap hm

theorem execAmo (p w : Nat) : OfRes (Machine.execAmo s p w) := by
  unfold Machine.execAmo
  refine ite (trap hm) (ite (trap hm) (ite (trap hm) (ite (trap (hm.onCore ..)) (ite (ok (hm.setCore ..)) (ite (ok
    (hm.setCore ..)) ?_)))))
  split
  · exact ok (hm.setCore ..)
  · exact trap hm

theorem execCsr (p w : Nat) : OfRes (Machine.execCsr s p w) := by
  unfold Machine.execCsr
  dsimp only
  split
  · exact trap hm
  · exact ite (trap hm) (ok ((MemWf.ite (hm.csrWr ..) hm).onCore ..))

theorem execSystem (p w len : Nat) : OfRes (Machine.execSystem s p w len) := by
  unfold Machine.execSystem
  dsimp only
  refine ite (trap hm) ?_
  split
  · exact trap hm
  · exact trap hm
  · exact ite (trap hm) (ok (hm.setCore ..))
  · exact ite (trap hm) (ok hm)
  · exact trap hm

theorem qxQop (p w a : Nat) : OfRes (Machine.qxQop s p w a) := by
  unfold Machine.qxQop
  dsimp only
  split
  · exact trap hm
  · exact trap hm
  · exact ite (trap hm) (ite wait (ok ((hm.setCore ..).markNew ..)))

theorem qxQpushV (p w a : Nat) : OfRes (Machine.qxQpushV s p w a) := by
  unfold Machine.qxQpushV
  dsimp only
  split
  · exact trap hm
  · exact trap hm
  · exact ite (trap hm) (ite wait (ok ((hm.setCore ..).markNew ..)))

theorem qxQpushK (p w a : Nat) : OfRes (Machine.qxQpushK s p w a) := by
  unfold Machine.qxQpushK
  dsimp only
  split
  · exact trap hm
  · exact trap hm
  · exact ite (trap hm) (ite wait (ok ((hm.setCore ..).markNew ..)))

theorem qxBenq (p : Nat) (be : Bool) (w a : Nat) : OfRes (Machine.qxBenq s p be w a) := by
  unfold Machine.qxBenq
  dsimp only
  split
  · exact trap hm
  · exact trap hm
  · exact ite (trap hm) (ite wait (ite wait (ok ((hm.setCore ..).markNew ..))))

theorem qxQfence (p w mask : Nat) : OfRes (Machine.qxQfence s p w mask) := ite (trap hm) (ite wait (ok hm))

theorem qxMfence (p : Nat) : OfRes (Machine.qxMfence s p) := ite wait (ok hm)

theorem qxQxret (p w : Nat) : OfRes (Machine.qxQxret s p w) := ite (trap hm) (ok (hm.setCore ..))

theorem qxCtbrl (p rd : Nat) : OfRes (Machine.qxCtbrl s p rd) := ok (hm.setCore ..)

theorem qxCtbrh (p rd : Nat) : OfRes (Machine.qxCtbrh s p rd) := ok (hm.onCore ..)

theorem qxTarm (p lo hi : Nat) : OfRes (Machine.qxTarm s p lo hi) := ok (hm.setCore ..)

theorem qxBarv (p w rd b : Nat) : OfRes (Machine.qxBarv s p w rd b) := ite (trap hm) (ok ((hm.barArrive ..).onCore ..))

theorem qxBwait (p w b g : Nat) : OfRes (Machine.qxBwait s p w b g) := ite (trap hm) (ite wait (ok hm))

theorem qxBpoll (p w rd b g : Nat) :
    OfRes (Machine.qxBpoll s p w rd b g) := ite (trap hm) (ite (ok (hm.setCore ..)) (ok (hm.setCore ..)))

theorem qxDbell (p w ch : Nat) : OfRes (Machine.qxDbell s p w ch) := ite (trap hm) (ite wait (ok (hm.mbxDbCmd ..)))

theorem qxWrung (p w rd ch l : Nat) : OfRes (Machine.qxWrung s p w rd ch l) := ite (trap hm) (ok (hm.onCore ..))

theorem qxGreq (p w rd nj : Nat) :
    OfRes (Machine.qxGreq s p w rd nj) := ite (trap hm) (ite wait (ok ((hm.setCore ..).en _)))

theorem qxGstat (p w rd h : Nat) : OfRes (Machine.qxGstat s p w rd h) := ite (trap hm) (ok (hm.onCore ..))

theorem qxGrel (p w h : Nat) : OfRes (Machine.qxGrel s p w h) := ite (trap hm) (ok (hm.releaseGrant ..))

theorem execQx (p w : Nat) : OfRes (Machine.execQx s p w) := by
  unfold Machine.execQx
  dsimp only
  split
  · exact ite (qxQpushV hm ..) (trap hm)
  · exact ite (qxQpushK hm ..) (trap hm)
  · exact ite (qxQop hm ..) (trap hm)
  · exact ite (qxBenq hm ..) (trap hm)
  · exact ite (qxBenq hm ..) (trap hm)
  · exact ite (qxQfence hm ..) (trap hm)
  · exact ite (qxMfence hm ..) (trap hm)
  · exact ite (qxQxret hm ..) (trap hm)
  · exact ite (qxCtbrl hm ..) (trap hm)
  · exact ite (qxCtbrh hm ..) (trap hm)
  · exact ite (qxTarm hm ..) (trap hm)
  · exact ite (qxBarv hm ..) (trap hm)
  · exact ite (qxBwait hm ..) (trap hm)
  · exact qxBpoll hm ..
  · exact ite (qxDbell hm ..) (trap hm)
  · exact qxWrung hm ..
  · exact ite (qxGreq hm ..) (trap hm)
  · exact ite (qxGstat hm ..) (trap hm)
  · exact ite (qxGrel hm ..) (trap hm)
  · exact trap hm

theorem execRv (p w len : Nat) : OfRes (Machine.execRv s p w len) := by
  unfold Machine.execRv
  dsimp only
  split
  · exact ok (hm.setCore ..)
  · exact ok (hm.setCore ..)
  · exact ok (hm.setCore ..)
  · exact ite (trap hm) (ok (hm.setCore ..))
  · split
    · exact ok hm
    · exact trap hm
  · exact execLoad hm ..
  · exact execStore hm ..
  · exact ite (ok (hm.setCore ..)) (trap hm)
  · exact ite (trap hm) (ite (ok (hm.setCore ..)) (ok (hm.setCore ..)))
  · exact ite (ok hm) (trap hm)
  · exact execAmo hm ..
  · exact ite (execSystem hm ..) (ite (trap hm) (execCsr hm ..))
  · exact execQx hm ..
  · exact trap hm

theorem execFetched (p w len : Nat) : OfRes (Machine.execFetched s p w len) := by
  unfold Machine.execFetched
  refine ite ?_ (execRv hm ..)
  split
  · exact execRv hm ..
  · exact trap hm

end

end OfRes

section
variable {s : Chip} (hm : s.MemWf)
include hm

theorem queueCmd (p w : Nat) : (Machine.queueCmd s p w).MemWf := ite ((OfRes.execQx hm ..).seqApply hm ..) hm

/-! ### Machine/Rv.lean -/

theorem rvInstructionCmd (p : Nat) : (Machine.rvInstructionCmd s p).MemWf := by
  unfold Machine.rvInstructionCmd
  refine ite hm ?_
  split
  · exact (ite (hm.onCore ..) hm).exception ..
  · exact (OfRes.execFetched hm ..).seqApply hm ..

theorem stallRetireCmd (p : Nat) : (Machine.stallRetireCmd s p).MemWf := by
  unfold Machine.stallRetireCmd
  refine ite hm ?_
  split
  · exact hm
  · exact (OfRes.execFetched hm ..).seqApply hm ..

/-! ### Machine/Lift.lean -/

theorem drainVerdicts (p : Nat) : (s.drainVerdicts p).MemWf :=
  ite hm ((foldl (fun _ _ hs => hs.trace ..) _ hm).onCore ..)

theorem settleCore (t : Chip) (p : Nat) : (t.settleCore s p).MemWf := (hm.setCore ..).drainVerdicts ..

theorem takeSys (p : Nat) (m : SysMsg) : (s.takeSys p m).MemWf := by
  unfold Chip.takeSys
  dsimp only
  split
  · exact hm
  · split
    · exact hm.onCore ..
    · exact hm

end

end Chip.MemWf

/-- A result whose state, where it is a next state, has canonical memories. -/
def LeavesMemWf (r : Result) : Prop := ∀ t, r = .next t → t.chip.MemWf

namespace LeavesMemWf

section
variable {s : State} (hm : s.chip.MemWf)
include hm

theorem act {d : Domain} {f : Chip → Chip} (hf : ∀ {m : Chip}, m.MemWf → (f m).MemWf) : LeavesMemWf (s.act d f) := by
  intro t ht
  cases ht
  by_cases hd : d.active s.chip = true
  · simpa [hd] using hf hm
  · simpa [hd] using hm

omit hm in
/-- A result that is given only under a condition on the command's operands. -/
theorem guarded {P : Prop} [Decidable P] {r : Result} (hr : LeavesMemWf r) :
    LeavesMemWf (if P then r else .fault .noSuchUnit) := by
  intro t ht
  split at ht
  · exact hr t ht
  · cases ht

theorem actUnit {d : Domain} {u n : Nat} {f : Chip → Chip} (hf : ∀ {m : Chip}, m.MemWf → (f m).MemWf) :
    LeavesMemWf (s.actUnit d u n f) :=
  (act hm hf).guarded

/-- The core is settled once the command is done with the part. -/
theorem actCore {d : Domain} {p : Nat} {f : Chip → Chip} (hf : ∀ {m : Chip}, m.MemWf → (f m).MemWf) :
    LeavesMemWf (s.actCore d p f) :=
  (act hm fun h => (hf h).settleCore ..).guarded

theorem actOn {p : Nat} {f : Core → Core} : LeavesMemWf (s.actOn p f) := actCore hm fun h => h.onCore ..

theorem actQx {p f7 f3 rd rs1 rs2 : Nat} : LeavesMemWf (s.actQx p f7 f3 rd rs1 rs2) :=
  (actCore hm fun h => h.queueCmd ..).guarded

theorem actClient {c ch : Nat} {f : Chip → Chip} (hf : ∀ {m : Chip}, m.MemWf → (f m).MemWf) :
    LeavesMemWf (s.actClient c ch f) :=
  (act hm hf).guarded

theorem actMbx {b : Mbx} {f : Chip → Chip} (hf : ∀ {m : Chip}, m.MemWf → (f m).MemWf) : LeavesMemWf (s.actMbx b f) :=
  (act hm hf).guarded

end

end LeavesMemWf

/-- Every command leaves canonical memories: the lift that its arm of `exec` uses, and the rule of its effect. -/
theorem exec_leavesMemWf (c : Instr) {s : State} (hm : s.chip.MemWf) : LeavesMemWf (exec c s) := by
  unfold exec
  cases c
  case rvInstruction => exact .actCore hm fun h => h.rvInstructionCmd ..
  case localInterrupt => exact .actCore hm fun h => h.localInterruptCmd ..
  case seqStallRetire => exact .actCore hm fun h => h.stallRetireCmd ..
  case condBlockHead => exact .actCore hm fun h => h.condBlockHeadCmd ..
  case blockDispatch => exact .actCore hm fun h => h.blockDispatchCmd ..
  case blockLaunch => exact .actCore hm fun h => h.blockLaunchCmd ..
  case fnop | fwld | fmma | bnop | bwld | bmma | bcm => exact .actCore hm fun h => h.launchCmd ..
  case cvt => exact .actCore hm fun h => h.cvtCmd ..
  case pdrn => exact .actCore hm fun h => h.pdrnCmd ..
  case ldt => exact .actCore hm fun h => h.ldtCmd ..
  case red => exact .actCore hm fun h => h.redCmd ..
  case send => exact .actCore hm fun h => h.sendCmd ..
  case recv => exact .actCore hm fun h => h.recvCmd ..
  case stsh => exact .actCore hm fun h => h.stshCmd ..
  case usth => exact .actCore hm fun h => h.usthCmd ..
  case igth => exact .actCore hm fun h => h.igthCmd ..
  case kcap => exact .actCore hm fun h => h.kcapCmd ..
  case dacc => exact .actCore hm fun h => h.daccCmd ..
  case daccApply => exact .actCore hm fun h => h.daccApplyCmd ..
  case mov => exact .actCore hm fun h => h.movCmd ..
  case ksel => exact .actCore hm fun h => h.kselCmd ..
  case kchk => exact .actCore hm fun h => h.kchkCmd ..
  case kchkDone => exact .actCore hm fun h => h.onCore ..
  case stepBoundary => exact .act hm fun h => h.stepBoundaryCmd ..
  case stepRelease => exact .act hm fun h => h.stepReleaseCmd ..
  case packetForward => exact .actUnit hm fun h => .ite h (h.packetForwardLinkCmd ..)
  case dataMessage => exact .actCore hm fun h => h.dataMessageCmd ..
  case voidMessage => exact .actCore hm fun h => h.voidMessageCmd ..
  case readyToken => exact .actCore hm fun h => h.readyTokenCmd ..
  case deliveryAck => exact .actCore hm fun h => h.deliveryAckCmd ..
  case storeWrite => exact .actCore hm fun h => h.storeWriteCmd ..
  case storeWriteAck => exact .actCore hm fun h => h.storeWriteAckCmd ..
  case storeReadRequest => exact .actCore hm fun h => h.storeReadRequestCmd ..
  case storeReadResponse => exact .actCore hm fun h => h.storeReadResponseCmd ..
  case barrierArrival => exact .actCore hm fun h => h.barrierArrivalCmd ..
  case barrierCompletion => exact .actCore hm fun h => h.barrierCompletionCmd ..
  case stewardMessage => exact .act hm fun h => h.stewardMessageCmd ..
  case rankAnnounce => exact .act hm fun h => h.rankAnnounceCmd ..
  case partLostMsg => exact .act hm fun h => h.partLostCmd ..
  case memoryRequest => exact .act hm fun h => h.memoryRequestCmd ..
  case memoryResponse => exact .act hm fun h => h.memoryResponseCmd ..
  case linkStopPacket => exact .actUnit hm fun h => h.linkStopPacketCmd ..
  case ctbcmpMatch => exact .actCore hm fun h => h.ctbcmpMatchCmd ..
  case timedStart => exact .actCore hm fun h => h.timedStartCmd ..
  case hbmScrub => exact .act hm fun h => h.hbmScrubCmd ..
  case selfRefreshEntry => exact .act hm fun h => h.selfRefreshCmd ..
  case hbmTemperature => exact .act hm fun h => h.hbmTemperatureCmd ..
  case cxlDeviceDown => exact .act hm fun h => h.cxlDeviceDownCmd ..
  case cowCopyDone => exact .act hm fun h => h.cowCopyCmd ..
  case spillDone => exact .actCore hm fun h => h.spillDoneCmd ..
  case prefetchStart => exact .actCore hm fun h => h.prefetchStartCmd ..
  case prefetchDone => exact .actCore hm fun h => h.prefetchDoneCmd ..
  case stashHoldTimeout => exact .actCore hm fun h => (h.runOut ..).stashHoldTimeoutCmd ..
  case pmdTrainingDone => exact .actUnit hm fun h => h.pmdDoneCmd ..
  case fecLock => exact .actUnit hm fun h => h.fecLockCmd ..
  case identFlit => exact .actUnit hm fun h => h.identFlitCmd ..
  case trainingTimeout => exact .actUnit hm fun h => (h.runOut ..).trainingTimeoutCmd ..
  case dataFlit => exact .actUnit hm fun h => h.dataFlitCmd ..
  case idleFlit => exact .actUnit hm fun h => h.idleFlitCmd ..
  case nakFlit => exact .actUnit hm fun h => h.nakFlitCmd ..
  case timeFlit => exact .actUnit hm fun h => h.timeFlitCmd ..
  case lmFlit => exact .actUnit hm fun h => h.lmFlitCmd ..
  case ackTimeout => exact .actUnit hm fun h => (h.runOut ..).ackTimeoutCmd ..
  case nakRepeat => exact .actUnit hm fun h => (h.runOut ..).nakRepeatCmd ..
  case episodeTimeout => exact .actUnit hm fun h => (h.runOut ..).episodeTimeoutCmd ..
  case laneSignalLoss => exact .actUnit hm fun h => h.laneLossCmd ..
  case fecFailure => exact .actUnit hm fun h => h.fecFailureCmd ..
  case linkDegrade => exact .actUnit hm fun h => h.linkDegradeCmd ..
  case linkRetrain => exact .actUnit hm fun h => (h.runOut ..).linkRetrainCmd ..
  case timeExchangeStart => exact .actUnit hm fun h => h.timeExchangeCmd ..
  case disciplineWindow => exact .act hm fun h => h.disciplineCmd ..
  case replan => exact .act hm fun h => h.replanCmd ..
  case channelNotice => exact .actMbx hm fun h => .ite (h.channelNoticeCmd ..) h
  case ifQuery => exact .actClient hm fun h => h.vcfCmd _ _ _ fun _ hs => hs.ifQueryRun ..
  case chReset => exact .actClient hm fun h => h.vcfCmd _ _ _ fun _ hs => hs.chResetRun ..
  case jobLoad => exact .actClient hm fun h => h.vcfCmd _ _ _ fun _ hs => hs.jobLoadRun ..
  case jobStart => exact .actClient hm fun h => h.vcfCmd _ _ _ fun _ hs => hs.jobStartRun ..
  case jobUnload => exact .actClient hm fun h => h.vcfCmd _ _ _ fun _ hs => hs.jobUnloadRun ..
  case stepRun => exact .actClient hm fun h => h.vcfCmd _ _ _ fun _ hs => hs.stepRunRun ..
  case stepPause => exact .actClient hm fun h => h.vcfCmd _ _ _ fun _ hs => hs.stepPauseRun ..
  case snapTake => exact .actClient hm fun h => h.vcfCmd _ _ _ fun _ hs => hs.snapTakeRun ..
  case snapRestore => exact .actClient hm fun h => h.vcfCmd _ _ _ fun _ hs => hs.snapRestoreRun ..
  case coreFence => exact .actClient hm fun h => h.coreFenceCmd ..
  case coreUnfence => exact .actClient hm fun h => h.vcfCmd _ _ _ fun _ hs => hs.coreUnfenceRun ..
  case telQuery => exact .actClient hm fun h => h.vcfCmd _ _ _ fun _ hs => hs.telQueryRun ..
  case fltAck => exact .actClient hm fun h => h.vcfCmd _ _ _ fun _ hs => hs.fltAckRun ..
  case updStage => exact .actClient hm fun h => h.vcfCmd _ _ _ fun _ hs => hs.updStage ..
  case updCommit => exact .actClient hm fun h => h.vcfCmd _ _ _ fun _ hs => hs.updCommit ..
  case updAbort => exact .actClient hm fun h => h.vcfCmd _ _ _ fun _ hs => hs.updAbort ..
  case polPropose => exact .actClient hm fun h => h.vcfCmd _ _ _ fun _ hs => hs.polPropose ..
  case polApprove => exact .actClient hm fun h => h.vcfCmd _ _ _ fun _ hs => hs.polApprove ..
  case envSet => exact .actClient hm fun h => h.vcfCmd _ _ _ fun _ hs => hs.envSetRun ..
  case inputFetch => exact .actCore hm fun h => h.inputFetchCmd ..
  case log => exact .actCore hm fun h => h.logCmd ..
  case updPhaseDone => exact .act hm fun h => h.updPhaseDoneCmd ..
  case lockstepMismatch => exact .act hm fun h => .ite (h.lockstepCmd ..) h
  case rdmaConnect => exact .act hm fun h => h.rdmaConnectCmd ..
  case clientWindowRead => exact .act hm fun h => h.clientReadCmd ..
  case clientWindowWrite => exact .act hm fun h => h.clientWriteCmd ..
  case faultEvent => exact .act hm fun h => h.faultEventCmd ..
  case faultWindowEnd => exact .act hm fun h => (h.runOut ..).faultWindowEndCmd ..
  case graceExpiry => exact .act hm fun h => (h.runOut ..).graceExpiryCmd ..
  case progressTimeout => exact .actCore hm fun h => (h.runOut ..).progressTimeoutCmd ..
  case benchThermal => exact .actUnit hm fun h => h.benchThermalCmd ..
  case overCurrent => exact .act hm fun h => h.overCurrentCmd ..
  case captureComplete => exact .act hm fun h => h.captureCompleteCmd ..
  case captureCommit => exact .act hm fun h => (h.captureCommitCmd ..).afterCapture ..
  case destinationFail => exact .act hm fun h => (h.destinationFailCmd ..).afterCapture ..
  case accountingPeriod => exact .act hm fun h => h.accountingPeriodCmd ..
  case grantRequestMsg => exact .actCore hm fun h => h.grantRequestMsgCmd ..
  case calibration => exact .act hm fun h => h.calibrationCmd ..
  case exceedCheck => exact .act hm fun h => h.exceedCheckCmd ..
  case pointChange => exact .actUnit hm fun h => h.pointChangeCmd ..
  case benchPark => exact .actUnit hm fun h => h.benchParkCmd ..
  case bistDone => exact .actCore hm fun h => h.bistDoneCmd ..
  case powerGood => exact .act hm fun h => h.powerGoodCmd ..
  case bootStageDone => exact .act hm fun h => h.bootStageDoneCmd ..
  case bootStageTimeout => exact .act hm fun h => h.bootStageTimeoutCmd ..
  case railOutOfRange => exact .act hm fun h => h.railOutCmd ..
  case tapBypass => exact .act hm fun h => h.tapBypassCmd ..
  case pcieSurpriseRemoval => exact .act hm fun h => h.removalCmd ..
  case i3cOffsetWrite => exact .act hm fun h => h.i3cOffsetCmd ..
  case i3cRead => exact .act hm fun h => h.i3cReadCmd ..
  case setdasa => exact .act hm fun h => h.setdasaCmd ..
  case entdaa => exact .act hm fun h => h.entdaaCmd ..
  case i2cTransfer => exact .act hm fun h => h.i2cCmd ..
  case telemetryRefresh => exact .act hm fun h => h.telemetryRefreshCmd ..
  case registerWrite => exact .act hm fun h => .ite h (h.registerWriteCmd ..)
  case windowPairAccess => exact .actCore hm fun h => h.windowPairCmd ..
  case sramAliasWrite => exact .actCore hm fun h => h.sramAliasCmd ..
  case qeCfgTakeEffect => exact .guarded (.actCore hm fun h => h.onCore ..)
  case rsWriteLand => exact .guarded (.actCore hm fun h => h.onCore ..)
  case mbxDbWrite => exact .actMbx hm fun h => h.mbxDbCmd ..
  case mbxDbRWrite => exact .actMbx hm fun h => h.mbxDbCmd ..
  case mbxMaskWrite => exact .actMbx hm fun h => h.mbxMaskCmd ..
  case mbxRoleWrite => exact .act hm fun h => h.mbxRoleCmd ..
  case sthCfgWrite => exact .actCore hm fun h => .ite (h.sthWriteCmd ..) h
  case slCtlEnWrite => exact .actUnit hm fun h => .ite (h.slCtlEnCmd ..) h
  case slCtlRetire => exact .actUnit hm fun h => .ite (h.slRetireCmd ..) h
  case engineLatencyReached => exact .actCore hm fun h => h.latencyReachedCmd ..
  case operationCommit => exact .actCore hm fun h => h.operationCommitCmd ..
  case checkpointEntryArrival => exact .actCore hm fun h => h.checkpointArrivalCmd ..
  case ieee1588Message => exact .act hm fun h => h.ptpCmd ..
  case d3hotTransition => exact .act hm fun h => h.d3hotCmd ..
  case trimAdjust => exact .act hm fun h => h.trimAdjustCmd ..
  case refclkLoss => exact .act hm fun h => h.refclkLossCmd ..
  case holdoverRelock => exact .act hm fun h => h.holdoverRelockCmd ..
  case holdoverTimeout => exact .act hm fun h => h.holdoverTimeoutCmd ..
  case migrationPageMove => exact .act hm fun h => h.migrationPageMoveCmd ..
  case migrationDone => exact .act hm fun h => .ite ((h.migrationDoneCmd ..).retireNext ..) h
  case plannedSwitchover => exact .act hm fun h => (h.runOut ..).plannedSwitchoverCmd ..
  case thermtrip => exact .act hm fun h => h.thermtripCmd ..
  case layer2UploadDone => exact .act hm fun h => h.uploadDoneCmd ..
  case grantIssue =>
    refine .act hm fun h => ?_
    split
    · exact h.grantIssueCmd.settleCore ..
    · exact h.grantIssueCmd
  case pwrOkFall => exact .act hm fun _ => Chip.MemWf.pwrOkFallCmd
  case vddAonLow => exact .act hm fun _ => Chip.MemWf.vddAonLowCmd
  case sysRstN => exact .act hm fun h => h.sysRstCmd ..
  case mepPerstN => exact .act hm fun h => h.mepPerstCmd ..
  case functionLevelReset => exact .act hm fun h => h.flrCmd ..
  case trstN => exact .act hm fun h => h.trstCmd ..
  case tapIdcode => exact .act hm fun h => h.tapIdcodeCmd ..
  case traceStatusRecord => exact .act hm fun h => h.traceStatusCmd ..
  case haltTraceRecord => exact .act hm fun h => h.haltTraceCmd ..
  case traceDropRecord => exact .act hm fun h => h.traceDropCmd ..
  case sysRstNRelease => exact .act hm fun h => h.sysRstReleaseCmd ..
  case railsWithinRange => exact .act hm fun h => h.railsWithinRangeCmd ..
  case accountantRunning => exact .act hm fun h => h.accountantRunningCmd ..
  case lockstepErrNRelease => exact .act hm fun h => (h.runOut ..).lockErrReleaseCmd ..
  case qpushV | qpushK | qop | benqF | benqB | qfence | mfence | qxret | ctbrl | ctbrh | tarm | barv | bwait |
      bpoll | dbell | wrung | greq | gstat | grel =>
    exact .actQx hm
  case vadd | vsub | vmul | vfma | vdiv | vsqrt | vrem | vmin | vmax | vminn | vmaxn | vminm | vmaxm | vminmn |
      vmaxmn | vcmpq | vcmps | vcvt | vcvti | vcvtf | vrint | vscaleb | vlogb | vnextup | vnextdn | vneg | vabs |
      vcpsgn | vclass | vrfill =>
    exact .actOn hm
  case coreVerdictMsg | layerVerdictMsg | shardAmaxMsg | tensorScaleMsg =>
    exact .actCore hm fun h => (h.takeSys ..).onCore ..
  case seqCtlWrite | clampClr | feRepairWrite | feBistStart | beRepairWrite | beBistStart | vuFcsrWrite |
      hzdStatClear | errStatClear | drwErrClear | krfVrRdWrite | tlLateClr | seqCtbcmpWrite | cfcAckWrite |
      progLimitWrite =>
    exact .actCore hm fun h => h.coreWrite ..
  case qeCfgWrite | rsRegWrite | sctCfgWrite | sctScaleWrite | sctHistWrite | sctLinkWrite | ltCfgWrite |
      barCfgWrite =>
    exact .guarded (.actCore hm fun h => h.coreWrite ..)
  case fabMapWrite | fabBypWrite | memRgnCtlWrite | slRtWrite | fltCfgWrite =>
    exact .actUnit hm fun h => h.chipWrite ..
  case ctbTrimWrite | memRetireGo | memJobstWrite | tsCfgWrite | fltAckWrite | fltFirstClear | snpCtlWrite =>
    exact .act hm fun h => h.chipWrite ..

/-- Settles O5: the front command by `exec_leavesMemWf`, the idle cycle by `Chip.MemWf.tick`. -/
theorem memoryStaysCanonical : Obligations.MemoryStaysCanonical := by
  intro s t hs ht
  have hm : s.chip.MemWf := ⟨hs.1, hs.2⟩
  have hleaves : LeavesMemWf (step s) := by
    unfold step
    split
    · exact exec_leavesMemWf _ hm
    · rintro t ⟨⟩
      exact hm.tick
  obtain ⟨hhbm, hcxl⟩ := hleaves t ht
  exact ⟨hhbm, hcxl⟩

end Sys2Proof.Machine
end

section
/-!
PROOFS. Requests to the memories (10 R338, R339, R343, R346, R355): what the home controller does with one.

A request first wakes its stack. Then its shape, its agent and its direction decide: the store window of a core, a write, a read,
or a refusal (`memoryRequestCmd_window`, `_write`, `_read`, `_refused`). What a case leaves alone is said by `_keep` lemmas, for
any reading `g` of the part that the updates of the case pass by.
-/
namespace Sys2Proof.Machine

theorem completes_held {i : Instr} {s : State} {post : State → Prop} (f : Chip → Chip) (hu : s.up) (he : exec i s = s.act .held f)
    (hpost : post { s with chip := f s.chip }) : Completes i s post :=
  ⟨_, he.trans (State.act_next (State.active_held hu) f), hpost⟩

/-- The `n` bytes from `a` are those of the request (a read moves whole lines), and they lie in the request's lines, in one
page (R343; the line that ADDR begins in, log 79). -/
structure ReqShape (q : MemReq) (a n : Nat) : Prop where
  start : (if q.write then q.addr else q.addr / 64 * 64) = a
  size : (if q.write then q.data.length else 64 * q.lines) = n
  one_le : 1 ≤ q.lines
  le : q.lines ≤ 64
  page : a / 4096 = (a / 64 + q.lines - 1) / 64
  fits : a % 64 + n ≤ 64 * q.lines
  some : n ≠ 0

/-- What a request leaves in its stack: it is awake. -/
theorem Chip.wake_keep {γ : Type} (g : Chip → γ) (hsr : ∀ (s : Chip) x, g { s with selfRef := x } = g s) (s : Chip) (a : Nat) :
    g (s.wake a) = g s := by
  unfold Chip.wake
  split
  · exact hsr _ _
  · rfl

theorem Chip.eccRead_keep {γ : Type} (g : Chip → γ) (hregs : ∀ (s : Chip) x, g { s with regs := x } = g s)
    (hraised : ∀ (s : Chip) x, g { s with raised := x } = g s) (s : Chip) (a : Nat) (e : EccResult) : g (s.eccRead a e) = g s := by
  unfold Chip.eccRead
  cases e with
  | good => rfl
  | corrected => exact (hraised _ _).trans (hregs _ _)
  | uncorrectable => exact (hraised _ _).trans (hregs _ _)

theorem Chip.poisonEvent_keep {γ : Type} (g : Chip → γ) (hraised : ∀ (s : Chip) x, g { s with raised := x } = g s) (s : Chip)
    (a : Nat) : g (s.poisonEvent a) = g s := by
  unfold Chip.poisonEvent
  split
  · exact hraised _ _
  · rfl

theorem Chip.memWr_keep {γ : Type} (g : Chip → γ)
    (hg : ∀ (s : Chip) poison hbm cxl, g { s with poison := poison, hbm := hbm, cxl := cxl } = g s) (s : Chip) (a : Nat)
    (bs : List Byte) : g (s.memWr a bs) = g s := by
  unfold Chip.memWr
  split
  · exact hg s _ _ s.cxl
  · exact hg s _ s.hbm _

theorem Chip.protTouch_of_prot_nil {s : Chip} (h : s.snp.prot = []) (a n : Nat) : s.protTouch a n = false := by
  unfold Chip.protTouch
  rw [h]
  rfl

/-- What the core store does for a request: it writes the bytes, or reads them. -/
def serveStore (q : MemReq) (a n : Nat) (c : Core) : Core :=
  if q.write then c.unitWr (a % 0x1000000) q.data else c.unitRd (a % 0x1000000) n

theorem serveStore_store (q : MemReq) (a n : Nat) (c : Core) :
    (serveStore q a n c).store = if q.write then Bytes.wrN c.store (a % 0x1000000) q.data else c.store := by
  unfold serveStore
  split
  · rfl
  · exact Core.unitRd_keep (·.store) (fun _ _ => rfl) (fun _ _ => rfl) (fun _ _ => rfl) ..

/-- An agent that reaches the memories there does not reach a store window. -/
theorem Chip.windowCore_of_runOk {s : Chip} {a n : Nat} {w k : Bool} {ag : MemAgent} (h : s.runOk ag w k a n = true) :
    s.windowCore ag a n = none := by
  have hkind := List.all_eq_true.1 h a List.mem_cons_self
  unfold Chip.windowCore
  cases hk : s.memKind a with
  | store => simp [hk] at hkind
  | _ => simp

/-- The part once it has read: its counts, its events and the stacks' sleep. -/
def Chip.afterRead (s : Chip) (a n : Nat) (e : EccResult) : Chip :=
  (if a < 0x10000000000 then (s.wake a).eccRead a e else s.wake a).hbmUse a n

theorem Chip.afterRead_eq (s : Chip) (a n : Nat) (e : EccResult) :
    (if a < 0x10000000000 then (s.wake a).eccRead a e else s.wake a).hbmUse a n = s.afterRead a n e := rfl

theorem Chip.afterRead_keep {γ : Type} (g : Chip → γ) (hen : ∀ (s : Chip) x, g { s with en := x } = g s)
    (hsr : ∀ (s : Chip) x, g { s with selfRef := x } = g s) (hregs : ∀ (s : Chip) x, g { s with regs := x } = g s)
    (hraised : ∀ (s : Chip) x, g { s with raised := x } = g s) (s : Chip) (a n : Nat) (e : EccResult) :
    g (s.afterRead a n e) = g s := by
  unfold Chip.afterRead
  rw [Chip.hbmUse_keep g hen hsr]
  split
  · rw [Chip.eccRead_keep g hregs hraised, Chip.wake_keep g hsr]
  · exact Chip.wake_keep g hsr s a

theorem Chip.memRd_congr {s t : Chip} {a n : Nat} (hb : t.bytesAt a n = s.bytesAt a n)
    (hl : ∀ l ∈ linesOf a n, t.linePoison l = s.linePoison l) :
    t.memRd a n = s.memRd a n := by
  unfold Chip.memRd
  rw [hb]
  have hany : (linesOf a n).any t.linePoison = (linesOf a n).any s.linePoison := by
    rw [Bool.eq_iff_iff, List.any_eq_true, List.any_eq_true]
    exact exists_congr fun l => and_congr_right fun h => by rw [hl l h]
  rw [hany]

/-- The part once a read is answered: a read that found lost data raises its event (R346). -/
def Chip.readDone (s : Chip) (a n : Nat) (e : EccResult) (lost : Bool) : Chip :=
  if lost then (s.afterRead a n e).poisonEvent a else s.afterRead a n e

theorem Chip.readDone_keep {γ : Type} (g : Chip → γ) (hen : ∀ (s : Chip) x, g { s with en := x } = g s)
    (hsr : ∀ (s : Chip) x, g { s with selfRef := x } = g s) (hregs : ∀ (s : Chip) x, g { s with regs := x } = g s)
    (hraised : ∀ (s : Chip) x, g { s with raised := x } = g s) (s : Chip) (a n : Nat) (e : EccResult) (lost : Bool) :
    g (s.readDone a n e lost) = g s := by
  have hread := Chip.afterRead_keep g hen hsr hregs hraised s a n e
  unfold Chip.readDone
  split
  · exact (Chip.poisonEvent_keep g hraised _ a).trans hread
  · exact hread

section
variable {s : Chip} {q : MemReq} {e : EccResult} {a n : Nat} (hq : ReqShape q a n)
include hq

theorem ReqShape.decided : (decide (1 ≤ q.lines) && decide (q.lines ≤ 64) &&
    decide (a / 4096 = (a / 64 + q.lines - 1) / 64) && decide (a % 64 + n ≤ 64 * q.lines) &&
    decide (n ≠ 0)) = true := by
  obtain ⟨-, -, hone, hle, hpage, hfits, hsome⟩ := hq
  simp only [Bool.and_eq_true, decide_eq_true_eq]
  exact ⟨⟨⟨⟨hone, hle⟩, hpage⟩, hfits⟩, hsome⟩

/-- A request to the store window of a core (R339). -/
theorem memoryRequestCmd_window {p : Nat} (hp : s.windowCore q.agent a n = some p) :
    memoryRequestCmd s q e =
      { (s.wake a).onCore p (serveStore q a n) with
        memResp := s.memResp ++ [if q.write then MemResp.mk q.agent q.xid true [] false
          else MemResp.mk q.agent q.xid true (Bytes.rdN (s.core p).store (a % 0x1000000) n)
            ((s.core p).upsetIn (0x400000 + a % 0x1000000) n)] } := by
  have hwin : (s.wake a).windowCore q.agent a n = some p :=
    (Chip.wake_keep (·.windowCore q.agent a n) (fun _ _ => rfl) s _).trans hp
  have hcore : (s.wake a).core p = s.core p := Chip.wake_keep (·.core p) (fun _ _ => rfl) s _
  have hresp : (s.wake a).memResp = s.memResp := Chip.wake_keep (·.memResp) (fun _ _ => rfl) s _
  unfold memoryRequestCmd
  simp only [hq.start, hq.size, hq.decided, hwin, if_true, hcore, hresp]
  rfl

/-- One that its agent may not make is answered with status 1. -/
theorem memoryRequestCmd_refused (hrun : s.runOk q.agent q.write q.confirmed a n = false) (hwin : s.windowCore q.agent a n = none)
    (hprot : s.snp.prot = []) :
    memoryRequestCmd s q e = { s.wake a with memResp := s.memResp ++ [MemResp.mk q.agent q.xid false [] false] } := by
  have hrun' := (Chip.wake_keep (·.runOk q.agent q.write q.confirmed a n) (fun _ _ => rfl) s a).trans hrun
  have hwin' := (Chip.wake_keep (·.windowCore q.agent a n) (fun _ _ => rfl) s a).trans hwin
  have hresp := Chip.wake_keep (·.memResp) (fun _ _ => rfl) s a
  have htouch := Chip.protTouch_of_prot_nil ((Chip.wake_keep (·.snp.prot) (fun _ _ => rfl) s a).trans hprot) a n
  unfold memoryRequestCmd
  simp [hq.start, hq.size, hwin', hrun', hresp, htouch]

/-- A write that the medium takes. -/
theorem memoryRequestCmd_write (hw : q.write = true) (hrun : s.runOk q.agent q.write q.confirmed a n = true)
    (hfree : s.wrRefused a n = false) (hprot : s.snp.prot = []) :
    memoryRequestCmd s q e =
      { ((s.wake a).hbmUse a n).memWr a q.data with memResp := s.memResp ++ [MemResp.mk q.agent q.xid true [] false] } := by
  have hrun' := (Chip.wake_keep (·.runOk q.agent q.write q.confirmed a n) (fun _ _ => rfl) s a).trans hrun
  have hwin' := (Chip.wake_keep (·.windowCore q.agent a n) (fun _ _ => rfl) s a).trans (Chip.windowCore_of_runOk hrun)
  have hfree' := (Chip.wake_keep (·.wrRefused a n) (fun _ _ => rfl) s a).trans hfree
  have hresp := Chip.wake_keep (·.memResp) (fun _ _ => rfl) s a
  have htouch := Chip.protTouch_of_prot_nil ((Chip.wake_keep (·.snp.prot) (fun _ _ => rfl) s a).trans hprot) a n
  unfold memoryRequestCmd
  simp only [hq.start, hq.size, hq.decided, hwin', hrun', hresp, htouch, hfree']
  simp [hw]

/-- The counts of a read touch no register that says which lines of HBM are lost. -/
theorem Chip.memRd_afterRead : (s.afterRead a n e).memRd a n = s.memRd a n := by
  obtain ⟨-, -, -, -, hpage, hfits, hsome⟩ := hq
  by_cases ha : a < 0x10000000000
  · refine Chip.memRd_congr ?_ fun l hl => ?_
    · exact Chip.afterRead_keep (·.bytesAt a n) (fun _ _ => rfl) (fun _ _ => rfl) (fun _ _ => rfl) (fun _ _ => rfl) s a n e
    · obtain ⟨-, -, hle⟩ := mem_linesOf.1 hl
      have hl : 64 * l < 0x10000000000 := by omega
      unfold Chip.linePoison Chip.lineFenced
      simp only [hl, if_true]
      exact Chip.afterRead_keep (fun s => decide (NatMap.rd s.poison l ≠ 0) ||
        (s.fencedCh.contains (hbmChannel (64 * l)) && NatMap.rd s.redir (64 * l / 4096) == 0)) (fun _ _ => rfl) (fun _ _ => rfl)
        (fun _ _ => rfl) (fun _ _ => rfl) s a n e
  · unfold Chip.afterRead
    rw [if_neg ha]
    exact (Chip.hbmUse_keep (·.memRd a n) (fun _ _ => rfl) (fun _ _ => rfl) _ a n).trans
      (Chip.wake_keep (·.memRd a n) (fun _ _ => rfl) s a)

/-- A read. -/
theorem memoryRequestCmd_read (hw : q.write = false) (hrun : s.runOk q.agent q.write q.confirmed a n = true) :
    memoryRequestCmd s q e =
      { s.readDone a n e ((s.memRd a n).2 || e == .uncorrectable) with
        memResp := s.memResp ++ [MemResp.mk q.agent q.xid true (s.memRd a n).1 ((s.memRd a n).2 || e == .uncorrectable)] } := by
  have hrun' := (Chip.wake_keep (·.runOk q.agent q.write q.confirmed a n) (fun _ _ => rfl) s a).trans hrun
  have hwin' := (Chip.wake_keep (·.windowCore q.agent a n) (fun _ _ => rfl) s a).trans (Chip.windowCore_of_runOk hrun)
  have hresp := Chip.readDone_keep (·.memResp) (fun _ _ => rfl) (fun _ _ => rfl) (fun _ _ => rfl) (fun _ _ => rfl) s a n e
    ((s.memRd a n).2 || e == .uncorrectable)
  unfold Chip.readDone at hresp ⊢
  unfold memoryRequestCmd
  simp only [hq.start, hq.size, hq.decided, hwin', hrun', Chip.afterRead_eq, Chip.memRd_afterRead hq]
  simp only [hw]
  simpa using hresp
end

/-! ### What the requester and the memories see -/

/-- A write lands in exactly its bytes. -/
theorem Chip.byteAt_memWr_outside (s : Chip) (a : Nat) (bs : List Byte) (x : Nat) (hx : x < a ∨ a + bs.length ≤ x) :
    (s.memWr a bs).byteAt x = s.byteAt x := by
  unfold Chip.memWr Chip.byteAt
  dsimp only
  split
  · split
    · exact Bytes.rd_wrN_outside s.hbm a bs x hx
    · rfl
  · split
    · rfl
    · exact Bytes.rd_wrN_outside s.cxl a bs x hx

theorem Chip.bytesAt_memWr (s : Chip) (a : Nat) (bs : List Byte) : (s.memWr a bs).bytesAt a bs.length = bs := by
  unfold Chip.memWr Chip.bytesAt
  dsimp only
  split
  · exact Bytes.rdN_wrN s.hbm a bs
  · exact Bytes.rdN_wrN s.cxl a bs

theorem Chip.hbm_memWr (s : Chip) (a : Nat) (bs : List Byte) :
    (s.memWr a bs).hbm = if a < 0x10000000000 then Bytes.wrN s.hbm a bs else s.hbm := by
  unfold Chip.memWr
  dsimp only
  split <;> rfl

theorem Chip.cxl_memWr (s : Chip) (a : Nat) (bs : List Byte) :
    (s.memWr a bs).cxl = if a < 0x10000000000 then s.cxl else Bytes.wrN s.cxl a bs := by
  unfold Chip.memWr
  dsimp only
  split <;> rfl

/-- The part on which a served write lands: its memories are those of the request. -/
theorem Chip.writing_keep {γ : Type} (g : Chip → γ) (hen : ∀ (s : Chip) x, g { s with en := x } = g s)
    (hsr : ∀ (s : Chip) x, g { s with selfRef := x } = g s) (s : Chip) (a n : Nat) : g ((s.wake a).hbmUse a n) = g s :=
  (Chip.hbmUse_keep g hen hsr _ a n).trans (Chip.wake_keep g hsr s a)

/-- A request's write is served (R343). -/
theorem memoryRequest_writes {s : State} {q : MemReq} {e : EccResult} {a n : Nat} (hu : s.up) (hq : ReqShape q a n)
    (hw : q.write = true) (hrun : s.chip.runOk q.agent q.write q.confirmed a n = true) (hfree : s.chip.wrRefused a n = false)
    (hprot : s.chip.snp.prot = []) :
    Completes (.memoryRequest q e) s fun t =>
      t.chip.memResp = s.chip.memResp ++ [MemResp.mk q.agent q.xid true [] false] ∧ (s.memWf → t.memWf) ∧
        t.chip.cores = s.chip.cores ∧ t.chip.regs = s.chip.regs ∧
        t.chip.hbm = (if a < 2 ^ 40 then Bytes.wrN s.chip.hbm a q.data else s.chip.hbm) ∧
        t.chip.cxl = (if a < 2 ^ 40 then s.chip.cxl else Bytes.wrN s.chip.cxl a q.data) ∧
        t.chip.bytesAt a n = q.data ∧ ∀ x, (x < a ∨ a + n ≤ x) → t.chip.byteAt x = s.chip.byteAt x := by
  have hlen : q.data.length = n := by simpa [hw] using hq.size
  refine completes_held (fun m => memoryRequestCmd m q e) hu rfl ?_
  rw [memoryRequestCmd_write hq hw hrun hfree hprot]
  refine ⟨rfl, fun hs => ?_, ?_, ?_, ?_, ?_, ?_, fun x hx => ?_⟩
  · obtain ⟨hhbm, hcxl⟩ := (((Chip.MemWf.mk hs.1 hs.2).wake a).hbmUse a n).memWr a q.data
    exact ⟨hhbm, hcxl⟩
  · exact (Chip.memWr_keep (·.cores) (fun _ _ _ _ => rfl) _ a q.data).trans
      (Chip.writing_keep (·.cores) (fun _ _ => rfl) (fun _ _ => rfl) ..)
  · exact (Chip.memWr_keep (·.regs) (fun _ _ _ _ => rfl) _ a q.data).trans
      (Chip.writing_keep (·.regs) (fun _ _ => rfl) (fun _ _ => rfl) ..)
  · exact (Chip.hbm_memWr ..).trans (by rw [Chip.writing_keep (·.hbm) (fun _ _ => rfl) (fun _ _ => rfl)]; rfl)
  · exact (Chip.cxl_memWr ..).trans (by rw [Chip.writing_keep (·.cxl) (fun _ _ => rfl) (fun _ _ => rfl)]; rfl)
  · subst hlen
    exact Chip.bytesAt_memWr ..
  · subst hlen
    exact (Chip.byteAt_memWr_outside _ a q.data x hx).trans (Chip.writing_keep (·.byteAt x) (fun _ _ => rfl) (fun _ _ => rfl) ..)

/-- A request's read is served (R343, R346). -/
theorem memoryRequest_reads {s : State} {q : MemReq} {e : EccResult} {a n : Nat} (hu : s.up) (hq : ReqShape q a n)
    (hw : q.write = false) (hrun : s.chip.runOk q.agent q.write q.confirmed a n = true) :
    Completes (.memoryRequest q e) s fun t =>
      t.chip.hbm = s.chip.hbm ∧ t.chip.cxl = s.chip.cxl ∧ t.chip.cores = s.chip.cores ∧
        t.chip.memResp = s.chip.memResp ++
          [MemResp.mk q.agent q.xid true (s.chip.bytesAt a n) ((s.chip.memRd a n).2 || e == .uncorrectable)] := by
  refine completes_held (fun m => memoryRequestCmd m q e) hu rfl ?_
  rw [memoryRequestCmd_read hq hw hrun]
  exact ⟨Chip.readDone_keep (·.hbm) (fun _ _ => rfl) (fun _ _ => rfl) (fun _ _ => rfl) (fun _ _ => rfl) ..,
    Chip.readDone_keep (·.cxl) (fun _ _ => rfl) (fun _ _ => rfl) (fun _ _ => rfl) (fun _ _ => rfl) ..,
    Chip.readDone_keep (·.cores) (fun _ _ => rfl) (fun _ _ => rfl) (fun _ _ => rfl) (fun _ _ => rfl) .., rfl⟩

/-- A request to the store window of a core is served from the core store (R339). -/
theorem memoryRequest_serves_store {s : State} {q : MemReq} {e : EccResult} {a n p : Nat} (hu : s.up) (hq : ReqShape q a n)
    (hp : s.chip.windowCore q.agent a n = some p) :
    Completes (.memoryRequest q e) s fun t =>
      t.chip.hbm = s.chip.hbm ∧ t.chip.cxl = s.chip.cxl ∧ (∀ x, x ≠ p → t.chip.core x = s.chip.core x) ∧
        t.chip.memResp = s.chip.memResp ++ [MemResp.mk q.agent q.xid true
          (if q.write then [] else Bytes.rdN (s.chip.core p).store (a % 0x1000000) n)
          (!q.write && (s.chip.core p).upsetIn (0x400000 + a % 0x1000000) n)] ∧
        (t.chip.core p).store =
          if q.write then Bytes.wrN (s.chip.core p).store (a % 0x1000000) q.data else (s.chip.core p).store := by
  refine completes_held (fun m => memoryRequestCmd m q e) hu rfl ?_
  rw [memoryRequestCmd_window hq hp]
  have hwake (x : Nat) : (s.chip.wake a).core x = s.chip.core x := Chip.wake_keep (·.core x) (fun _ _ => rfl) ..
  have hcore (x : Nat) := Chip.core_onCore (s.chip.wake a) p (serveStore q a n) x
  refine ⟨Chip.wake_keep (·.hbm) (fun _ _ => rfl) .., Chip.wake_keep (·.cxl) (fun _ _ => rfl) .., fun x hx => ?_, ?_, ?_⟩
  · exact (hcore x).trans ((if_neg hx).trans (hwake x))
  · cases hw : q.write <;> simp
  · refine (congrArg Core.store ((hcore p).trans (if_pos rfl))).trans ((serveStore_store ..).trans ?_)
    rw [hwake]

/-- One that its agent may not make changes no memory (R355). -/
theorem memoryRequest_refused {s : State} {q : MemReq} {e : EccResult} {a n : Nat} (hu : s.up) (hq : ReqShape q a n)
    (hrun : s.chip.runOk q.agent q.write q.confirmed a n = false) (hwin : s.chip.windowCore q.agent a n = none)
    (hprot : s.chip.snp.prot = []) :
    Completes (.memoryRequest q e) s fun t =>
      t.chip.hbm = s.chip.hbm ∧ t.chip.cxl = s.chip.cxl ∧ t.chip.cores = s.chip.cores ∧
        t.chip.memResp = s.chip.memResp ++ [MemResp.mk q.agent q.xid false [] false] := by
  refine completes_held (fun m => memoryRequestCmd m q e) hu rfl ?_
  rw [memoryRequestCmd_refused hq hrun hwin hprot]
  exact ⟨Chip.wake_keep (·.hbm) (fun _ _ => rfl) .., Chip.wake_keep (·.cxl) (fun _ _ => rfl) ..,
    Chip.wake_keep (·.cores) (fun _ _ => rfl) .., rfl⟩

/-- A response reaches its requester; only an access error is told to anyone else (R338). -/
theorem memoryResponse_completes {s : State} (r : MemResp) (hu : s.up) :
    Completes (.memoryResponse r) s fun t =>
      t.chip.memResp = s.chip.memResp.erase r ∧ r ∈ t.chip.memGot ∧ t.chip.hbm = s.chip.hbm ∧ t.chip.cxl = s.chip.cxl ∧
        (r.ok = true → t.chip.cores = s.chip.cores ∧ t.chip.raised = s.chip.raised) := by
  refine completes_held (fun m => memoryResponseCmd m r) hu rfl ?_
  unfold memoryResponseCmd
  cases hok : r.ok with
  | true => exact ⟨rfl, List.mem_cons_self, rfl, rfl, fun _ => ⟨rfl, rfl⟩⟩
  | false =>
    simp only [Bool.false_eq_true, if_false, false_implies, and_true]
    split <;> exact ⟨rfl, List.mem_cons_self, rfl, rfl⟩

/-- Settles O46: a theorem for each clause. -/
theorem memoryIsServed : Obligations.MemoryIsServed := by
  intro s q e r hu c a n hone hle hpage hfits hsome
  have hq : ReqShape q a n := ⟨rfl, rfl, hone, hle, hpage, hfits, hsome⟩
  exact ⟨fun hrun hw hfree hprot => memoryRequest_writes hu hq hw hrun hfree hprot,
    fun hrun hw => memoryRequest_reads hu hq hw hrun, fun p hp => memoryRequest_serves_store hu hq hp,
    fun hrun hwin hprot => memoryRequest_refused hu hq hrun hwin hprot,
    memoryResponse_completes r hu⟩
end Sys2Proof.Machine
end

section
/-! PROOFS. Memory that is watched (O47): scrubs, self-refresh, temperatures, CXL devices and the migration of a channel. -/
namespace Sys2Proof.Machine

theorem Chip.reg_setField_self (s : Chip) (a lo n v : Nat) : (s.setField a lo n v).reg a = Sys2Proof.setField (s.reg a) lo n v :=
  Chip.reg_setReg_self ..

theorem Chip.reg_setField_ne (s : Chip) {a b : Nat} (hb : b ≠ a) (lo n v : Nat) : (s.setField a lo n v).reg b = s.reg b :=
  (Chip.reg_setReg ..).trans (if_neg hb)

/-! ### Scrubs -/

/-- The end of a scrub: the last line of a stack ends a round. -/
def Chip.scrubEnd (s : Chip) (a : Nat) : Chip :=
  if a / 64 = stackLastLine (chStack (hbmChannel a)) then s.countTo (rMC_SCRUB (chStack (hbmChannel a))) 0 32 else s

theorem Chip.scrubEnd_keep {γ : Type} (g : Chip → γ) (hregs : ∀ (s : Chip) x, g { s with regs := x } = g s) (s : Chip) (a : Nat) :
    g (s.scrubEnd a) = g s := by
  unfold Chip.scrubEnd
  split
  · exact hregs _ _
  · rfl

theorem rECC_ne_rMC_SCRUB (ch : Nat) : rECC ch ≠ rMC_SCRUB (chStack ch) := by
  unfold rECC rMC_CH_ECC rMC_SCRUB
  omega

theorem Chip.scrubEnd_ecc (s : Chip) (a : Nat) : (s.scrubEnd a).reg (rECC (hbmChannel a)) = s.reg (rECC (hbmChannel a)) := by
  unfold Chip.scrubEnd
  split
  · exact Chip.reg_setField_ne _ (rECC_ne_rMC_SCRUB _) ..
  · rfl

section
variable {s : Chip} {a : Nat} (ha : a < 0x10000000000)
include ha

theorem hbmScrubCmd_good : hbmScrubCmd s a .good = (s.hbmUse a 64).scrubEnd a :=
  if_neg (Nat.not_le.2 ha)

theorem hbmScrubCmd_corrected :
    hbmScrubCmd s a .corrected =
      (((s.countTo (rECC (hbmChannel a)) 0 32).raise evMemCorr (hbmChannel a) 0).hbmUse a 64).scrubEnd a :=
  if_neg (Nat.not_le.2 ha)

theorem hbmScrubCmd_uncorrectable :
    hbmScrubCmd s a .uncorrectable =
      Chip.scrubEnd { ((s.countTo (rECC (hbmChannel a)) 32 16).raise evMemUncorr (hbmChannel a) 0).hbmUse a 64 with
        poison := NatMap.wr (((s.countTo (rECC (hbmChannel a)) 32 16).raise evMemUncorr (hbmChannel a) 0).hbmUse a 64).poison (a / 64) 1 } a :=
  if_neg (Nat.not_le.2 ha)
end

/-- Neither a scrub nor its counts touch what `g` reads, if `g` reads no count, event or mark of a line. -/
theorem hbmScrubCmd_keep {γ : Type} (g : Chip → γ) (hen : ∀ (s : Chip) x, g { s with en := x } = g s)
    (hsr : ∀ (s : Chip) x, g { s with selfRef := x } = g s) (hregs : ∀ (s : Chip) x, g { s with regs := x } = g s)
    (hraised : ∀ (s : Chip) x, g { s with raised := x } = g s) (hpoison : ∀ (s : Chip) x, g { s with poison := x } = g s)
    {s : Chip} {a : Nat} (ha : a < 0x10000000000) (e : EccResult) : g (hbmScrubCmd s a e) = g s := by
  have hevent (lo n ev : Nat) : g (((s.countTo (rECC (hbmChannel a)) lo n).raise ev (hbmChannel a) 0).hbmUse a 64) = g s :=
    (Chip.hbmUse_keep g hen hsr ..).trans ((hraised _ _).trans (hregs _ _))
  cases e with
  | good =>
    rw [hbmScrubCmd_good ha]
    exact (Chip.scrubEnd_keep g hregs ..).trans (Chip.hbmUse_keep g hen hsr ..)
  | corrected =>
    rw [hbmScrubCmd_corrected ha]
    exact (Chip.scrubEnd_keep g hregs ..).trans (hevent ..)
  | uncorrectable =>
    rw [hbmScrubCmd_uncorrectable ha]
    exact (Chip.scrubEnd_keep g hregs ..).trans ((hpoison _ _).trans (hevent ..))

theorem scrub_same {s : Chip} {a : Nat} (ha : a < 0x10000000000) (e : EccResult) :
    (hbmScrubCmd s a e).hbm = s.hbm ∧ (hbmScrubCmd s a e).cxl = s.cxl ∧ (hbmScrubCmd s a e).cores = s.cores := by
  have keep {γ : Type} (g : Chip → γ) (hg : ∀ (s : Chip) en selfRef regs raised poison,
      g { s with en := en, selfRef := selfRef, regs := regs, raised := raised, poison := poison } = g s) :
      g (hbmScrubCmd s a e) = g s :=
    hbmScrubCmd_keep g (fun s x => hg s x s.selfRef s.regs s.raised s.poison) (fun s x => hg s s.en x s.regs s.raised s.poison)
      (fun s x => hg s s.en s.selfRef x s.raised s.poison) (fun s x => hg s s.en s.selfRef s.regs x s.poison)
      (fun s x => hg s s.en s.selfRef s.regs s.raised x) ha e
  exact ⟨keep (·.hbm) fun _ _ _ _ _ _ => rfl, keep (·.cxl) fun _ _ _ _ _ _ => rfl, keep (·.cores) fun _ _ _ _ _ _ => rfl⟩

theorem Chip.raised_countTo_raise (s : Chip) (r lo n ev inst d : Nat) :
    ((s.countTo r lo n).raise ev inst d).raised = s.raised ++ [(ev, inst, d)] :=
  congrArg (· ++ [(ev, inst, d)]) (Chip.countTo_raised s r lo n)

theorem hbmScrubCmd_poison {s : Chip} {a : Nat} (ha : a < 0x10000000000) :
    (hbmScrubCmd s a .uncorrectable).poison = NatMap.wr s.poison (a / 64) 1 := by
  rw [hbmScrubCmd_uncorrectable ha, Chip.scrubEnd_keep (·.poison) (fun _ _ => rfl)]
  exact congrArg (NatMap.wr · (a / 64) 1) ((Chip.hbmUse_keep (·.poison) (fun _ _ => rfl) (fun _ _ => rfl) ..).trans
    ((Chip.raise_poison ..).trans (Chip.countTo_poison ..)))

theorem Chip.linePoison_of_poison {s : Chip} {l : Nat} (h : NatMap.rd s.poison l ≠ 0) : s.linePoison l = true := by
  simp [Chip.linePoison, h]

/-- A scrub that finds a line lost marks it, and tells of it (R345, R346). -/
theorem hbmScrub_uncorrectable {s : State} {a : Nat} (hs : s.awake) (ha : a < 0x10000000000) :
    Completes (.hbmScrub a .uncorrectable) s fun t =>
      (t.chip.hbm = s.chip.hbm ∧ t.chip.cxl = s.chip.cxl ∧ t.chip.cores = s.chip.cores) ∧ t.chip.linePoison (a / 64) = true ∧
        t.chip.raised = s.chip.raised ++ [(evMemUncorr, hbmChannel a, 0)] := by
  refine completes_act (fun m => hbmScrubCmd m a .uncorrectable) hs rfl ⟨scrub_same ha _, ?_, ?_⟩
  · refine Chip.linePoison_of_poison ?_
    exact (congrArg (NatMap.rd · (a / 64)) (hbmScrubCmd_poison ha)).trans_ne ((NatMap.rd_wr_self ..).trans_ne one_ne_zero)
  · refine (congrArg Chip.raised (hbmScrubCmd_uncorrectable ha)).trans ?_
    exact (Chip.scrubEnd_keep (·.raised) (fun _ _ => rfl) ..).trans
      ((Chip.hbmUse_keep (·.raised) (fun _ _ => rfl) (fun _ _ => rfl) ..).trans (Chip.raised_countTo_raise ..))

/-- A scrub that corrects a line counts it, and tells of it (R345). -/
theorem hbmScrub_corrected {s : State} {a : Nat} (hs : s.awake) (ha : a < 0x10000000000) :
    Completes (.hbmScrub a .corrected) s fun t =>
      (t.chip.hbm = s.chip.hbm ∧ t.chip.cxl = s.chip.cxl ∧ t.chip.cores = s.chip.cores) ∧ t.chip.poison = s.chip.poison ∧
        field (t.chip.reg (rECC (hbmChannel a))) 0 32 = min (field (s.chip.reg (rECC (hbmChannel a))) 0 32 + 1) (2 ^ 32 - 1) ∧
        t.chip.raised = s.chip.raised ++ [(evMemCorr, hbmChannel a, 0)] := by
  refine completes_act (fun m => hbmScrubCmd m a .corrected) hs rfl ⟨scrub_same ha _, ?_, ?_, ?_⟩
  · refine (congrArg Chip.poison (hbmScrubCmd_corrected ha)).trans ((Chip.scrubEnd_keep (·.poison) (fun _ _ => rfl) ..).trans ?_)
    exact (Chip.hbmUse_keep (·.poison) (fun _ _ => rfl) (fun _ _ => rfl) ..).trans
      ((Chip.raise_poison ..).trans (Chip.countTo_poison ..))
  · have hreg : (hbmScrubCmd s.chip a .corrected).reg (rECC (hbmChannel a)) =
        (s.chip.countTo (rECC (hbmChannel a)) 0 32).reg (rECC (hbmChannel a)) := by
      rw [hbmScrubCmd_corrected ha, Chip.scrubEnd_ecc]
      exact Chip.hbmUse_keep (·.reg (rECC (hbmChannel a))) (fun _ _ => rfl) (fun _ _ => rfl) ..
    exact (congrArg (field · 0 32) hreg).trans (Chip.field_countTo ..)
  · refine (congrArg Chip.raised (hbmScrubCmd_corrected ha)).trans ?_
    exact (Chip.scrubEnd_keep (·.raised) (fun _ _ => rfl) ..).trans
      ((Chip.hbmUse_keep (·.raised) (fun _ _ => rfl) (fun _ _ => rfl) ..).trans (Chip.raised_countTo_raise ..))

theorem hbmScrub_good {s : State} {a : Nat} (hs : s.awake) (ha : a < 0x10000000000) :
    Completes (.hbmScrub a .good) s fun t =>
      (t.chip.hbm = s.chip.hbm ∧ t.chip.cxl = s.chip.cxl ∧ t.chip.cores = s.chip.cores) ∧ t.chip.poison = s.chip.poison ∧
        t.chip.raised = s.chip.raised := by
  have keep {γ : Type} (g : Chip → γ) (hen : ∀ (s : Chip) x, g { s with en := x } = g s)
      (hsr : ∀ (s : Chip) x, g { s with selfRef := x } = g s) (hregs : ∀ (s : Chip) x, g { s with regs := x } = g s) :
      g (hbmScrubCmd s.chip a .good) = g s.chip := by
    rw [hbmScrubCmd_good ha]
    exact (Chip.scrubEnd_keep g hregs ..).trans (Chip.hbmUse_keep g hen hsr ..)
  exact completes_act (fun m => hbmScrubCmd m a .good) hs rfl ⟨scrub_same ha _,
    keep (·.poison) (fun _ _ => rfl) (fun _ _ => rfl) (fun _ _ => rfl), keep (·.raised) (fun _ _ => rfl) (fun _ _ => rfl) (fun _ _ => rfl)⟩

/-! ### Self-refresh, temperatures and CXL devices -/

theorem selfRefresh_enters {s : State} {n : Nat} (hs : s.awake) (hn : n < 16) :
    Completes (.selfRefreshEntry n) s fun t =>
      (t.chip.hbm = s.chip.hbm ∧ t.chip.cxl = s.chip.cxl ∧ t.chip.cores = s.chip.cores) ∧ n ∈ t.chip.selfRef ∧
        t.chip.regs = s.chip.regs := by
  refine completes_held (fun m => selfRefreshCmd m n) hs.1 rfl ?_
  unfold selfRefreshCmd
  split
  · exact ⟨⟨rfl, rfl, rfl⟩, List.mem_cons_self, rfl⟩
  · next hin => exact ⟨⟨rfl, rfl, rfl⟩, by simpa [hn] using hin, rfl⟩

theorem hbmTemperature_reports {s : State} {n v : Nat} (hs : s.awake) (hn : n < 16) (hv : v < 256) :
    Completes (.hbmTemperature n v) s fun t =>
      (t.chip.hbm = s.chip.hbm ∧ t.chip.cxl = s.chip.cxl ∧ t.chip.cores = s.chip.cores) ∧
        field (t.chip.reg (rMC_STAT n)) 32 8 = v ∧ (bitOf (t.chip.reg (rMC_STAT n)) 40 = true ↔ 85 < v) := by
  have hcmd : hbmTemperatureCmd s.chip n v =
      (s.chip.setField (rMC_STAT n) 32 8 v).setField (rMC_STAT n) 40 1 (b2n (decide (v > 85))) := if_neg (by omega)
  have hreg : (hbmTemperatureCmd s.chip n v).reg (rMC_STAT n) =
      setField (setField (s.chip.reg (rMC_STAT n)) 32 8 v) 40 1 (b2n (decide (v > 85))) := by
    rw [hcmd, Chip.reg_setField_self, Chip.reg_setField_self]
  refine completes_held (fun m => hbmTemperatureCmd m n v) hs.1 rfl ⟨?_, ?_, ?_⟩
  · exact ⟨(congrArg Chip.hbm hcmd).trans ((Chip.setField_hbm ..).trans (Chip.setField_hbm ..)),
      (congrArg Chip.cxl hcmd).trans ((Chip.setField_cxl ..).trans (Chip.setField_cxl ..)),
      (congrArg Chip.cores hcmd).trans ((Chip.setField_cores ..).trans (Chip.setField_cores ..))⟩
  · refine (congrArg (field · 32 8) hreg).trans ?_
    rw [field_setField_below _ _ _ _ _ _ (by decide), field_setField]
    exact Nat.mod_eq_of_lt hv
  · refine (Eq.to_iff (congrArg (bitOf · 40 = true) hreg)).trans ?_
    rw [bitOf_setField_self, decide_eq_true_eq]

theorem cxlDeviceDown_fences {s : State} {port : Nat} (hs : s.awake) (hp : port < 4) :
    Completes (.cxlDeviceDown port) s fun t =>
      (t.chip.hbm = s.chip.hbm ∧ t.chip.cxl = s.chip.cxl ∧ t.chip.cores = s.chip.cores) ∧ bitOf (t.chip.reg rCXL_STAT) port = false ∧
        t.chip.raised = s.chip.raised ++ [(evCxlDown, port, 0)] ∧
        (bitOf (s.chip.reg rCXL_CFG) (2 + port) = true → t.chip.cxlFenced = true) := by
  refine completes_act (fun m => cxlDeviceDownCmd m port) hs rfl ?_
  have hne : rCXL_CFG ≠ rCXL_STAT := by decide
  have hclear : bitOf ((s.chip.setField rCXL_STAT port 1 0).reg rCXL_STAT) port = false := by
    rw [Chip.reg_setField_self]
    exact bitOf_setField_self _ port false
  unfold cxlDeviceDownCmd
  rw [if_neg (by omega)]
  dsimp only
  rw [Chip.reg_setField_ne _ hne]
  split
  · have hset : ((s.chip.setField rCXL_STAT port 1 0).setField rCXL_STAT 4 1 1).reg rCXL_STAT =
        setField ((s.chip.setField rCXL_STAT port 1 0).reg rCXL_STAT) 4 1 1 := Chip.reg_setField_self ..
    refine ⟨⟨rfl, rfl, rfl⟩, (congrArg (bitOf · port) hset).trans ((bitOf_setField_below hp).trans hclear), rfl, fun _ => ?_⟩
    exact (congrArg (bitOf · 4) hset).trans (bitOf_setField_self _ 4 true)
  · next hcfg => exact ⟨⟨rfl, rfl, rfl⟩, hclear, rfl, fun h => absurd h hcfg⟩

/-! ### Migration (R349) -/

/-- A page that moves changes its redirects, the counts and marks of the lines that are copied, and no byte. -/
theorem Chip.movePage_keep {γ : Type} (g : Chip → γ) (hen : ∀ (s : Chip) x, g { s with en := x } = g s)
    (hsr : ∀ (s : Chip) x, g { s with selfRef := x } = g s) (hredir : ∀ (s : Chip) x, g { s with redir := x } = g s)
    (hpoison : ∀ (s : Chip) x, g { s with poison := x } = g s) (s : Chip) (k : Nat) : g (s.movePage k) = g s := by
  have huse (s : Chip) (a b : Nat) : g ((s.hbmUse a 4096).hbmUse b 4096) = g s :=
    (Chip.hbmUse_keep g hen hsr ..).trans (Chip.hbmUse_keep g hen hsr ..)
  unfold Chip.movePage
  dsimp only
  split
  · exact (hpoison _ _).trans ((huse ..).trans (hredir _ _))
  · exact (huse ..).trans (hredir _ _)

theorem Chip.redir_hbmUse (s : Chip) (a n : Nat) : (s.hbmUse a n).redir = s.redir :=
  Chip.hbmUse_keep (·.redir) (fun _ _ => rfl) (fun _ _ => rfl) ..

theorem Chip.redir_movePage_eq (s : Chip) (k : Nat) :
    (s.movePage k).redir = NatMap.wr (Map.mapV (fun _ => 0)
      (fun h => if h = channelPage (field (s.reg rMEM_MIG) 0 9) (s.moveGroup k) + 1 then s.hostPage k + 1 else h) s.redir)
      (channelPage (field (s.reg rMEM_MIG) 0 9) (s.moveGroup k)) (s.hostPage k + 1) := by
  unfold Chip.movePage
  dsimp only
  split <;> simp only [Chip.redir_hbmUse]

/-- The page that moves is redirected to its host page. -/
theorem Chip.redir_movePage (s : Chip) (k : Nat) :
    NatMap.rd (s.movePage k).redir (channelPage (field (s.reg rMEM_MIG) 0 9) (s.moveGroup k)) = s.hostPage k + 1 := by
  rw [Chip.redir_movePage_eq]
  exact NatMap.rd_wr_self ..

theorem Chip.regs_movePage (s : Chip) (k b : Nat) : (s.movePage k).reg b = s.reg b :=
  Chip.movePage_keep (·.reg b) (fun _ _ => rfl) (fun _ _ => rfl) (fun _ _ => rfl) (fun _ _ => rfl) s k

theorem migrationPageMoveCmd_eq {s : Chip} (hmig : bitOf (s.reg rMEM_MIG) 28 = true) (hlt : s.moveIndex + 1 < s.moveCount) :
    migrationPageMoveCmd s = (s.movePage s.moveIndex).setField rMEM_MIG 9 19 (s.moveGroup (s.moveIndex + 1)) := by
  unfold migrationPageMoveCmd
  exact if_neg (by simp [hmig, hlt])

theorem migrationPageMoveCmd_redir {s : Chip} (hmig : bitOf (s.reg rMEM_MIG) 28 = true) (hlt : s.moveIndex + 1 < s.moveCount) :
    NatMap.rd (migrationPageMoveCmd s).redir (channelPage (field (s.reg rMEM_MIG) 0 9) (s.moveGroup s.moveIndex)) =
      s.hostPage s.moveIndex + 1 := by
  rw [migrationPageMoveCmd_eq hmig hlt, Chip.setField_redir, Chip.redir_movePage]

/-- What is left of a migration once its last page has moved. -/
def Chip.migrated (s : Chip) (ch : Nat) : Chip :=
  ((s.setField rMEM_MIG 28 1 0).setField (rECC ch) 48 1 1).setField (rMC_STAT (chStack ch)) (chInStack ch) 1 0

theorem Chip.migrated_vlog (s : Chip) (ch : Nat) : (s.migrated ch).vlog = s.vlog := by
  unfold Chip.migrated
  rw [Chip.setField_vlog, Chip.setField_vlog, Chip.setField_vlog]

theorem migrationDoneCmd_eq {s : Chip} (hmig : bitOf (s.reg rMEM_MIG) 28 = true) (hlast : s.moveIndex + 1 = s.moveCount) :
    migrationDoneCmd s =
      (((s.movePage s.moveIndex).migrated (field (s.reg rMEM_MIG) 0 9)).setField rMEM_STAT 0 7
        (field (((s.movePage s.moveIndex).migrated (field (s.reg rMEM_MIG) 0 9)).reg rMEM_STAT) 0 7 + 1)).log
        (.channelRetired (field (s.reg rMEM_MIG) 0 9)) := by
  unfold migrationDoneCmd
  exact if_neg (by simp [hmig, hlast])

theorem rECC_ne_rMC_STAT {ch : Nat} (hch : ch < 512) (i : Nat) : rECC ch ≠ rMC_STAT i := by
  unfold rECC rMC_CH_ECC rMC_STAT chInStack chStack
  omega

theorem rECC_ne_of_lt {b : Nat} (hb : b < rMC_STAT 0) (ch : Nat) : rECC ch ≠ b := by
  unfold rMC_STAT at hb
  unfold rECC rMC_CH_ECC
  omega

theorem rMC_STAT_ne_of_lt {b : Nat} (hb : b < rMC_STAT 0) (i : Nat) : rMC_STAT i ≠ b := by
  unfold rMC_STAT at hb ⊢
  omega

theorem Chip.reg_log (s : Chip) (e : LogEntry) (b : Nat) : (s.log e).reg b = s.reg b := rfl

theorem Chip.vlog_log (s : Chip) (e : LogEntry) : (s.log e).vlog = e :: s.vlog := rfl

/-- What a page that moves keeps, with its redirect. -/
theorem Chip.movePage_same (s : Chip) (k : Nat) : (s.movePage k).hbm = s.hbm ∧ (s.movePage k).cores = s.cores :=
  ⟨Chip.movePage_keep (·.hbm) (fun _ _ => rfl) (fun _ _ => rfl) (fun _ _ => rfl) (fun _ _ => rfl) s k,
    Chip.movePage_keep (·.cores) (fun _ _ => rfl) (fun _ _ => rfl) (fun _ _ => rfl) (fun _ _ => rfl) s k⟩

/-- A migration with pages to move after the next moves that one, and names the group of the page after it (R349). -/
theorem migrationPageMove_moves {s : State} (hs : s.awake) (hmig : bitOf (s.chip.reg rMEM_MIG) 28 = true)
    (hlt : s.chip.moveIndex + 1 < s.chip.moveCount) :
    Completes .migrationPageMove s fun t =>
      (t.chip.hbm = s.chip.hbm ∧ t.chip.cores = s.chip.cores ∧
        NatMap.rd t.chip.redir (channelPage (field (s.chip.reg rMEM_MIG) 0 9) (s.chip.moveGroup s.chip.moveIndex)) =
          s.chip.hostPage s.chip.moveIndex + 1) ∧
      bitOf (t.chip.reg rMEM_MIG) 28 = true ∧ field (t.chip.reg rMEM_MIG) 0 9 = field (s.chip.reg rMEM_MIG) 0 9 ∧
      field (t.chip.reg rMEM_MIG) 9 19 = s.chip.moveGroup (s.chip.moveIndex + 1) % 2 ^ 19 := by
  have hcmd := migrationPageMoveCmd_eq hmig hlt
  obtain ⟨hhbm, hcores⟩ := s.chip.movePage_same s.chip.moveIndex
  have hreg : (migrationPageMoveCmd s.chip).reg rMEM_MIG =
      setField (s.chip.reg rMEM_MIG) 9 19 (s.chip.moveGroup (s.chip.moveIndex + 1)) := by
    rw [hcmd, Chip.reg_setField_self, Chip.regs_movePage]
  refine completes_act (fun m => migrationPageMoveCmd m) hs rfl ⟨⟨?_, ?_, ?_⟩, ?_, ?_, ?_⟩
  · exact (congrArg Chip.hbm hcmd).trans ((Chip.setField_hbm ..).trans hhbm)
  · exact (congrArg Chip.cores hcmd).trans ((Chip.setField_cores ..).trans hcores)
  · exact migrationPageMoveCmd_redir hmig hlt
  · exact (congrArg (bitOf · 28) hreg).trans ((bitOf_setField_above (by decide)).trans hmig)
  · exact (congrArg (field · 0 9) hreg).trans (field_setField_below _ _ _ _ _ _ (by decide))
  · exact (congrArg (field · 9 19) hreg).trans (field_setField ..)

section
variable {s : Chip} (hmig : bitOf (s.reg rMEM_MIG) 28 = true) (hlast : s.moveIndex + 1 = s.moveCount)
include hmig hlast

theorem migrationDoneCmd_keep {γ : Type} (g : Chip → γ) (hregs : ∀ (s : Chip) x, g { s with regs := x } = g s)
    (hvlog : ∀ (s : Chip) x, g { s with vlog := x } = g s) : g (migrationDoneCmd s) = g (s.movePage s.moveIndex) := by
  rw [migrationDoneCmd_eq hmig hlast]
  exact (hvlog ..).trans ((hregs ..).trans ((hregs ..).trans ((hregs ..).trans (hregs ..))))

/-- The registers after the last page of a migration. -/
theorem migrationDoneCmd_reg (b : Nat) : (migrationDoneCmd s).reg b =
    (((s.movePage s.moveIndex).migrated (field (s.reg rMEM_MIG) 0 9)).setField rMEM_STAT 0 7
        (field (((s.movePage s.moveIndex).migrated (field (s.reg rMEM_MIG) 0 9)).reg rMEM_STAT) 0 7 + 1)).reg b := by
  rw [migrationDoneCmd_eq hmig hlast]
  exact Chip.reg_log ..

theorem migrationDoneCmd_active : bitOf ((migrationDoneCmd s).reg rMEM_MIG) 28 = false := by
  rw [migrationDoneCmd_reg hmig hlast, Chip.reg_setField_ne _ (by decide)]
  unfold Chip.migrated
  rw [Chip.reg_setField_ne _ (rMC_STAT_ne_of_lt (by decide) _).symm, Chip.reg_setField_ne _ (rECC_ne_of_lt (by decide) _).symm,
    Chip.reg_setField_self]
  exact bitOf_setField_self _ 28 false

theorem migrationDoneCmd_ret : bitOf ((migrationDoneCmd s).reg (rECC (field (s.reg rMEM_MIG) 0 9))) 48 = true := by
  rw [migrationDoneCmd_reg hmig hlast, Chip.reg_setField_ne _ (rECC_ne_of_lt (by decide) _)]
  unfold Chip.migrated
  rw [Chip.reg_setField_ne _ (rECC_ne_rMC_STAT (field_lt ..) _), Chip.reg_setField_self]
  exact bitOf_setField_self _ 48 true

theorem migrationDoneCmd_retired : (migrationDoneCmd s).retired = s.retired := by
  have hreg (q : Nat) (hq : q < 64) : (migrationDoneCmd s).reg (rMEM_RET q) = s.reg (rMEM_RET q) := by
    have hlow : rMEM_RET q < rMC_STAT 0 := by unfold rMEM_RET rMC_STAT; omega
    have hstat : rMEM_RET q ≠ rMEM_STAT := by unfold rMEM_RET rMEM_STAT; omega
    have hmig : rMEM_RET q ≠ rMEM_MIG := by unfold rMEM_RET rMEM_MIG; omega
    rw [migrationDoneCmd_reg ‹_› hlast, Chip.reg_setField_ne _ hstat]
    unfold Chip.migrated
    rw [Chip.reg_setField_ne _ (rMC_STAT_ne_of_lt hlow _).symm, Chip.reg_setField_ne _ (rECC_ne_of_lt hlow _).symm,
      Chip.reg_setField_ne _ hmig, Chip.regs_movePage]
  unfold Chip.retired
  exact List.filterMap_congr fun q hq => by rw [hreg q (List.mem_range.1 hq)]
end

/-! A channel that retires next, or is fenced. -/

section
variable {γ : Type} (g : Chip → γ) (hregs : ∀ (s : Chip) x, g { s with regs := x } = g s)
  (hfenced : ∀ (s : Chip) x, g { s with fencedCh := x } = g s)
  (hlost : ∀ (s : Chip) x y, g { s with migLost := x, sec := y } = g s)
include hregs hfenced

theorem Chip.fenceChannel_keep (s : Chip) (ch : Nat) : g (s.fenceChannel ch) = g s := by
  unfold Chip.fenceChannel
  split
  · rfl
  · exact (hfenced ..).trans (hregs ..)

include hlost

theorem memRetireWrite_keep (s : Chip) (v : Nat) : g (memRetireWrite s v) = g s := by
  unfold memRetireWrite
  dsimp only
  split
  · rfl
  split
  · exact (hregs ..).trans (Chip.fenceChannel_keep g hregs hfenced ..)
  split
  · exact Chip.fenceChannel_keep g hregs hfenced ..
  · exact (hlost ..).trans ((hregs ..).trans ((hregs ..).trans ((hregs ..).trans (hregs ..))))

theorem Chip.retireNext_keep (s : Chip) : g s.retireNext = g s := by
  unfold Chip.retireNext
  split
  · exact memRetireWrite_keep g hregs hfenced hlost ..
  · rfl
end

theorem Chip.reg_fenceChannel_ne (s : Chip) (ch : Nat) {b : Nat} (hb : ∀ i, b ≠ rMC_STAT i) : (s.fenceChannel ch).reg b = s.reg b := by
  unfold Chip.fenceChannel
  split
  · rfl
  · exact Chip.reg_setField_ne _ (hb _) ..

theorem Chip.reg_migLost (s : Chip) (lost : Bool) (sec : Security) (b : Nat) : Chip.reg { s with migLost := lost, sec := sec } b = s.reg b := rfl

theorem Chip.reg_retireStart (s : Chip) (ch : Nat) (lost : Bool) {b : Nat} (hb : b ≠ rMEM_STAT) :
    (s.retireStart ch lost).reg b =
      (((s.setReg rMEM_TOP (s.reg rMEM_TOP - windowGroups s.retCount * 2 ^ 21)).setReg (rMEM_RET s.retCount)
        (ch + 2 ^ 9 + b2n lost * 2 ^ 10)).setReg rMEM_MIG (ch + 2 ^ 28)).reg b := by
  unfold Chip.retireStart
  dsimp only
  rw [Chip.reg_migLost, Chip.reg_setField_ne _ hb]

/-- The registers of a channel's own controller keep their values when it starts to retire or is fenced, its stack's apart. -/
theorem reg_memRetireWrite_ne (s : Chip) (v : Nat) {b : Nat} (hstack : ∀ i, b ≠ rMC_STAT i) (hb : rMEM_RET 64 ≤ b) :
    (memRetireWrite s v).reg b = s.reg b := by
  have hne {a : Nat} (ha : a < rMEM_RET 64) : b ≠ a := by omega
  unfold memRetireWrite
  dsimp only
  split
  · rfl
  split
  · exact (Chip.reg_setField_ne _ (hne (by decide)) ..).trans (Chip.reg_fenceChannel_ne _ _ hstack)
  split
  · exact Chip.reg_fenceChannel_ne _ _ hstack
  next hcount _ =>
    have hret : rMEM_RET s.retCount < rMEM_RET 64 := by unfold rMEM_RET; omega
    rw [Chip.reg_retireStart _ _ _ (hne (by decide)), Chip.reg_setReg, if_neg (hne (by decide)), Chip.reg_setReg, if_neg (hne hret),
      Chip.reg_setReg, if_neg (hne (by decide))]

theorem Chip.reg_retireNext_ne (s : Chip) {b : Nat} (hstack : ∀ i, b ≠ rMC_STAT i) (hb : rMEM_RET 64 ≤ b) :
    s.retireNext.reg b = s.reg b := by
  unfold Chip.retireNext
  split
  · exact reg_memRetireWrite_ne _ _ hstack hb
  · rfl

/-- No fenced channel is left to retire. -/
theorem Chip.retireNext_of_retired {s : Chip} (h : ∀ x ∈ s.fencedCh, x ∈ s.retired) : s.retireNext = s := by
  have hnone : ((List.range 512).find? fun ch => s.fencedCh.contains ch && !s.retired.contains ch) = none := by
    refine List.find?_eq_none.2 fun x _ => ?_
    simpa using h x
  unfold Chip.retireNext
  rw [hnone]

section
variable {s : Chip} (hmig : bitOf (s.reg rMEM_MIG) 28 = true) (hlast : s.moveIndex + 1 = s.moveCount)
include hmig hlast

/-- The end of a migration keeps what `g` reads of the page that moves last, if `g` reads no register, log or retirement. -/
theorem migrationDone_keep {γ : Type} (g : Chip → γ) (hg : ∀ (s : Chip) regs vlog fencedCh migLost sec,
      g { s with regs := regs, vlog := vlog, fencedCh := fencedCh, migLost := migLost, sec := sec } = g s) :
    g (migrationDoneCmd s).retireNext = g (s.movePage s.moveIndex) :=
  (Chip.retireNext_keep g (fun s x => hg s x s.vlog s.fencedCh s.migLost s.sec)
    (fun s x => hg s s.regs s.vlog x s.migLost s.sec) (fun s x y => hg s s.regs s.vlog s.fencedCh x y) _).trans
    (migrationDoneCmd_keep hmig hlast g (fun s x => hg s x s.vlog s.fencedCh s.migLost s.sec)
      fun s x => hg s s.regs x s.fencedCh s.migLost s.sec)

theorem migrationDone_vlog :
    (migrationDoneCmd s).retireNext.vlog = .channelRetired (field (s.reg rMEM_MIG) 0 9) :: s.vlog := by
  have hnext := Chip.retireNext_keep (·.vlog) (fun _ _ => rfl) (fun _ _ => rfl) (fun _ _ _ => rfl) (migrationDoneCmd s)
  have hpage : (s.movePage s.moveIndex).vlog = s.vlog :=
    Chip.movePage_keep (·.vlog) (fun _ _ => rfl) (fun _ _ => rfl) (fun _ _ => rfl) (fun _ _ => rfl) s s.moveIndex
  rw [hnext, migrationDoneCmd_eq hmig hlast, Chip.vlog_log, Chip.setField_vlog, Chip.migrated_vlog, hpage]

theorem migrationDone_active (hall : ∀ x ∈ s.fencedCh, x ∈ s.retired) :
    bitOf ((migrationDoneCmd s).retireNext.reg rMEM_MIG) 28 = false := by
  have hfenced : (migrationDoneCmd s).fencedCh = s.fencedCh :=
    (migrationDoneCmd_keep hmig hlast (·.fencedCh) (fun _ _ => rfl) fun _ _ => rfl).trans
      (Chip.movePage_keep (·.fencedCh) (fun _ _ => rfl) (fun _ _ => rfl) (fun _ _ => rfl) (fun _ _ => rfl) _ _)
  have hstay : (migrationDoneCmd s).retireNext = migrationDoneCmd s := by
    refine Chip.retireNext_of_retired ?_
    rwa [hfenced, migrationDoneCmd_retired hmig hlast]
  rw [hstay]
  exact migrationDoneCmd_active hmig hlast

theorem migrationDone_ret : bitOf ((migrationDoneCmd s).retireNext.reg (rECC (field (s.reg rMEM_MIG) 0 9))) 48 = true := by
  have hch : field (s.reg rMEM_MIG) 0 9 < 512 := field_lt _ 0 9
  have hecc : rMEM_RET 64 ≤ rECC (field (s.reg rMEM_MIG) 0 9) := by
    unfold rMEM_RET rECC rMC_CH_ECC
    omega
  rw [Chip.reg_retireNext_ne _ (rECC_ne_rMC_STAT hch) hecc]
  exact migrationDoneCmd_ret hmig hlast

theorem migrationDone_redir :
    NatMap.rd (migrationDoneCmd s).retireNext.redir (channelPage (field (s.reg rMEM_MIG) 0 9) (s.moveGroup s.moveIndex)) =
      s.hostPage s.moveIndex + 1 := by
  have hredir : (migrationDoneCmd s).retireNext.redir = (s.movePage s.moveIndex).redir :=
    migrationDone_keep hmig hlast (·.redir) fun _ _ _ _ _ _ => rfl
  rw [hredir, Chip.redir_movePage]

theorem migrationDone_same : (migrationDoneCmd s).retireNext.hbm = s.hbm ∧ (migrationDoneCmd s).retireNext.cores = s.cores :=
  ⟨(migrationDone_keep hmig hlast (·.hbm) fun _ _ _ _ _ _ => rfl).trans (s.movePage_same _).1,
    (migrationDone_keep hmig hlast (·.cores) fun _ _ _ _ _ _ => rfl).trans (s.movePage_same _).2⟩
end

/-- The last page of a migration moves, its channel is retired and logged, and the migration ends unless a fenced channel is to
retire (R349, R350). -/
theorem migrationDone_retires {s : State} (hs : s.awake) (hmig : bitOf (s.chip.reg rMEM_MIG) 28 = true)
    (hlast : s.chip.moveIndex + 1 = s.chip.moveCount) :
    Completes .migrationDone s fun t =>
      (t.chip.hbm = s.chip.hbm ∧ t.chip.cores = s.chip.cores ∧
        NatMap.rd t.chip.redir (channelPage (field (s.chip.reg rMEM_MIG) 0 9) (s.chip.moveGroup s.chip.moveIndex)) =
          s.chip.hostPage s.chip.moveIndex + 1) ∧
      ((∀ x ∈ s.chip.fencedCh, x ∈ s.chip.retired) → bitOf (t.chip.reg rMEM_MIG) 28 = false) ∧
      bitOf (t.chip.reg (rECC (field (s.chip.reg rMEM_MIG) 0 9))) 48 = true ∧
      t.chip.vlog = .channelRetired (field (s.chip.reg rMEM_MIG) 0 9) :: s.chip.vlog := by
  have hexec : exec .migrationDone s =
      s.act .core fun m => if bitOf (m.reg rMEM_MIG) 28 then (migrationDoneCmd m).retireNext else m := rfl
  refine ⟨_, hexec.trans (State.act_next (State.active_core hs) _), ?_⟩
  rw [if_pos hmig]
  obtain ⟨hhbm, hcores⟩ := migrationDone_same hmig hlast
  have hredir := migrationDone_redir hmig hlast
  have hactive := migrationDone_active hmig hlast
  have hret := migrationDone_ret hmig hlast
  have hvlog := migrationDone_vlog hmig hlast
  generalize (migrationDoneCmd s.chip).retireNext = done at *
  exact ⟨⟨hhbm, hcores, hredir⟩, hactive, hret, hvlog⟩

/-- Settles O47, by the lemma of each command: what it does to the counts, marks and redirects, and that no byte changes. -/
theorem memoryIsWatched : Obligations.MemoryIsWatched := by
  unfold Obligations.MemoryIsWatched
  exact ⟨fun s a n v hs ha hn hv => ⟨hbmScrub_uncorrectable hs ha, hbmScrub_corrected hs ha, hbmScrub_good hs ha,
      selfRefresh_enters hs hn, hbmTemperature_reports hs hn hv, fun _ hp => cxlDeviceDown_fences hs hp⟩,
    fun s hs hmig => ⟨migrationPageMove_moves hs hmig, migrationDone_retires hs hmig⟩⟩
end Sys2Proof.Machine
end

section
/-! PROOFS. Settings of the memory, of fault sources and of snapshots (O36): each register's rule, and what it does. -/
namespace Sys2Proof.Machine

/-! ### A write reaches its register's rule -/

def rowMemRgnCtl : RegRow := ⟨0x20000041010, 0x20, 32, 0, 1, 64, 0,
  [⟨0, 3, .rw⟩, ⟨3, 1, .rw⟩, ⟨4, 12, .rw⟩, ⟨16, 12, .rw⟩, ⟨28, 36, .ro⟩]⟩
def rowFltCfg : RegRow := ⟨0x20000610000, 0x10, 2350, 0, 1, 64, 0,
  [⟨0, 16, .rw⟩, ⟨16, 6, .rw⟩, ⟨22, 2, .ro⟩, ⟨24, 3, .rw⟩, ⟨27, 3, .rw⟩, ⟨30, 3, .rw⟩, ⟨33, 20, .rw⟩,
    ⟨53, 10, .ro⟩, ⟨63, 1, .ro⟩]⟩

theorem findReg_memRgnCtl {n : Nat} (hn : n < 32) : findReg chipRegs (rMEM_RGN_CTL n) = some rowMemRgnCtl := by revert n; decide

theorem findReg_fltCfg {n : Nat} (hn : n < 2350) : findReg chipRegs (rFLT_CFG n) = some rowFltCfg := by
  obtain ⟨rs, hrs⟩ : ∃ rs, chipRegs.filter (RegRow.near 0x20000610000 0x2000061FFFF) = rowFltCfg :: rs := ⟨_, rfl⟩
  have hhit : rowFltCfg.hit (rFLT_CFG n) = true := by
    simp only [RegRow.hit, rowFltCfg, rFLT_CFG, Bool.and_eq_true, decide_eq_true_eq, if_pos, OfNat.ofNat_ne_zero, if_false]
    exact ⟨decide_eq_true (by omega), by omega⟩
  rw [findReg_near 0x20000610000 0x2000061FFFF (by unfold rFLT_CFG; omega) (by unfold rFLT_CFG; omega), hrs, findReg_cons_hit hhit]

section
variable {s : Chip} {who : Agent} (v : Nat) (hw : isSteward who = true)
include hw

theorem Chip.chipWrite_memRgnCtl {n : Nat} (hn : n < 32) : s.chipWrite who (rMEM_RGN_CTL n) v = memRgnCtlWrite s n v := by
  have hne (x : Nat) (hx : x < 0x20000041000 ∨ 0x20000041400 ≤ x) : rMEM_RGN_CTL n ≠ x := by unfold rMEM_RGN_CTL; omega
  have hlt (x : Nat) (hx : 0x20000041400 ≤ x) : ¬ x ≤ rMEM_RGN_CTL n := by unfold rMEM_RGN_CTL; omega
  have hidx : (rowMemRgnCtl.idx (rMEM_RGN_CTL n)).1 = n := by simp [RegRow.idx, rowMemRgnCtl, rMEM_RGN_CTL]
  have hbase : rowMemRgnCtl.base = rMEM_RGN_CTL 0 := rfl
  simp (disch := decide) [Chip.chipWrite, findReg_memRgnCtl hn, hne, hlt, hidx, hw, hbase]

theorem Chip.chipWrite_memRetire : s.chipWrite who rMEM_RETIRE v = memRetireWrite s v := by
  obtain ⟨r, hr, hbase⟩ : ∃ r, findReg chipRegs rMEM_RETIRE = some r ∧ r.base = rMEM_RETIRE := ⟨_, rfl, rfl⟩
  simp [Chip.chipWrite, hr, hbase, hw, rMEM_RETIRE, rFAB_MAP, rFAB_BYP]

theorem Chip.chipWrite_memJobst : s.chipWrite who rMEM_JOBST v = memJobstWrite s v := by
  unfold Chip.chipWrite
  simp [hw]
  rfl

theorem Chip.chipWrite_snpCtl : s.chipWrite who rSNP_CTL v = snpWrite s rSNP_CTL v := by
  unfold Chip.chipWrite
  simp [hw]
  rfl
end

section
variable {s : Chip} {who : Agent} (v : Nat) (hactive : s.isActive who = true)
include hactive

theorem Chip.chipWrite_fltAck : s.chipWrite who rFLT_ACK v = fltAckWriteCmd s v := by
  unfold Chip.chipWrite fltBlockWrite
  simp [hactive]
  rfl

theorem Chip.chipWrite_fltFirst : s.chipWrite who rFLT_FIRST v = fltFirstClearCmd s v := by
  unfold Chip.chipWrite fltBlockWrite
  simp [hactive]
  rfl

theorem Chip.chipWrite_fltCfg {n : Nat} (hn : n < 2350) : s.chipWrite who (rFLT_CFG n) v = fltCfgWriteCmd s n v := by
  have hne (x : Nat) (hx : x < 0x20000610000 ∨ 0x20000620000 ≤ x) : rFLT_CFG n ≠ x := by unfold rFLT_CFG; omega
  have hge (x : Nat) (hx : x ≤ 0x20000610000) : x ≤ rFLT_CFG n := by unfold rFLT_CFG; omega
  have hlt (x : Nat) (hx : 0x20000620000 ≤ x) : rFLT_CFG n < x := by unfold rFLT_CFG; omega
  have hidx : (rowFltCfg.idx (rFLT_CFG n)).1 = n := by simp [RegRow.idx, rowFltCfg, rFLT_CFG]
  have hbase : rowFltCfg.base = rFLT_CFG 0 := rfl
  have hmbx : ¬ rFLT_CFG n < 0x20000510000 := by unfold rFLT_CFG; omega
  simp (disch := decide) [Chip.chipWrite, fltBlockWrite, findReg_fltCfg hn, hne, hge, hlt, hmbx, hidx, hactive, hbase]
end

theorem Chip.coreWrite_cfcAck (s : Chip) (p v : Nat) : s.coreWrite (.seqM p) p rCFC_ACK v = cfcAckCmd s p v := by
  have hr : reaches (.seqM p) p = true := by simp [reaches, isSeqOf]
  unfold Chip.coreWrite
  rw [hr]
  simp
  rfl

/-! ### A fold that settles a fact -/

/-- A fold over `l` brings about `P` at `x`, if `K` holds until then and no step undoes `P`. -/
theorem foldl_settles {α β : Type} {f : α → β → α} {K P : α → Prop} (hK : ∀ a b, K a → K (f a b)) (hP : ∀ a b, P a → P (f a b))
    {x : β} (hx : ∀ a, K a → P (f a x)) {l : List β} (hl : x ∈ l) {a : α} (ha : K a) : P (l.foldl f a) := by
  have keeps {Q : α → Prop} (hQ : ∀ a b, Q a → Q (f a b)) (l : List β) {a : α} (ha : Q a) : Q (l.foldl f a) := by
    induction l generalizing a with
    | nil => exact ha
    | cons b l ih => exact ih (hQ a b ha)
  obtain ⟨before, after, rfl⟩ := List.append_of_mem hl
  rw [List.foldl_append, List.foldl_cons]
  exact keeps hP after (hx _ (keeps hK before ha))

/-! ### Regions (R356) -/

theorem memRgnCtlWrite_cases (s : Chip) (n v : Nat) :
    memRgnCtlWrite s n v = s.setReg (rMEM_RGN_CTL n) (field v 0 28) ∨ memRgnCtlWrite s n v = s.setField rMEM_STAT 8 1 1 := by
  unfold memRgnCtlWrite
  exact (ite_eq_or_eq ..).symm

theorem bitOf_field_zero {v m i : Nat} (h : i < m) : bitOf (field v 0 m) i = bitOf v i := by
  rw [bitOf, testBit_field h, Nat.zero_add]

/-- A region that ends before it begins is refused, and so is a confirmed-only one outside the phase that loads. -/
theorem memRgnCtlWrite_refused {s : Chip} {n v : Nat}
    (h : s.reg (rMEM_RGN_LIMIT n) / 4096 < s.reg (rMEM_RGN_BASE n) / 4096 ∨
      (bitOf v 3 = true ∧ field v 0 3 = 1 ∧ s.reg rMEM_JOBST ≠ 1)) :
    memRgnCtlWrite s n v = s.setField rMEM_STAT 8 1 1 := by
  unfold memRgnCtlWrite
  dsimp only
  refine if_pos ?_
  rw [bitOf_field_zero (by decide), field_field v (by decide)]
  obtain hempty | ⟨hvalid, hkind, hphase⟩ := h
  · simp only [hempty, decide_true, Bool.or_true, Bool.true_or]
  · simp only [hvalid, hkind, hphase, ne_eq, not_false_eq_true, decide_true, Bool.and_true, Bool.true_or, Bool.or_true]

/-- An entry that was out of force and stays out of force takes its new bits. -/
theorem memRgnCtlWrite_invalid {s : Chip} {n v : Nat} (hle : s.reg (rMEM_RGN_BASE n) / 4096 ≤ s.reg (rMEM_RGN_LIMIT n) / 4096)
    (hnew : bitOf v 3 = false) (hold : bitOf (s.reg (rMEM_RGN_CTL n)) 3 = false) :
    memRgnCtlWrite s n v = s.setReg (rMEM_RGN_CTL n) (field v 0 28) := by
  unfold memRgnCtlWrite
  dsimp only
  refine if_neg ?_
  rw [bitOf_field_zero (by decide), hnew, hold]
  simp [Nat.not_lt.2 hle]

/-- With no entry in force, a firmware region in HBM comes into force in every phase. -/
theorem memRgnCtlWrite_firmware {s : Chip} {n v : Nat} (hn : n < 32)
    (hle : s.reg (rMEM_RGN_BASE n) / 4096 ≤ s.reg (rMEM_RGN_LIMIT n) / 4096) (hhbm : s.reg (rMEM_RGN_LIMIT n) / 4096 < 2 ^ 28)
    (hvalid : bitOf v 3 = true) (hkind : field v 0 3 = 3) (hnone : ∀ k, k < 32 → bitOf (s.reg (rMEM_RGN_CTL k)) 3 = false) :
    memRgnCtlWrite s n v = s.setReg (rMEM_RGN_CTL n) (field v 0 28) := by
  have hothers : ((List.range 32).filter fun k => k ≠ n && bitOf (s.reg (rMEM_RGN_CTL k)) 3) = [] := by
    refine List.filter_eq_nil_iff.2 fun k hk => ?_
    simp [hnone k (List.mem_range.1 hk)]
  unfold memRgnCtlWrite
  dsimp only
  refine if_neg ?_
  rw [hothers, bitOf_field_zero (by decide), field_field v (by decide), hvalid, hkind, hnone n hn, decide_eq_true hhbm]
  simp [Nat.not_lt.2 hle]

theorem memRgnCtlWrite_keep {γ : Type} (g : Chip → γ) (hregs : ∀ (s : Chip) x, g { s with regs := x } = g s) (s : Chip) (n v : Nat) :
    g (memRgnCtlWrite s n v) = g s := by
  obtain h | h := memRgnCtlWrite_cases s n v
  · rw [h]
    exact hregs _ _
  · rw [h]
    exact hregs _ _

/-! ### Retirement (R349) -/

theorem Chip.fenceChannel_fenced (s : Chip) (ch : Nat) : (s.fenceChannel ch).fencedCh.contains ch = true := by
  unfold Chip.fenceChannel
  split
  · assumption
  · exact List.contains_iff_mem.2 List.mem_cons_self

section
variable {s : Chip} {v : Nat} (hgo : bitOf v 9 = true) (hmig : bitOf (s.reg rMEM_MIG) 28 = false)
  (hret : s.retired.contains (field v 0 9) = false)
include hgo hmig hret

/-- GO while nothing migrates: the channel is fenced, or it starts to retire. -/
theorem memRetireWrite_eq : memRetireWrite s v =
    if s.retCount ≥ 64 then (s.fenceChannel (field v 0 9)).setField rMEM_STAT 7 1 1
    else if s.reg rMEM_JOBST ≠ 0 ∧ field (s.reg rMEM_STAT) 9 6 = 0 then s.fenceChannel (field v 0 9)
    else s.retireStart (field v 0 9) (bitOf (s.reg (rMC_STAT (chStack (field v 0 9)))) 41) := by
  unfold memRetireWrite
  exact if_neg (by rw [hgo, hmig, hret]; decide)

theorem memRetireWrite_fences (h : s.retCount ≥ 64 ∨ (s.reg rMEM_JOBST ≠ 0 ∧ field (s.reg rMEM_STAT) 9 6 = 0)) :
    (memRetireWrite s v).fencedCh.contains (field v 0 9) = true := by
  rw [memRetireWrite_eq hgo hmig hret]
  split
  · rw [Chip.setField_fencedCh]
    exact s.fenceChannel_fenced _
  · rw [if_pos (h.resolve_left ‹_›)]
    exact s.fenceChannel_fenced _

theorem memRetireWrite_starts (h : ¬ (s.retCount ≥ 64 ∨ (s.reg rMEM_JOBST ≠ 0 ∧ field (s.reg rMEM_STAT) 9 6 = 0))) :
    (memRetireWrite s v).reg rMEM_MIG = field v 0 9 + 2 ^ 28 ∧
      (memRetireWrite s v).reg rMEM_TOP = s.reg rMEM_TOP - windowGroups s.retCount * 2 ^ 21 := by
  obtain ⟨hcount, hfree⟩ := not_or.1 h
  have htop : rMEM_TOP ≠ rMEM_RET s.retCount := by unfold rMEM_TOP rMEM_RET; omega
  rw [memRetireWrite_eq hgo hmig hret, if_neg hcount, if_neg hfree]
  refine ⟨(Chip.reg_retireStart _ _ _ (by decide)).trans (Chip.reg_setReg_self ..), (Chip.reg_retireStart _ _ _ (by decide)).trans ?_⟩
  rw [Chip.reg_setReg, if_neg (by decide), Chip.reg_setReg, if_neg htop, Chip.reg_setReg_self]
end

/-! ### The phase of the job (R369) -/

/-- PHASE 00b takes an entry that is confirmed-only or for the stash out of force. -/
def Chip.regionOut (s : Chip) (n : Nat) : Chip :=
  let k := field (s.reg (rMEM_RGN_CTL n)) 0 3
  if k = 1 ∨ k = 4 then s.setField (rMEM_RGN_CTL n) 3 1 0 else s

theorem memJobstWrite_ignored {s : Chip} {v : Nat} (h : field v 0 2 = 3) : memJobstWrite s v = s := if_pos h

theorem memJobstWrite_phase {s : Chip} {v : Nat} (h : field v 0 2 ≠ 3) (h0 : field v 0 2 ≠ 0) :
    memJobstWrite s v = s.setReg rMEM_JOBST (field v 0 2) := by
  unfold memJobstWrite
  dsimp only
  rw [if_neg h, if_pos h0]

theorem memJobstWrite_zero {s : Chip} {v : Nat} (h : field v 0 2 = 0) :
    memJobstWrite s v = (List.range 32).foldl Chip.regionOut (s.setReg rMEM_JOBST (field v 0 2)) := by
  unfold memJobstWrite
  dsimp only
  rw [if_neg (by omega), if_neg (by omega)]
  rfl

theorem Chip.regionOut_keep {γ : Type} (g : Chip → γ) (hregs : ∀ (s : Chip) x, g { s with regs := x } = g s) (s : Chip) (n : Nat) :
    g (s.regionOut n) = g s := by
  unfold Chip.regionOut
  dsimp only
  split
  · exact hregs _ _
  · rfl

theorem memJobstWrite_keep {γ : Type} (g : Chip → γ) (hregs : ∀ (s : Chip) x, g { s with regs := x } = g s) (s : Chip) (v : Nat) :
    g (memJobstWrite s v) = g s := by
  by_cases h3 : field v 0 2 = 3
  · rw [memJobstWrite_ignored h3]
  by_cases h0 : field v 0 2 = 0
  · rw [memJobstWrite_zero h0]
    exact (foldl_keep g _ (Chip.regionOut_keep g hregs) ..).trans (hregs _ _)
  · rw [memJobstWrite_phase h3 h0]
    exact hregs _ _

theorem Chip.reg_regionOut (s : Chip) (n b : Nat) : (s.regionOut n).reg b =
    if b = rMEM_RGN_CTL n ∧ (field (s.reg b) 0 3 = 1 ∨ field (s.reg b) 0 3 = 4) then Sys2Proof.setField (s.reg b) 3 1 0 else s.reg b := by
  unfold Chip.regionOut
  dsimp only
  by_cases hb : b = rMEM_RGN_CTL n
  · subst hb
    by_cases hkind : field (s.reg (rMEM_RGN_CTL n)) 0 3 = 1 ∨ field (s.reg (rMEM_RGN_CTL n)) 0 3 = 4
    · rw [if_pos hkind, if_pos ⟨rfl, hkind⟩, Chip.reg_setField_self]
    · rw [if_neg hkind, if_neg fun h => hkind h.2]
  · have hkeep : (s.setField (rMEM_RGN_CTL n) 3 1 0).reg b = s.reg b := Chip.reg_setField_ne _ hb ..
    rw [apply_ite (Chip.reg · b), hkeep, ite_self, if_neg fun h => hb h.1]

theorem Chip.kind_regionOut (s : Chip) (n b : Nat) : field ((s.regionOut n).reg b) 0 3 = field (s.reg b) 0 3 := by
  rw [Chip.reg_regionOut]
  split
  · exact field_setField_below _ _ _ _ _ _ (by decide)
  · rfl

theorem memJobstWrite_reg {s : Chip} {v : Nat} (h : field v 0 2 ≠ 3) : (memJobstWrite s v).reg rMEM_JOBST = field v 0 2 := by
  by_cases h0 : field v 0 2 = 0
  · rw [memJobstWrite_zero h0]
    refine (foldl_keep (Chip.reg · rMEM_JOBST) _ (fun s n => ?_) ..).trans (Chip.reg_setReg_self ..)
    rw [Chip.reg_regionOut, if_neg]
    unfold rMEM_JOBST rMEM_RGN_CTL
    omega
  · rw [memJobstWrite_phase h h0, Chip.reg_setReg_self]

/-- PHASE 00b leaves no confirmed-only and no stash entry in force. -/
theorem memJobstWrite_out {s : Chip} {v k : Nat} (h : field v 0 2 = 0) (hk : k < 32)
    (hkind : field (s.reg (rMEM_RGN_CTL k)) 0 3 = 1 ∨ field (s.reg (rMEM_RGN_CTL k)) 0 3 = 4) :
    bitOf ((memJobstWrite s v).reg (rMEM_RGN_CTL k)) 3 = false := by
  have hclear (x : Nat) : bitOf (setField x 3 1 0) 3 = false := bitOf_setField_self x 3 false
  rw [memJobstWrite_zero h]
  refine foldl_settles (K := fun m : Chip => field (m.reg (rMEM_RGN_CTL k)) 0 3 = 1 ∨ field (m.reg (rMEM_RGN_CTL k)) 0 3 = 4)
    (P := fun m : Chip => bitOf (m.reg (rMEM_RGN_CTL k)) 3 = false) (fun m n hm => ?_) (fun m n hm => ?_) (fun m hm => ?_)
    (List.mem_range.2 hk) ?_
  · rwa [Chip.kind_regionOut]
  · rw [Chip.reg_regionOut]
    split
    · exact hclear _
    · exact hm
  · rw [Chip.reg_regionOut, if_pos ⟨rfl, hm⟩]
    exact hclear _
  · rwa [Chip.reg_setReg, if_neg]
    unfold rMEM_JOBST rMEM_RGN_CTL
    omega

/-! ### Acknowledgement of sources (R456, R458) -/

theorem Chip.reg_withFlt (s : Chip) (f : FaultSt) (b : Nat) : Chip.reg { s with flt := f } b = s.reg b := rfl

theorem Chip.quiet_keep {γ : Type} (g : Chip → γ) (hregs : ∀ (s : Chip) x, g { s with regs := x } = g s)
    (hflt : ∀ (s : Chip) x, g { s with flt := x } = g s) (s : Chip) (src : Nat) (sub : Option Nat) : g (s.quiet src sub) = g s := by
  unfold Chip.quiet
  dsimp only
  rw [hflt]
  exact hregs _ _

/-- A source that returns to quiet keeps only its count of events. -/
theorem Chip.reg_quiet (s : Chip) (src b : Nat) :
    (s.quiet src none).reg b = if b = rFLT_SRC src then field (s.reg (rFLT_SRC src)) 32 32 * 2 ^ 32 else s.reg b := by
  unfold Chip.quiet
  dsimp only
  rw [Chip.reg_withFlt, Chip.reg_setReg]
  rfl

theorem field_mul_two_pow_low {x lo n k : Nat} (h : lo + n ≤ k) : field (x * 2 ^ k) lo n = 0 := by
  obtain ⟨d, rfl⟩ := Nat.exists_eq_add_of_le h
  have hsplit : x * 2 ^ (lo + n + d) = 2 ^ lo * (2 ^ n * (x * 2 ^ d)) := by rw [pow_add, pow_add]; ring
  rw [field, Nat.shiftRight_eq_div_pow, hsplit, Nat.mul_div_cancel_left _ (Nat.two_pow_pos lo), Nat.mul_mod_right]

theorem srcSevere_quiet (x : Nat) : srcSevere (x * 2 ^ 32) = false := by
  rw [srcSevere, srcState, field_mul_two_pow_low (by decide)]
  rfl

theorem Chip.ackSource_quiet {s : Chip} {src : Nat} (hsrc : src < 2350) (hsev : srcSevere (s.reg (rFLT_SRC src)) = true)
    (hterm : s.terminal src = false) : s.ackSource src none = s.quiet src none :=
  if_pos ⟨hsrc, hsev, by rw [hterm]; rfl⟩

theorem Chip.ackSource_keep {γ : Type} (g : Chip → γ) (hregs : ∀ (s : Chip) x, g { s with regs := x } = g s)
    (hflt : ∀ (s : Chip) x, g { s with flt := x } = g s) (s : Chip) (src : Nat) (sub : Option Nat) : g (s.ackSource src sub) = g s := by
  unfold Chip.ackSource
  split
  · exact Chip.quiet_keep g hregs hflt ..
  · rfl

theorem Chip.iso_quiet (s : Chip) (src : Nat) : (s.quiet src none).flt.iso = s.flt.iso := by
  unfold Chip.quiet
  dsimp only
  rw [Chip.setReg_flt]

/-- Which sources end in a chip reset or in hold is a matter of their settings, which no acknowledgement touches. -/
theorem Chip.terminal_ackSource (s : Chip) (src x : Nat) : (s.ackSource src none).terminal x = s.terminal x := by
  unfold Chip.ackSource
  split
  · have hcfg (y : Nat) : (s.quiet src none).reg (rFLT_CFG y) = s.reg (rFLT_CFG y) := by
      rw [Chip.reg_quiet, if_neg]
      unfold rFLT_CFG rFLT_SRC
      omega
    have hiso := s.iso_quiet src
    have hchain (i : Nat) : (s.quiet src none).chain x i = s.chain x i := by
      unfold Chip.chain
      rw [hiso, hcfg]
    unfold Chip.terminal
    rw [hiso, hcfg]
    simp only [hchain]
  · rfl

theorem Chip.ackSource_calm {s : Chip} {x : Nat} (h : srcSevere (s.reg (rFLT_SRC x)) = false) (src : Nat) :
    srcSevere ((s.ackSource src none).reg (rFLT_SRC x)) = false := by
  unfold Chip.ackSource
  split
  · rw [Chip.reg_quiet]
    split
    · exact srcSevere_quiet _
    · exact h
  · exact h

/-- An acknowledged source is not severe, unless its chain ends in a chip reset or in hold. -/
theorem Chip.ackSource_acked {s : Chip} {src : Nat} (hsrc : src < 2350) (hterm : s.terminal src = false) :
    srcSevere ((s.ackSource src none).reg (rFLT_SRC src)) = false := by
  by_cases hsev : srcSevere (s.reg (rFLT_SRC src)) = true
  · rw [Chip.ackSource_quiet hsrc hsev hterm, Chip.reg_quiet, if_pos rfl]
    exact srcSevere_quiet _
  · exact Chip.ackSource_calm (Bool.not_eq_true _ ▸ hsev) src

theorem fltAckWriteCmd_source {s : Chip} {v : Nat} (hsub : subCount (field v 0 16) = 0) (hk : field v 16 9 = 0) :
    fltAckWriteCmd s v = s.ackSource (field v 0 16) none := by
  unfold fltAckWriteCmd
  dsimp only
  rw [if_pos hsub, if_pos hk]

theorem benchOf_lt {p : Nat} (hp : p < nCores) : benchOf p < 72 := by
  have hlt : p < 288 := hp
  unfold benchOf dieOf rowOf colOf
  omega

/-- One step of the acknowledgement by a core's monitor. -/
def Chip.ackBit (p v : Nat) (s : Chip) (b : Nat) : Chip :=
  if bitOf v b then s.ackSource (32 * benchOf p + 7 * (p % 4) + b) none else s

theorem cfcAckCmd_eq (s : Chip) (p v : Nat) : cfcAckCmd s p v = (List.range 7).foldl (Chip.ackBit p v) s := rfl

theorem cfcAckCmd_keep {γ : Type} (g : Chip → γ) (hregs : ∀ (s : Chip) x, g { s with regs := x } = g s)
    (hflt : ∀ (s : Chip) x, g { s with flt := x } = g s) (s : Chip) (p v : Nat) : g (cfcAckCmd s p v) = g s := by
  rw [cfcAckCmd_eq]
  refine foldl_keep g _ (fun s b => ?_) ..
  unfold Chip.ackBit
  split
  · exact Chip.ackSource_keep g hregs hflt ..
  · rfl

theorem cfcAckCmd_acks {s : Chip} {p v b : Nat} (hp : p < nCores) (hb : b < 7) (hv : bitOf v b = true)
    (hterm : s.terminal (32 * benchOf p + 7 * (p % 4) + b) = false) :
    srcSevere ((cfcAckCmd s p v).reg (rFLT_SRC (32 * benchOf p + 7 * (p % 4) + b))) = false := by
  have hsrc : 32 * benchOf p + 7 * (p % 4) + b < 2350 := by
    have := benchOf_lt hp
    omega
  rw [cfcAckCmd_eq]
  refine foldl_settles (K := fun m : Chip => m.terminal (32 * benchOf p + 7 * (p % 4) + b) = false)
    (P := fun m : Chip => srcSevere (m.reg (rFLT_SRC (32 * benchOf p + 7 * (p % 4) + b))) = false) (fun m n hm => ?_) (fun m n hm => ?_)
    (fun m hm => ?_) (List.mem_range.2 hb) hterm
  · unfold Chip.ackBit
    split
    · rwa [Chip.terminal_ackSource]
    · exact hm
  · unfold Chip.ackBit
    split
    · exact Chip.ackSource_calm hm _
    · exact hm
  · rw [Chip.ackBit, if_pos hv]
    exact Chip.ackSource_acked hsrc hm

/-! ### Settings of sources and of snapshots (R458, R493) -/

section
variable {s : Chip} {n v : Nat}

theorem fltCfgWriteCmd_locked (h : bitOf (s.reg (rFLT_CFG n)) 63 = true) : fltCfgWriteCmd s n v = s :=
  if_pos (.inr h)

variable (hn : n < 2350) (hfree : bitOf (s.reg (rFLT_CFG n)) 63 = false)
include hn hfree

theorem fltCfgWriteCmd_eq : fltCfgWriteCmd s n v =
    if (1 ≤ field v 0 16 ∧ field v 16 6 ≤ 39 ∧ 1 ≤ field v 33 20 ∧ field v 33 20 ≤ 1000000) ∧
        codeOk n (field v 24 3) true = true ∧ codeOk n (field v 27 3) false = true ∧ codeOk n (field v 30 3) false = true
      then s.setReg (rFLT_CFG n) (field v 0 22 + field v 24 29 * 2 ^ 24) else s.setField rFLT_CTL 2 1 1 := by
  unfold fltCfgWriteCmd
  rw [if_neg (by rw [hfree]; simp; omega)]
  dsimp only
  refine if_congr ?_ rfl rfl
  simp only [Bool.and_eq_true, decide_eq_true_eq]
  tauto

theorem fltCfgWriteCmd_sets (hra : field v 24 3 = 0) (hrb : field v 27 3 = 7) (hrc : field v 30 3 = 7) (hthr : 1 ≤ field v 0 16)
    (hwin : field v 16 6 ≤ 39) (hlo : 1 ≤ field v 33 20) (hhi : field v 33 20 ≤ 1000000) :
    fltCfgWriteCmd s n v = s.setReg (rFLT_CFG n) (field v 0 22 + field v 24 29 * 2 ^ 24) := by
  rw [fltCfgWriteCmd_eq hn hfree, hra, hrb, hrc]
  exact if_pos ⟨⟨hthr, hwin, hlo, hhi⟩, by simp [codeOk], by simp [codeOk], by simp [codeOk]⟩

/-- RA names no chip reset, no hold and no end of the chain (log 106). -/
theorem fltCfgWriteCmd_refused (hra : field v 24 3 = 4 ∨ field v 24 3 = 6 ∨ field v 24 3 = 7) :
    fltCfgWriteCmd s n v = s.setField rFLT_CTL 2 1 1 := by
  have hcode : codeOk n (field v 24 3) true = false := by
    obtain h | h | h := hra <;> rw [h] <;> simp [codeOk]
  rw [fltCfgWriteCmd_eq hn hfree, hcode]
  exact if_neg fun h => by simpa using h.2.1
end

theorem snpWrite_ctl (s : Chip) (v : Nat) : snpWrite s rSNP_CTL v =
    if s.job.st = .running ∨ (bitOf v 2 = true ∧ bitOf v 1 = false) ∨ (bitOf v 0 = true ∧ s.job.st ≠ .idle ∧ s.job.parts = 1) then s
    else s.setReg rSNP_CTL (field v 0 3) := by
  unfold snpWrite
  by_cases hrun : s.job.st = .running
  · rw [if_pos hrun, if_pos (.inl hrun)]
  · rw [if_neg hrun, if_pos rfl]
    refine if_congr ?_ rfl rfl
    simp [hrun, and_assoc]

/-- Settles O36: each write reaches its register's rule, whose lemmas say what it does. -/
theorem memoryAndFaultSettings : Obligations.MemoryAndFaultSettings := by
  refine ⟨fun s who n v hs hw hv => ?memory, fun s who p n v hs hv => ?faults⟩
  case memory =>
    have hmod : v % 2 ^ 64 = v := Nat.mod_eq_of_lt hv
    refine ⟨fun hn => ?region, fun hgo hmig hret => ?retire, ?phase⟩
    case region =>
      refine completes_actUnit (·.chipWrite who (rMEM_RGN_CTL n) (v % 2 ^ 64)) hn hs rfl ?_
      rw [hmod, Chip.chipWrite_memRgnCtl v hw hn]
      exact ⟨memRgnCtlWrite_keep (·.hbm) (fun _ _ => rfl) .., memRgnCtlWrite_keep (·.cxl) (fun _ _ => rfl) ..,
        memRgnCtlWrite_keep (·.cores) (fun _ _ => rfl) .., memRgnCtlWrite_cases .., memRgnCtlWrite_refused,
        memRgnCtlWrite_invalid, memRgnCtlWrite_firmware hn⟩
    case retire =>
      refine completes_act (·.chipWrite who rMEM_RETIRE (v % 2 ^ 64)) hs rfl ?_
      rw [hmod, Chip.chipWrite_memRetire v hw]
      have hfences := memRetireWrite_fences hgo hmig hret
      have hstarts := memRetireWrite_starts hgo hmig hret
      refine ⟨memRetireWrite_keep (·.hbm) (fun _ _ => rfl) (fun _ _ => rfl) (fun _ _ _ => rfl) ..,
        memRetireWrite_keep (·.cxl) (fun _ _ => rfl) (fun _ _ => rfl) (fun _ _ _ => rfl) ..,
        memRetireWrite_keep (·.cores) (fun _ _ => rfl) (fun _ _ => rfl) (fun _ _ _ => rfl) .., ?_⟩
      generalize memRetireWrite s.chip v = t at *
      split
      · exact hfences ‹_›
      · exact hstarts ‹_›
    case phase =>
      refine completes_act (·.chipWrite who rMEM_JOBST (v % 2 ^ 64)) hs rfl ?_
      rw [hmod, Chip.chipWrite_memJobst v hw]
      exact ⟨memJobstWrite_keep (·.hbm) (fun _ _ => rfl) .., memJobstWrite_keep (·.cores) (fun _ _ => rfl) ..,
        memJobstWrite_ignored, memJobstWrite_reg, fun h k hk => memJobstWrite_out h hk⟩
  case faults =>
    have hmod : v % 2 ^ 64 = v := Nat.mod_eq_of_lt hv
    refine ⟨fun _ hact => ⟨fun hsrc hsub hk hsev hterm => ?ack, ?first, fun hn => ?config⟩, fun hp => ?core, fun hw => ?snapshot⟩
    case ack =>
      refine completes_act (·.chipWrite who rFLT_ACK (v % 2 ^ 64)) hs rfl ?_
      rw [hmod, Chip.chipWrite_fltAck v hact, fltAckWriteCmd_source hsub hk]
      refine ⟨?_, Chip.ackSource_keep (·.cores) (fun _ _ => rfl) (fun _ _ => rfl) ..,
        Chip.ackSource_keep (·.hbm) (fun _ _ => rfl) (fun _ _ => rfl) ..⟩
      rw [Chip.ackSource_quiet hsrc hsev hterm, Chip.reg_quiet, if_pos rfl]
      exact field_mul_two_pow_low (by decide)
    case first =>
      refine answers_act (·.chipWrite who rFLT_FIRST (v % 2 ^ 64)) hs rfl ?_
      rw [hmod, Chip.chipWrite_fltFirst v hact]
      rfl
    case config =>
      refine completes_actUnit (·.chipWrite who (rFLT_CFG n) (v % 2 ^ 64)) hn hs rfl ?_
      rw [hmod, Chip.chipWrite_fltCfg v hact hn]
      exact ⟨fltCfgWriteCmd_locked, fltCfgWriteCmd_sets hn, fltCfgWriteCmd_refused hn⟩
    case core =>
      refine ⟨_, State.actCore_next (f := (·.coreWrite (.seqM p) p rCFC_ACK (v % 2 ^ 64))) hp (State.active_core hs), rfl, ?_⟩
      rw [hmod, Chip.coreWrite_cfcAck]
      refine ⟨(Chip.settleCore_hbm ..).trans (cfcAckCmd_keep (·.hbm) (fun _ _ => rfl) (fun _ _ => rfl) ..), fun b hb hbit hterm => ?_⟩
      have hreg (a : Nat) : (s.chip.settleCore (cfcAckCmd s.chip p v) p).reg a = (cfcAckCmd s.chip p v).reg a :=
        congrArg (Map.get chipReset · a) (Chip.settleCore_regs ..)
      dsimp only
      rw [hreg]
      exact cfcAckCmd_acks hp hb hbit hterm
    case snapshot =>
      refine answers_act (·.chipWrite who rSNP_CTL (v % 2 ^ 64)) hs rfl ?_
      rw [hmod, Chip.chipWrite_snpCtl v hw]
      exact snpWrite_ctl ..

end Sys2Proof.Machine
end

section
/-! PROOFS. A spill that meets lost data (O23): 10 R346 against the clause of R361. -/
namespace Sys2Proof.Machine

/-- An entry of core 0 that is being spilled from frame 0 of its ring. -/
def lostEntry : StashEntry :=
  { id := 5, recomp := true, uq := 1, use := 7, tag := 0, len := 4, frames := [0], spill := [0], loc := .spilling
    item := { q := 1, slot := 0, tag := 0, poison := 0, fmt := 12, nelem := 1, payload := [] } }

/-- A ready part whose core 0 spills that entry from HBM to CXL memory, after the first line of the ring's frame was lost. -/
def lostSpill : State :=
  { chip := { pins := { power := .ready }, poison := [(0, 1)], regs := [(rSTH_SPILL (dieOf 0) (stashOf 0), cxlBase), (rCXL_MAP, 1)]
              cores := [(0, { stash := { entries := [lostEntry] } })] } }

theorem lostSpill_awake : lostSpill.awake := ⟨⟨Or.inr rfl, rfl⟩, rfl⟩

/-- The entry that comes to lie in the spill area is marked with cause R, for a line of it was lost (10 R346). -/
theorem lostSpill_marked : ∃ t, exec (.spillDone 0) lostSpill = .next t ∧
    (t.chip.core 0).stash.entries.map (fun e => (e.loc, e.item.poison)) = [(.spilled, poisonR)] :=
  ⟨_, rfl, by decide +kernel⟩

/-- Refutes O23: a spill whose ring frames hold a lost line marks the entry's item with cause R, so the entry does not
lie in the spill area as it was; the clause leaves lost lines out. -/
theorem not_stashKeepsAndReturnsEntries : ¬ Obligations.StashKeepsAndReturnsEntries := by
  unfold Obligations.StashKeepsAndReturnsEntries
  rintro ⟨-, hmoves⟩
  obtain ⟨hspill, -⟩ := hmoves lostSpill 0 lostEntry lostSpill_awake (by decide)
  obtain ⟨t, ht, -, hentries, -⟩ := hspill rfl rfl (by decide +kernel) rfl
  obtain ⟨u, hu, hmarked⟩ := lostSpill_marked
  obtain rfl : t = u := by
    have hnext := ht.symm.trans hu
    injection hnext
  rw [hentries] at hmarked
  exact absurd hmarked (by decide)

end Sys2Proof.Machine
end
